-- ==== Sys2Proof/Word.lean ====
section
/-! DEFINITION. The words of the model: bytes, 32-bit and 64-bit words, the 64-byte command, and the
plainest arithmetic on them. -/
namespace Sys2Proof

/-- One byte. -/
abbrev Byte := BitVec 8
/-- A 32-bit word: a count (R23), an FP32 or INT32 value. -/
abbrev W32 := BitVec 32
/-- A 64-bit word: a register, a mark, an address. -/
abbrev W64 := BitVec 64
/-- A 64 B command, bit 0 the least significant bit of byte 0 (little-endian fields). -/
abbrev Cmd := BitVec 512
/-- A partition P0 to P15. -/
abbrev Part := Fin 16
/-- A slice S0 to S7. -/
abbrev SliceId := Fin 8
/-- A global lane number 32 * slice + lane (R14). -/
abbrev LaneId := Fin 256
/-- A ring number 0 to 262,143. -/
abbrev RingNo := BitVec 18
/-- A command tracker number 0 to 16,383 (R32). -/
abbrev TrackerId := BitVec 14

/-- The bits [lo + len - 1 : lo] of a word, as a number. -/
def bitsOf {w : Nat} (v : BitVec w) (lo len : Nat) : Nat := (v.toNat >>> lo) % 2 ^ len

/-- One bit of a word. -/
def bitOf {w : Nat} (v : BitVec w) (i : Nat) : Bool := v.getLsbD i

/-- Ceiling division. -/
def ceilDiv (a b : Nat) : Nat := (a + b - 1) / b

/-- Saturating increment of a counter that stops at its maximum. -/
def satInc (max v n : Nat) : Nat := if v + n ≤ max then v + n else max

end Sys2Proof
end

