-- ==== Sys2Proof/Syntax.lean ====
section
/-! DEFINITION. The commands of the block: one constructor per row of spec/opcode_table.json, in the table's
order. The table gives the rows no bits; the operands say which event of that row happens (which unit, ring,
tracker or line) and carry what comes from outside (a bus value, a message, a check result). An operand that may be left out is an
error or a mark of the row; left out, there is none. -/
namespace Sys2Proof

/-- Width of a bus access. -/
inductive AccW where
  | w8 | w16 | w32 | w64
deriving DecidableEq, Repr

/-- A well-formed register access (R6): the whole register, or one half of it. -/
inductive RegAcc where
  | full | lo | hi
deriving DecidableEq, Repr

/-- Where a command comes from: a ring, a partition's direct path, a queue pair's request. -/
inductive Src where
  | ring (r : RingNo)
  | direct (p : Part)
  | remote (qp : BitVec 12)
deriving DecidableEq, Repr

/-- The three streams a bag batch reads (R66), in 256 B lines. -/
inductive IdxStream where
  | index | offset | weight
deriving DecidableEq, Repr

/-- Outcome of the check of a granule read from HBM (R243). -/
inductive CheckResult where
  | clean | corrected | poisonPattern | uncorrectable
deriving DecidableEq, Repr

/-- What the check of a buffer word that a unit reads finds (R186, R200, R249). -/
inductive EccErr where
  | clean | corrected | uncorrectable
deriving DecidableEq, Repr

/-- The atomics of the fabric (R287). -/
inductive AtomicOp where
  | addI32 (v : BitVec 32)
  | addI64 (v : BitVec 64)
  | addF32 (v : BitVec 32)
  | swap64 (v : BitVec 64)
  | cas64 (cmp new : BitVec 64)
deriving DecidableEq, Repr

/-- A unit that Rest gates (R369): the lanes of a slice, or the Winnow. -/
inductive RestUnit where
  | lanes (n : SliceId)
  | winnow
deriving DecidableEq, Repr

/-- What wakes the engine (R372). -/
inductive Wake where
  | aperture | doorbell | window | message | grant | resetPin
deriving DecidableEq, Repr

/-- The commands, one per row of the table. -/
inductive Instr where
  | registerWrite (off : BitVec 26) (w : AccW) (v : W64)
  | registerReadClear (off : BitVec 26) (acc : RegAcc)
  | doorbellWrite (off : BitVec 25) (w : AccW) (v : W64)
  | doorbellSpaceFreed
  | doorbellBufferTake
  | contextReadReturn (ring : RingNo)
  | commandFetchReturn (ring : RingNo)
  | admissionReadReturn (src : Src)
  | admitCommand
  | nop (t : TrackerId)
  | mark (t : TrackerId)
  | markPublish (t : TrackerId)
  | wait (t : TrackerId)
  | waitLimitTick (t : TrackerId)
  | waitLimitWrite (p : Part) (acc : RegAcc) (v : W64)
  | gatherPool (t : TrackerId)
  | keyedLookup (t : TrackerId)
  | scatterAdd (t : TrackerId)
  | scatterApply (t : TrackerId)
  | stream (t : TrackerId)
  | versionSwitch (t : TrackerId)
  | objectMove (t : TrackerId)
  | clochePreload (t : TrackerId)
  | clocheUnlock (t : TrackerId)
  | completionRecordWrite (src : Src)
  | irqHoldoffExpiry (p : Part) (g : Fin 64)
  | xmarkWrite (p : Part) (i : BitVec 8) (acc : RegAcc) (v : W64)
  | arrXmarkWr (p : Part) (i : BitVec 8) (v : W64)
  | partitionEnable (p : Part)
  | partitionDisableDrain (p : Part)
  | partitionDisableStop (p : Part)
  | partitionInitDone (p : Part)
  | partitionQuiesceDone (p : Part)
  | ringEnable (p : Part) (ring : RingNo)
  | ringEnableDone (p : Part)
  | ringDisable (p : Part) (ring : RingNo)
  | ringDisableDone (p : Part)
  | dcmdWordWrite (p : Part) (v : W64)
  | dcmdSpaceFreed (p : Part)
  | dcmdCplRead (p : Part) (acc : RegAcc)
  | dcmdResync (p : Part)
  | dcmdResume (p : Part)
  | indexStreamLineReturn (t : TrackerId) (k : IdxStream) (line : BitVec 32)
  | sieveEntryIntake (pipe : Fin 32) (word : EccErr := .clean)
  | remapReadReturn (t : TrackerId) (x : W64)
  | fanOutQueueFreed (pipe : Fin 32)
  | sieveCtlWrite (acc : RegAcc) (v : W64)
  | formatBlockLoadDone (src : Src)
  | srReseed (n : SliceId) (v : W64)
  | popCountReturn
  | epochScan
  | classMoveDone (k : Fin 64)
  | slotReturn
  | laneRowReference (lane : LaneId) (parityError : Bool) (word : EccErr := .clean)
  | laneFillReturn (lane : LaneId) (line : BitVec 48) (parityError : Bool) (word : EccErr := .clean)
  | fanOutEntry (lane : LaneId) (headerError : Bool) (parityError : Bool := false) (word : EccErr := .clean)
  | slicePartialArrive (n : SliceId) (word : EccErr := .clean)
  | rerunPlaceFreed
  | clocheAgeTick (n : SliceId)
  | clocheFlush (n : SliceId)
  | feedEnable (mask : W64)
  | feedCredit (q : Fin 64) (count : BitVec 8)
  | feedTileSend (q : Fin 64)
  | feedTileAck (q : Fin 64)
  | winnowBind (t : TrackerId)
  | winnowQueryReturn (t : TrackerId)
  | winnowSetScored (t : TrackerId)
  | winnowPairsSelected (t : TrackerId)
  | winnowWeightsDone (t : TrackerId)
  | subkeyFillStart
  | subkeyFillEnd (b : Fin 2)
  | winnowBypass
  | winnowReturn
  | winnowDrainDone
  | winnowReinitDone
  | gradientReadReturn (t : TrackerId) (bag : BitVec 21) (err : EccErr := .clean)
  | rakeMessageArrive (n : SliceId) (poisoned : Bool) (err : EccErr := .clean) (word : EccErr := .clean)
  | rakeAck (n : SliceId) (lost : Bool := false)
  | rakeResendRequest (n : SliceId)
  | rakeEndToken (n : SliceId) (err : EccErr := .clean)
  | adderReadReturn (n : SliceId)
  | landingReport (n : SliceId) (t : TrackerId)
  | applyStateReturn (t : TrackerId)
  | streamSourceReturn (t : TrackerId) (parityError : Bool) (word : EccErr := .clean)
  | streamReceiverAccept (t : TrackerId) (r : Fin 64) (parity : Option (Fin 4096) := none) (rereadError : Bool := false)
  | catchupSlotBoundary (t : TrackerId) (r : Fin 64)
  | statBankFree (b : Fin 64) (k : Fin 2)
  | statBankReadyAck (b : Fin 64) (k : Fin 2)
  | tokenWaitExpiry (t : TrackerId) (r : Fin 64)
  | earlyWorkStart (ring : RingNo)
  | objectRegister (p : Part) (h : W32)
  | objectRetire (p : Part) (h : W32)
  | objectRetireDone (p : Part)
  | objectClearTorn (p : Part) (h : W32)
  | objectMoveChunkDone (t : TrackerId)
  | objectMoveFinish (t : TrackerId)
  | hbmReadReturn (granule : BitVec 46) (r : CheckResult)
  | rowRemapDone (n : SliceId) (i : Fin 512)
  | wcbWriteAccept (n : SliceId)
  | wcbAgeExpiry (n : SliceId) (granule : BitVec 46)
  | mergeReadReturn (n : SliceId) (granule : BitVec 46)
  | stackTempHigh (n : SliceId)
  | stackTempNormal (n : SliceId)
  | testAccessRequest (n : SliceId)
  | walkReadReturn (k : Fin 16)
  | faultRead (p : Part) (acc : RegAcc)
  | faultRetry (p : Part) (id : BitVec 16)
  | faultAbort (p : Part) (id : BitVec 16)
  | xlatIndexPublish (p : Part) (v : W64)
  | xlatInvalRange (p : Part) (gen : BitVec 16) (irq : Bool)
  | xlatInvalAll (p : Part) (gen : BitVec 16) (irq : Bool)
  | xlatInvalDone (p : Part)
  | rdShared (a : Byte) (x : BitVec 36) (lost : Bool := false)
  | rdOwn (a : Byte) (x : BitVec 36) (lost : Bool := false)
  | upgrade (a : Byte) (x : BitVec 36) (lost : Bool := false)
  | wbDirty (a : Byte) (x : BitVec 36) (data : List Byte)
  | rdCur (a : Byte) (x : BitVec 36) (lost : Bool := false)
  | wrLine (a : Byte) (x : BitVec 36) (data : List Byte) (lost : Bool := false)
  | wrPart (a : Byte) (x : BitVec 36) (mask : BitVec 256) (data : List Byte) (lost : Bool := false)
  | atomic (a : Byte) (x : BitVec 36) (op : AtomicOp) (lost : Bool := false)
  | snoopAck (a : Byte) (x : BitVec 36) (data : Option (List Byte))
  | snoopAbsent (a : Byte) (x : BitVec 36)
  | grantHoldExpiry (x : BitVec 36)
  | flipToSharedDone (page : BitVec 15)
  | flipToDeviceDone (page : BitVec 15)
  | windowEnable (base : BitVec 11)
  | windowDisable
  | windowMove (base : BitVec 11)
  | windowActionDone
  | biasFlipPage (page : BitVec 15)
  | biasReadPage (page : BitVec 15)
  | biasFlipAll
  | snoopTimeout (a : Byte) (x : BitVec 36)
  | declareAgentDead (a : Byte)
  | deadAgentScanDone
  | fabRetrain (high : Bool)
  | fabHostReset
  | fabLinkLoss
  | fabResetScanDone
  | fabLinkReturn
  | boardReadReturn (granule : BitVec 46) (data : List Byte) (poisoned : Bool) (word : EccErr := .clean)
  | boardWriteAck
  | gatherReq (qp : BitVec 12) (msg : List Byte) (marked : Bool := false)
  | gatherReply (qp : BitVec 12) (msg : List Byte) (marked : Bool := false)
  | addReq (qp : BitVec 12) (msg : List Byte) (marked : Bool := false)
  | addAccept (qp : BitVec 12) (msg : List Byte) (marked : Bool := false)
  | push (qp : BitVec 12) (msg : List Byte) (marked : Bool := false)
  | pushAccept (qp : BitVec 12) (msg : List Byte) (marked : Bool := false)
  | roceAckReceive (qp : BitVec 12) (psn : BitVec 24)
  | roceNakReceive (qp : BitVec 12) (psn : BitVec 24)
  | roceCnpReceive (qp : BitVec 12)
  | rdmaWriteReceive (qp : BitVec 12) (key : W32) (off : W32) (data : List Byte) (marked : Bool := false)
  | ackTimeout (qp : BitVec 12)
  | cnpRateRecovery (qp : BitVec 12)
  | qpEnable (qp : BitVec 12)
  | qpReset (qp : BitVec 12)
  | nvmeConnect (slot : Byte)
  | nvmeDisconnect (slot : Byte)
  | nvmeResponse (slot : Byte) (key : W32) (status : BitVec 16) (lbaLog2 : BitVec 4) (nsBytes : W64)
  | nvmeKeepAlive (slot : Byte)
  | nvmeTimeout (slot : Byte) (key : W32)
  | portDown (e : Fin 8)
  | fecWindow (e : Fin 8) (codewords : BitVec 16)
  | portLinkUp (e : Fin 8)
  | portBypass (e : Fin 8)
  | portReturn (e : Fin 8)
  | portDrainDone (e : Fin 8)
  | macsecKeyExhausted (e : Fin 8)
  | sakImport
  | provisionTransportKey
  | generateBoardKey
  | powerOnReset
  | engineReset
  | engineStart (recover : Bool) (sfdpDensity : BitVec 6) (failedTest : Byte)
  | imageCheckDone
  | startReady (failedSlices : Byte) (failedLanes : BitVec 256) (failedTraining failedTest : BitVec 256)
      (hardRepaired : List (SliceId × Fin 512))
  | configLock
  | nvmRead (addr : BitVec 24)
  | nvmProgram (addr : BitVec 24)
  | nvmErase (addr : BitVec 24)
  | nvmActionDone (flashError : Bool)
  | nvmBufWrite (v : W64)
  | zeroise
  | zeroisePin
  | pufEnrol
  | entropyHealthFail
  | restHoldExpiry (u : RestUnit)
  | dormantHoldExpiry
  | overwinterHoldExpiry
  | sleepEntryStepDone
  | wakeTrigger (c : Wake)
  | fabWakeReq
  | wakeDone
  | ppmGrantChange (v : BitVec 10)
  | powerWindow (energyNj : W32)
  | fifoErrorWindow (c : Fin 8)
  | eventRead (fifo : Option Part) (acc : RegAcc)
  | injectArm (cls : Fin 8) (p : Part) (kind : BitVec 2)
  | winnowSelfTest
  | winnowSelfTestDone (failedBlock : Byte)
  | laneReturn (n : SliceId) (l : Fin 32)
  | laneOffline (n : SliceId) (l : Fin 32)
  | laneSelfTest (n : SliceId) (l : Fin 32)
  | laneDrainDone (n : SliceId) (l : Fin 32)
  | laneSelfTestDone (n : SliceId) (l : Fin 32) (failedBlock : Byte)
  | sliceTakeOut (n : SliceId)
  | sliceReturn (n : SliceId)
  | sliceDrainDone (n : SliceId)
  | sliceReturnDone (n : SliceId) (passed : Bool)
  | sliceHeartbeat (answered : Byte)
  | wcbWriteBackDone (n : SliceId) (granule : BitVec 46) (eccError : Bool := false)
  | waitMarkReadReturn (t : TrackerId)
  | malformedRegisterRead (off : BitVec 26) (w : AccW)
  | restWakeDone (u : RestUnit)
  | fabLinkUpChange (up : Bool)
  | securityActionDone (flashError : Bool)
  | powerLoss
  | invalidRequestPacket (qp : BitVec 12)
  | malformedMessage (qp : BitVec 12) (msg : List Byte) (marked : Bool := false)
  | macsecFrameDrop (e : Fin 8)
deriving DecidableEq, Repr

end Sys2Proof
end

