-- ==== Sys2Proof/Decode.lean ====
section
/-! DEFINITION. Decoding of command words. spec/opcode_table.json gives no row any bits: the commands of this block
are events on its ports, so no word spells one. -/
namespace Sys2Proof

/-- The command that a word spells by the bits of spec/opcode_table.json: the table gives none of its rows bits. -/
def decodeTableWord (_nbits _w : Nat) : Option Instr := none

end Sys2Proof
end

