-- ==== Sys2Proof/Config.lean ====
section
/-! DEFINITION. What the spec leaves open or names without giving: free values (no body, so no proof can
use a value of them) and the cryptographic algorithms that the spec takes from FIPS and IEEE. -/
namespace Sys2Proof
namespace Config

/-- A fresh 64-bit value that the spec does not fix: DRBG and entropy draws (R106, R358, R360, R361), and the
other open values that the log names. The argument is the state's counter of draws. -/
opaque freeWord : Nat → BitVec 64

/-- exp(TEMP * (s - s_max)) of R157 for TEMP, s_max and s: a function of the three (R158) to which the spec gives a bound (relative
error below 2^-22) and no value. The model uses it where it keeps the bound. -/
opaque expApprox : BitVec 32 → BitVec 32 → BitVec 32 → BitVec 32

/-- SHA-384 (R344, R345, R358): the digest of a byte string. -/
opaque sha384 : List (BitVec 8) → List (BitVec 8)

/-- ECDSA P-384 verification (R345): public key, digest, signature. -/
opaque ecdsaVerify : List (BitVec 8) → List (BitVec 8) → List (BitVec 8) → Bool

/-- The Penosh root public key, fixed in mask ROM by its digest (R345). -/
opaque rootKey : List (BitVec 8)

/-- The SP 800-108 KDF of R358: secret, label, context. -/
opaque kdf : List (BitVec 8) → Nat → List (BitVec 8) → List (BitVec 8)

/-- AES-256-KW unwrap (R359): key and wrapped material; none where the integrity check fails. -/
opaque kwUnwrap : List (BitVec 8) → List (BitVec 8) → Option (List (BitVec 8))

/-- AES-256-KW wrap (R359, R361). -/
opaque kwWrap : List (BitVec 8) → List (BitVec 8) → List (BitVec 8)

/-- AES-256-XTS decryption of one granule (R360): key, tweak, ciphertext. -/
opaque xtsDecrypt : List (BitVec 8) → Nat → List (BitVec 8) → List (BitVec 8)

/-- AES-256-XTS encryption of one granule (R360): key, tweak, plaintext. -/
opaque xtsEncrypt : List (BitVec 8) → Nat → List (BitVec 8) → List (BitVec 8)

/-- The fuzzy extractor of R357: the PUF's start-up values (an index of the power-on) and the helper record;
none where the record is absent or its check value does not match. -/
opaque pufExtract : Nat → List (BitVec 8) → Option (List (BitVec 8))

/-- The helper record that an enrolment writes for a secret (R358). -/
opaque pufHelper : List (BitVec 8) → List (BitVec 8)

/-- A column that the remainder table of a product-mode entry does not give on the grid of the quotient table: past its columns,
or a float format under integer pooling (R74 states no value). The arguments are the line and the column. -/
opaque absentColumn : Nat → Nat → BitVec 32

/-- The order in which the fixed tree of R153 adds the products of a 32-element chunk: each step adds the second position
into the first. The spec calls the tree fixed and does not give it. -/
opaque sumTree : List (Nat × Nat)

/-- The set of a slice's pre-aggregation buffer that an entry goes to (R175 gives 4,096 sets and no mapping): a function of the
command's number, the stored granule and the column. -/
opaque preaggSet : Nat → Nat → Nat → Nat

/-- The spare rows that a bank of a stack holds at a start (R256, R261 read their number from the stack's wrapper): slice, channel
within the stack, pseudo-channel, bank. -/
opaque spareRows : Nat → Nat → Nat → Nat → Nat

/-- The codebook entry that a class move stores for a value whose quotient by the column scale is NaN or infinite (R113 names the
nearest entry, and none is nearest): a function of the row's class and the column. -/
opaque nearestOfNan : Nat → Nat → Nat

/-- Whether a value whose encoding error is no number counts among the largest errors of its segment (R113): a function of the
row's class and the column. -/
opaque nanEscapes : Nat → Nat → Bool

end Config
end Sys2Proof
end

