-- ==== Sys2Proof/Machine/Registers.lean ====
section
/-! DEFINITION. The registers of the control aperture (R5, R403): every register's name, place, reset value and
fields with their access codes, transcribed from the field maps of spec/ (the chapter that owns a register is
named at its row). Offsets of arrays, halves and reserved ranges follow R5 to R9. -/
namespace Sys2Proof.Machine

/-- Access codes of R9. -/
inductive Access where
  | ro | rw | wo | w1c | rc | rwl | rws
deriving DecidableEq, Repr

/-- The three register ranges of R5. -/
inductive RegSpace where
  | hub | slice | part
deriving DecidableEq, Repr

/-- A field: its lowest bit, its width and its access code. -/
structure FieldDef where
  lo : Nat
  len : Nat
  acc : Access
deriving DecidableEq, Repr

/-- Every register the spec defines. -/
inductive RegId where
  | jeId
  | jeRingCtxBase
  | jpDbStat
  | jpTableDir
  | jpIrqPend
  | jpIrqMask
  | jpIrqMod
  | jpXmark
  | jpWaitSrc
  | jpWaitLimit
  | jpRingRange
  | jpRingCmd
  | jpCtl
  | jpStatus
  | jpDcmd
  | jpDcmdCpl
  | jpDcmdStatus
  | jpSieveDrop
  | jeSieveCtl
  | jpSieveQuota
  | jpSieveUse
  | jeFmtStat
  | jpWidenStat
  | jsSrCtl
  | jePopCtl
  | jpPopStat
  | jePoolCtl
  | jePoolStat
  | jeFeedEn
  | jsClocheCtl
  | jsClocheStat
  | jsPoolStat
  | jpClocheLock
  | jpPoolStat
  | jpKeyedDir
  | jeWinnowCtl
  | jeWinnowStat
  | jeWinnowBank
  | jpKeyedStat
  | jeRakeCtl
  | jeRakeStat
  | jsRakeStat
  | jsRakeUse
  | jpRakeStat
  | jeStreamCtl
  | jeStreamStat
  | jpStreamQuota
  | jpStreamStat
  | jpObjDir
  | jpObjCtl
  | jpObjStat
  | jpBalanceStat
  | jeBalanceCtl
  | jsShardLoad
  | jeChMapped
  | jeChMapout
  | jeHbmCap
  | jeBwCtl
  | jsHbmCtl
  | jsHbmStat
  | jsWcbStat
  | jsEccStat
  | jsRemapStat
  | jsRemap
  | jpBwCtl
  | jpBwStat
  | jePhysMap
  | jeBoardMap
  | jeXlatStat
  | jpXlatTable
  | jpXlatIndex
  | jpXlatCtl
  | jpXlatInval
  | jpXlatInvalRange
  | jpFault
  | jpFaultStatus
  | jpFaultReply
  | jeWinCtl
  | jeWinHost
  | jeBiasCmd
  | jeBiasStat
  | jeFabCtl
  | jeFabStatus
  | jeFabDead
  | jeFabAgents
  | jeFabDeadmask
  | jsTrellisStat
  | jsTrellisUse
  | jsAtomicStat
  | jsTrellisPeekSel
  | jsTrellisPeek
  | jeQpBase
  | jeQpCmd
  | jeNvmeBase
  | jeNvmeCmd
  | jeNetStat
  | jePortCtl
  | jePortStat
  | jpShardDir
  | jpNetStat
  | jeStart
  | jeBootSel
  | jeCfgLock
  | jeNvmCtl
  | jeNvmBuf
  | jeNvmData
  | jeSecCtl
  | jeSecStatus
  | jeKeyImport
  | jePwrCtl
  | jePwrStatus
  | jePwrArb
  | jeEnergy
  | jeEnergyBits
  | jePwrResid
  | jpPwrCtl
  | jeEvent
  | jeEventStatus
  | jeFifoCtl
  | jeFifoStat
  | jePathStat
  | jeInject
  | jeUnitTest
  | jsSliceCtl
  | jsLaneCtl
  | jsLaneState
  | jsLaneFail
  | jsPathStat
  | jpEvent
  | jpEventStatus
  | jpErrStat
deriving DecidableEq, Repr

/-- A row of the register index: range, offset in it, elements of an array and the bytes between two. -/
structure RegRow where
  space : RegSpace
  base : Nat
  count : Nat
  stride : Nat
  reset : Nat
deriving DecidableEq, Repr

/-- The register index (R403, R404): one row per register; the comment names the chapter and the rule or table. -/
def RegId.row : RegId → RegRow
  | .jeId => ⟨.hub, 0x0, 1, 8, 0x50e51e1320080000⟩ -- JE_ID, 00_scope.md (R12)
  | .jeRingCtxBase => ⟨.hub, 0x100, 1, 8, 0x0⟩ -- JE_RING_CTX_BASE, 02_rings_commands_and_ordering.md (R25)
  | .jpDbStat => ⟨.part, 0x60, 1, 8, 0x0⟩ -- JP_DB_STAT, 02_rings_commands_and_ordering.md (R29)
  | .jpTableDir => ⟨.part, 0x20, 1, 8, 0x0⟩ -- JP_TABLE_DIR, 02_rings_commands_and_ordering.md (R33)
  | .jpIrqPend => ⟨.part, 0x40, 1, 8, 0x0⟩ -- JP_IRQ_PEND, 02_rings_commands_and_ordering.md (R39)
  | .jpIrqMask => ⟨.part, 0x48, 1, 8, 0xffffffffffffffff⟩ -- JP_IRQ_MASK, 02_rings_commands_and_ordering.md (R39)
  | .jpIrqMod => ⟨.part, 0x50, 1, 8, 0x0⟩ -- JP_IRQ_MOD, 02_rings_commands_and_ordering.md (R39)
  | .jpXmark => ⟨.part, 0x1000, 256, 8, 0x0⟩ -- JP_XMARK, 02_rings_commands_and_ordering.md (R41)
  | .jpWaitSrc => ⟨.part, 0x28, 1, 8, 0x0⟩ -- JP_WAIT_SRC, 02_rings_commands_and_ordering.md (R45)
  | .jpWaitLimit => ⟨.part, 0x30, 1, 8, 0x0⟩ -- JP_WAIT_LIMIT, 02_rings_commands_and_ordering.md (R45)
  | .jpRingRange => ⟨.part, 0x10, 1, 8, 0x0⟩ -- JP_RING_RANGE, 02_rings_commands_and_ordering.md (R56)
  | .jpRingCmd => ⟨.part, 0x18, 1, 8, 0x0⟩ -- JP_RING_CMD, 02_rings_commands_and_ordering.md (R57)
  | .jpCtl => ⟨.part, 0x0, 1, 8, 0x0⟩ -- JP_CTL, 02_rings_commands_and_ordering.md (R59)
  | .jpStatus => ⟨.part, 0x8, 1, 8, 0x0⟩ -- JP_STATUS, 02_rings_commands_and_ordering.md (R59)
  | .jpDcmd => ⟨.part, 0x100, 1, 8, 0x0⟩ -- JP_DCMD, 02_rings_commands_and_ordering.md (R416)
  | .jpDcmdCpl => ⟨.part, 0x108, 1, 8, 0x0⟩ -- JP_DCMD_CPL, 02_rings_commands_and_ordering.md (R416)
  | .jpDcmdStatus => ⟨.part, 0x110, 1, 8, 0x0⟩ -- JP_DCMD_STATUS, 02_rings_commands_and_ordering.md (R416)
  | .jpSieveDrop => ⟨.part, 0x208, 1, 8, 0x0⟩ -- JP_SIEVE_DROP, 03_index_intake_sieve.md (R72)
  | .jeSieveCtl => ⟨.hub, 0x400, 1, 8, 0x400010⟩ -- JE_SIEVE_CTL, 03_index_intake_sieve.md (R84)
  | .jpSieveQuota => ⟨.part, 0x200, 1, 8, 0x10000000001000⟩ -- JP_SIEVE_QUOTA, 03_index_intake_sieve.md (R84)
  | .jpSieveUse => ⟨.part, 0x210, 1, 8, 0x0⟩ -- JP_SIEVE_USE, 03_index_intake_sieve.md (R84)
  | .jeFmtStat => ⟨.hub, 0x500, 1, 8, 0x0⟩ -- JE_FMT_STAT, 04_row_formats_and_quantisation.md (R98)
  | .jpWidenStat => ⟨.part, 0x300, 1, 8, 0x0⟩ -- JP_WIDEN_STAT, 04_row_formats_and_quantisation.md (R104)
  | .jsSrCtl => ⟨.slice, 0x400, 1, 8, 0x0⟩ -- JS_SR_CTL, 04_row_formats_and_quantisation.md (R107)
  | .jePopCtl => ⟨.hub, 0x508, 1, 8, 0x400010000c⟩ -- JE_POP_CTL, 04_row_formats_and_quantisation.md (R116)
  | .jpPopStat => ⟨.part, 0x308, 1, 8, 0x0⟩ -- JP_POP_STAT, 04_row_formats_and_quantisation.md (R116)
  | .jePoolCtl => ⟨.hub, 0x600, 1, 8, 0x8⟩ -- JE_POOL_CTL, 05_gather_and_pooling_beside_memory.md (R124)
  | .jePoolStat => ⟨.hub, 0x608, 1, 8, 0x0⟩ -- JE_POOL_STAT, 05_gather_and_pooling_beside_memory.md (R124)
  | .jeFeedEn => ⟨.hub, 0x610, 1, 8, 0x0⟩ -- JE_FEED_EN, 05_gather_and_pooling_beside_memory.md (R124)
  | .jsClocheCtl => ⟨.slice, 0x500, 1, 8, 0x400001⟩ -- JS_CLOCHE_CTL, 05_gather_and_pooling_beside_memory.md (R138)
  | .jsClocheStat => ⟨.slice, 0x508, 1, 8, 0x0⟩ -- JS_CLOCHE_STAT, 05_gather_and_pooling_beside_memory.md (R138)
  | .jsPoolStat => ⟨.slice, 0x510, 1, 8, 0x0⟩ -- JS_POOL_STAT, 05_gather_and_pooling_beside_memory.md (R138)
  | .jpClocheLock => ⟨.part, 0x400, 1, 8, 0x0⟩ -- JP_CLOCHE_LOCK, 05_gather_and_pooling_beside_memory.md (R138)
  | .jpPoolStat => ⟨.part, 0x408, 1, 8, 0x0⟩ -- JP_POOL_STAT, 05_gather_and_pooling_beside_memory.md (R138)
  | .jpKeyedDir => ⟨.part, 0x500, 1, 8, 0x0⟩ -- JP_KEYED_DIR, 06_keyed_memory_lookup_winnow.md (R149)
  | .jeWinnowCtl => ⟨.hub, 0x700, 1, 8, 0x10⟩ -- JE_WINNOW_CTL, 06_keyed_memory_lookup_winnow.md (R168)
  | .jeWinnowStat => ⟨.hub, 0x708, 1, 8, 0x0⟩ -- JE_WINNOW_STAT, 06_keyed_memory_lookup_winnow.md (R168)
  | .jeWinnowBank => ⟨.hub, 0x710, 2, 8, 0x0⟩ -- JE_WINNOW_BANK, 06_keyed_memory_lookup_winnow.md (R168)
  | .jpKeyedStat => ⟨.part, 0x508, 1, 8, 0x0⟩ -- JP_KEYED_STAT, 06_keyed_memory_lookup_winnow.md (R168)
  | .jeRakeCtl => ⟨.hub, 0x800, 1, 8, 0x104⟩ -- JE_RAKE_CTL, 07_scatter_and_updates_rake.md (R190)
  | .jeRakeStat => ⟨.hub, 0x808, 1, 8, 0x0⟩ -- JE_RAKE_STAT, 07_scatter_and_updates_rake.md (R190)
  | .jsRakeStat => ⟨.slice, 0x600, 1, 8, 0x0⟩ -- JS_RAKE_STAT, 07_scatter_and_updates_rake.md (R190)
  | .jsRakeUse => ⟨.slice, 0x608, 1, 8, 0x0⟩ -- JS_RAKE_USE, 07_scatter_and_updates_rake.md (R190)
  | .jpRakeStat => ⟨.part, 0x600, 1, 8, 0x0⟩ -- JP_RAKE_STAT, 07_scatter_and_updates_rake.md (R190)
  | .jeStreamCtl => ⟨.hub, 0x900, 1, 8, 0x8000001000000000⟩ -- JE_STREAM_CTL, 08_streams_prefetch_multicast.md (R213)
  | .jeStreamStat => ⟨.hub, 0x908, 1, 8, 0x0⟩ -- JE_STREAM_STAT, 08_streams_prefetch_multicast.md (R213)
  | .jpStreamQuota => ⟨.part, 0x700, 1, 8, 0x8000000000⟩ -- JP_STREAM_QUOTA, 08_streams_prefetch_multicast.md (R213)
  | .jpStreamStat => ⟨.part, 0x708, 1, 8, 0x0⟩ -- JP_STREAM_STAT, 08_streams_prefetch_multicast.md (R213)
  | .jpObjDir => ⟨.part, 0x800, 1, 8, 0x0⟩ -- JP_OBJ_DIR, 09_tiers_placement_and_versions.md (R239)
  | .jpObjCtl => ⟨.part, 0x808, 1, 8, 0x0⟩ -- JP_OBJ_CTL, 09_tiers_placement_and_versions.md (R239)
  | .jpObjStat => ⟨.part, 0x810, 1, 8, 0x0⟩ -- JP_OBJ_STAT, 09_tiers_placement_and_versions.md (R239)
  | .jpBalanceStat => ⟨.part, 0x818, 1, 8, 0x0⟩ -- JP_BALANCE_STAT, 09_tiers_placement_and_versions.md (R239)
  | .jeBalanceCtl => ⟨.hub, 0xa00, 1, 8, 0x10008000400⟩ -- JE_BALANCE_CTL, 09_tiers_placement_and_versions.md (R239)
  | .jsShardLoad => ⟨.slice, 0x700, 1, 8, 0x0⟩ -- JS_SHARD_LOAD, 09_tiers_placement_and_versions.md (R239)
  | .jeChMapped => ⟨.hub, 0xb00, 4, 8, 0x0⟩ -- JE_CH_MAPPED, 10_hbm_subsystem.md (R263)
  | .jeChMapout => ⟨.hub, 0xb20, 4, 8, 0x0⟩ -- JE_CH_MAPOUT, 10_hbm_subsystem.md (R263)
  | .jeHbmCap => ⟨.hub, 0xb40, 1, 8, 0x0⟩ -- JE_HBM_CAP, 10_hbm_subsystem.md (R263)
  | .jeBwCtl => ⟨.hub, 0xb48, 1, 8, 0x100004⟩ -- JE_BW_CTL, 10_hbm_subsystem.md (R263)
  | .jsHbmCtl => ⟨.slice, 0x800, 1, 8, 0x40001000000801⟩ -- JS_HBM_CTL, 10_hbm_subsystem.md (R263)
  | .jsHbmStat => ⟨.slice, 0x808, 1, 8, 0x0⟩ -- JS_HBM_STAT, 10_hbm_subsystem.md (R263)
  | .jsWcbStat => ⟨.slice, 0x810, 1, 8, 0x0⟩ -- JS_WCB_STAT, 10_hbm_subsystem.md (R263)
  | .jsEccStat => ⟨.slice, 0x818, 1, 8, 0x0⟩ -- JS_ECC_STAT, 10_hbm_subsystem.md (R263)
  | .jsRemapStat => ⟨.slice, 0x820, 1, 8, 0x0⟩ -- JS_REMAP_STAT, 10_hbm_subsystem.md (R263)
  | .jsRemap => ⟨.slice, 0x1000, 512, 8, 0x0⟩ -- JS_REMAP, 10_hbm_subsystem.md (R263)
  | .jpBwCtl => ⟨.part, 0x900, 1, 8, 0x10000100000⟩ -- JP_BW_CTL, 10_hbm_subsystem.md (R263)
  | .jpBwStat => ⟨.part, 0x908, 1, 8, 0x0⟩ -- JP_BW_STAT, 10_hbm_subsystem.md (R263)
  | .jePhysMap => ⟨.hub, 0xc00, 1, 8, 0x0⟩ -- JE_PHYS_MAP, 11_address_translation.md (R286)
  | .jeBoardMap => ⟨.hub, 0xc08, 1, 8, 0x0⟩ -- JE_BOARD_MAP, 11_address_translation.md (R286)
  | .jeXlatStat => ⟨.hub, 0xc10, 1, 8, 0x0⟩ -- JE_XLAT_STAT, 11_address_translation.md (R286)
  | .jpXlatTable => ⟨.part, 0xa00, 1, 8, 0x0⟩ -- JP_XLAT_TABLE, 11_address_translation.md (R286)
  | .jpXlatIndex => ⟨.part, 0xa08, 1, 8, 0x0⟩ -- JP_XLAT_INDEX, 11_address_translation.md (R286)
  | .jpXlatCtl => ⟨.part, 0xa10, 1, 8, 0x0⟩ -- JP_XLAT_CTL, 11_address_translation.md (R286)
  | .jpXlatInval => ⟨.part, 0xa18, 1, 8, 0x0⟩ -- JP_XLAT_INVAL, 11_address_translation.md (R286)
  | .jpXlatInvalRange => ⟨.part, 0xa20, 1, 8, 0x0⟩ -- JP_XLAT_INVAL_RANGE, 11_address_translation.md (R286)
  | .jpFault => ⟨.part, 0xa28, 1, 8, 0x0⟩ -- JP_FAULT, 11_address_translation.md (R286)
  | .jpFaultStatus => ⟨.part, 0xa30, 1, 8, 0x0⟩ -- JP_FAULT_STATUS, 11_address_translation.md (R286)
  | .jpFaultReply => ⟨.part, 0xa38, 1, 8, 0x0⟩ -- JP_FAULT_REPLY, 11_address_translation.md (R286)
  | .jeWinCtl => ⟨.hub, 0xd00, 1, 8, 0x0⟩ -- JE_WIN_CTL, 12_coherence_and_host_link.md (R317)
  | .jeWinHost => ⟨.hub, 0xd08, 1, 8, 0x0⟩ -- JE_WIN_HOST, 12_coherence_and_host_link.md (R317)
  | .jeBiasCmd => ⟨.hub, 0xd10, 1, 8, 0x0⟩ -- JE_BIAS_CMD, 12_coherence_and_host_link.md (R317)
  | .jeBiasStat => ⟨.hub, 0xd18, 1, 8, 0x0⟩ -- JE_BIAS_STAT, 12_coherence_and_host_link.md (R317)
  | .jeFabCtl => ⟨.hub, 0xd20, 1, 8, 0xa004004000000000⟩ -- JE_FAB_CTL, 12_coherence_and_host_link.md (R317)
  | .jeFabStatus => ⟨.hub, 0xd28, 1, 8, 0x0⟩ -- JE_FAB_STATUS, 12_coherence_and_host_link.md (R317)
  | .jeFabDead => ⟨.hub, 0xd30, 1, 8, 0x0⟩ -- JE_FAB_DEAD, 12_coherence_and_host_link.md (R317)
  | .jeFabAgents => ⟨.hub, 0xd40, 4, 8, 0x0⟩ -- JE_FAB_AGENTS, 12_coherence_and_host_link.md (R317)
  | .jeFabDeadmask => ⟨.hub, 0xd60, 4, 8, 0x0⟩ -- JE_FAB_DEADMASK, 12_coherence_and_host_link.md (R317)
  | .jsTrellisStat => ⟨.slice, 0x900, 1, 8, 0x0⟩ -- JS_TRELLIS_STAT, 12_coherence_and_host_link.md (R317)
  | .jsTrellisUse => ⟨.slice, 0x908, 1, 8, 0x0⟩ -- JS_TRELLIS_USE, 12_coherence_and_host_link.md (R317)
  | .jsAtomicStat => ⟨.slice, 0x910, 1, 8, 0x0⟩ -- JS_ATOMIC_STAT, 12_coherence_and_host_link.md (R317)
  | .jsTrellisPeekSel => ⟨.slice, 0x918, 1, 8, 0x0⟩ -- JS_TRELLIS_PEEK_SEL, 12_coherence_and_host_link.md (R317)
  | .jsTrellisPeek => ⟨.slice, 0x920, 1, 8, 0x0⟩ -- JS_TRELLIS_PEEK, 12_coherence_and_host_link.md (R317)
  | .jeQpBase => ⟨.hub, 0xe00, 1, 8, 0x0⟩ -- JE_QP_BASE, 13_network_ports.md (R340)
  | .jeQpCmd => ⟨.hub, 0xe08, 1, 8, 0x0⟩ -- JE_QP_CMD, 13_network_ports.md (R340)
  | .jeNvmeBase => ⟨.hub, 0xe10, 1, 8, 0x0⟩ -- JE_NVME_BASE, 13_network_ports.md (R340)
  | .jeNvmeCmd => ⟨.hub, 0xe18, 1, 8, 0x0⟩ -- JE_NVME_CMD, 13_network_ports.md (R340)
  | .jeNetStat => ⟨.hub, 0xe20, 1, 8, 0x0⟩ -- JE_NET_STAT, 13_network_ports.md (R340)
  | .jePortCtl => ⟨.hub, 0xe40, 8, 16, 0x3000000000400001⟩ -- JE_PORT_CTL, 13_network_ports.md (R340)
  | .jePortStat => ⟨.hub, 0xe48, 8, 16, 0x0⟩ -- JE_PORT_STAT, 13_network_ports.md (R340)
  | .jpShardDir => ⟨.part, 0xb00, 1, 8, 0x0⟩ -- JP_SHARD_DIR, 13_network_ports.md (R340)
  | .jpNetStat => ⟨.part, 0xb08, 1, 8, 0x0⟩ -- JP_NET_STAT, 13_network_ports.md (R340)
  | .jeStart => ⟨.hub, 0xf00, 1, 8, 0x0⟩ -- JE_START, 14_configuration_startup_security.md (R365)
  | .jeBootSel => ⟨.hub, 0xf08, 1, 8, 0x0⟩ -- JE_BOOT_SEL, 14_configuration_startup_security.md (R365)
  | .jeCfgLock => ⟨.hub, 0xf10, 1, 8, 0x0⟩ -- JE_CFG_LOCK, 14_configuration_startup_security.md (R365)
  | .jeNvmCtl => ⟨.hub, 0xf18, 1, 8, 0x0⟩ -- JE_NVM_CTL, 14_configuration_startup_security.md (R365)
  | .jeNvmBuf => ⟨.hub, 0xf20, 1, 8, 0x0⟩ -- JE_NVM_BUF, 14_configuration_startup_security.md (R366)
  | .jeNvmData => ⟨.hub, 0xf28, 1, 8, 0x0⟩ -- JE_NVM_DATA, 14_configuration_startup_security.md (R366)
  | .jeSecCtl => ⟨.hub, 0xf30, 1, 8, 0x0⟩ -- JE_SEC_CTL, 14_configuration_startup_security.md (R366)
  | .jeSecStatus => ⟨.hub, 0xf38, 1, 8, 0x800000000000000⟩ -- JE_SEC_STATUS, 14_configuration_startup_security.md (R366)
  | .jeKeyImport => ⟨.hub, 0xf40, 1, 8, 0x0⟩ -- JE_KEY_IMPORT, 14_configuration_startup_security.md (R366)
  | .jePwrCtl => ⟨.hub, 0x1000, 1, 8, 0x4c000400100000⟩ -- JE_PWR_CTL, 15_power_clocks_and_sleep.md (R379)
  | .jePwrStatus => ⟨.hub, 0x1008, 1, 8, 0x0⟩ -- JE_PWR_STATUS, 15_power_clocks_and_sleep.md (R379)
  | .jePwrArb => ⟨.hub, 0x1010, 1, 8, 0x2a800080000⟩ -- JE_PWR_ARB, 15_power_clocks_and_sleep.md (R379)
  | .jeEnergy => ⟨.hub, 0x1018, 1, 8, 0x0⟩ -- JE_ENERGY, 15_power_clocks_and_sleep.md (R379)
  | .jeEnergyBits => ⟨.hub, 0x1020, 1, 8, 0x0⟩ -- JE_ENERGY_BITS, 15_power_clocks_and_sleep.md (R379)
  | .jePwrResid => ⟨.hub, 0x1028, 4, 8, 0x0⟩ -- JE_PWR_RESID, 15_power_clocks_and_sleep.md (R379)
  | .jpPwrCtl => ⟨.part, 0xc00, 1, 8, 0x0⟩ -- JP_PWR_CTL, 15_power_clocks_and_sleep.md (R379)
  | .jeEvent => ⟨.hub, 0x1100, 1, 8, 0x0⟩ -- JE_EVENT, 16_errors_ras_and_live_test.md (R402)
  | .jeEventStatus => ⟨.hub, 0x1108, 1, 8, 0x0⟩ -- JE_EVENT_STATUS, 16_errors_ras_and_live_test.md (R402)
  | .jeFifoCtl => ⟨.hub, 0x1140, 8, 8, 0x4000001000000000⟩ -- JE_FIFO_CTL, 16_errors_ras_and_live_test.md (R402)
  | .jeFifoStat => ⟨.hub, 0x1180, 8, 8, 0x0⟩ -- JE_FIFO_STAT, 16_errors_ras_and_live_test.md (R402)
  | .jePathStat => ⟨.hub, 0x11c0, 1, 8, 0x0⟩ -- JE_PATH_STAT, 16_errors_ras_and_live_test.md (R402)
  | .jeInject => ⟨.hub, 0x11c8, 1, 8, 0x0⟩ -- JE_INJECT, 16_errors_ras_and_live_test.md (R402)
  | .jeUnitTest => ⟨.hub, 0x11d0, 1, 8, 0x0⟩ -- JE_UNIT_TEST, 16_errors_ras_and_live_test.md (R402)
  | .jsSliceCtl => ⟨.slice, 0xa00, 1, 8, 0x0⟩ -- JS_SLICE_CTL, 16_errors_ras_and_live_test.md (R402)
  | .jsLaneCtl => ⟨.slice, 0xa08, 1, 8, 0x0⟩ -- JS_LANE_CTL, 16_errors_ras_and_live_test.md (R402)
  | .jsLaneState => ⟨.slice, 0xa10, 1, 8, 0x0⟩ -- JS_LANE_STATE, 16_errors_ras_and_live_test.md (R402)
  | .jsLaneFail => ⟨.slice, 0xa18, 1, 8, 0x0⟩ -- JS_LANE_FAIL, 16_errors_ras_and_live_test.md (R402)
  | .jsPathStat => ⟨.slice, 0xa20, 1, 8, 0x0⟩ -- JS_PATH_STAT, 16_errors_ras_and_live_test.md (R402)
  | .jpEvent => ⟨.part, 0xd00, 1, 8, 0x0⟩ -- JP_EVENT, 16_errors_ras_and_live_test.md (R402)
  | .jpEventStatus => ⟨.part, 0xd08, 1, 8, 0x0⟩ -- JP_EVENT_STATUS, 16_errors_ras_and_live_test.md (R402)
  | .jpErrStat => ⟨.part, 0xd10, 1, 8, 0x0⟩ -- JP_ERR_STAT, 16_errors_ras_and_live_test.md (R402)

/-- The fields of a register other than its reserved ones, which read as zero and ignore writes (R8). -/
def RegId.fields : RegId → List FieldDef
  | .jeId => [⟨48, 16, .ro⟩, ⟨32, 16, .ro⟩, ⟨28, 4, .ro⟩, ⟨24, 4, .ro⟩, ⟨16, 8, .ro⟩]
  | .jeRingCtxBase => [⟨24, 40, .rwl⟩]
  | .jpDbStat => [⟨32, 16, .rc⟩, ⟨16, 16, .rc⟩, ⟨0, 16, .rc⟩]
  | .jpTableDir => [⟨12, 52, .rw⟩, ⟨0, 5, .rw⟩]
  | .jpIrqPend => [⟨0, 64, .w1c⟩]
  | .jpIrqMask => [⟨0, 64, .rw⟩]
  | .jpIrqMod => [⟨16, 8, .rw⟩, ⟨0, 16, .rw⟩]
  | .jpXmark => [⟨0, 64, .rw⟩]
  | .jpWaitSrc => [⟨0, 16, .rwl⟩]
  | .jpWaitLimit => [⟨0, 24, .rw⟩]
  | .jpRingRange => [⟨16, 14, .rwl⟩, ⟨0, 13, .rwl⟩]
  | .jpRingCmd => [⟨62, 2, .wo⟩, ⟨61, 1, .ro⟩, ⟨56, 4, .ro⟩, ⟨0, 18, .rw⟩]
  | .jpCtl => [⟨0, 2, .wo⟩]
  | .jpStatus => [⟨46, 18, .ro⟩, ⟨16, 14, .ro⟩, ⟨4, 1, .ro⟩, ⟨3, 1, .ro⟩, ⟨0, 3, .ro⟩]
  | .jpDcmd => [⟨0, 64, .wo⟩]
  | .jpDcmdCpl => [⟨0, 64, .ro⟩]
  | .jpDcmdStatus => [⟨63, 1, .w1c⟩, ⟨62, 1, .w1c⟩, ⟨61, 1, .ro⟩, ⟨60, 1, .wo⟩, ⟨59, 1, .ro⟩, ⟨58, 1, .wo⟩, ⟨20, 8, .ro⟩, ⟨16, 4, .ro⟩, ⟨8, 7, .ro⟩, ⟨0, 6, .ro⟩]
  | .jpSieveDrop => [⟨48, 16, .rc⟩, ⟨32, 16, .rc⟩, ⟨16, 16, .rc⟩, ⟨0, 16, .rc⟩]
  | .jeSieveCtl => [⟨16, 16, .rw⟩, ⟨0, 5, .rw⟩]
  | .jpSieveQuota => [⟨32, 21, .rw⟩, ⟨0, 21, .rwl⟩]
  | .jpSieveUse => [⟨32, 21, .rc⟩, ⟨0, 21, .ro⟩]
  | .jeFmtStat => [⟨32, 32, .rc⟩, ⟨16, 16, .rc⟩, ⟨0, 5, .ro⟩]
  | .jpWidenStat => [⟨48, 16, .rc⟩, ⟨32, 16, .rc⟩, ⟨16, 16, .rc⟩, ⟨0, 16, .rc⟩]
  | .jsSrCtl => [⟨32, 32, .rw⟩, ⟨2, 1, .wo⟩, ⟨1, 1, .rw⟩, ⟨0, 1, .rw⟩]
  | .jePopCtl => [⟨63, 1, .rw⟩, ⟨32, 16, .rw⟩, ⟨16, 6, .rw⟩, ⟨0, 5, .rw⟩]
  | .jpPopStat => [⟨48, 16, .rc⟩, ⟨32, 16, .rc⟩, ⟨16, 16, .rc⟩, ⟨0, 16, .rc⟩]
  | .jePoolCtl => [⟨0, 4, .rw⟩]
  | .jePoolStat => [⟨48, 16, .rc⟩, ⟨16, 15, .rc⟩, ⟨0, 15, .ro⟩]
  | .jeFeedEn => [⟨0, 64, .ro⟩]
  | .jsClocheCtl => [⟨16, 16, .rw⟩, ⟨2, 1, .wo⟩, ⟨0, 2, .rw⟩]
  | .jsClocheStat => [⟨40, 24, .rc⟩, ⟨16, 24, .rc⟩, ⟨0, 16, .rc⟩]
  | .jsPoolStat => [⟨32, 32, .rc⟩, ⟨16, 16, .rc⟩, ⟨0, 16, .rc⟩]
  | .jpClocheLock => [⟨8, 6, .ro⟩, ⟨0, 6, .rwl⟩]
  | .jpPoolStat => [⟨48, 16, .rc⟩, ⟨32, 16, .rc⟩, ⟨16, 16, .rc⟩, ⟨0, 16, .rc⟩]
  | .jpKeyedDir => [⟨12, 52, .rw⟩, ⟨0, 5, .rw⟩]
  | .jeWinnowCtl => [⟨6, 2, .ro⟩, ⟨5, 1, .ro⟩, ⟨4, 1, .rw⟩, ⟨0, 2, .wo⟩]
  | .jeWinnowStat => [⟨32, 32, .rc⟩, ⟨16, 16, .rc⟩, ⟨0, 16, .rc⟩]
  | .jeWinnowBank => [⟨61, 3, .ro⟩, ⟨56, 4, .ro⟩, ⟨48, 7, .ro⟩, ⟨32, 14, .ro⟩, ⟨0, 16, .ro⟩]
  | .jpKeyedStat => [⟨48, 16, .rc⟩, ⟨32, 16, .rc⟩, ⟨16, 16, .rc⟩]
  | .jeRakeCtl => [⟨8, 1, .rw⟩, ⟨0, 4, .rw⟩]
  | .jeRakeStat => [⟨32, 32, .rc⟩, ⟨16, 16, .rc⟩, ⟨0, 16, .rc⟩]
  | .jsRakeStat => [⟨32, 32, .rc⟩, ⟨16, 16, .rc⟩, ⟨8, 8, .rc⟩, ⟨0, 8, .rc⟩]
  | .jsRakeUse => [⟨32, 17, .rc⟩, ⟨0, 17, .ro⟩]
  | .jpRakeStat => [⟨48, 16, .rc⟩, ⟨32, 16, .rc⟩, ⟨16, 16, .rc⟩, ⟨0, 16, .rc⟩]
  | .jeStreamCtl => [⟨63, 1, .rw⟩, ⟨32, 16, .rw⟩]
  | .jeStreamStat => [⟨32, 32, .rc⟩, ⟨16, 16, .rc⟩, ⟨0, 7, .ro⟩]
  | .jpStreamQuota => [⟨32, 8, .rw⟩, ⟨0, 8, .rwl⟩]
  | .jpStreamStat => [⟨48, 16, .rc⟩, ⟨32, 16, .rc⟩, ⟨16, 16, .rc⟩, ⟨0, 8, .ro⟩]
  | .jpObjDir => [⟨12, 52, .rw⟩, ⟨0, 5, .rw⟩]
  | .jpObjCtl => [⟨62, 2, .wo⟩, ⟨61, 1, .ro⟩, ⟨56, 4, .ro⟩, ⟨0, 32, .rw⟩]
  | .jpObjStat => [⟨32, 32, .rc⟩, ⟨8, 24, .ro⟩, ⟨0, 8, .ro⟩]
  | .jpBalanceStat => [⟨48, 16, .rc⟩, ⟨32, 16, .rc⟩]
  | .jeBalanceCtl => [⟨63, 1, .rw⟩, ⟨32, 16, .rw⟩, ⟨24, 6, .rw⟩, ⟨0, 16, .rw⟩]
  | .jsShardLoad => [⟨32, 32, .ro⟩, ⟨0, 32, .ro⟩]
  | .jeChMapped => [⟨0, 64, .ro⟩]
  | .jeChMapout => [⟨0, 64, .rw⟩]
  | .jeHbmCap => [⟨48, 11, .ro⟩, ⟨32, 9, .ro⟩, ⟨16, 9, .ro⟩, ⟨0, 8, .ro⟩]
  | .jeBwCtl => [⟨16, 9, .rwl⟩, ⟨0, 9, .rwl⟩]
  | .jsHbmCtl => [⟨48, 8, .rw⟩, ⟨32, 16, .rw⟩, ⟨8, 8, .rw⟩, ⟨0, 1, .rw⟩]
  | .jsHbmStat => [⟨32, 32, .ro⟩, ⟨0, 32, .ro⟩]
  | .jsWcbStat => [⟨48, 16, .rc⟩, ⟨32, 16, .rc⟩, ⟨16, 12, .rc⟩, ⟨0, 12, .ro⟩]
  | .jsEccStat => [⟨40, 24, .rc⟩, ⟨24, 16, .rc⟩, ⟨8, 16, .rc⟩, ⟨0, 8, .rc⟩]
  | .jsRemapStat => [⟨48, 16, .rc⟩, ⟨32, 16, .rc⟩, ⟨16, 10, .ro⟩, ⟨0, 10, .ro⟩]
  | .jsRemap => [⟨62, 2, .ro⟩, ⟨57, 5, .ro⟩, ⟨56, 1, .ro⟩, ⟨50, 6, .ro⟩, ⟨34, 16, .ro⟩]
  | .jpBwCtl => [⟨32, 9, .rw⟩, ⟨16, 8, .rw⟩, ⟨0, 9, .rwl⟩]
  | .jpBwStat => [⟨32, 32, .rc⟩, ⟨0, 32, .rc⟩]
  | .jePhysMap => [⟨56, 8, .rwl⟩, ⟨32, 14, .rwl⟩]
  | .jeBoardMap => [⟨30, 34, .rwl⟩]
  | .jeXlatStat => [⟨32, 32, .rc⟩, ⟨16, 16, .rc⟩, ⟨0, 16, .rc⟩]
  | .jpXlatTable => [⟨12, 52, .rw⟩, ⟨0, 5, .rw⟩]
  | .jpXlatIndex => [⟨12, 52, .rw⟩, ⟨0, 1, .ro⟩]
  | .jpXlatCtl => [⟨0, 8, .rwl⟩]
  | .jpXlatInval => [⟨62, 2, .wo⟩, ⟨61, 1, .ro⟩, ⟨60, 1, .rw⟩, ⟨56, 4, .ro⟩, ⟨32, 16, .ro⟩, ⟨16, 16, .rw⟩]
  | .jpXlatInvalRange => [⟨0, 20, .rw⟩]
  | .jpFault => [⟨0, 64, .ro⟩]
  | .jpFaultStatus => [⟨63, 1, .w1c⟩, ⟨62, 1, .w1c⟩, ⟨32, 16, .rc⟩, ⟨0, 13, .ro⟩]
  | .jpFaultReply => [⟨62, 2, .wo⟩, ⟨0, 16, .wo⟩]
  | .jeWinCtl => [⟨62, 2, .wo⟩, ⟨61, 1, .ro⟩, ⟨60, 1, .ro⟩, ⟨56, 4, .ro⟩, ⟨32, 11, .ro⟩, ⟨0, 11, .rw⟩]
  | .jeWinHost => [⟨36, 28, .rwl⟩]
  | .jeBiasCmd => [⟨62, 2, .wo⟩, ⟨61, 1, .ro⟩, ⟨56, 4, .ro⟩, ⟨54, 2, .ro⟩, ⟨0, 15, .rw⟩]
  | .jeBiasStat => [⟨48, 16, .ro⟩, ⟨32, 16, .rc⟩, ⟨16, 16, .rc⟩, ⟨0, 16, .rc⟩]
  | .jeFabCtl => [⟨62, 2, .rw⟩, ⟨61, 1, .rw⟩, ⟨48, 3, .rw⟩, ⟨32, 16, .rw⟩]
  | .jeFabStatus => [⟨63, 1, .ro⟩, ⟨60, 3, .ro⟩, ⟨32, 16, .rc⟩, ⟨16, 16, .rc⟩, ⟨0, 16, .rc⟩]
  | .jeFabDead => [⟨62, 2, .wo⟩, ⟨61, 1, .ro⟩, ⟨32, 24, .ro⟩, ⟨8, 8, .ro⟩, ⟨0, 8, .rw⟩]
  | .jeFabAgents => [⟨0, 64, .rwl⟩]
  | .jeFabDeadmask => [⟨0, 64, .w1c⟩]
  | .jsTrellisStat => [⟨48, 16, .rc⟩, ⟨32, 16, .rc⟩, ⟨16, 16, .rc⟩, ⟨0, 16, .rc⟩]
  | .jsTrellisUse => [⟨32, 19, .rc⟩, ⟨0, 19, .ro⟩]
  | .jsAtomicStat => [⟨40, 24, .rc⟩, ⟨16, 24, .rc⟩, ⟨0, 16, .rc⟩]
  | .jsTrellisPeekSel => [⟨4, 14, .rw⟩, ⟨0, 4, .rw⟩]
  | .jsTrellisPeek => [⟨0, 64, .ro⟩]
  | .jeQpBase => [⟨19, 45, .rwl⟩]
  | .jeQpCmd => [⟨62, 2, .wo⟩, ⟨61, 1, .ro⟩, ⟨56, 4, .ro⟩, ⟨48, 3, .ro⟩, ⟨46, 2, .ro⟩, ⟨0, 12, .rw⟩]
  | .jeNvmeBase => [⟨14, 50, .rwl⟩]
  | .jeNvmeCmd => [⟨62, 2, .wo⟩, ⟨61, 1, .ro⟩, ⟨56, 4, .ro⟩, ⟨8, 2, .ro⟩, ⟨0, 8, .rw⟩]
  | .jeNetStat => [⟨48, 16, .rc⟩, ⟨32, 16, .rc⟩, ⟨16, 16, .rc⟩, ⟨0, 16, .rc⟩]
  | .jePortCtl => [⟨62, 2, .wo⟩, ⟨60, 2, .ro⟩, ⟨59, 1, .ro⟩, ⟨58, 1, .ro⟩, ⟨48, 1, .rwl⟩, ⟨40, 8, .rwl⟩, ⟨16, 16, .rw⟩, ⟨0, 1, .rwl⟩]
  | .jePortStat => [⟨48, 16, .rc⟩, ⟨32, 16, .rc⟩, ⟨16, 16, .rc⟩, ⟨0, 13, .ro⟩]
  | .jpShardDir => [⟨12, 52, .rw⟩, ⟨0, 5, .rw⟩]
  | .jpNetStat => [⟨48, 16, .rc⟩, ⟨32, 16, .rc⟩, ⟨16, 16, .rc⟩, ⟨0, 16, .rc⟩]
  | .jeStart => [⟨61, 3, .ro⟩, ⟨60, 1, .ro⟩, ⟨58, 2, .ro⟩, ⟨57, 1, .ro⟩, ⟨56, 1, .ro⟩, ⟨48, 8, .ro⟩, ⟨40, 8, .ro⟩, ⟨0, 32, .ro⟩]
  | .jeBootSel => [⟨3, 1, .rw⟩, ⟨0, 2, .rw⟩]
  | .jeCfgLock => [⟨63, 1, .wo⟩, ⟨62, 1, .ro⟩, ⟨61, 1, .ro⟩, ⟨56, 4, .ro⟩, ⟨52, 4, .ro⟩]
  | .jeNvmCtl => [⟨62, 2, .wo⟩, ⟨61, 1, .ro⟩, ⟨56, 4, .ro⟩, ⟨40, 6, .ro⟩, ⟨32, 8, .ro⟩, ⟨0, 24, .rw⟩]
  | .jeNvmBuf => [⟨0, 64, .wo⟩]
  | .jeNvmData => [⟨0, 64, .ro⟩]
  | .jeSecCtl => [⟨62, 2, .wo⟩, ⟨61, 1, .ro⟩, ⟨56, 4, .ro⟩, ⟨32, 11, .rwl⟩]
  | .jeSecStatus => [⟨63, 1, .ro⟩, ⟨62, 1, .ro⟩, ⟨61, 1, .ro⟩, ⟨60, 1, .ro⟩, ⟨58, 2, .ro⟩, ⟨57, 1, .ro⟩, ⟨48, 3, .ro⟩, ⟨40, 8, .ro⟩, ⟨16, 16, .rc⟩, ⟨0, 16, .rc⟩]
  | .jeKeyImport => [⟨0, 64, .wo⟩]
  | .jePwrCtl => [⟨48, 16, .rw⟩, ⟨32, 16, .rw⟩, ⟨16, 8, .rw⟩, ⟨0, 2, .rw⟩]
  | .jePwrStatus => [⟨62, 2, .ro⟩, ⟨60, 2, .ro⟩, ⟨40, 8, .ro⟩, ⟨39, 1, .ro⟩, ⟨16, 16, .rc⟩, ⟨0, 16, .rc⟩]
  | .jePwrArb => [⟨48, 10, .ro⟩, ⟨32, 10, .rw⟩, ⟨28, 4, .ro⟩, ⟨16, 6, .rw⟩, ⟨0, 16, .rc⟩]
  | .jeEnergy => [⟨0, 64, .ro⟩]
  | .jeEnergyBits => [⟨0, 64, .ro⟩]
  | .jePwrResid => [⟨0, 64, .ro⟩]
  | .jpPwrCtl => [⟨0, 24, .rw⟩]
  | .jeEvent => [⟨0, 64, .ro⟩]
  | .jeEventStatus => [⟨63, 1, .w1c⟩, ⟨62, 1, .rw⟩, ⟨61, 1, .ro⟩, ⟨32, 9, .ro⟩]
  | .jeFifoCtl => [⟨63, 1, .rw⟩, ⟨62, 1, .rw⟩, ⟨32, 16, .rw⟩]
  | .jeFifoStat => [⟨48, 16, .rc⟩, ⟨32, 16, .rc⟩, ⟨16, 16, .rc⟩, ⟨0, 16, .ro⟩]
  | .jePathStat => [⟨0, 32, .rc⟩]
  | .jeInject => [⟨62, 2, .wo⟩, ⟨61, 1, .ro⟩, ⟨56, 4, .ro⟩, ⟨48, 3, .rw⟩, ⟨40, 4, .rw⟩, ⟨32, 2, .rw⟩]
  | .jeUnitTest => [⟨62, 2, .wo⟩, ⟨61, 1, .ro⟩, ⟨56, 4, .ro⟩]
  | .jsSliceCtl => [⟨62, 2, .wo⟩, ⟨59, 3, .ro⟩, ⟨58, 1, .ro⟩, ⟨52, 4, .ro⟩, ⟨40, 8, .ro⟩]
  | .jsLaneCtl => [⟨62, 2, .wo⟩, ⟨61, 1, .ro⟩, ⟨56, 4, .ro⟩, ⟨0, 5, .rw⟩]
  | .jsLaneState => [⟨0, 64, .ro⟩]
  | .jsLaneFail => [⟨32, 32, .ro⟩, ⟨0, 32, .ro⟩]
  | .jsPathStat => [⟨0, 32, .rc⟩]
  | .jpEvent => [⟨0, 64, .ro⟩]
  | .jpEventStatus => [⟨63, 1, .w1c⟩, ⟨62, 1, .rw⟩, ⟨61, 1, .ro⟩, ⟨32, 7, .ro⟩]
  | .jpErrStat => [⟨48, 16, .rc⟩, ⟨32, 16, .rc⟩, ⟨16, 16, .rc⟩]

/-- The registers, part 1. -/
def regNames1 : List RegId :=
  [.jeId, .jeRingCtxBase, .jpDbStat, .jpTableDir, .jpIrqPend, .jpIrqMask, .jpIrqMod, .jpXmark, .jpWaitSrc, .jpWaitLimit, .jpRingRange, .jpRingCmd, .jpCtl, .jpStatus, .jpDcmd, .jpDcmdCpl, .jpDcmdStatus, .jpSieveDrop, .jeSieveCtl, .jpSieveQuota, .jpSieveUse, .jeFmtStat, .jpWidenStat, .jsSrCtl, .jePopCtl, .jpPopStat, .jePoolCtl, .jePoolStat, .jeFeedEn, .jsClocheCtl, .jsClocheStat, .jsPoolStat, .jpClocheLock, .jpPoolStat, .jpKeyedDir, .jeWinnowCtl, .jeWinnowStat, .jeWinnowBank, .jpKeyedStat, .jeRakeCtl, .jeRakeStat, .jsRakeStat, .jsRakeUse, .jpRakeStat]

/-- The registers, part 2. -/
def regNames2 : List RegId :=
  [.jeStreamCtl, .jeStreamStat, .jpStreamQuota, .jpStreamStat, .jpObjDir, .jpObjCtl, .jpObjStat, .jpBalanceStat, .jeBalanceCtl, .jsShardLoad, .jeChMapped, .jeChMapout, .jeHbmCap, .jeBwCtl, .jsHbmCtl, .jsHbmStat, .jsWcbStat, .jsEccStat, .jsRemapStat, .jsRemap, .jpBwCtl, .jpBwStat, .jePhysMap, .jeBoardMap, .jeXlatStat, .jpXlatTable, .jpXlatIndex, .jpXlatCtl, .jpXlatInval, .jpXlatInvalRange, .jpFault, .jpFaultStatus, .jpFaultReply, .jeWinCtl, .jeWinHost, .jeBiasCmd, .jeBiasStat, .jeFabCtl, .jeFabStatus, .jeFabDead, .jeFabAgents, .jeFabDeadmask, .jsTrellisStat, .jsTrellisUse]

/-- The registers, part 3. -/
def regNames3 : List RegId :=
  [.jsAtomicStat, .jsTrellisPeekSel, .jsTrellisPeek, .jeQpBase, .jeQpCmd, .jeNvmeBase, .jeNvmeCmd, .jeNetStat, .jePortCtl, .jePortStat, .jpShardDir, .jpNetStat, .jeStart, .jeBootSel, .jeCfgLock, .jeNvmCtl, .jeNvmBuf, .jeNvmData, .jeSecCtl, .jeSecStatus, .jeKeyImport, .jePwrCtl, .jePwrStatus, .jePwrArb, .jeEnergy, .jeEnergyBits, .jePwrResid, .jpPwrCtl, .jeEvent, .jeEventStatus, .jeFifoCtl, .jeFifoStat, .jePathStat, .jeInject, .jeUnitTest, .jsSliceCtl, .jsLaneCtl, .jsLaneState, .jsLaneFail, .jsPathStat, .jpEvent, .jpEventStatus, .jpErrStat]

/-- Every register. -/
def regNames : List RegId := regNames1 ++ regNames2 ++ regNames3

/-- A named field of a register. -/
structure Fld where
  reg : RegId
  lo : Nat
  len : Nat
deriving DecidableEq, Repr

/-- VENDOR of JE_ID (R12). -/
abbrev fJeId_VENDOR : Fld := ⟨.jeId, 48, 16⟩
/-- PART of JE_ID (R12). -/
abbrev fJeId_PART : Fld := ⟨.jeId, 32, 16⟩
/-- STEP_LETTER of JE_ID (R12). -/
abbrev fJeId_STEP_LETTER : Fld := ⟨.jeId, 28, 4⟩
/-- STEP_DIGIT of JE_ID (R12). -/
abbrev fJeId_STEP_DIGIT : Fld := ⟨.jeId, 24, 4⟩
/-- SLICES_BUILT of JE_ID (R12). -/
abbrev fJeId_SLICES_BUILT : Fld := ⟨.jeId, 16, 8⟩
/-- BASE of JE_RING_CTX_BASE (R25). -/
abbrev fJeRingCtxBase_BASE : Fld := ⟨.jeRingCtxBase, 24, 40⟩
/-- DISABLED of JP_DB_STAT (R29). -/
abbrev fJpDbStat_DISABLED : Fld := ⟨.jpDbStat, 32, 16⟩
/-- OVERRUN of JP_DB_STAT (R29). -/
abbrev fJpDbStat_OVERRUN : Fld := ⟨.jpDbStat, 16, 16⟩
/-- REGRESS of JP_DB_STAT (R29). -/
abbrev fJpDbStat_REGRESS : Fld := ⟨.jpDbStat, 0, 16⟩
/-- BASE of JP_TABLE_DIR (R33). -/
abbrev fJpTableDir_BASE : Fld := ⟨.jpTableDir, 12, 52⟩
/-- SIZE_LOG2 of JP_TABLE_DIR (R33). -/
abbrev fJpTableDir_SIZE_LOG2 : Fld := ⟨.jpTableDir, 0, 5⟩
/-- PEND of JP_IRQ_PEND (R39). -/
abbrev fJpIrqPend_PEND : Fld := ⟨.jpIrqPend, 0, 64⟩
/-- MASK of JP_IRQ_MASK (R39). -/
abbrev fJpIrqMask_MASK : Fld := ⟨.jpIrqMask, 0, 64⟩
/-- COUNT of JP_IRQ_MOD (R39). -/
abbrev fJpIrqMod_COUNT : Fld := ⟨.jpIrqMod, 16, 8⟩
/-- HOLDOFF of JP_IRQ_MOD (R39). -/
abbrev fJpIrqMod_HOLDOFF : Fld := ⟨.jpIrqMod, 0, 16⟩
/-- VALUE of JP_XMARK (R41). -/
abbrev fJpXmark_VALUE : Fld := ⟨.jpXmark, 0, 64⟩
/-- ALLOW of JP_WAIT_SRC (R45). -/
abbrev fJpWaitSrc_ALLOW : Fld := ⟨.jpWaitSrc, 0, 16⟩
/-- LIMIT of JP_WAIT_LIMIT (R45). -/
abbrev fJpWaitLimit_LIMIT : Fld := ⟨.jpWaitLimit, 0, 24⟩
/-- GROUPS of JP_RING_RANGE (R56). -/
abbrev fJpRingRange_GROUPS : Fld := ⟨.jpRingRange, 16, 14⟩
/-- FIRST_GROUP of JP_RING_RANGE (R56). -/
abbrev fJpRingRange_FIRST_GROUP : Fld := ⟨.jpRingRange, 0, 13⟩
/-- ACTION of JP_RING_CMD (R57). -/
abbrev fJpRingCmd_ACTION : Fld := ⟨.jpRingCmd, 62, 2⟩
/-- BUSY of JP_RING_CMD (R57). -/
abbrev fJpRingCmd_BUSY : Fld := ⟨.jpRingCmd, 61, 1⟩
/-- RESULT of JP_RING_CMD (R57). -/
abbrev fJpRingCmd_RESULT : Fld := ⟨.jpRingCmd, 56, 4⟩
/-- RING of JP_RING_CMD (R57). -/
abbrev fJpRingCmd_RING : Fld := ⟨.jpRingCmd, 0, 18⟩
/-- REQ of JP_CTL (R59). -/
abbrev fJpCtl_REQ : Fld := ⟨.jpCtl, 0, 2⟩
/-- PARKED_RINGS of JP_STATUS (R59). -/
abbrev fJpStatus_PARKED_RINGS : Fld := ⟨.jpStatus, 46, 18⟩
/-- IN_FLIGHT of JP_STATUS (R59). -/
abbrev fJpStatus_IN_FLIGHT : Fld := ⟨.jpStatus, 16, 14⟩
/-- STOP_MODE of JP_STATUS (R59). -/
abbrev fJpStatus_STOP_MODE : Fld := ⟨.jpStatus, 4, 1⟩
/-- ENABLE_PENDING of JP_STATUS (R59). -/
abbrev fJpStatus_ENABLE_PENDING : Fld := ⟨.jpStatus, 3, 1⟩
/-- STATE of JP_STATUS (R59). -/
abbrev fJpStatus_STATE : Fld := ⟨.jpStatus, 0, 3⟩
/-- WORD of JP_DCMD (R416). -/
abbrev fJpDcmd_WORD : Fld := ⟨.jpDcmd, 0, 64⟩
/-- WORD of JP_DCMD_CPL (R416). -/
abbrev fJpDcmdCpl_WORD : Fld := ⟨.jpDcmdCpl, 0, 64⟩
/-- UNDERRUN of JP_DCMD_STATUS (R416). -/
abbrev fJpDcmdStatus_UNDERRUN : Fld := ⟨.jpDcmdStatus, 63, 1⟩
/-- DISCARD of JP_DCMD_STATUS (R416). -/
abbrev fJpDcmdStatus_DISCARD : Fld := ⟨.jpDcmdStatus, 62, 1⟩
/-- PARKED of JP_DCMD_STATUS (R416). -/
abbrev fJpDcmdStatus_PARKED : Fld := ⟨.jpDcmdStatus, 61, 1⟩
/-- RESYNC of JP_DCMD_STATUS (R416). -/
abbrev fJpDcmdStatus_RESYNC : Fld := ⟨.jpDcmdStatus, 60, 1⟩
/-- HALTED of JP_DCMD_STATUS (R416). -/
abbrev fJpDcmdStatus_HALTED : Fld := ⟨.jpDcmdStatus, 59, 1⟩
/-- RESUME of JP_DCMD_STATUS (R416). -/
abbrev fJpDcmdStatus_RESUME : Fld := ⟨.jpDcmdStatus, 58, 1⟩
/-- HALT_STATUS of JP_DCMD_STATUS (R416). -/
abbrev fJpDcmdStatus_HALT_STATUS : Fld := ⟨.jpDcmdStatus, 20, 8⟩
/-- WORDS of JP_DCMD_STATUS (R416). -/
abbrev fJpDcmdStatus_WORDS : Fld := ⟨.jpDcmdStatus, 16, 4⟩
/-- CPL_LEVEL of JP_DCMD_STATUS (R416). -/
abbrev fJpDcmdStatus_CPL_LEVEL : Fld := ⟨.jpDcmdStatus, 8, 7⟩
/-- CMD_LEVEL of JP_DCMD_STATUS (R416). -/
abbrev fJpDcmdStatus_CMD_LEVEL : Fld := ⟨.jpDcmdStatus, 0, 6⟩
/-- OUT_OF_RANGE of JP_SIEVE_DROP (R72). -/
abbrev fJpSieveDrop_OUT_OF_RANGE : Fld := ⟨.jpSieveDrop, 48, 16⟩
/-- BAD_WEIGHT of JP_SIEVE_DROP (R72). -/
abbrev fJpSieveDrop_BAD_WEIGHT : Fld := ⟨.jpSieveDrop, 32, 16⟩
/-- POISONED of JP_SIEVE_DROP (R72). -/
abbrev fJpSieveDrop_POISONED : Fld := ⟨.jpSieveDrop, 16, 16⟩
/-- QUOTA_CLOSES of JP_SIEVE_DROP (R72). -/
abbrev fJpSieveDrop_QUOTA_CLOSES : Fld := ⟨.jpSieveDrop, 0, 16⟩
/-- HOT_SPREAD of JE_SIEVE_CTL (R84). -/
abbrev fJeSieveCtl_HOT_SPREAD : Fld := ⟨.jeSieveCtl, 16, 16⟩
/-- HOLD_LANE of JE_SIEVE_CTL (R84). -/
abbrev fJeSieveCtl_HOLD_LANE : Fld := ⟨.jeSieveCtl, 0, 5⟩
/-- MAX of JP_SIEVE_QUOTA (R84). -/
abbrev fJpSieveQuota_MAX : Fld := ⟨.jpSieveQuota, 32, 21⟩
/-- MIN of JP_SIEVE_QUOTA (R84). -/
abbrev fJpSieveQuota_MIN : Fld := ⟨.jpSieveQuota, 0, 21⟩
/-- HASH_PEAK of JP_SIEVE_USE (R84). -/
abbrev fJpSieveUse_HASH_PEAK : Fld := ⟨.jpSieveUse, 32, 21⟩
/-- HASH_IN_USE of JP_SIEVE_USE (R84). -/
abbrev fJpSieveUse_HASH_IN_USE : Fld := ⟨.jpSieveUse, 0, 21⟩
/-- LOADS of JE_FMT_STAT (R98). -/
abbrev fJeFmtStat_LOADS : Fld := ⟨.jeFmtStat, 32, 32⟩
/-- WAITS of JE_FMT_STAT (R98). -/
abbrev fJeFmtStat_WAITS : Fld := ⟨.jeFmtStat, 16, 16⟩
/-- RESIDENT of JE_FMT_STAT (R98). -/
abbrev fJeFmtStat_RESIDENT : Fld := ⟨.jeFmtStat, 0, 5⟩
/-- SAT_RERUN of JP_WIDEN_STAT (R104). -/
abbrev fJpWidenStat_SAT_RERUN : Fld := ⟨.jpWidenStat, 48, 16⟩
/-- ESC_RERUN of JP_WIDEN_STAT (R104). -/
abbrev fJpWidenStat_ESC_RERUN : Fld := ⟨.jpWidenStat, 32, 16⟩
/-- OUT_SAT of JP_WIDEN_STAT (R104). -/
abbrev fJpWidenStat_OUT_SAT : Fld := ⟨.jpWidenStat, 16, 16⟩
/-- BAD_ESC of JP_WIDEN_STAT (R104). -/
abbrev fJpWidenStat_BAD_ESC : Fld := ⟨.jpWidenStat, 0, 16⟩
/-- SEED of JS_SR_CTL (R107). -/
abbrev fJsSrCtl_SEED : Fld := ⟨.jsSrCtl, 32, 32⟩
/-- RESEED of JS_SR_CTL (R107). -/
abbrev fJsSrCtl_RESEED : Fld := ⟨.jsSrCtl, 2, 1⟩
/-- FIXED of JS_SR_CTL (R107). -/
abbrev fJsSrCtl_FIXED : Fld := ⟨.jsSrCtl, 1, 1⟩
/-- RNE of JS_SR_CTL (R107). -/
abbrev fJsSrCtl_RNE : Fld := ⟨.jsSrCtl, 0, 1⟩
/-- ENABLE of JE_POP_CTL (R116). -/
abbrev fJePopCtl_ENABLE : Fld := ⟨.jePopCtl, 63, 1⟩
/-- EPOCH of JE_POP_CTL (R116). -/
abbrev fJePopCtl_EPOCH : Fld := ⟨.jePopCtl, 32, 16⟩
/-- MOVES of JE_POP_CTL (R116). -/
abbrev fJePopCtl_MOVES : Fld := ⟨.jePopCtl, 16, 6⟩
/-- SAMPLE_LOG2 of JE_POP_CTL (R116). -/
abbrev fJePopCtl_SAMPLE_LOG2 : Fld := ⟨.jePopCtl, 0, 5⟩
/-- PROMOTED of JP_POP_STAT (R116). -/
abbrev fJpPopStat_PROMOTED : Fld := ⟨.jpPopStat, 48, 16⟩
/-- DEMOTED of JP_POP_STAT (R116). -/
abbrev fJpPopStat_DEMOTED : Fld := ⟨.jpPopStat, 32, 16⟩
/-- NO_SLOT of JP_POP_STAT (R116). -/
abbrev fJpPopStat_NO_SLOT : Fld := ⟨.jpPopStat, 16, 16⟩
/-- EPOCHS_LATE of JP_POP_STAT (R116). -/
abbrev fJpPopStat_EPOCHS_LATE : Fld := ⟨.jpPopStat, 0, 16⟩
/-- PART_CAP of JE_POOL_CTL (R124). -/
abbrev fJePoolCtl_PART_CAP : Fld := ⟨.jePoolCtl, 0, 4⟩
/-- BUDGET_WAITS of JE_POOL_STAT (R124). -/
abbrev fJePoolStat_BUDGET_WAITS : Fld := ⟨.jePoolStat, 48, 16⟩
/-- HUB_PEAK of JE_POOL_STAT (R124). -/
abbrev fJePoolStat_HUB_PEAK : Fld := ⟨.jePoolStat, 16, 15⟩
/-- HUB_IN_USE of JE_POOL_STAT (R124). -/
abbrev fJePoolStat_HUB_IN_USE : Fld := ⟨.jePoolStat, 0, 15⟩
/-- ENABLED of JE_FEED_EN (R124). -/
abbrev fJeFeedEn_ENABLED : Fld := ⟨.jeFeedEn, 0, 64⟩
/-- AGE_TICK of JS_CLOCHE_CTL (R138). -/
abbrev fJsClocheCtl_AGE_TICK : Fld := ⟨.jsClocheCtl, 16, 16⟩
/-- FLUSH of JS_CLOCHE_CTL (R138). -/
abbrev fJsClocheCtl_FLUSH : Fld := ⟨.jsClocheCtl, 2, 1⟩
/-- MODE of JS_CLOCHE_CTL (R138). -/
abbrev fJsClocheCtl_MODE : Fld := ⟨.jsClocheCtl, 0, 2⟩
/-- HITS of JS_CLOCHE_STAT (R138). -/
abbrev fJsClocheStat_HITS : Fld := ⟨.jsClocheStat, 40, 24⟩
/-- MISSES of JS_CLOCHE_STAT (R138). -/
abbrev fJsClocheStat_MISSES : Fld := ⟨.jsClocheStat, 16, 24⟩
/-- PARITY of JS_CLOCHE_STAT (R138). -/
abbrev fJsClocheStat_PARITY : Fld := ⟨.jsClocheStat, 0, 16⟩
/-- LANE_SPILLS of JS_POOL_STAT (R138). -/
abbrev fJsPoolStat_LANE_SPILLS : Fld := ⟨.jsPoolStat, 32, 32⟩
/-- EVB_HITS of JS_POOL_STAT (R138). -/
abbrev fJsPoolStat_EVB_HITS : Fld := ⟨.jsPoolStat, 16, 16⟩
/-- NO_ALLOC of JS_POOL_STAT (R138). -/
abbrev fJsPoolStat_NO_ALLOC : Fld := ⟨.jsPoolStat, 0, 16⟩
/-- IN_USE of JP_CLOCHE_LOCK (R138). -/
abbrev fJpClocheLock_IN_USE : Fld := ⟨.jpClocheLock, 8, 6⟩
/-- LIMIT of JP_CLOCHE_LOCK (R138). -/
abbrev fJpClocheLock_LIMIT : Fld := ⟨.jpClocheLock, 0, 6⟩
/-- POISON_BAGS of JP_POOL_STAT (R138). -/
abbrev fJpPoolStat_POISON_BAGS : Fld := ⟨.jpPoolStat, 48, 16⟩
/-- LOCK_SHORT of JP_POOL_STAT (R138). -/
abbrev fJpPoolStat_LOCK_SHORT : Fld := ⟨.jpPoolStat, 32, 16⟩
/-- LOCKS_LOST of JP_POOL_STAT (R138). -/
abbrev fJpPoolStat_LOCKS_LOST : Fld := ⟨.jpPoolStat, 16, 16⟩
/-- OUT_CLIPS of JP_POOL_STAT (R138). -/
abbrev fJpPoolStat_OUT_CLIPS : Fld := ⟨.jpPoolStat, 0, 16⟩
/-- BASE of JP_KEYED_DIR (R149). -/
abbrev fJpKeyedDir_BASE : Fld := ⟨.jpKeyedDir, 12, 52⟩
/-- SIZE_LOG2 of JP_KEYED_DIR (R149). -/
abbrev fJpKeyedDir_SIZE_LOG2 : Fld := ⟨.jpKeyedDir, 0, 5⟩
/-- STATE of JE_WINNOW_CTL (R168). -/
abbrev fJeWinnowCtl_STATE : Fld := ⟨.jeWinnowCtl, 6, 2⟩
/-- ENABLE_PENDING of JE_WINNOW_CTL (R168). -/
abbrev fJeWinnowCtl_ENABLE_PENDING : Fld := ⟨.jeWinnowCtl, 5, 1⟩
/-- DEMAND of JE_WINNOW_CTL (R168). -/
abbrev fJeWinnowCtl_DEMAND : Fld := ⟨.jeWinnowCtl, 4, 1⟩
/-- REQ of JE_WINNOW_CTL (R168). -/
abbrev fJeWinnowCtl_REQ : Fld := ⟨.jeWinnowCtl, 0, 2⟩
/-- HEADS of JE_WINNOW_STAT (R168). -/
abbrev fJeWinnowStat_HEADS : Fld := ⟨.jeWinnowStat, 32, 32⟩
/-- DEMAND_FILLS of JE_WINNOW_STAT (R168). -/
abbrev fJeWinnowStat_DEMAND_FILLS : Fld := ⟨.jeWinnowStat, 16, 16⟩
/-- FILL_WAITS of JE_WINNOW_STAT (R168). -/
abbrev fJeWinnowStat_FILL_WAITS : Fld := ⟨.jeWinnowStat, 0, 16⟩
/-- STATE of JE_WINNOW_BANK (R168). -/
abbrev fJeWinnowBank_STATE : Fld := ⟨.jeWinnowBank, 61, 3⟩
/-- PART of JE_WINNOW_BANK (R168). -/
abbrev fJeWinnowBank_PART : Fld := ⟨.jeWinnowBank, 56, 4⟩
/-- USERS of JE_WINNOW_BANK (R168). -/
abbrev fJeWinnowBank_USERS : Fld := ⟨.jeWinnowBank, 48, 7⟩
/-- BARRED of JE_WINNOW_BANK (R168). -/
abbrev fJeWinnowBank_BARRED : Fld := ⟨.jeWinnowBank, 32, 14⟩
/-- LAYER of JE_WINNOW_BANK (R168). -/
abbrev fJeWinnowBank_LAYER : Fld := ⟨.jeWinnowBank, 0, 16⟩
/-- REJECTED of JP_KEYED_STAT (R168). -/
abbrev fJpKeyedStat_REJECTED : Fld := ⟨.jpKeyedStat, 48, 16⟩
/-- BYPASSED of JP_KEYED_STAT (R168). -/
abbrev fJpKeyedStat_BYPASSED : Fld := ⟨.jpKeyedStat, 32, 16⟩
/-- ABSENT of JP_KEYED_STAT (R168). -/
abbrev fJpKeyedStat_ABSENT : Fld := ⟨.jpKeyedStat, 16, 16⟩
/-- MERGE of JE_RAKE_CTL (R190). -/
abbrev fJeRakeCtl_MERGE : Fld := ⟨.jeRakeCtl, 8, 1⟩
/-- RESEND of JE_RAKE_CTL (R190). -/
abbrev fJeRakeCtl_RESEND : Fld := ⟨.jeRakeCtl, 0, 4⟩
/-- HUB_MERGED of JE_RAKE_STAT (R190). -/
abbrev fJeRakeStat_HUB_MERGED : Fld := ⟨.jeRakeStat, 32, 32⟩
/-- MERGE_FULL of JE_RAKE_STAT (R190). -/
abbrev fJeRakeStat_MERGE_FULL : Fld := ⟨.jeRakeStat, 16, 16⟩
/-- SGRAD_WAITS of JE_RAKE_STAT (R190). -/
abbrev fJeRakeStat_SGRAD_WAITS : Fld := ⟨.jeRakeStat, 0, 16⟩
/-- EARLY_FLUSH of JS_RAKE_STAT (R190). -/
abbrev fJsRakeStat_EARLY_FLUSH : Fld := ⟨.jsRakeStat, 32, 32⟩
/-- RESENT of JS_RAKE_STAT (R190). -/
abbrev fJsRakeStat_RESENT : Fld := ⟨.jsRakeStat, 16, 16⟩
/-- BUF_CORR of JS_RAKE_STAT (R190). -/
abbrev fJsRakeStat_BUF_CORR : Fld := ⟨.jsRakeStat, 8, 8⟩
/-- BUF_UNCORR of JS_RAKE_STAT (R190). -/
abbrev fJsRakeStat_BUF_UNCORR : Fld := ⟨.jsRakeStat, 0, 8⟩
/-- PEAK of JS_RAKE_USE (R190). -/
abbrev fJsRakeUse_PEAK : Fld := ⟨.jsRakeUse, 32, 17⟩
/-- IN_USE of JS_RAKE_USE (R190). -/
abbrev fJsRakeUse_IN_USE : Fld := ⟨.jsRakeUse, 0, 17⟩
/-- LOST_CMDS of JP_RAKE_STAT (R190). -/
abbrev fJpRakeStat_LOST_CMDS : Fld := ⟨.jpRakeStat, 48, 16⟩
/-- POISON_ADDS of JP_RAKE_STAT (R190). -/
abbrev fJpRakeStat_POISON_ADDS : Fld := ⟨.jpRakeStat, 32, 16⟩
/-- NONFINITE of JP_RAKE_STAT (R190). -/
abbrev fJpRakeStat_NONFINITE : Fld := ⟨.jpRakeStat, 16, 16⟩
/-- TORN_MARKS of JP_RAKE_STAT (R190). -/
abbrev fJpRakeStat_TORN_MARKS : Fld := ⟨.jpRakeStat, 0, 16⟩
/-- EARLY of JE_STREAM_CTL (R213). -/
abbrev fJeStreamCtl_EARLY : Fld := ⟨.jeStreamCtl, 63, 1⟩
/-- TOKEN_EVENT of JE_STREAM_CTL (R213). -/
abbrev fJeStreamCtl_TOKEN_EVENT : Fld := ⟨.jeStreamCtl, 32, 16⟩
/-- EARLY_CONFIRMED of JE_STREAM_STAT (R213). -/
abbrev fJeStreamStat_EARLY_CONFIRMED : Fld := ⟨.jeStreamStat, 32, 32⟩
/-- REFETCHED of JE_STREAM_STAT (R213). -/
abbrev fJeStreamStat_REFETCHED : Fld := ⟨.jeStreamStat, 16, 16⟩
/-- CONTEXTS of JE_STREAM_STAT (R213). -/
abbrev fJeStreamStat_CONTEXTS : Fld := ⟨.jeStreamStat, 0, 7⟩
/-- MAX of JP_STREAM_QUOTA (R213). -/
abbrev fJpStreamQuota_MAX : Fld := ⟨.jpStreamQuota, 32, 8⟩
/-- MIN of JP_STREAM_QUOTA (R213). -/
abbrev fJpStreamQuota_MIN : Fld := ⟨.jpStreamQuota, 0, 8⟩
/-- DROPS of JP_STREAM_STAT (R213). -/
abbrev fJpStreamStat_DROPS : Fld := ⟨.jpStreamStat, 48, 16⟩
/-- REJOINS of JP_STREAM_STAT (R213). -/
abbrev fJpStreamStat_REJOINS : Fld := ⟨.jpStreamStat, 32, 16⟩
/-- TOKEN_WAITS of JP_STREAM_STAT (R213). -/
abbrev fJpStreamStat_TOKEN_WAITS : Fld := ⟨.jpStreamStat, 16, 16⟩
/-- UNITS of JP_STREAM_STAT (R213). -/
abbrev fJpStreamStat_UNITS : Fld := ⟨.jpStreamStat, 0, 8⟩
/-- BASE of JP_OBJ_DIR (R239). -/
abbrev fJpObjDir_BASE : Fld := ⟨.jpObjDir, 12, 52⟩
/-- SIZE_LOG2 of JP_OBJ_DIR (R239). -/
abbrev fJpObjDir_SIZE_LOG2 : Fld := ⟨.jpObjDir, 0, 5⟩
/-- ACTION of JP_OBJ_CTL (R239). -/
abbrev fJpObjCtl_ACTION : Fld := ⟨.jpObjCtl, 62, 2⟩
/-- BUSY of JP_OBJ_CTL (R239). -/
abbrev fJpObjCtl_BUSY : Fld := ⟨.jpObjCtl, 61, 1⟩
/-- RESULT of JP_OBJ_CTL (R239). -/
abbrev fJpObjCtl_RESULT : Fld := ⟨.jpObjCtl, 56, 4⟩
/-- HANDLE of JP_OBJ_CTL (R239). -/
abbrev fJpObjCtl_HANDLE : Fld := ⟨.jpObjCtl, 0, 32⟩
/-- CHUNKS_MOVED of JP_OBJ_STAT (R239). -/
abbrev fJpObjStat_CHUNKS_MOVED : Fld := ⟨.jpObjStat, 32, 32⟩
/-- TORN_NOW of JP_OBJ_STAT (R239). -/
abbrev fJpObjStat_TORN_NOW : Fld := ⟨.jpObjStat, 8, 24⟩
/-- MOVES_NOW of JP_OBJ_STAT (R239). -/
abbrev fJpObjStat_MOVES_NOW : Fld := ⟨.jpObjStat, 0, 8⟩
/-- BALANCED of JP_BALANCE_STAT (R239). -/
abbrev fJpBalanceStat_BALANCED : Fld := ⟨.jpBalanceStat, 48, 16⟩
/-- SKIPPED of JP_BALANCE_STAT (R239). -/
abbrev fJpBalanceStat_SKIPPED : Fld := ⟨.jpBalanceStat, 32, 16⟩
/-- ENABLE of JE_BALANCE_CTL (R239). -/
abbrev fJeBalanceCtl_ENABLE : Fld := ⟨.jeBalanceCtl, 63, 1⟩
/-- BAL_COUNT of JE_BALANCE_CTL (R239). -/
abbrev fJeBalanceCtl_BAL_COUNT : Fld := ⟨.jeBalanceCtl, 32, 16⟩
/-- THRESH of JE_BALANCE_CTL (R239). -/
abbrev fJeBalanceCtl_THRESH : Fld := ⟨.jeBalanceCtl, 24, 6⟩
/-- BUDGET of JE_BALANCE_CTL (R239). -/
abbrev fJeBalanceCtl_BUDGET : Fld := ⟨.jeBalanceCtl, 0, 16⟩
/-- LAST_EPOCH of JS_SHARD_LOAD (R239). -/
abbrev fJsShardLoad_LAST_EPOCH : Fld := ⟨.jsShardLoad, 32, 32⟩
/-- CURRENT of JS_SHARD_LOAD (R239). -/
abbrev fJsShardLoad_CURRENT : Fld := ⟨.jsShardLoad, 0, 32⟩
/-- MAPPED of JE_CH_MAPPED (R263). -/
abbrev fJeChMapped_MAPPED : Fld := ⟨.jeChMapped, 0, 64⟩
/-- REQ of JE_CH_MAPOUT (R263). -/
abbrev fJeChMapout_REQ : Fld := ⟨.jeChMapout, 0, 64⟩
/-- CAP_GIB of JE_HBM_CAP (R263). -/
abbrev fJeHbmCap_CAP_GIB : Fld := ⟨.jeHbmCap, 48, 11⟩
/-- N_MAPPED of JE_HBM_CAP (R263). -/
abbrev fJeHbmCap_N_MAPPED : Fld := ⟨.jeHbmCap, 32, 9⟩
/-- N_LIVE of JE_HBM_CAP (R263). -/
abbrev fJeHbmCap_N_LIVE : Fld := ⟨.jeHbmCap, 16, 9⟩
/-- REF_2X of JE_HBM_CAP (R263). -/
abbrev fJeHbmCap_REF_2X : Fld := ⟨.jeHbmCap, 0, 8⟩
/-- HOST_SHARE of JE_BW_CTL (R263). -/
abbrev fJeBwCtl_HOST_SHARE : Fld := ⟨.jeBwCtl, 16, 9⟩
/-- BG_MIN of JE_BW_CTL (R263). -/
abbrev fJeBwCtl_BG_MIN : Fld := ⟨.jeBwCtl, 0, 9⟩
/-- WR_BATCH of JS_HBM_CTL (R263). -/
abbrev fJsHbmCtl_WR_BATCH : Fld := ⟨.jsHbmCtl, 48, 8⟩
/-- WCB_AGE of JS_HBM_CTL (R263). -/
abbrev fJsHbmCtl_WCB_AGE : Fld := ⟨.jsHbmCtl, 32, 16⟩
/-- ROW_CE_THRESH of JS_HBM_CTL (R263). -/
abbrev fJsHbmCtl_ROW_CE_THRESH : Fld := ⟨.jsHbmCtl, 8, 8⟩
/-- REMAP of JS_HBM_CTL (R263). -/
abbrev fJsHbmCtl_REMAP : Fld := ⟨.jsHbmCtl, 0, 1⟩
/-- MAPPED of JS_HBM_STAT (R263). -/
abbrev fJsHbmStat_MAPPED : Fld := ⟨.jsHbmStat, 32, 32⟩
/-- LIVE of JS_HBM_STAT (R263). -/
abbrev fJsHbmStat_LIVE : Fld := ⟨.jsHbmStat, 0, 32⟩
/-- FULL_WAITS of JS_WCB_STAT (R263). -/
abbrev fJsWcbStat_FULL_WAITS : Fld := ⟨.jsWcbStat, 48, 16⟩
/-- MERGE_READS of JS_WCB_STAT (R263). -/
abbrev fJsWcbStat_MERGE_READS : Fld := ⟨.jsWcbStat, 32, 16⟩
/-- PEAK of JS_WCB_STAT (R263). -/
abbrev fJsWcbStat_PEAK : Fld := ⟨.jsWcbStat, 16, 12⟩
/-- IN_USE of JS_WCB_STAT (R263). -/
abbrev fJsWcbStat_IN_USE : Fld := ⟨.jsWcbStat, 0, 12⟩
/-- CORR of JS_ECC_STAT (R263). -/
abbrev fJsEccStat_CORR : Fld := ⟨.jsEccStat, 40, 24⟩
/-- UNCORR of JS_ECC_STAT (R263). -/
abbrev fJsEccStat_UNCORR : Fld := ⟨.jsEccStat, 24, 16⟩
/-- POISON_READS of JS_ECC_STAT (R263). -/
abbrev fJsEccStat_POISON_READS : Fld := ⟨.jsEccStat, 8, 16⟩
/-- WCB_UNCORR of JS_ECC_STAT (R263). -/
abbrev fJsEccStat_WCB_UNCORR : Fld := ⟨.jsEccStat, 0, 8⟩
/-- REMAPS of JS_REMAP_STAT (R263). -/
abbrev fJsRemapStat_REMAPS : Fld := ⟨.jsRemapStat, 48, 16⟩
/-- SPARE_OUT of JS_REMAP_STAT (R263). -/
abbrev fJsRemapStat_SPARE_OUT : Fld := ⟨.jsRemapStat, 32, 16⟩
/-- IN_USE of JS_REMAP_STAT (R263). -/
abbrev fJsRemapStat_IN_USE : Fld := ⟨.jsRemapStat, 16, 10⟩
/-- HARD_DONE of JS_REMAP_STAT (R263). -/
abbrev fJsRemapStat_HARD_DONE : Fld := ⟨.jsRemapStat, 0, 10⟩
/-- STATE of JS_REMAP (R263). -/
abbrev fJsRemap_STATE : Fld := ⟨.jsRemap, 62, 2⟩
/-- CH of JS_REMAP (R263). -/
abbrev fJsRemap_CH : Fld := ⟨.jsRemap, 57, 5⟩
/-- PC of JS_REMAP (R263). -/
abbrev fJsRemap_PC : Fld := ⟨.jsRemap, 56, 1⟩
/-- BANK of JS_REMAP (R263). -/
abbrev fJsRemap_BANK : Fld := ⟨.jsRemap, 50, 6⟩
/-- ROW of JS_REMAP (R263). -/
abbrev fJsRemap_ROW : Fld := ⟨.jsRemap, 34, 16⟩
/-- CAP of JP_BW_CTL (R263). -/
abbrev fJpBwCtl_CAP : Fld := ⟨.jpBwCtl, 32, 9⟩
/-- BURST of JP_BW_CTL (R263). -/
abbrev fJpBwCtl_BURST : Fld := ⟨.jpBwCtl, 16, 8⟩
/-- FG_SHARE of JP_BW_CTL (R263). -/
abbrev fJpBwCtl_FG_SHARE : Fld := ⟨.jpBwCtl, 0, 9⟩
/-- FG_UNITS of JP_BW_STAT (R263). -/
abbrev fJpBwStat_FG_UNITS : Fld := ⟨.jpBwStat, 32, 32⟩
/-- BG_UNITS of JP_BW_STAT (R263). -/
abbrev fJpBwStat_BG_UNITS : Fld := ⟨.jpBwStat, 0, 32⟩
/-- ENGINE of JE_PHYS_MAP (R286). -/
abbrev fJePhysMap_ENGINE : Fld := ⟨.jePhysMap, 56, 8⟩
/-- BOARD_GIB of JE_PHYS_MAP (R286). -/
abbrev fJePhysMap_BOARD_GIB : Fld := ⟨.jePhysMap, 32, 14⟩
/-- BOARD_BASE of JE_BOARD_MAP (R286). -/
abbrev fJeBoardMap_BOARD_BASE : Fld := ⟨.jeBoardMap, 30, 34⟩
/-- HITS of JE_XLAT_STAT (R286). -/
abbrev fJeXlatStat_HITS : Fld := ⟨.jeXlatStat, 32, 32⟩
/-- WALKS of JE_XLAT_STAT (R286). -/
abbrev fJeXlatStat_WALKS : Fld := ⟨.jeXlatStat, 16, 16⟩
/-- WALK_JOINS of JE_XLAT_STAT (R286). -/
abbrev fJeXlatStat_WALK_JOINS : Fld := ⟨.jeXlatStat, 0, 16⟩
/-- BASE of JP_XLAT_TABLE (R286). -/
abbrev fJpXlatTable_BASE : Fld := ⟨.jpXlatTable, 12, 52⟩
/-- SIZE_LOG2 of JP_XLAT_TABLE (R286). -/
abbrev fJpXlatTable_SIZE_LOG2 : Fld := ⟨.jpXlatTable, 0, 5⟩
/-- BASE of JP_XLAT_INDEX (R286). -/
abbrev fJpXlatIndex_BASE : Fld := ⟨.jpXlatIndex, 12, 52⟩
/-- BUSY of JP_XLAT_INDEX (R286). -/
abbrev fJpXlatIndex_BUSY : Fld := ⟨.jpXlatIndex, 0, 1⟩
/-- CACHE_MIN of JP_XLAT_CTL (R286). -/
abbrev fJpXlatCtl_CACHE_MIN : Fld := ⟨.jpXlatCtl, 0, 8⟩
/-- ACTION of JP_XLAT_INVAL (R286). -/
abbrev fJpXlatInval_ACTION : Fld := ⟨.jpXlatInval, 62, 2⟩
/-- BUSY of JP_XLAT_INVAL (R286). -/
abbrev fJpXlatInval_BUSY : Fld := ⟨.jpXlatInval, 61, 1⟩
/-- IRQ of JP_XLAT_INVAL (R286). -/
abbrev fJpXlatInval_IRQ : Fld := ⟨.jpXlatInval, 60, 1⟩
/-- RESULT of JP_XLAT_INVAL (R286). -/
abbrev fJpXlatInval_RESULT : Fld := ⟨.jpXlatInval, 56, 4⟩
/-- ACK_GEN of JP_XLAT_INVAL (R286). -/
abbrev fJpXlatInval_ACK_GEN : Fld := ⟨.jpXlatInval, 32, 16⟩
/-- GEN of JP_XLAT_INVAL (R286). -/
abbrev fJpXlatInval_GEN : Fld := ⟨.jpXlatInval, 16, 16⟩
/-- RANGE of JP_XLAT_INVAL_RANGE (R286). -/
abbrev fJpXlatInvalRange_RANGE : Fld := ⟨.jpXlatInvalRange, 0, 20⟩
/-- WORD of JP_FAULT (R286). -/
abbrev fJpFault_WORD : Fld := ⟨.jpFault, 0, 64⟩
/-- UNDERRUN of JP_FAULT_STATUS (R286). -/
abbrev fJpFaultStatus_UNDERRUN : Fld := ⟨.jpFaultStatus, 63, 1⟩
/-- REPLY_STALE of JP_FAULT_STATUS (R286). -/
abbrev fJpFaultStatus_REPLY_STALE : Fld := ⟨.jpFaultStatus, 62, 1⟩
/-- FULL_WAITS of JP_FAULT_STATUS (R286). -/
abbrev fJpFaultStatus_FULL_WAITS : Fld := ⟨.jpFaultStatus, 32, 16⟩
/-- PARKED of JP_FAULT_STATUS (R286). -/
abbrev fJpFaultStatus_PARKED : Fld := ⟨.jpFaultStatus, 0, 13⟩
/-- ACTION of JP_FAULT_REPLY (R286). -/
abbrev fJpFaultReply_ACTION : Fld := ⟨.jpFaultReply, 62, 2⟩
/-- FAULT_ID of JP_FAULT_REPLY (R286). -/
abbrev fJpFaultReply_FAULT_ID : Fld := ⟨.jpFaultReply, 0, 16⟩
/-- ACTION of JE_WIN_CTL (R317). -/
abbrev fJeWinCtl_ACTION : Fld := ⟨.jeWinCtl, 62, 2⟩
/-- BUSY of JE_WIN_CTL (R317). -/
abbrev fJeWinCtl_BUSY : Fld := ⟨.jeWinCtl, 61, 1⟩
/-- ENABLED of JE_WIN_CTL (R317). -/
abbrev fJeWinCtl_ENABLED : Fld := ⟨.jeWinCtl, 60, 1⟩
/-- RESULT of JE_WIN_CTL (R317). -/
abbrev fJeWinCtl_RESULT : Fld := ⟨.jeWinCtl, 56, 4⟩
/-- BASE_GIB of JE_WIN_CTL (R317). -/
abbrev fJeWinCtl_BASE_GIB : Fld := ⟨.jeWinCtl, 32, 11⟩
/-- NEW_BASE_GIB of JE_WIN_CTL (R317). -/
abbrev fJeWinCtl_NEW_BASE_GIB : Fld := ⟨.jeWinCtl, 0, 11⟩
/-- HOST_BASE of JE_WIN_HOST (R317). -/
abbrev fJeWinHost_HOST_BASE : Fld := ⟨.jeWinHost, 36, 28⟩
/-- ACTION of JE_BIAS_CMD (R317). -/
abbrev fJeBiasCmd_ACTION : Fld := ⟨.jeBiasCmd, 62, 2⟩
/-- BUSY of JE_BIAS_CMD (R317). -/
abbrev fJeBiasCmd_BUSY : Fld := ⟨.jeBiasCmd, 61, 1⟩
/-- RESULT of JE_BIAS_CMD (R317). -/
abbrev fJeBiasCmd_RESULT : Fld := ⟨.jeBiasCmd, 56, 4⟩
/-- BIAS of JE_BIAS_CMD (R317). -/
abbrev fJeBiasCmd_BIAS : Fld := ⟨.jeBiasCmd, 54, 2⟩
/-- PAGE of JE_BIAS_CMD (R317). -/
abbrev fJeBiasCmd_PAGE : Fld := ⟨.jeBiasCmd, 0, 15⟩
/-- SHARED_NOW of JE_BIAS_STAT (R317). -/
abbrev fJeBiasStat_SHARED_NOW : Fld := ⟨.jeBiasStat, 48, 16⟩
/-- TO_SHARED of JE_BIAS_STAT (R317). -/
abbrev fJeBiasStat_TO_SHARED : Fld := ⟨.jeBiasStat, 32, 16⟩
/-- TO_DEVICE of JE_BIAS_STAT (R317). -/
abbrev fJeBiasStat_TO_DEVICE : Fld := ⟨.jeBiasStat, 16, 16⟩
/-- FLIP_ABORTS of JE_BIAS_STAT (R317). -/
abbrev fJeBiasStat_FLIP_ABORTS : Fld := ⟨.jeBiasStat, 0, 16⟩
/-- ATOMIC_MODE of JE_FAB_CTL (R317). -/
abbrev fJeFabCtl_ATOMIC_MODE : Fld := ⟨.jeFabCtl, 62, 2⟩
/-- FWD_EN of JE_FAB_CTL (R317). -/
abbrev fJeFabCtl_FWD_EN : Fld := ⟨.jeFabCtl, 61, 1⟩
/-- PRED_THRESH of JE_FAB_CTL (R317). -/
abbrev fJeFabCtl_PRED_THRESH : Fld := ⟨.jeFabCtl, 48, 3⟩
/-- SNOOP_LIMIT of JE_FAB_CTL (R317). -/
abbrev fJeFabCtl_SNOOP_LIMIT : Fld := ⟨.jeFabCtl, 32, 16⟩
/-- LINK_UP of JE_FAB_STATUS (R317). -/
abbrev fJeFabStatus_LINK_UP : Fld := ⟨.jeFabStatus, 63, 1⟩
/-- STATE of JE_FAB_STATUS (R317). -/
abbrev fJeFabStatus_STATE : Fld := ⟨.jeFabStatus, 60, 3⟩
/-- RETRAINS of JE_FAB_STATUS (R317). -/
abbrev fJeFabStatus_RETRAINS : Fld := ⟨.jeFabStatus, 32, 16⟩
/-- AGENT_RESETS of JE_FAB_STATUS (R317). -/
abbrev fJeFabStatus_AGENT_RESETS : Fld := ⟨.jeFabStatus, 16, 16⟩
/-- LOST_WRITES of JE_FAB_STATUS (R317). -/
abbrev fJeFabStatus_LOST_WRITES : Fld := ⟨.jeFabStatus, 0, 16⟩
/-- ACTION of JE_FAB_DEAD (R317). -/
abbrev fJeFabDead_ACTION : Fld := ⟨.jeFabDead, 62, 2⟩
/-- BUSY of JE_FAB_DEAD (R317). -/
abbrev fJeFabDead_BUSY : Fld := ⟨.jeFabDead, 61, 1⟩
/-- POISONED of JE_FAB_DEAD (R317). -/
abbrev fJeFabDead_POISONED : Fld := ⟨.jeFabDead, 32, 24⟩
/-- LAST_DEAD of JE_FAB_DEAD (R317). -/
abbrev fJeFabDead_LAST_DEAD : Fld := ⟨.jeFabDead, 8, 8⟩
/-- AGENT of JE_FAB_DEAD (R317). -/
abbrev fJeFabDead_AGENT : Fld := ⟨.jeFabDead, 0, 8⟩
/-- LIVE of JE_FAB_AGENTS (R317). -/
abbrev fJeFabAgents_LIVE : Fld := ⟨.jeFabAgents, 0, 64⟩
/-- DEAD of JE_FAB_DEADMASK (R317). -/
abbrev fJeFabDeadmask_DEAD : Fld := ⟨.jeFabDeadmask, 0, 64⟩
/-- RETRIES of JS_TRELLIS_STAT (R317). -/
abbrev fJsTrellisStat_RETRIES : Fld := ⟨.jsTrellisStat, 48, 16⟩
/-- BROADCASTS of JS_TRELLIS_STAT (R317). -/
abbrev fJsTrellisStat_BROADCASTS : Fld := ⟨.jsTrellisStat, 32, 16⟩
/-- STALE_ACKS of JS_TRELLIS_STAT (R317). -/
abbrev fJsTrellisStat_STALE_ACKS : Fld := ⟨.jsTrellisStat, 16, 16⟩
/-- BACK_INVALS of JS_TRELLIS_STAT (R317). -/
abbrev fJsTrellisStat_BACK_INVALS : Fld := ⟨.jsTrellisStat, 0, 16⟩
/-- PEAK of JS_TRELLIS_USE (R317). -/
abbrev fJsTrellisUse_PEAK : Fld := ⟨.jsTrellisUse, 32, 19⟩
/-- IN_USE of JS_TRELLIS_USE (R317). -/
abbrev fJsTrellisUse_IN_USE : Fld := ⟨.jsTrellisUse, 0, 19⟩
/-- AT_HOME of JS_ATOMIC_STAT (R317). -/
abbrev fJsAtomicStat_AT_HOME : Fld := ⟨.jsAtomicStat, 40, 24⟩
/-- AT_MEMORY of JS_ATOMIC_STAT (R317). -/
abbrev fJsAtomicStat_AT_MEMORY : Fld := ⟨.jsAtomicStat, 16, 24⟩
/-- STRAY_WB of JS_ATOMIC_STAT (R317). -/
abbrev fJsAtomicStat_STRAY_WB : Fld := ⟨.jsAtomicStat, 0, 16⟩
/-- SET of JS_TRELLIS_PEEK_SEL (R317). -/
abbrev fJsTrellisPeekSel_SET : Fld := ⟨.jsTrellisPeekSel, 4, 14⟩
/-- WAY of JS_TRELLIS_PEEK_SEL (R317). -/
abbrev fJsTrellisPeekSel_WAY : Fld := ⟨.jsTrellisPeekSel, 0, 4⟩
/-- ENTRY of JS_TRELLIS_PEEK (R317). -/
abbrev fJsTrellisPeek_ENTRY : Fld := ⟨.jsTrellisPeek, 0, 64⟩
/-- BASE of JE_QP_BASE (R340). -/
abbrev fJeQpBase_BASE : Fld := ⟨.jeQpBase, 19, 45⟩
/-- ACTION of JE_QP_CMD (R340). -/
abbrev fJeQpCmd_ACTION : Fld := ⟨.jeQpCmd, 62, 2⟩
/-- BUSY of JE_QP_CMD (R340). -/
abbrev fJeQpCmd_BUSY : Fld := ⟨.jeQpCmd, 61, 1⟩
/-- RESULT of JE_QP_CMD (R340). -/
abbrev fJeQpCmd_RESULT : Fld := ⟨.jeQpCmd, 56, 4⟩
/-- PORT of JE_QP_CMD (R340). -/
abbrev fJeQpCmd_PORT : Fld := ⟨.jeQpCmd, 48, 3⟩
/-- QSTATE of JE_QP_CMD (R340). -/
abbrev fJeQpCmd_QSTATE : Fld := ⟨.jeQpCmd, 46, 2⟩
/-- QP of JE_QP_CMD (R340). -/
abbrev fJeQpCmd_QP : Fld := ⟨.jeQpCmd, 0, 12⟩
/-- BASE of JE_NVME_BASE (R340). -/
abbrev fJeNvmeBase_BASE : Fld := ⟨.jeNvmeBase, 14, 50⟩
/-- ACTION of JE_NVME_CMD (R340). -/
abbrev fJeNvmeCmd_ACTION : Fld := ⟨.jeNvmeCmd, 62, 2⟩
/-- BUSY of JE_NVME_CMD (R340). -/
abbrev fJeNvmeCmd_BUSY : Fld := ⟨.jeNvmeCmd, 61, 1⟩
/-- RESULT of JE_NVME_CMD (R340). -/
abbrev fJeNvmeCmd_RESULT : Fld := ⟨.jeNvmeCmd, 56, 4⟩
/-- SSTATE of JE_NVME_CMD (R340). -/
abbrev fJeNvmeCmd_SSTATE : Fld := ⟨.jeNvmeCmd, 8, 2⟩
/-- SLOT of JE_NVME_CMD (R340). -/
abbrev fJeNvmeCmd_SLOT : Fld := ⟨.jeNvmeCmd, 0, 8⟩
/-- STRAY_REPLIES of JE_NET_STAT (R340). -/
abbrev fJeNetStat_STRAY_REPLIES : Fld := ⟨.jeNetStat, 48, 16⟩
/-- NAKS_SENT of JE_NET_STAT (R340). -/
abbrev fJeNetStat_NAKS_SENT : Fld := ⟨.jeNetStat, 32, 16⟩
/-- RETRANSMITS of JE_NET_STAT (R340). -/
abbrev fJeNetStat_RETRANSMITS : Fld := ⟨.jeNetStat, 16, 16⟩
/-- QP_ERRORS of JE_NET_STAT (R340). -/
abbrev fJeNetStat_QP_ERRORS : Fld := ⟨.jeNetStat, 0, 16⟩
/-- REQ of JE_PORT_CTL (R340). -/
abbrev fJePortCtl_REQ : Fld := ⟨.jePortCtl, 62, 2⟩
/-- STATE of JE_PORT_CTL (R340). -/
abbrev fJePortCtl_STATE : Fld := ⟨.jePortCtl, 60, 2⟩
/-- ENABLE_PENDING of JE_PORT_CTL (R340). -/
abbrev fJePortCtl_ENABLE_PENDING : Fld := ⟨.jePortCtl, 59, 1⟩
/-- LINK_UP of JE_PORT_CTL (R340). -/
abbrev fJePortCtl_LINK_UP : Fld := ⟨.jePortCtl, 58, 1⟩
/-- SPEED of JE_PORT_CTL (R340). -/
abbrev fJePortCtl_SPEED : Fld := ⟨.jePortCtl, 48, 1⟩
/-- PFC_EN of JE_PORT_CTL (R340). -/
abbrev fJePortCtl_PFC_EN : Fld := ⟨.jePortCtl, 40, 8⟩
/-- FEC_LIMIT of JE_PORT_CTL (R340). -/
abbrev fJePortCtl_FEC_LIMIT : Fld := ⟨.jePortCtl, 16, 16⟩
/-- MACSEC_REQ of JE_PORT_CTL (R340). -/
abbrev fJePortCtl_MACSEC_REQ : Fld := ⟨.jePortCtl, 0, 1⟩
/-- DOWN_EVENTS of JE_PORT_STAT (R340). -/
abbrev fJePortStat_DOWN_EVENTS : Fld := ⟨.jePortStat, 48, 16⟩
/-- FEC_UNCORR of JE_PORT_STAT (R340). -/
abbrev fJePortStat_FEC_UNCORR : Fld := ⟨.jePortStat, 32, 16⟩
/-- MACSEC_DROPS of JE_PORT_STAT (R340). -/
abbrev fJePortStat_MACSEC_DROPS : Fld := ⟨.jePortStat, 16, 16⟩
/-- QPS_HERE of JE_PORT_STAT (R340). -/
abbrev fJePortStat_QPS_HERE : Fld := ⟨.jePortStat, 0, 13⟩
/-- BASE of JP_SHARD_DIR (R340). -/
abbrev fJpShardDir_BASE : Fld := ⟨.jpShardDir, 12, 52⟩
/-- SIZE_LOG2 of JP_SHARD_DIR (R340). -/
abbrev fJpShardDir_SIZE_LOG2 : Fld := ⟨.jpShardDir, 0, 5⟩
/-- REMOTE_FAILED_CMDS of JP_NET_STAT (R340). -/
abbrev fJpNetStat_REMOTE_FAILED_CMDS : Fld := ⟨.jpNetStat, 48, 16⟩
/-- MISMATCH_BAGS of JP_NET_STAT (R340). -/
abbrev fJpNetStat_MISMATCH_BAGS : Fld := ⟨.jpNetStat, 32, 16⟩
/-- REQS_SERVED of JP_NET_STAT (R340). -/
abbrev fJpNetStat_REQS_SERVED : Fld := ⟨.jpNetStat, 16, 16⟩
/-- PUSH_REFUSED of JP_NET_STAT (R340). -/
abbrev fJpNetStat_PUSH_REFUSED : Fld := ⟨.jpNetStat, 0, 16⟩
/-- STATE of JE_START (R365). -/
abbrev fJeStart_STATE : Fld := ⟨.jeStart, 61, 3⟩
/-- IMAGE of JE_START (R365). -/
abbrev fJeStart_IMAGE : Fld := ⟨.jeStart, 60, 1⟩
/-- MODE of JE_START (R365). -/
abbrev fJeStart_MODE : Fld := ⟨.jeStart, 58, 2⟩
/-- SLOT of JE_START (R365). -/
abbrev fJeStart_SLOT : Fld := ⟨.jeStart, 57, 1⟩
/-- FALLBACK of JE_START (R365). -/
abbrev fJeStart_FALLBACK : Fld := ⟨.jeStart, 56, 1⟩
/-- FAIL_FIRST of JE_START (R365). -/
abbrev fJeStart_FAIL_FIRST : Fld := ⟨.jeStart, 48, 8⟩
/-- FAIL_SECOND of JE_START (R365). -/
abbrev fJeStart_FAIL_SECOND : Fld := ⟨.jeStart, 40, 8⟩
/-- IMAGE_VERSION of JE_START (R365). -/
abbrev fJeStart_IMAGE_VERSION : Fld := ⟨.jeStart, 0, 32⟩
/-- SLOT of JE_BOOT_SEL (R365). -/
abbrev fJeBootSel_SLOT : Fld := ⟨.jeBootSel, 3, 1⟩
/-- NEXT_MODE of JE_BOOT_SEL (R365). -/
abbrev fJeBootSel_NEXT_MODE : Fld := ⟨.jeBootSel, 0, 2⟩
/-- LOCK of JE_CFG_LOCK (R365). -/
abbrev fJeCfgLock_LOCK : Fld := ⟨.jeCfgLock, 63, 1⟩
/-- LOCKED of JE_CFG_LOCK (R365). -/
abbrev fJeCfgLock_LOCKED : Fld := ⟨.jeCfgLock, 62, 1⟩
/-- BUSY of JE_CFG_LOCK (R365). -/
abbrev fJeCfgLock_BUSY : Fld := ⟨.jeCfgLock, 61, 1⟩
/-- RESULT of JE_CFG_LOCK (R365). -/
abbrev fJeCfgLock_RESULT : Fld := ⟨.jeCfgLock, 56, 4⟩
/-- PART of JE_CFG_LOCK (R365). -/
abbrev fJeCfgLock_PART : Fld := ⟨.jeCfgLock, 52, 4⟩
/-- ACTION of JE_NVM_CTL (R365). -/
abbrev fJeNvmCtl_ACTION : Fld := ⟨.jeNvmCtl, 62, 2⟩
/-- BUSY of JE_NVM_CTL (R365). -/
abbrev fJeNvmCtl_BUSY : Fld := ⟨.jeNvmCtl, 61, 1⟩
/-- RESULT of JE_NVM_CTL (R365). -/
abbrev fJeNvmCtl_RESULT : Fld := ⟨.jeNvmCtl, 56, 4⟩
/-- WORDS of JE_NVM_CTL (R365). -/
abbrev fJeNvmCtl_WORDS : Fld := ⟨.jeNvmCtl, 40, 6⟩
/-- DENSITY_LOG2 of JE_NVM_CTL (R365). -/
abbrev fJeNvmCtl_DENSITY_LOG2 : Fld := ⟨.jeNvmCtl, 32, 8⟩
/-- ADDR of JE_NVM_CTL (R365). -/
abbrev fJeNvmCtl_ADDR : Fld := ⟨.jeNvmCtl, 0, 24⟩
/-- WORD of JE_NVM_BUF (R366). -/
abbrev fJeNvmBuf_WORD : Fld := ⟨.jeNvmBuf, 0, 64⟩
/-- DATA of JE_NVM_DATA (R366). -/
abbrev fJeNvmData_DATA : Fld := ⟨.jeNvmData, 0, 64⟩
/-- ACTION of JE_SEC_CTL (R366). -/
abbrev fJeSecCtl_ACTION : Fld := ⟨.jeSecCtl, 62, 2⟩
/-- BUSY of JE_SEC_CTL (R366). -/
abbrev fJeSecCtl_BUSY : Fld := ⟨.jeSecCtl, 61, 1⟩
/-- RESULT of JE_SEC_CTL (R366). -/
abbrev fJeSecCtl_RESULT : Fld := ⟨.jeSecCtl, 56, 4⟩
/-- PLAIN_GIB of JE_SEC_CTL (R366). -/
abbrev fJeSecCtl_PLAIN_GIB : Fld := ⟨.jeSecCtl, 32, 11⟩
/-- ZEROISED of JE_SEC_STATUS (R366). -/
abbrev fJeSecStatus_ZEROISED : Fld := ⟨.jeSecStatus, 63, 1⟩
/-- SELFTEST_FAIL of JE_SEC_STATUS (R366). -/
abbrev fJeSecStatus_SELFTEST_FAIL : Fld := ⟨.jeSecStatus, 62, 1⟩
/-- DEV_KEY of JE_SEC_STATUS (R366). -/
abbrev fJeSecStatus_DEV_KEY : Fld := ⟨.jeSecStatus, 61, 1⟩
/-- TRANSPORT_KEY of JE_SEC_STATUS (R366). -/
abbrev fJeSecStatus_TRANSPORT_KEY : Fld := ⟨.jeSecStatus, 60, 1⟩
/-- BOARD_KEY of JE_SEC_STATUS (R366). -/
abbrev fJeSecStatus_BOARD_KEY : Fld := ⟨.jeSecStatus, 58, 2⟩
/-- BYPASS of JE_SEC_STATUS (R366). -/
abbrev fJeSecStatus_BYPASS : Fld := ⟨.jeSecStatus, 57, 1⟩
/-- IMPORT_WORDS of JE_SEC_STATUS (R366). -/
abbrev fJeSecStatus_IMPORT_WORDS : Fld := ⟨.jeSecStatus, 48, 3⟩
/-- IMPORT_RESULT of JE_SEC_STATUS (R366). -/
abbrev fJeSecStatus_IMPORT_RESULT : Fld := ⟨.jeSecStatus, 40, 8⟩
/-- IMPORTS of JE_SEC_STATUS (R366). -/
abbrev fJeSecStatus_IMPORTS : Fld := ⟨.jeSecStatus, 16, 16⟩
/-- IMPORT_FAILS of JE_SEC_STATUS (R366). -/
abbrev fJeSecStatus_IMPORT_FAILS : Fld := ⟨.jeSecStatus, 0, 16⟩
/-- WORD of JE_KEY_IMPORT (R366). -/
abbrev fJeKeyImport_WORD : Fld := ⟨.jeKeyImport, 0, 64⟩
/-- OVERWINTER_HOLD of JE_PWR_CTL (R379). -/
abbrev fJePwrCtl_OVERWINTER_HOLD : Fld := ⟨.jePwrCtl, 48, 16⟩
/-- DORMANT_HOLD of JE_PWR_CTL (R379). -/
abbrev fJePwrCtl_DORMANT_HOLD : Fld := ⟨.jePwrCtl, 32, 16⟩
/-- REST_HOLD of JE_PWR_CTL (R379). -/
abbrev fJePwrCtl_REST_HOLD : Fld := ⟨.jePwrCtl, 16, 8⟩
/-- MAX_DEPTH of JE_PWR_CTL (R379). -/
abbrev fJePwrCtl_MAX_DEPTH : Fld := ⟨.jePwrCtl, 0, 2⟩
/-- STATE of JE_PWR_STATUS (R379). -/
abbrev fJePwrStatus_STATE : Fld := ⟨.jePwrStatus, 62, 2⟩
/-- LIMIT of JE_PWR_STATUS (R379). -/
abbrev fJePwrStatus_LIMIT : Fld := ⟨.jePwrStatus, 60, 2⟩
/-- LANES_GATED of JE_PWR_STATUS (R379). -/
abbrev fJePwrStatus_LANES_GATED : Fld := ⟨.jePwrStatus, 40, 8⟩
/-- WINNOW_GATED of JE_PWR_STATUS (R379). -/
abbrev fJePwrStatus_WINNOW_GATED : Fld := ⟨.jePwrStatus, 39, 1⟩
/-- WAKES of JE_PWR_STATUS (R379). -/
abbrev fJePwrStatus_WAKES : Fld := ⟨.jePwrStatus, 16, 16⟩
/-- ENTRY_ABORTS of JE_PWR_STATUS (R379). -/
abbrev fJePwrStatus_ENTRY_ABORTS : Fld := ⟨.jePwrStatus, 0, 16⟩
/-- GRANT of JE_PWR_ARB (R379). -/
abbrev fJePwrArb_GRANT : Fld := ⟨.jePwrArb, 48, 10⟩
/-- REQ_CAP of JE_PWR_ARB (R379). -/
abbrev fJePwrArb_REQ_CAP : Fld := ⟨.jePwrArb, 32, 10⟩
/-- LEVEL of JE_PWR_ARB (R379). -/
abbrev fJePwrArb_LEVEL : Fld := ⟨.jePwrArb, 28, 4⟩
/-- HYST of JE_PWR_ARB (R379). -/
abbrev fJePwrArb_HYST : Fld := ⟨.jePwrArb, 16, 6⟩
/-- UNMET of JE_PWR_ARB (R379). -/
abbrev fJePwrArb_UNMET : Fld := ⟨.jePwrArb, 0, 16⟩
/-- NJ of JE_ENERGY (R379). -/
abbrev fJeEnergy_NJ : Fld := ⟨.jeEnergy, 0, 64⟩
/-- BITS of JE_ENERGY_BITS (R379). -/
abbrev fJeEnergyBits_BITS : Fld := ⟨.jeEnergyBits, 0, 64⟩
/-- CYCLES of JE_PWR_RESID (R379). -/
abbrev fJePwrResid_CYCLES : Fld := ⟨.jePwrResid, 0, 64⟩
/-- WAKE_BOUND of JP_PWR_CTL (R379). -/
abbrev fJpPwrCtl_WAKE_BOUND : Fld := ⟨.jpPwrCtl, 0, 24⟩
/-- WORD of JE_EVENT (R402). -/
abbrev fJeEvent_WORD : Fld := ⟨.jeEvent, 0, 64⟩
/-- UNDERRUN of JE_EVENT_STATUS (R402). -/
abbrev fJeEventStatus_UNDERRUN : Fld := ⟨.jeEventStatus, 63, 1⟩
/-- MASK of JE_EVENT_STATUS (R402). -/
abbrev fJeEventStatus_MASK : Fld := ⟨.jeEventStatus, 62, 1⟩
/-- WAITING of JE_EVENT_STATUS (R402). -/
abbrev fJeEventStatus_WAITING : Fld := ⟨.jeEventStatus, 61, 1⟩
/-- LEVEL of JE_EVENT_STATUS (R402). -/
abbrev fJeEventStatus_LEVEL : Fld := ⟨.jeEventStatus, 32, 9⟩
/-- MODE of JE_FIFO_CTL (R402). -/
abbrev fJeFifoCtl_MODE : Fld := ⟨.jeFifoCtl, 63, 1⟩
/-- AUTO of JE_FIFO_CTL (R402). -/
abbrev fJeFifoCtl_AUTO : Fld := ⟨.jeFifoCtl, 62, 1⟩
/-- THRESH of JE_FIFO_CTL (R402). -/
abbrev fJeFifoCtl_THRESH : Fld := ⟨.jeFifoCtl, 32, 16⟩
/-- PARITY of JE_FIFO_STAT (R402). -/
abbrev fJeFifoStat_PARITY : Fld := ⟨.jeFifoStat, 48, 16⟩
/-- CORR of JE_FIFO_STAT (R402). -/
abbrev fJeFifoStat_CORR : Fld := ⟨.jeFifoStat, 32, 16⟩
/-- UNCORR of JE_FIFO_STAT (R402). -/
abbrev fJeFifoStat_UNCORR : Fld := ⟨.jeFifoStat, 16, 16⟩
/-- WINDOW of JE_FIFO_STAT (R402). -/
abbrev fJeFifoStat_WINDOW : Fld := ⟨.jeFifoStat, 0, 16⟩
/-- PARITY of JE_PATH_STAT (R402). -/
abbrev fJePathStat_PARITY : Fld := ⟨.jePathStat, 0, 32⟩
/-- ACTION of JE_INJECT (R402). -/
abbrev fJeInject_ACTION : Fld := ⟨.jeInject, 62, 2⟩
/-- BUSY of JE_INJECT (R402). -/
abbrev fJeInject_BUSY : Fld := ⟨.jeInject, 61, 1⟩
/-- RESULT of JE_INJECT (R402). -/
abbrev fJeInject_RESULT : Fld := ⟨.jeInject, 56, 4⟩
/-- CLASS of JE_INJECT (R402). -/
abbrev fJeInject_CLASS : Fld := ⟨.jeInject, 48, 3⟩
/-- PART of JE_INJECT (R402). -/
abbrev fJeInject_PART : Fld := ⟨.jeInject, 40, 4⟩
/-- KIND of JE_INJECT (R402). -/
abbrev fJeInject_KIND : Fld := ⟨.jeInject, 32, 2⟩
/-- ACTION of JE_UNIT_TEST (R402). -/
abbrev fJeUnitTest_ACTION : Fld := ⟨.jeUnitTest, 62, 2⟩
/-- BUSY of JE_UNIT_TEST (R402). -/
abbrev fJeUnitTest_BUSY : Fld := ⟨.jeUnitTest, 61, 1⟩
/-- RESULT of JE_UNIT_TEST (R402). -/
abbrev fJeUnitTest_RESULT : Fld := ⟨.jeUnitTest, 56, 4⟩
/-- REQ of JS_SLICE_CTL (R402). -/
abbrev fJsSliceCtl_REQ : Fld := ⟨.jsSliceCtl, 62, 2⟩
/-- STATE of JS_SLICE_CTL (R402). -/
abbrev fJsSliceCtl_STATE : Fld := ⟨.jsSliceCtl, 59, 3⟩
/-- ENABLE_PENDING of JS_SLICE_CTL (R402). -/
abbrev fJsSliceCtl_ENABLE_PENDING : Fld := ⟨.jsSliceCtl, 58, 1⟩
/-- RESULT of JS_SLICE_CTL (R402). -/
abbrev fJsSliceCtl_RESULT : Fld := ⟨.jsSliceCtl, 52, 4⟩
/-- CAUSE of JS_SLICE_CTL (R402). -/
abbrev fJsSliceCtl_CAUSE : Fld := ⟨.jsSliceCtl, 40, 8⟩
/-- ACTION of JS_LANE_CTL (R402). -/
abbrev fJsLaneCtl_ACTION : Fld := ⟨.jsLaneCtl, 62, 2⟩
/-- BUSY of JS_LANE_CTL (R402). -/
abbrev fJsLaneCtl_BUSY : Fld := ⟨.jsLaneCtl, 61, 1⟩
/-- RESULT of JS_LANE_CTL (R402). -/
abbrev fJsLaneCtl_RESULT : Fld := ⟨.jsLaneCtl, 56, 4⟩
/-- LANE of JS_LANE_CTL (R402). -/
abbrev fJsLaneCtl_LANE : Fld := ⟨.jsLaneCtl, 0, 5⟩
/-- STATES of JS_LANE_STATE (R402). -/
abbrev fJsLaneState_STATES : Fld := ⟨.jsLaneState, 0, 64⟩
/-- PENDING of JS_LANE_FAIL (R402). -/
abbrev fJsLaneFail_PENDING : Fld := ⟨.jsLaneFail, 32, 32⟩
/-- FAILED of JS_LANE_FAIL (R402). -/
abbrev fJsLaneFail_FAILED : Fld := ⟨.jsLaneFail, 0, 32⟩
/-- PARITY of JS_PATH_STAT (R402). -/
abbrev fJsPathStat_PARITY : Fld := ⟨.jsPathStat, 0, 32⟩
/-- WORD of JP_EVENT (R402). -/
abbrev fJpEvent_WORD : Fld := ⟨.jpEvent, 0, 64⟩
/-- UNDERRUN of JP_EVENT_STATUS (R402). -/
abbrev fJpEventStatus_UNDERRUN : Fld := ⟨.jpEventStatus, 63, 1⟩
/-- MASK of JP_EVENT_STATUS (R402). -/
abbrev fJpEventStatus_MASK : Fld := ⟨.jpEventStatus, 62, 1⟩
/-- WAITING of JP_EVENT_STATUS (R402). -/
abbrev fJpEventStatus_WAITING : Fld := ⟨.jpEventStatus, 61, 1⟩
/-- LEVEL of JP_EVENT_STATUS (R402). -/
abbrev fJpEventStatus_LEVEL : Fld := ⟨.jpEventStatus, 32, 7⟩
/-- UNATTRIBUTED of JP_ERR_STAT (R402). -/
abbrev fJpErrStat_UNATTRIBUTED : Fld := ⟨.jpErrStat, 48, 16⟩
/-- POISON_CMDS of JP_ERR_STAT (R402). -/
abbrev fJpErrStat_POISON_CMDS : Fld := ⟨.jpErrStat, 32, 16⟩
/-- ABORT_BAGS of JP_ERR_STAT (R402). -/
abbrev fJpErrStat_ABORT_BAGS : Fld := ⟨.jpErrStat, 16, 16⟩

/-- The aperture offset of element j of a register in range element i (R403): hub arrays use i alone. -/
def RegId.addr (r : RegId) (i : Nat) (j : Nat := 0) : Nat :=
  match r.row.space with
  | .hub => r.row.base + i * r.row.stride
  | .slice => 0x100000 + i * 0x10000 + r.row.base + j * r.row.stride
  | .part => 0x1000000 + i * 0x40000 + r.row.base + j * r.row.stride

/-- The reset value of element i of a register (R402 gives JE_FIFO_CTL[0] its own). -/
def RegId.resetVal (r : RegId) (i : Nat) : W64 :=
  match r, i with
  | .jeFifoCtl, 0 => 0x8000000000000000#64
  | r, _ => BitVec.ofNat 64 r.row.reset

/-- The fields of element i: those of JE_FIFO_CTL[0] are read-only (R402). -/
def RegId.fieldsAt (r : RegId) (i : Nat) : List FieldDef :=
  match r, i with
  | .jeFifoCtl, 0 => [⟨63, 1, .ro⟩, ⟨62, 1, .ro⟩, ⟨32, 16, .ro⟩]
  | r, _ => r.fields

/-- A register named by an offset of the aperture: its name, its range element and its array element. -/
structure RegRef where
  reg : RegId
  i : Nat
  j : Nat
deriving DecidableEq, Repr

/-- The registers of one range that cover a local offset. -/
def findLocal (sp : RegSpace) (loc : Nat) : Option (RegId × Nat) :=
  (regNames.find? fun r =>
    decide (r.row.space = sp) && decide (r.row.base ≤ loc) &&
      decide (loc < r.row.base + r.row.count * r.row.stride) && decide ((loc - r.row.base) % r.row.stride = 0)).map
    fun r => (r, (loc - r.row.base) / r.row.stride)

/-- The register at a 64-bit aligned offset of the aperture, none in a reserved range (R5, R403). -/
def regAt (off : Nat) : Option RegRef :=
  if off < 0x100000 then (findLocal .hub off).map fun x => ⟨x.1, x.2, 0⟩
  else if off < 0x180000 then
    (findLocal .slice ((off - 0x100000) % 0x10000)).map fun x => ⟨x.1, (off - 0x100000) / 0x10000, x.2⟩
  else if off < 0x1000000 then none
  else if off < 0x1400000 then
    (findLocal .part ((off - 0x1000000) % 0x40000)).map fun x => ⟨x.1, (off - 0x1000000) / 0x40000, x.2⟩
  else none

/-- The absolute offset a reference stands for. -/
def RegRef.addr (x : RegRef) : Nat := x.reg.addr x.i x.j

end Sys2Proof.Machine
end

