-- ==== Sys2Proof/Machine/State.lean ====
section
/-! DEFINITION. The state of the block: plain data. The software-visible registers stand in one register file
(`regs`), memory in one canonical list (`mem`, `poison`), every unit's queues and stores in lists of small
records, and the commands that wait in `pending`. Lists that the spec calls stores are kept sparse: only the
entries in use are listed. -/
namespace Sys2Proof.Machine

/-- What stops the block. -/
inductive Fault where
  /-- Raised by HBM_READ_RETURN and BOARD_READ_RETURN for a granule past the end of the memory (R265): no such address exists, and
  the engine never asks for it. Safe: the hardware has no such event, and the model claims nothing after it. -/
  | outsideSpace
deriving DecidableEq, Repr

/-- Why a command has no meaning. -/
inductive Refusal where
  /-- Raised by an arm of exec whose meaning is not written. Safe: nothing is claimed of it. -/
  | notModelled (mnemonic : String)
deriving DecidableEq, Repr

/-- A ring context (table after R23). -/
structure RingCtx where
  cmdBase : W64
  cplBase : W64
  sizeLog2 : Nat
  irqGroup : Nat
  priority : Nat
  runahead : Nat
  halted : Bool
  haltStatus : Byte
  produced : W32
  consumed : W32
  completed : W32
  mark : W64
deriving DecidableEq, Repr

/-- A ring is enabled from the moment its enable completes until its disable completes (R28). -/
inductive RingPhase where
  | enabled | disabling
deriving DecidableEq, Repr

/-- A live ring: its context as the engine owns it, whether the context is in the context cache (R25), the
count of the next command to take, the commands fetched and not admitted (R415), the bound of a draining
quiesce (R60), and whether its records can no longer be written (R37). -/
structure Ring where
  no : RingNo
  part : Part
  phase : RingPhase
  ctx : RingCtx
  cached : Bool
  admitAt : W32
  fetched : List Cmd
  drainTo : Option W32
  mute : Bool
  noEarly : List W32
deriving DecidableEq, Repr

/-- Progress of a command: handed to its unit, waiting for the read of a mark (R44), running in its unit, done
(its record may be written once its writes are visible). -/
inductive TPhase where
  | handed | reading | running | done
deriving DecidableEq, Repr

/-- A pinned table version (R51): the partition and table it belongs to and its descriptor. -/
structure Pin where
  part : Part
  table : Nat
  desc : BitVec 1024
deriving DecidableEq, Repr

/-- The statuses a running command has met (R388). -/
structure Marks where
  lost : Bool
  aborted : Bool
  bypassed : Bool
  remoteFailed : Bool
  first : Option Byte
  lockShort : Bool
  only : Option Byte
deriving DecidableEq, Repr

/-- A shard of a split table (R323): engine, local queue pair, table number there, first column, columns. -/
structure Shard where
  engine : Nat
  qp : Nat
  table : Nat
  start : Nat
  cols : Nat
deriving DecidableEq, Repr

/-- A command tracker (R32): from admission until the completion record is written. A command that failed admission holds one
too, without credits (`admitted = false`), until its record is written (DESIGN CHOICE, log 73). `body` is what admission read for the
command beside its tables: PARAMS (R173), the keyed layer's descriptor (R149), the descriptor of the new version (R232). -/
structure Tracker where
  id : TrackerId
  part : Part
  src : Src
  count : W32
  cmd : Cmd
  admitted : Bool
  phase : TPhase
  marks : Marks
  torn : Bool
  detail : Nat
  detailHi : Nat
  pins : List Pin
  bags : Nat
  waitCount : Nat
  serial : Nat
  background : Bool
  touched : List W32
  shards : List Shard
  total : Nat
  body : BitVec 1024
deriving DecidableEq, Repr

/-- A pending read before admission (R173, R193, R232, R324): it has returned when `ready` holds. -/
structure AdmRead where
  src : Src
  ready : Bool
  poisoned : Bool
  aborted : Bool
deriving DecidableEq, Repr

/-- One 256 B line of a command's index, offset or weight stream in a pipeline's line buffer (R77). -/
structure StreamLine where
  kind : IdxStream
  line : Nat
  data : BitVec 2048
  poison : BitVec 4
deriving DecidableEq, Repr

/-- What a batch does with its accepted entries. -/
inductive BatchKind where
  | pool | keyed | scatter | preload | apply
deriving DecidableEq, Repr

/-- A deduplication hash entry (R79): the row or logical index seen, where it is, whether its lines are held (R80) and spread
over its slice's lanes (R81), when it was last referenced, and the lines it has in their lanes. -/
structure HashEnt where
  key : Nat
  cls : Nat
  slot : Nat
  table : Nat
  held : Bool
  hot : Bool
  lastRef : Nat
  lines : List (LaneId × Nat)
deriving DecidableEq, Repr

/-- A row that a command has seen (R72, R81, R171): the entries that named it, through every window of the command, and the spread
threshold it was first seen under. -/
structure RowSeen where
  table : Nat
  key : Nat
  count : Nat
  spread : Nat
deriving DecidableEq, Repr

/-- The Sieve's counts for a command (R72). -/
structure SieveCounts where
  accepted : Nat
  padded : Nat
  outOfRange : Nat
  badWeight : Nat
  poisoned : Nat
  fetches : Nat
  refetch : Nat
  windows : Nat
deriving DecidableEq, Repr

/-- A bag batch in the Sieve. `given` holds where its entries come with it (R160, R328) and no stream is read; `sentBag` is the
first bag whose entries remote shards have not been sent (R325). `hash`, `remaps` and `winMax` are its window's: the hash entries, the
remap entries read (R76: none for a poisoned one, no slot for one out of range), and MAX as it stood when the window opened (R84). -/
structure Batch where
  t : TrackerId
  kind : BatchKind
  mode : Nat
  weighted : Bool
  idxFmt : Nat
  wFmt : Nat
  bagCount : Nat
  indexCount : Nat
  indices : W64
  offsets : W64
  weights : W64
  lines : List StreamLine
  nextBag : Nat
  ended : Option Nat
  lock : Bool
  given : Bool
  hash : List HashEnt
  remaps : List (W64 × Option (Option (Nat × Nat)))
  winMax : Option Nat
  seen : List RowSeen
  counts : SieveCounts
  statsDone : Bool
  sentBag : Nat
deriving DecidableEq, Repr

/-- A re-run of an integer bag (R102, R103). -/
inductive Rerun where
  | no | waiting | running | done
deriving DecidableEq, Repr

/-- A bag in flight (R123, R139, R140). Lists of eight are indexed by slice. `entries` come with the bag, `fwd` are the
accepted entries that remote shards also take (R325); `whole` holds once every entry of the bag is known; `shards` counts the remote
messages not answered, `pieces` holds what they brought (first column, values), and `result` the engine's own vector. -/
structure Bag where
  t : TrackerId
  bag : Nat
  first : Nat
  stop : Nat
  entries : List (W64 × W32)
  fwd : List (W64 × W32)
  whole : Bool
  reserved : Bool
  slices : Byte
  sent : List Nat
  applied : List Nat
  token : Bool
  closed : Byte
  arrived : Byte
  accepted : Nat
  sat : Bool
  esc : Nat
  poison : Bool
  acc : Option (List W32)
  rerun : Rerun
  shards : Nat
  pieces : List (Nat × List W32)
  result : Option (List W32)
  clipped : Bool
  delivered : Bool
deriving DecidableEq, Repr

/-- A bag in a pipeline: the next entry it will take, and whether its wait for units is counted (R123). -/
structure PipeItem where
  t : TrackerId
  bag : Nat
  next : Nat
  waited : Bool
deriving DecidableEq, Repr

/-- A mode-4 entry waiting for its remap read (R76). -/
structure RemapWait where
  t : TrackerId
  bag : Nat
  i : Nat
  x : W64
  w : W32
deriving DecidableEq, Repr

/-- An entry whose row waits for a reply to its fault (R278): it has left its pipeline. `slot` is its class and slot in mode 4. -/
structure RowWait where
  t : TrackerId
  bag : Nat
  i : Nat
  x : W64
  w : W32
  slot : Option (Nat × Nat)
deriving DecidableEq, Repr

/-- A segment of a row as a lane reads it: the physical address of its bytes, their number, the granules from there on that
hold something a lane reads (R91), the columns it holds, the class, and, in hashing mode 3, the physical address of the remainder
table's row 0 and the remainder row (R75). -/
structure Seg where
  addr : Nat
  bytes : Nat
  need : BitVec 4
  col : Nat
  cols : Nat
  table : Nat
  cls : Nat
  mul : Option (Nat × Nat)
deriving DecidableEq, Repr

/-- A piece of a remainder row that a lane reads beside a quotient segment (R75): the copy of its line in the channel that the
reference belongs to (R92), with the granules needed and the columns it holds. -/
structure RemSeg where
  addr : Nat
  bytes : Nat
  need : BitVec 4
  col : Nat
  cols : Nat
deriving DecidableEq, Repr

/-- A row reference or fan-out entry on its way to a lane (R79, R118): its segment, in hashing mode 3 the remainder's pieces, the
lines (physical address and granules) it has still to be given, and whether something it was given was poisoned (R141). `old` as in
a WrReq. -/
structure LaneWork where
  lane : LaneId
  fan : Bool
  t : TrackerId
  bag : Nat
  seg : Seg
  w : W32
  rem : List RemSeg
  todo : List (Nat × BitVec 4)
  bad : Bool
  old : Bool
deriving DecidableEq, Repr

/-- A valid way of a Cloche (R125, R128): its line, the valid bits of its four granules, its lock's owner,
whether it is held, its age. -/
structure ClocheEnt where
  lane : LaneId
  set : Nat
  way : Nat
  line : Nat
  valid : BitVec 4
  lock : Option (Part × Nat)
  held : Bool
  lastRef : Nat
  age : Nat
deriving DecidableEq, Repr

/-- The pseudo-LRU tree of a set that is not zero (R128). -/
structure ClocheTree where
  lane : LaneId
  set : Nat
  bits : BitVec 7
deriving DecidableEq, Repr

/-- A line in a lane's eviction buffer (R130), oldest first in the list. -/
structure EvbEnt where
  lane : LaneId
  line : Nat
  valid : BitVec 4
  held : Bool
deriving DecidableEq, Repr

/-- A miss tracker of a lane (R126): a line with outstanding reads, by its name and its physical address, and the work that waits
for it. -/
structure Miss where
  lane : LaneId
  line : Nat
  base : Nat
  granules : BitVec 4
  work : List LaneWork
deriving DecidableEq, Repr

/-- Accumulator rows of a bag in a lane (R119, R122): columns from `col` on. A spilled row stands in the slice
reduction buffer. -/
structure Acc where
  t : TrackerId
  bag : Nat
  lane : LaneId
  col : Nat
  vals : List W32
  spilled : Bool
deriving DecidableEq, Repr

/-- A partial vector or bag-closed marker on its way to the hub (R16, R139). -/
structure Partial where
  n : SliceId
  t : TrackerId
  bag : Nat
  vals : Option (List W32)
deriving DecidableEq, Repr

/-- Delivery of a command's vectors (R142 to R148, R334): kind, address or descriptor, stride, the tile to send
next. -/
structure Delivery where
  t : TrackerId
  kind : Nat
  dest : W64
  stride : Nat
  checksum : Bool
  tileRow : Nat
  tileCol : Nat
  tilesDone : Bool
deriving DecidableEq, Repr

/-- A tile sent and not yet acknowledged (R144). -/
structure TileSent where
  q : Fin 64
  t : TrackerId
  rowBlock : Nat
  last : Bool
deriving DecidableEq, Repr

/-- A format block in the lanes' format store (R96), most recently used first in the list. -/
structure FmtBlock where
  part : Part
  base : Nat
  version : W32
  bytes : List Byte
deriving DecidableEq, Repr

/-- A format block load in flight: the commands that wait for it, each with the descriptor of the table that needs it. -/
structure FmtLoad where
  part : Part
  base : Nat
  version : W32
  dim : Nat
  srcs : List (Src × BitVec 1024)
deriving DecidableEq, Repr

/-- A row move of the engine (R113, R229): logical index, classes and slots, whether it evens the load, and the version it moves
in. -/
structure RowMove where
  id : Fin 64
  part : Part
  table : Nat
  x : Nat
  fromCls : Nat
  fromSlot : Nat
  toCls : Nat
  toSlot : Nat
  load : Bool
  desc : BitVec 1024
deriving DecidableEq, Repr

/-- A vacated slot that waits for the commands admitted before its remap entry changed (R76). -/
structure SlotBack where
  part : Part
  table : Nat
  cls : Nat
  slot : Nat
  before : Nat
  desc : BitVec 1024
deriving DecidableEq, Repr

/-- A popularity fetch-and-add in flight (R111), with the version the sampled entry was read in. -/
structure PopAdd where
  part : Part
  table : Nat
  x : Nat
  cls : Nat
  slot : Nat
  desc : BitVec 1024
deriving DecidableEq, Repr

/-- An epoch scan that has not finished (R112): the partition, table and logical index it stands at, the load moves it has made in
that table (R229), and whether the next epoch has fallen due. -/
structure Scan where
  p : Nat
  table : Nat
  x : Nat
  loads : Nat
  due : Bool
deriving DecidableEq, Repr

/-- States of a sub-key bank (R161). -/
inductive BankState where
  | empty | filling | resident | stale | poisoned
deriving DecidableEq, Repr

/-- A sub-key bank: the layer it holds, its keys (BF16, as the image lists them) and the barred keys (R155). -/
structure Bank where
  state : BankState
  part : Part
  layer : Nat
  base : W64
  keys : List (BitVec 16)
  barred : List Nat
  poison : Bool
deriving DecidableEq, Repr

/-- Stage of the head a keyed command is scoring (R153 to R157); of an aborted command only the padding of its selection arrays is left
(R160, R393). -/
inductive HeadStage where
  | idle | query | setA | setB | pairs | weights | aborted
deriving DecidableEq, Repr

/-- A query that has been read ahead of its head's turn (R164): its values, whether it came poisoned, and whether it is rejected
(R154). -/
structure Query where
  q : List (BitVec 16)
  poison : Bool
  reject : Bool
deriving DecidableEq, Repr

/-- A KEYED_LOOKUP in the Winnow's queue (R162, R164): the head it is at with the stage of its scoring, the selections of its
current bag (R160), whether that bag is poisoned, and the queries read ahead. -/
structure KeyedCmd where
  t : TrackerId
  layer : Nat
  desc : BitVec 512
  k : Nat
  query : W64
  count : Nat
  bank : Option (Fin 2)
  waited : Bool
  head : Nat
  stage : HeadStage
  q : List (BitVec 16)
  topA : List (Nat × W32)
  topB : List (Nat × W32)
  pairs : List (Nat × W32)
  sel : List (W32 × W32)
  bad : Bool
  ahead : List Query
deriving DecidableEq, Repr

/-- A fill of a sub-key bank that is wanted or running (R161, R203): the STREAM command it belongs to or, for a demand fill,
the KEYED_LOOKUP that asked for it. `target` is the bank it goes to, `bank` the same once it has started. -/
structure Fill where
  part : Part
  layer : Nat
  base : W64
  bytes : Nat
  na : Nat
  dk : Nat
  t : TrackerId
  demand : Bool
  target : Fin 2
  bank : Option (Fin 2)
deriving DecidableEq, Repr

/-- A row reference of a scatter entry (R171): bag, table (0 own, 1 partner), class, slot, weight, whether the row
is hot for the Rake, whether its contributions are formed, and the segments of the row that have theirs. -/
structure ScatRef where
  bag : Nat
  table : Nat
  cls : Nat
  slot : Nat
  w : W32
  hot : Bool
  formed : Bool
  segs : List Nat
deriving DecidableEq, Repr

/-- A hot row that the hub has decided on (R177): the merge-store entries it may take, 0 where it is not merged there. -/
structure HubRow where
  table : Nat
  cls : Nat
  slot : Nat
  entries : Nat
deriving DecidableEq, Repr

/-- A partial sum of a scale gradient in a slice's place (R181): the table it belongs to (0 own, 1 partner) and its column. -/
structure ScalePlace where
  n : SliceId
  table : Nat
  col : Nat
  sum : W32
deriving DecidableEq, Repr

/-- A SCATTER_ADD in the Rake (R170 to R190). `gradsDone` are the bags whose gradients have been used, `grads` the gradients of bags
that wait with some of their contributions; once `tokensSent`, end tokens have gone to the slices of `toMask`, `ended` are those they
have reached and `reported` those that have reported; `places` are its scale-gradient places, `hub` its hot rows. -/
structure Scatter where
  t : TrackerId
  merge : Bool
  refs : List ScatRef
  gradsDone : List Nat
  grads : List (Nat × List (W32 × Bool))
  tokensSent : Bool
  toMask : Byte
  ended : Byte
  reported : Byte
  landedAny : Bool
  places : List ScalePlace
  hub : List HubRow
deriving DecidableEq, Repr

/-- A contribution granule (R172): the physical address of its first value's stored bytes, that value's column and its place in
its segment, the table and class it targets, the handle of the range it went through, and up to 16 FP32 values; none for a column whose
gradient is poisoned (R386). `old` as in a WrReq. -/
structure Contrib where
  t : TrackerId
  addr : Nat
  col : Nat
  sub : Nat
  table : Nat
  cls : Nat
  obj : W32
  vals : List (Option W32)
  old : Bool
deriving DecidableEq, Repr

/-- A message from the hub to a slice, with its sequence number (R174). -/
structure RakeMsg where
  seq : BitVec 12
  items : List Contrib
deriving DecidableEq, Repr

/-- The hub-to-slice link of the Rake (R174): contributions that wait for the replay store, the replay store, the messages in
flight, the acknowledgements and resend requests on their way back, the next sequence numbers, and the consecutive poisoned arrivals of
each message. -/
structure RakeLink where
  todo : List (List Contrib)
  replay : List RakeMsg
  flight : List RakeMsg
  acks : List (BitVec 12)
  resend : List (BitVec 12)
  nextSeq : BitVec 12
  expect : BitVec 12
  fails : List (BitVec 12 × Nat)
deriving DecidableEq, Repr

/-- A pre-aggregation entry (R175), or an entry of the hub merge store (R177). -/
structure PreAgg where
  n : SliceId
  c : Contrib
  lastMerge : Nat
deriving DecidableEq, Repr

/-- An operation of the memory-side adders (R178). A scatter flush takes the entries of one stored granule together (R176). -/
inductive AddKind where
  | scatter (cs : List Contrib)
  | int64 (v : W64)
  | satI32 (v : W32)
  | fp32 (v : W32)
  | applyState (row : Nat) (m : W32)
  | applyParam (col : Nat) (cls : Nat) (f : W32) (g : List W32)
deriving DecidableEq, Repr

/-- An adder operation waiting for its granule read: the command concerned (none for popularity counts), the
partition charged, the physical address of the first byte, whether its wait for a buffer entry is counted (R245), and whether
it was issued before a flip of its page began (R297). `old` as in a WrReq. -/
structure AddOp where
  n : SliceId
  part : Part
  owner : Option TrackerId
  obj : W32
  addr : Nat
  kind : AddKind
  waited : Bool
  issued : Bool
  old : Bool
deriving DecidableEq, Repr

/-- A listed row of a SCATTER_APPLY in flight (R183): its list position, logical index, class and slot, its gradient once it
has returned, and the new state value once that has. -/
structure ApplyRow where
  i : Nat
  x : Nat
  cls : Nat
  slot : Nat
  grad : Option (List W32)
  state : Option W32
deriving DecidableEq, Repr

/-- A SCATTER_APPLY (R182 to R185) with its PARAMS. -/
structure Apply where
  t : TrackerId
  rule : Nat
  lr : W32
  eps : W32
  beta : W32
  wd : W32
  rows : List ApplyRow
  landedAny : Bool
deriving DecidableEq, Repr

/-- A slot of a stream's ring (R197): its number within the command, the granules filled so far in stream
order with their poison, and whether a squash marked it (R211). -/
structure SSlot where
  k : Nat
  data : List (BitVec 512)
  poison : List Bool
  squashed : Bool
  blocks : List Nat
deriving DecidableEq, Repr

/-- A cached range (R273), most recently used first in the list. -/
structure RangeEnt where
  part : Part
  index : Nat
  gen : BitVec 16
  start : Nat
  len : Nat
  phys : Nat
  win : Bool
  read : Bool
  write : Bool
  add : Bool
  obj : W32
deriving DecidableEq, Repr

/-- A receiver of a stream command (R193, R199 to R206). `slots` is its position; `atBound` holds while its catch-up reader
stands at a slot boundary that has not been checked (R206); `range` is the range that reader has entered (R273). `buf` holds what
was read for this receiver alone: the slot that its catch-up reader is at, or the line `again` of its slot, read a second time after
a parity error (R200). `longWait` holds once its wait for a token has raised its event (R202). -/
structure Receiver where
  kind : Nat
  addr : W64
  buffer : Fin 64
  layer : Nat
  slots : Nat
  claim : Option (Fin 2)
  waited : Bool
  dropped : Bool
  reader : Bool
  atBound : Bool
  readySent : Bool
  poison : Bool
  done : Bool
  range : Option RangeEnt
  longWait : Bool
  again : Option Nat
  buf : List (BitVec 512 × Bool)
deriving DecidableEq, Repr

/-- A stream context (R195): the stream, its ring geometry and the unit count. -/
structure StreamCtx where
  part : Part
  id : Nat
  slots : Nat
  slotLog2 : Nat
  units : Nat
deriving DecidableEq, Repr

/-- A STREAM command, admitted or started as early work (R208), or a demand fill, which runs as one for the KEYED_LOOKUP that asked
for it (R203). `t` is none until admission; `range` is the range its reads have entered (R273); `paused` early work goes on once
admitted alone (R210); `touched` are the objects that early work has read (R237). -/
structure StreamCmd where
  t : Option TrackerId
  ring : Option (RingNo × W32)
  part : Part
  id : Nat
  desc : BitVec 1024
  rcvs : List Receiver
  slots : List SSlot
  freed : Nat
  refetched : Nat
  passedSoft : Bool
  poison : Bool
  range : Option RangeEnt
  paused : Bool
  touched : List W32
deriving DecidableEq, Repr

/-- A registered object as the engine keeps it (R215 to R217); `due` while its record in memory is behind. -/
structure Obj where
  part : Part
  handle : W32
  base : W64
  len : Nat
  tier : Nat
  range : Nat
  moving : Bool
  torn : Bool
  cursor : Nat
  target : W64
  retiring : Bool
  stopped : Bool
  due : Bool
deriving DecidableEq, Repr

/-- An OBJECT_MOVE in progress (R223): the chunk being copied and whether its writes are issued, the physical base the object had, and
for the final invalidation (R272) the new generation and what the range mapped before. -/
structure Move where
  t : TrackerId
  part : Part
  handle : W32
  chunk : Nat
  issued : Bool
  finishing : Bool
  old : Nat
  gen : BitVec 16
  spans : List (Nat × Nat)
deriving DecidableEq, Repr

/-- The current version of a table as the Graft holds it (R51, R230). -/
structure Current where
  part : Part
  table : Nat
  desc : BitVec 1024
deriving DecidableEq, Repr

/-- A VERSION_SWITCH whose replaced version drains (R52). -/
structure Switch where
  t : TrackerId
  part : Part
  table : Nat
  before : Nat
  old : BitVec 1024
deriving DecidableEq, Repr

/-- A write on its way to its point of visibility: the physical address, its bytes, poison, whether it is a
whole-line zero write (R248) or one that invalidates the Cloche (R131), whether its wait is counted (R245), and, for a
completion record, its ring and count and the interrupt groups it raises once it is visible (R289): records of one ring and granule
join one write (R38). `obj` is the handle of the range it went through; `issued` marks one that was issued before a flip of its page began (R297); `plain`
one that goes through no range (an agent's, or to a structure of the hub's own): losing it tears no object; `atHome`
one that its line's home has served already (R304); `old` one that was translated before an invalidation of every range that is not
acknowledged (R284). -/
structure WrReq where
  addr : Nat
  bytes : List Byte
  poison : Bool
  part : Part
  owner : Option TrackerId
  obj : W32
  zeroLine : Bool
  invalidate : Bool
  waited : Bool
  record : Option (RingNo × W32)
  irq : List Nat
  issued : Bool
  plain : Bool
  atHome : Bool
  old : Bool
deriving DecidableEq, Repr

/-- State of a write-combining buffer entry (R245 to R247). -/
inductive WcbState where
  | open_ | merging | writing
deriving DecidableEq, Repr

/-- A write-combining buffer entry. One with `zmask` set is a whole-line zero write: it stands for the granules of the
line that the mask names (R248). -/
structure WcbEnt where
  n : SliceId
  granule : Nat
  mask : BitVec 64
  data : BitVec 512
  poison : Bool
  part : Option Part
  bg : Bool
  state : WcbState
  eligible : Bool
  zmask : BitVec 4
deriving DecidableEq, Repr

/-- A row that is being remapped, in its row hold buffer (R256): its slice and remap entry, its bank, and its granules with their
poison. -/
structure RowHold where
  n : SliceId
  i : Nat
  ch : Nat
  pc : Bool
  bank : Nat
  grans : List (Nat × BitVec 512 × Bool)
deriving DecidableEq, Repr

/-- A row in a channel's corrected-error tracker (R256). -/
structure ErrRow where
  n : SliceId
  ch : Nat
  pc : Bool
  bank : Nat
  row : Nat
  count : Nat
deriving DecidableEq, Repr

/-- A walk in flight (R275): the partition and address that missed, the addresses that joined it, the key lines still to search
and, once found, the entry to read, and whether a newer key array has been published since it started (R271). -/
structure Walk where
  k : Fin 16
  part : Part
  addr : Nat
  joins : List Nat
  keys : Nat
  lo : Nat
  hi : Nat
  entry : Option Nat
  old : Bool
deriving DecidableEq, Repr

/-- Kinds of translation fault (R277). -/
inductive FaultKind where
  | noRange | permission | tier | malformed | walkPoison
deriving DecidableEq, Repr

/-- A walk that ended in a fault: the addresses whose requests have still to take the answer. -/
structure WalkFault where
  part : Part
  addrs : List Nat
  kind : FaultKind
  range : W32
  gen : BitVec 16
deriving DecidableEq, Repr

/-- Who waits in the parking store (R278): a command, the fetch of a ring's command, a ring's completion
record, a command in hand at admission, or the engine on its own account (R110 to R113, R216). -/
inductive Parker where
  | cmd (t : TrackerId)
  | fetch (r : RingNo)
  | record (src : Src)
  | admission (src : Src)
  | walk (k : Fin 16)
  | engine
deriving DecidableEq, Repr

/-- A parked request and the record it lies in; none while it waits for a place (R279). -/
structure Parked where
  who : Parker
  addr : Nat
  access : Nat
  kind : FaultKind
  range : W32
  gen : BitVec 16
  rec_ : Option (BitVec 16)
deriving DecidableEq, Repr

/-- A fault record (R279): its four words, whether it is open, and the words read. -/
structure FaultRec where
  id : BitVec 16
  count : Nat
  access : Nat
  kind : FaultKind
  opcode : Byte
  addr : Nat
  direct : Bool
  ring : RingNo
  tag : W32
  range : W32
  gen : BitVec 16
  isOpen : Bool
  wordsRead : Nat
deriving DecidableEq, Repr

/-- An event record (R389). -/
structure EventRec where
  code : Byte
  part : Part
  count : Nat
  a : W32
  b : W64
deriving DecidableEq, Repr

/-- An event FIFO with its read position, the last word read and the events that wait for space (R390). -/
structure EventFifo where
  recs : List EventRec
  pos : Nat
  last : W64
  waiting : List EventRec
deriving DecidableEq, Repr

/-- An interrupt group's counters since its last message (R39). -/
structure IrqGroup where
  count : Nat
  elapsed : Bool
  firstElapsed : Bool
deriving DecidableEq, Repr

/-- An invalidation in progress (R282, R284): the range, none for every range; the physical bytes that the range mapped as the
engine cached it. -/
structure Inval where
  range : Option Nat
  old : List (Nat × Nat)
  gen : BitVec 16
  irq : Bool
deriving DecidableEq, Repr

/-- What each partition has for itself (R56), beyond its registers. `initReq` holds while a full initialisation that REQ = 01
started runs (R418); `unmapped` are the ranges whose last invalidation did not find its GEN, which act as not VALID (R282). -/
structure PartSt where
  initing : Bool
  initReq : Bool
  turn : Nat
  lastRing : List Nat
  ringAct : Option (RingNo × Bool)
  dcmdWords : List W64
  dcmdWait : List W64
  dcmd : List Cmd
  dcmdNext : W32
  dcmdDone : W32
  dcpl : List (BitVec 128)
  dcplPos : Nat
  dcplLast : W64
  faults : List FaultRec
  faultNext : BitVec 16
  faultLast : W64
  parked : List Parked
  events : EventFifo
  irq : List IrqGroup
  inval : Option Inval
  unmapped : List Nat
  retire : Option W32
  objAct : Option (Nat × W32)
deriving DecidableEq, Repr

/-- Page bias (R295) of a page that is not DEVICE. -/
inductive Bias where
  | device | shared | toShared | toDevice
deriving DecidableEq, Repr

/-- State of a Trellis line (R300). -/
inductive TrState where
  | s | f | x
deriving DecidableEq, Repr

/-- A Trellis entry in use (R300): its set and way, the window line it tracks (HBM offset / 256), its holders in
pointer order, the forwarder, the overflow flag, the agents whose grants' 64 fabric cycles run, oldest first (R309), and the
order of the last grant. -/
structure TrEnt where
  n : SliceId
  set : Nat
  way : Nat
  line : Nat
  state : TrState
  ovf : Bool
  holders : List Byte
  fwd : Option Byte
  hold : List Byte
  grant : Nat
deriving DecidableEq, Repr

/-- Requests the home serves (R304). -/
inductive ReqKind where
  | rdShared | rdOwn | upgrade | rdCur
  | write (mask : BitVec 256) (data : List Byte)
  | atomic (off : Nat) (op : AtomicOp)
  | jRead (who : Parker)
  | jWrite (w : WrReq)
  | jAdd (op : AddOp)
  | recall
deriving DecidableEq, Repr

/-- Snoops a transaction sends (R287). -/
inductive Snoop where
  | share | inv | cur | fwd | upd
deriving DecidableEq, Repr

/-- A transaction open on a line (R304): the line's number in HBM, the requester (none for the engine's own requests and
recalls), its request, the snoops unanswered, whether one of them was answered ABSENT, and whether an atomic executes at
the home and waits for its updates (R306). `evict` marks a victim's recall (R310), `owner` is the line's owner when the
transaction opened, `old` the value an atomic has read; `lost` the recall of an entry that failed its check, whose owner is not known
(R300). -/
structure Txn where
  line : Nat
  agent : Option Byte
  req : ReqKind
  snoops : List (Byte × Snoop)
  absent : Bool
  atHome : Bool
  evict : Bool
  owner : Option Byte
  old : W64
  lost : Bool
deriving DecidableEq, Repr

/-- A request that waits for a flip, for an open line, for an entry or for a grant hold (R296, R308, R309): the line's
number in HBM. -/
structure CoreReq where
  agent : Option Byte
  line : Nat
  req : ReqKind
deriving DecidableEq, Repr

/-- A board-tier write or write-back waiting for the home agent's acknowledgement (R292). -/
structure BoardWr where
  addr : Nat
  bytes : List Byte
  poison : Bool
  part : Part
  owner : Option TrackerId
  obj : W32
  isAdd : Bool
  record : Option (RingNo × W32)
  irq : List Nat
  sent : Bool
  plain : Bool
  old : Bool
deriving DecidableEq, Repr

/-- State of a queue pair (R322). -/
inductive QState where
  | reset | rts | error
deriving DecidableEq, Repr

/-- A remote request (R325, R333): its number, type, command, first bag, the entries of each of its bags, the bags of its
reply that have arrived, the columns it asks for, and whether it is part of a bag that spans messages. -/
structure RemoteReq where
  reqId : W32
  typ : Nat
  t : TrackerId
  bagFirst : Nat
  counts : List Nat
  got : Nat
  col : Nat
  cols : Nat
  split : Bool
deriving DecidableEq, Repr

/-- A request message that waits for its pair (R322). -/
structure NetOut where
  qp : BitVec 12
  req : RemoteReq
  msg : List Byte
deriving DecidableEq, Repr

/-- A queue pair that has been enabled (R320 to R322): its context as read then, its state and current port, the next packet number
to send, the oldest one not acknowledged and the next one expected, its retries since the last acknowledgement, its send rate, and
its request messages that are not answered. -/
structure QP where
  i : BitVec 12
  ctx : BitVec 1024
  state : QState
  port : Fin 8
  sendPsn : BitVec 24
  ackPsn : BitVec 24
  recvPsn : BitVec 24
  retries : Nat
  rate : Nat
  out : List RemoteReq
deriving DecidableEq, Repr

/-- A request message this engine serves (R328): its pair, request number, type and tracker once admitted. -/
structure Served where
  qp : BitVec 12
  reqId : W32
  typ : Nat
  msg : List Byte
  t : Option TrackerId
deriving DecidableEq, Repr

/-- A Read command outstanding on a namespace slot (R336): its key, the STREAM it reads for, the staging bytes it names (free
values until the target writes them), which of them the stream wants, and their physical address; `rcv` names the receiver it reads
for alone, none for the slot in fill. `old` as in a WrReq. -/
structure NvmeRead where
  key : W32
  t : TrackerId
  skip : Nat
  want : Nat
  data : List Byte
  addr : Nat
  old : Bool
  rcv : Option (Fin 64)
deriving DecidableEq, Repr

/-- A namespace slot that has been connected or is connecting (R335, R336): its record, its SSTATE, the connect step it waits
for (0 none), and its outstanding reads. -/
structure NvmeSlot where
  slot : Byte
  rec_ : BitVec 512
  state : Nat
  stage : Nat
  reads : List NvmeRead
  nextKey : W32
deriving DecidableEq, Repr

/-- A MACsec association's key (R337, R361). -/
structure Sak where
  port : Fin 8
  rx : Bool
  sc : Nat
  an : Nat
  xpn : Bool
  key : List Byte
  active : Bool
deriving DecidableEq, Repr

/-- The security module (R357 to R364), and the NVM loader's buffer and action in progress with the address it was given. -/
structure Sec where
  kDev : Option (List Byte)
  kImg : Option (List Byte)
  transport : Option (List Byte)
  board : Option (List Byte)
  saks : List Sak
  words : List W64
  rec_ : Option (List W64)
  waiting : List W64
  pending : Nat
  pufDraw : Nat
  pageBuf : List W64
  nvmAction : Nat
  nvmAddr : Nat
deriving DecidableEq, Repr

/-- The sleep machine (R369 to R374): the entry in progress (0 none, 1 Dormant, 2 Overwinter) and its step, a wake in progress, a
trigger that met the entry, held accesses. -/
structure Power where
  entry : Nat
  step : Nat
  waking : Bool
  trigger : Bool
  held : List Instr
  replaying : Bool
deriving DecidableEq, Repr

/-- Fabric agent (R312 to R314), with the actions of JE_WIN_CTL (1 enable, 2 disable, 3 move; the new base) and
JE_BIAS_CMD in progress. -/
structure Fab where
  retrain : Bool
  hostReset : Bool
  linkUp : Bool
  counting : Bool
  scanning : Bool
  deadScan : Option Byte
  lost : Nat
  cause : Nat
  winAction : Nat
  winBase : Nat
  biasPage : Option (BitVec 15)
deriving DecidableEq, Repr

/-- Start and reset (R352 to R354): the always-on supply is good, je_rst_n is high, je_recover_n as sampled, the accepted image's
bytes, whether this start's flash is absent, and the mapped set under which the contents of HBM were written (R244). -/
structure Boot where
  porGood : Bool
  running : Bool
  recover : Bool
  image : List Byte
  noFlash : Bool
  loadEnded : Bool
  lastMapped : List Nat
deriving DecidableEq, Repr

/-- What the block sends over its boundary, newest last. `boardRead` is an RD_CUR of the board tier at a host physical address, `boardOwn`
an RD_OWN of its add unit, `boardWrite` a WR_LINE or WR_PART, or the add unit's WB_DIRTY where `back` holds (R265, R287, R292);
a snoop carries data where it is SNP_UPD. -/
inductive Out where
  | irq (vector : Nat)
  | readData (v : W64) (poison : Bool)
  | tile (q : Fin 64) (rowBlock colBlock elem : Nat) (poisonRows : List Bool) (checksum : Bool) (rows : List (List Nat))
  | feedResync
  | statResync
  | statWrite (b : Fin 64) (k : Fin 2) (off : Nat) (data : List (BitVec 512))
  | statReady (b : Fin 64) (k : Fin 2) (poison : Bool)
  | snoop (a : Byte) (line : Nat) (k : Snoop) (data : Option (List Byte))
  | grant (a : Byte) (line : Nat) (data : Option (List Byte)) (poison : Bool)
  | ack (a : Byte) (line : Nat)
  | old (a : Byte) (v : W64)
  | retry (a : Byte) (line : Nat) (backoff : Nat)
  | fabError (a : Byte) (x : Nat)
  | boardRead (addr : Nat)
  | boardOwn (addr : Nat)
  | boardWrite (addr : Nat) (data : List Byte) (poison : Bool) (back : Bool)
  | packet (qp : BitVec 12) (port : Fin 8) (udpSource : BitVec 16) (msg : List Byte)
  | cnp (qp : BitVec 12)
  | rocAck (qp : BitVec 12) (psn : BitVec 24)
  | nak (qp : BitVec 12) (code : Nat)
  | retransmit (qp : BitVec 12) (psn : BitVec 24)
  | nvmeConnect (slot : Byte) (qp : BitVec 12) (queue size : Nat) (host subsys : List Byte)
  | nvmeIdentify (slot : Byte) (qp : BitVec 12) (nsid : W32)
  | nvmeRead (slot : Byte) (key : W32) (off len : Nat)
  | nvmeKeepAlive (slot : Byte)
  | nvmeDisconnect (slot : Byte)
  | ppmReq (units : Nat)
  | pwrState (st : Nat)
  | fabReady (high : Bool)
  | heartbeat (n : SliceId)
  | testGrant (n : SliceId)
  | dbAccepted (ring : RingNo)
deriving DecidableEq, Repr

/-- The block's state. -/
structure State where
  pending : List Instr
  regs : List (RegRef × W64)
  mem : List Host.Cell
  poison : List Nat
  flash : List (Nat × Byte)
  out : List Out
  freeCtr : Nat
  clock : Nat
  admitted : Nat
  drainFrom : Vector Nat 8
  -- rings, admission, trackers
  rings : List Ring
  ctxLru : List RingNo
  ctxReads : List RingNo
  heldMarks : List (RingNo × W64)
  dbBuf : List (RingNo × W32)
  dbWait : List (RingNo × W32)
  trackers : List Tracker
  admReads : List AdmRead
  admNoted : List (Src × Nat)
  rotor : Nat
  parts : Vector PartSt 16
  engineEvents : EventFifo
  -- Sieve, lanes, reduction, delivery
  batches : List Batch
  bags : List Bag
  pipes : Vector (List PipeItem) 32
  remapWaits : List RemapWait
  rowWaits : List RowWait
  laneQ : List LaneWork
  cloche : List ClocheEnt
  trees : List ClocheTree
  evb : List EvbEnt
  misses : List Miss
  accs : List Acc
  partials : List Partial
  deliveries : List Delivery
  tiles : List TileSent
  credits : Vector Nat 64
  fmt : List FmtBlock
  fmtLoads : List FmtLoad
  sr : List (Nat × W64)
  moves : List RowMove
  slotBacks : List SlotBack
  popAdds : List PopAdd
  scan : Option Scan
  lineReads : Vector Nat 8
  -- Winnow
  keyed : List KeyedCmd
  banks : Vector Bank 2
  lastBound : Fin 2
  queryTurn : Part
  fills : List Fill
  winnowInit : Bool
  -- Rake
  scatters : List Scatter
  links : Vector RakeLink 8
  preagg : List PreAgg
  mergeStore : List PreAgg
  endTokens : List (SliceId × TrackerId)
  addQ : List AddOp
  applies : List Apply
  -- streams
  sctx : List StreamCtx
  streams : List StreamCmd
  tokens : List (Fin 64 × Fin 2)
  lastReady : Vector (Option (Fin 2)) 64
  -- objects and versions
  objs : List Obj
  objMoves : List Move
  graft : List Current
  switches : List Switch
  -- memory side
  wrQ : List WrReq
  wcb : List WcbEnt
  errRows : List ErrRow
  badReads : List Nat
  rowHolds : List RowHold
  bwRest : Vector (Nat × Nat) 16
  remapCopy : List (Nat × W64)
  -- translation
  rcache : List RangeEnt
  rpast : List RangeEnt
  walks : List Walk
  walkFaults : List WalkFault
  xnoted : List (Part × Parker × Nat)
  engAborted : List (Part × Nat)
  -- coherence and fabric
  pages : List (BitVec 15 × Bias)
  flipsAll : Bool
  trellis : List TrEnt
  txns : List Txn
  coreReqs : List CoreReq
  jreads : List (Nat × Parker)
  retryCount : List (Nat × Nat)
  predictor : List (Nat × Nat)
  fab : Fab
  boardWrs : List BoardWr
  -- network
  qps : List QP
  qpAct : Option (BitVec 12)
  portTrain : List (Fin 8)
  netQ : List NetOut
  served : List Served
  nvme : List NvmeSlot
  -- security, start, power, RAS
  sec : Sec
  boot : Boot
  power : Power
  overLast : Bool
  missedBeats : Vector Nat 8
  laneFrom : List (Nat × Bool)
  armed : Option (Nat × Part × Nat)
deriving DecidableEq, Repr

/-- A partition right after reset. -/
def PartSt.reset : PartSt :=
  { initing := false, initReq := false, turn := 0, lastRing := [0, 0, 0, 0], ringAct := none, dcmdWords := [], dcmdWait := [], dcmd := [],
    dcmdNext := 0, dcmdDone := 0, dcpl := [], dcplPos := 0, dcplLast := 0, faults := [], faultNext := 0,
    faultLast := 0, parked := [], events := ⟨[], 0, 0, []⟩, irq := List.replicate 64 ⟨0, true, false⟩,
    inval := none, unmapped := [], retire := none, objAct := none }

/-- An empty sub-key bank. -/
def Bank.reset : Bank := ⟨.empty, 0, 0, 0, [], [], false⟩

/-- A Rake link with nothing outstanding. -/
def RakeLink.reset : RakeLink := ⟨[], [], [], [], [], 0, 0, []⟩

/-- The block in reset at power-on (R352, R357): every register at the reset value of its field map (an empty register file reads
so), no unit holding anything, the block waiting for je_por_n and then je_rst_n. -/
def State.reset : State :=
  { pending := [], regs := [], mem := [], poison := [], flash := [], out := [], freeCtr := 0, clock := 0,
    admitted := 0, drainFrom := Vector.replicate 8 0,
    rings := [], ctxLru := [], ctxReads := [], heldMarks := [], dbBuf := [], dbWait := [], trackers := [],
    admReads := [], admNoted := [], rotor := 0, parts := Vector.replicate 16 PartSt.reset, engineEvents := ⟨[], 0, 0, []⟩,
    batches := [], bags := [], pipes := Vector.replicate 32 [], remapWaits := [], rowWaits := [], laneQ := [], cloche := [],
    trees := [], evb := [], misses := [], accs := [], partials := [], deliveries := [], tiles := [],
    credits := Vector.replicate 64 0, fmt := [], fmtLoads := [], sr := [], moves := [], slotBacks := [],
    popAdds := [], scan := none, lineReads := Vector.replicate 8 0, keyed := [], banks := Vector.replicate 2 Bank.reset, lastBound := 1, queryTurn := 15, fills := [],
    winnowInit := false, scatters := [], links := Vector.replicate 8 RakeLink.reset, preagg := [],
    mergeStore := [], endTokens := [], addQ := [], applies := [], sctx := [], streams := [], tokens := [],
    lastReady := Vector.replicate 64 none, objs := [], objMoves := [], graft := [], switches := [], wrQ := [],
    wcb := [], errRows := [], badReads := [], rowHolds := [],
    bwRest := Vector.replicate 16 (0, 0), remapCopy := [], rcache := [], rpast := [], walks := [], walkFaults := [], xnoted := [], engAborted := [], pages := [],
    flipsAll := false, trellis := [], txns := [], coreReqs := [], jreads := [], retryCount := [], predictor := [],
    fab := ⟨false, false, false, false, false, none, 0, 0, 0, 0, none⟩, boardWrs := [], qps := [], qpAct := none, portTrain := [], netQ := [], served := [], nvme := [],
    sec := ⟨none, none, none, none, [], [], none, [], 0, 0, [], 0, 0⟩,
    boot := ⟨false, false, false, [], false, false, []⟩, power := ⟨0, 0, false, false, [], false⟩, overLast := false,
    missedBeats := Vector.replicate 8 0, laneFrom := [], armed := none }

end Sys2Proof.Machine
end

