-- ==== Sys2Proof/Machine/Ops.lean ====
section
/-! DEFINITION. The named operations over the state that every family shares: the register file, memory with the
write-combining buffer laid over it, the interleave hash, outgoing signals, events and interrupt messages,
trackers and partitions. -/
namespace Sys2Proof.Machine

/-! Lists -/

/-- The value a list of pairs gives a key, or the default. -/
def getAssoc {κ α : Type} [DecidableEq κ] : List (κ × α) → κ → α → α
  | [], _, d => d
  | (k', v) :: r, k, d => if k' = k then v else getAssoc r k d

/-- Sets the value of a key. -/
def putAssoc {κ α : Type} [DecidableEq κ] : List (κ × α) → κ → α → List (κ × α)
  | [], k, v => [(k, v)]
  | (k', w) :: r, k, v => if k' = k then (k, v) :: r else (k', w) :: putAssoc r k v

/-- What a byte of memory that nothing has written reads as (DESIGN CHOICE, unsafe: R244 leaves it open). -/
def unwritten : Byte := 0#8

/-- The byte a canonical memory holds at an address. -/
def memGet : List Host.Cell → Nat → Byte
  | [], _ => unwritten
  | (k, v) :: r, a => if k = a then v else if a < k then unwritten else memGet r a

/-- Writes one byte and keeps the canonical form: writing what an unlisted address reads as removes the entry. -/
def memPut : List Host.Cell → Nat → Byte → List Host.Cell
  | [], a, v => if v = unwritten then [] else [(a, v)]
  | (k, w) :: r, a, v =>
    if a < k then (if v = unwritten then (k, w) :: r else (a, v) :: (k, w) :: r)
    else if a = k then (if v = unwritten then r else (a, v) :: r)
    else (k, w) :: memPut r a v

/-- Writes bytes at rising addresses. -/
def memPutList (m : List Host.Cell) (a : Nat) : List Byte → List Host.Cell
  | [] => m
  | b :: r => memPutList (memPut m a b) (a + 1) r

/-- The canonical form of a memory: addresses strictly rise and no entry equals the unlisted value. -/
abbrev Memory.wf (m : List Host.Cell) : Prop :=
  m.Pairwise (fun x y => x.1 < y.1) ∧ ∀ c ∈ m, c.2 ≠ unwritten

/-- Adds a number to a sorted list without repeats. -/
def insNat (a : Nat) : List Nat → List Nat
  | [] => [a]
  | k :: r => if a < k then a :: k :: r else if a = k then k :: r else k :: insNat a r

/-- Removes a number from a sorted list without repeats. -/
def delNat (a : Nat) (l : List Nat) : List Nat := l.filter (fun k => decide (k ≠ a))

/-- The least number not in a list, tried from `k` on. -/
def firstFree (used : List Nat) : Nat → Nat → Nat
  | 0, k => k
  | fuel + 1, k => if k ∈ used then firstFree used fuel (k + 1) else k

/-- Replaces each element that `p` picks. -/
def updWhere {α : Type} (p : α → Bool) (f : α → α) (l : List α) : List α :=
  l.map fun x => if p x then f x else x

/-- Replaces the first element that `p` picks. -/
def updFirst {α : Type} (p : α → Bool) (f : α → α) : List α → List α
  | [] => []
  | x :: r => if p x then f x :: r else x :: updFirst p f r

/-- Removes the first element that `p` picks. -/
def eraseFirst {α : Type} (p : α → Bool) : List α → List α
  | [] => []
  | x :: r => if p x then r else x :: eraseFirst p r

/-- The elements of a list that `f` gives a value, the values summed. -/
def sumBy {α : Type} (f : α → Nat) (l : List α) : Nat := (l.map f).foldl (· + ·) 0

/-- Sets element k of a list. -/
def setAt {α : Type} (l : List α) (k : Nat) (v : α) : List α := l.set k v

/-! Numbers and bytes -/

/-- Bytes as a little-endian number. -/
def leNat : List Byte → Nat
  | [] => 0
  | b :: r => b.toNat + 256 * leNat r

/-- The n low bytes of a number, little-endian. -/
def leBytes : Nat → Nat → List Byte
  | 0, _ => []
  | n + 1, v => BitVec.ofNat 8 v :: leBytes n (v / 256)

/-- Bits [lo + len - 1 : lo] of a number. -/
def natBits (v lo len : Nat) : Nat := (v >>> lo) % 2 ^ len

/-- A word with bits [lo + len - 1 : lo] replaced. -/
def putBits (w : W64) (lo len v : Nat) : W64 :=
  BitVec.ofNat 64 ((w.toNat / 2 ^ (lo + len) * 2 ^ len + v % 2 ^ len) * 2 ^ lo + w.toNat % 2 ^ lo)

/-- The 32-bit difference by which counts are compared (R23): whether a lies behind b. -/
def behind (a b : W32) : Bool := decide (2 ^ 31 ≤ (a - b).toNat)

/-- mix of R73. -/
def mixHash (x s : W64) : W64 :=
  let z := x ^^^ s
  let z := (z ^^^ (z >>> 31)) * 0x9E3779B97F4A7C15#64
  let z := (z ^^^ (z >>> 29)) * 0xD6E8FEB86659FD93#64
  z ^^^ (z >>> 32)

/-- reduce of R73: the upper 64 bits of the 128-bit product. -/
def reduceHash (z : W64) (n : Nat) : Nat := (z.toNat * n) >>> 64

/-- One step of a stochastic-rounding generator (R106). -/
def xorshift (x : W64) : W64 :=
  let x := x ^^^ (x <<< 13)
  let x := x ^^^ (x >>> 7)
  x ^^^ (x <<< 17)

/-! Registers -/

/-- A register as the register file holds it. -/
def State.reg (s : State) (r : RegId) (i : Nat := 0) (j : Nat := 0) : W64 :=
  getAssoc s.regs ⟨r, i, j⟩ (r.resetVal i)

/-- Sets a register. -/
def State.setReg (s : State) (r : RegId) (v : W64) (i : Nat := 0) (j : Nat := 0) : State :=
  { s with regs := putAssoc s.regs ⟨r, i, j⟩ v }

/-- A field of a register. -/
def State.fld (s : State) (f : Fld) (i : Nat := 0) (j : Nat := 0) : Nat := bitsOf (s.reg f.reg i j) f.lo f.len

/-- Sets a field of a register. -/
def State.setFld (s : State) (f : Fld) (v : Nat) (i : Nat := 0) (j : Nat := 0) : State :=
  s.setReg f.reg (putBits (s.reg f.reg i j) f.lo f.len v) i j

/-- Adds n to a counter field, which stops at its maximum. -/
def State.bump (s : State) (f : Fld) (i : Nat := 0) (n : Nat := 1) : State :=
  s.setFld f (satInc (2 ^ f.len - 1) (s.fld f i) n) i

/-- Raises a peak field to a value it has reached. -/
def State.peak (s : State) (f : Fld) (v : Nat) (i : Nat := 0) : State :=
  if s.fld f i < v then s.setFld f v i else s

/-- At READY (R353). -/
def State.ready (s : State) : Bool := decide (s.fld fJeStart_STATE = 2)

/-- After configuration lock (R356). -/
def State.locked (s : State) : Bool := decide (s.fld fJeCfgLock_LOCKED = 1)

/-- Partition p is ENABLED (R60). -/
def State.partEnabled (s : State) (p : Nat) : Bool := decide (s.fld fJpStatus_STATE p = 1)

/-- Partition p is DISABLED. -/
def State.partDisabled (s : State) (p : Nat) : Bool := decide (s.fld fJpStatus_STATE p = 0)

/-- Partition p is QUIESCING. -/
def State.partQuiescing (s : State) (p : Nat) : Bool := decide (s.fld fJpStatus_STATE p = 2)

/-- What a partition has beyond its registers. -/
def State.part (s : State) (p : Part) : PartSt := s.parts[p]

/-- Changes a partition's own state. -/
def State.modPart (s : State) (p : Part) (f : PartSt → PartSt) : State :=
  { s with parts := s.parts.set p (f s.parts[p]) }

/-- The partition of a number, modulo 16. -/
def partOf (n : Nat) : Part := Fin.ofNat 16 n

/-! Signals, events, interrupts -/

/-- Sends something over the boundary. -/
def State.emit (s : State) (o : Out) : State := { s with out := s.out ++ [o] }

/-- Draws a free value: the counter that names it advances. -/
def State.draw (s : State) : W64 × State := (Config.freeWord s.freeCtr, { s with freeCtr := s.freeCtr + 1 })

/-- Draws n free values, as a list. -/
def State.drawN (s : State) : Nat → List W64 × State
  | 0 => ([], s)
  | n + 1 => let (l, s1) := (s.draw.2).drawN n; (s.draw.1 :: l, s1)

/-- Puts an event into a FIFO of the given depth; a full FIFO gathers repeats (R390). The flag says whether a
record was written. -/
def EventFifo.put (q : EventFifo) (depth : Nat) (r : EventRec) : EventFifo × Bool :=
  if q.recs.length < depth then ({ q with recs := q.recs ++ [r] }, true)
  else if q.waiting.any (fun w => decide (w.code = r.code)) then
    ({ q with waiting := updFirst (fun w => decide (w.code = r.code)) (fun w => { w with count := satInc 0xFFFF w.count 1 }) q.waiting },
      false)
  else ({ q with waiting := q.waiting ++ [r] }, false)

/-- Vector 65 * p + 64, sent while its MASK is 0 (R39, R390). -/
def State.partVector (s : State) (p : Part) : State :=
  if s.fld fJpEventStatus_MASK p = 0 then s.emit (.irq (65 * p.val + 64)) else s

/-- An event in the engine's FIFO (R389, R390). Before READY no vector is sent (R353). -/
def State.eventE (s : State) (code a b : Nat) (part : Nat := 0) : State :=
  let (q, new) := s.engineEvents.put 256 ⟨BitVec.ofNat 8 code, partOf part, 1, BitVec.ofNat 32 a, BitVec.ofNat 64 b⟩
  let s1 := { s with engineEvents := q }
  if new && s1.ready && decide (s1.fld fJeEventStatus_MASK = 0) then s1.emit (.irq 1040) else s1

/-- An event in a partition's FIFO (R389, R390). -/
def State.eventP (s : State) (p : Part) (code a b : Nat) : State :=
  let (q, new) := (s.part p).events.put 64 ⟨BitVec.ofNat 8 code, p, 1, BitVec.ofNat 32 a, BitVec.ofNat 64 b⟩
  let s1 := s.modPart p fun ps => { ps with events := q }
  if new then s1.partVector p else s1

/-- Whether the message conditions of R39 hold for group g of partition p. -/
def State.irqDue (s : State) (p : Part) (g : Nat) : Bool :=
  let ig := (s.part p).irq.getD g ⟨0, true, false⟩
  let hold := s.fld fJpIrqMod_HOLDOFF p
  decide (natBits (s.fld fJpIrqPend_PEND p) g 1 = 1) && decide (natBits (s.fld fJpIrqMask_MASK p) g 1 = 0) &&
    decide (0 < ig.count) &&
    (decide (hold = 0) || (ig.elapsed && (decide (max 1 (s.fld fJpIrqMod_COUNT p) ≤ ig.count) || ig.firstElapsed)))

/-- Sends vector 65 * p + g when it is due, and restarts the group's counters. -/
def State.irqTry (s : State) (p : Part) (g : Nat) : State :=
  if s.irqDue p g then
    (s.modPart p fun ps => { ps with irq := ps.irq.set g ⟨0, false, false⟩ }).emit (.irq (65 * p.val + g))
  else s

/-- Tries every group of a partition, as an unmasking write does. -/
def State.irqTryAll (s : State) (p : Part) : State := (List.range 64).foldl (fun s g => s.irqTry p g) s

/-- An IRQ completion of group g (R39): sets the PEND bit and sends the message where due. -/
def State.irqRaise (s : State) (p : Part) (g : Nat) : State :=
  let s1 := s.setFld fJpIrqPend_PEND (s.fld fJpIrqPend_PEND p ||| 2 ^ g) p
  (s1.modPart p fun ps =>
    { ps with irq := ps.irq.set g { ps.irq.getD g ⟨0, true, false⟩ with count := (ps.irq.getD g ⟨0, true, false⟩).count + 1 } }).irqTry p g

/-! Physical addresses -/

/-- ENGINE of a physical address (R264). -/
def physEngine (a : Nat) : Nat := natBits a 56 8
/-- SPACE of a physical address. -/
def physSpace (a : Nat) : Nat := natBits a 52 4
/-- OFFSET of a physical address. -/
def physOff (a : Nat) : Nat := a % 2 ^ 52

/-- The physical address of an HBM offset of this engine. -/
def State.hbmPhys (s : State) (off : Nat) : Nat := s.fld fJePhysMap_ENGINE * 2 ^ 56 + off

/-- The physical address of a board-tier offset of this engine. -/
def State.boardPhys (s : State) (off : Nat) : Nat := s.fld fJePhysMap_ENGINE * 2 ^ 56 + 2 ^ 52 + off

/-- The address lies in this engine's HBM. -/
def State.isHbm (s : State) (a : Nat) : Bool :=
  decide (physSpace a = 0) && decide (physEngine a = s.fld fJePhysMap_ENGINE)

/-- The address lies in this engine's board tier. -/
def State.isBoard (s : State) (a : Nat) : Bool :=
  decide (physSpace a = 1) && decide (physEngine a = s.fld fJePhysMap_ENGINE)

/-- A global channel is in the mapped set (R259). -/
def State.chMapped (s : State) (g : Nat) : Bool :=
  (s.reg .jeChMapped (g / 64)).getLsbD (g % 64)

/-- The mapped channels in ascending order (R241). -/
def State.mappedList (s : State) : List Nat := (List.range 256).filter s.chMapped

/-- State of a slice (R398): 0 IN_SERVICE, 1 DRAINING, 2 OUT, 3 RETURNING, 4 FAILED. -/
def State.sliceState (s : State) (n : Nat) : Nat := s.fld fJsSliceCtl_STATE n

/-- The slice serves requests: IN_SERVICE, or DRAINING for commands admitted before the request (R399). -/
def State.sliceServes (s : State) (n : SliceId) (serial : Option Nat) : Bool :=
  match s.sliceState n, serial with
  | 0, _ => true
  | 1, some k => decide (k < s.drainFrom[n])
  | 1, none => true
  | _, _ => false

/-- The slices that are IN_SERVICE. -/
def State.slicesIn (s : State) : List SliceId := (List.finRange 8).filter fun n => decide (s.sliceState n = 0)

/-- State of a lane (R394): 0 IN_SERVICE, 1 DRAINING, 2 OFFLINE, 3 SELF_TEST. -/
def State.laneState (s : State) (lane : Nat) : Nat := natBits (s.fld fJsLaneState_STATES (lane / 32)) (2 * (lane % 32)) 2

/-- Where line L of HBM lies (R241): global channel and line index m within the channel; none with no channel. -/
def hashLine (mapped : List Nat) (L : Nat) : Option (Nat × Nat) :=
  let n := mapped.length
  if n = 0 then none
  else
    let m := L / n
    let j := L % n
    let h := (m ^^^ (m >>> 8) ^^^ (m >>> 16) ^^^ (m >>> 24)) % 256
    (mapped[(j + h) % n]?).map fun g => (g, m)

/-- Column, bank and row of line index m within its channel (R241). -/
def linePlace (m : Nat) : Nat × Nat × Nat := (m % 8, ((m >>> 3) ^^^ (m >>> 9)) % 64, m >>> 9)

/-- The channel that holds an HBM address. -/
def State.channelOf (s : State) (a : Nat) : Option (Nat × Nat) := hashLine s.mappedList (physOff a / 256)

/-- The slice that holds an HBM address, slice 0 with no channel mapped. -/
def State.sliceOf (s : State) (a : Nat) : SliceId :=
  match s.channelOf a with
  | some (g, _) => Fin.ofNat 8 (g / 32)
  | none => 0

/-- The lane that serves a channel: its own, or the partner while its own is out (R14, R137). -/
def State.laneFor (s : State) (g : Nat) : LaneId :=
  if s.laneState g = 0 then Fin.ofNat 256 g else Fin.ofNat 256 (g ^^^ 1)

/-- The channel a line's references belong to: its own in HBM (R117), or, for a board-tier line, the one the procedure of R118
names among the channels in service. -/
def State.refChannel (s : State) (a : Nat) : Option Nat :=
  if s.isHbm a then (s.channelOf a).map (·.1)
  else (hashLine (s.mappedList.filter fun g => decide (s.sliceState (g / 32) = 0)) (physOff a / 256)).map (·.1)

/-- The lane that pools a line (R117, R118). -/
def State.laneOfLine (s : State) (a : Nat) : LaneId :=
  match s.refChannel a with
  | some g => s.laneFor g
  | none => 0

/-- The address lies in the coherent window (R293). -/
def State.inWindow (s : State) (a : Nat) : Bool :=
  s.isHbm a && decide (s.fld fJeWinCtl_ENABLED = 1) &&
    decide (s.fld fJeWinCtl_BASE_GIB * 2 ^ 30 ≤ physOff a) &&
    decide (physOff a < s.fld fJeWinCtl_BASE_GIB * 2 ^ 30 + 64 * 2 ^ 30)

/-- The board-tier offset lies in the encrypted range (R360): BOARD_KEY 2 leaves the whole tier in plaintext. -/
def State.encrypted (s : State) (off : Nat) : Bool :=
  decide (s.fld fJeSecStatus_BOARD_KEY ≠ 2) && decide (s.fld fJeSecCtl_PLAIN_GIB * 2 ^ 30 ≤ off)

/-- The bias of a window page (R295): DEVICE unless listed. -/
def State.biasOf (s : State) (page : Nat) : Bias := getAssoc s.pages (BitVec.ofNat 15 page) .device

/-- The page of the window that holds an HBM address. -/
def State.pageOf (s : State) (a : Nat) : Nat := (physOff a - s.fld fJeWinCtl_BASE_GIB * 2 ^ 30) / 2 ^ 21

/-! Memory -/

/-- A write-combining entry covers a granule: its own, or one of a zero line (R248). -/
def WcbEnt.covers (e : WcbEnt) (g : Nat) : Bool :=
  if e.zmask = 0 then decide (e.granule = g)
  else decide (e.granule / 4 = g / 4) && e.zmask.getLsbD (g % 4)

/-- Bytes of the write-combining entries for a byte address, newest entry last to count. -/
def wcbByte (l : List WcbEnt) (a : Nat) (old : Byte) : Byte :=
  l.foldl (fun b e =>
    if e.covers (a / 64) ∧ e.mask.getLsbD (a % 64) then BitVec.ofNat 8 (e.data.toNat >>> (8 * (a % 64))) else b) old

/-- Board-tier writes that the home agent has not acknowledged stand before the board's own bytes (R288: the fabric
orders them before a later read of the engine). -/
def boardByte (l : List BoardWr) (a : Nat) (old : Byte) : Byte :=
  l.foldl (fun b w => if w.addr ≤ a ∧ a < w.addr + w.bytes.length then w.bytes.getD (a - w.addr) 0 else b) old

/-- A granule of a row that is being remapped, as its row hold buffer holds it (R256). -/
def State.heldGran (s : State) (g : Nat) : Option (BitVec 512 × Bool) :=
  s.rowHolds.findSome? fun h => (h.grans.find? fun x => decide (x.1 = g)).map (·.2)

/-- A byte of the memory itself: of the row hold buffer while its row is being remapped. -/
def State.storedByte (s : State) (a : Nat) : Byte :=
  match s.heldGran (a / 64) with
  | some d => BitVec.ofNat 8 (d.1.toNat >>> (8 * (a % 64)))
  | none => memGet s.mem a

/-- The memory's own answer to a read of a granule is poisoned: it is stored so, or its check found it uncorrectable (R243). -/
def State.storedPoison (s : State) (g : Nat) : Bool :=
  match s.heldGran g with
  | some d => d.2
  | none => decide (g ∈ s.poison) || decide (g ∈ s.badReads)

/-- A write that waits, and that the engine made on its own account or a line's home has taken: the hub and the homes read through
their own writes (DESIGN CHOICE, log 49). -/
def WrReq.shown (w : WrReq) : Bool := decide (w.owner = none) && decide (w.record = none)

/-- Bytes of the engine's own writes that wait for the buffer. -/
def waitByte (l : List WrReq) (a : Nat) (old : Byte) : Byte :=
  l.foldl (fun b w => if w.shown ∧ w.addr ≤ a ∧ a < w.addr + w.bytes.length then w.bytes.getD (a - w.addr) 0 else b) old

/-- One byte as every unit reads it: the write-combining buffer is looked up first (R246). -/
def State.rdByte (s : State) (a : Nat) : Byte :=
  boardByte s.boardWrs a (waitByte s.wrQ a (wcbByte s.wcb a (s.storedByte a)))

/-- n bytes from an address. -/
def State.rdBytes (s : State) (a n : Nat) : List Byte := (List.range n).map fun k => s.rdByte (a + k)

/-- n bytes as a little-endian number. -/
def State.rdNat (s : State) (a n : Nat) : Nat := leNat (s.rdBytes a n)

/-- Whether a granule read arrives poisoned (R243, R246, R260, R291, R363). -/
def State.granPoison (s : State) (g : Nat) (serial : Option Nat := none) : Bool :=
  let ents := s.wcb.filter fun e => e.covers g
  let base := ents.foldl (fun b e => if e.mask = BitVec.allOnes 64 then e.poison else b || e.poison) (s.storedPoison g)
  let mine := s.wrQ.filter fun w => w.shown && decide (w.addr / 64 = g)
  let held := mine.foldl (fun b w => if w.bytes.length = 64 then w.poison else b || w.poison) base
  if s.isHbm (g * 64) then
    held || (match s.channelOf (g * 64) with
      | some (c, _) => !(s.sliceServes (Fin.ofNat 8 (c / 32)) serial)
      | none => true)
  else if s.isBoard (g * 64) then
    held || s.boardWrs.any (fun w => w.poison && decide (w.addr / 64 = g)) || decide (s.fld fJeFabStatus_STATE = 2) ||
      (decide (s.fld fJeSecStatus_ZEROISED = 1) && s.encrypted (physOff (g * 64)))
  else held

/-- Whether any granule of n bytes from an address reads poisoned. -/
def State.rdPoison (s : State) (a n : Nat) (serial : Option Nat := none) : Bool :=
  (List.range ((a + n + 63) / 64 - a / 64)).any fun k => s.granPoison (a / 64 + k) serial

/-- Splits bytes at granule boundaries: pieces that each lie in one granule. -/
def splitGran (a : Nat) (bs : List Byte) : Nat → List (Nat × List Byte)
  | 0 => []
  | fuel + 1 =>
    match bs with
    | [] => []
    | _ =>
      let n := 64 - a % 64
      (a, bs.take n) :: splitGran (a + n) (bs.drop n) fuel

/-! Trackers -/

/-- The tracker of a number, while it is held. -/
def State.trk (s : State) (t : TrackerId) : Option Tracker := s.trackers.find? fun x => decide (x.id = t)

/-- Changes a tracker. -/
def State.modTrk (s : State) (t : TrackerId) (f : Tracker → Tracker) : State :=
  { s with trackers := updFirst (fun x => decide (x.id = t)) f s.trackers }

/-- Changes the statuses a command has met. -/
def State.mark (s : State) (t : TrackerId) (f : Marks → Marks) : State :=
  s.modTrk t fun x => { x with marks := f x.marks }

/-- Opcode of a command (header, byte 0). -/
def Tracker.op (x : Tracker) : Nat := bitsOf x.cmd 0 8

/-- TAG of a command. -/
def Tracker.tag (x : Tracker) : Nat := bitsOf x.cmd 32 32

/-- The serial number of a command's admission. -/
def State.serialOf (s : State) (t : TrackerId) : Option Nat := (s.trk t).map (·.serial)

/-- A tracker in the phase that its row starts from, whose opcode is the row's. -/
def State.startable (s : State) (t : TrackerId) (op : Nat) : Option Tracker :=
  match s.trk t with
  | some x => if x.admitted ∧ x.phase = .handed ∧ x.op = op then some x else none
  | none => none

/-- A command that goes on to run. -/
def State.run (s : State) (t : TrackerId) : State := s.modTrk t fun x => { x with phase := .running }

/-- A command whose units have finished: its record may be written once its writes are visible. -/
def State.finish (s : State) (t : TrackerId) : State := s.modTrk t fun x => { x with phase := .done }

/-- The live ring of a number. -/
def State.ring (s : State) (r : RingNo) : Option Ring := s.rings.find? fun x => decide (x.no = r)

/-- Changes a live ring. -/
def State.modRing (s : State) (r : RingNo) (f : Ring → Ring) : State :=
  { s with rings := updFirst (fun x => decide (x.no = r)) f s.rings }

/-- Ring number r lies in partition p's range (R57). -/
def State.ringIn (s : State) (p : Nat) (r : Nat) : Bool :=
  decide (32 * s.fld fJpRingRange_FIRST_GROUP p ≤ r) &&
    decide (r < 32 * s.fld fJpRingRange_FIRST_GROUP p + 32 * s.fld fJpRingRange_GROUPS p)

/-- The partition whose range holds a ring. -/
def State.ringOwner (s : State) (r : Nat) : Option Part := (List.finRange 16).find? fun p => s.ringIn p r

/-- Commands of a partition admitted and not completed (R60). -/
def State.inFlight (s : State) (p : Part) : Nat :=
  (s.trackers.filter fun x => decide (x.part = p) && x.admitted).length

/-! Pseudo-channels (R240, R256) -/

/-- The pseudo-channel of an HBM granule: global channel and half; none with no channel mapped. -/
def State.pcOf (s : State) (g : Nat) : Option (Nat × Bool) := (s.channelOf (g * 64)).map fun y => (y.1, decide (2 ≤ g % 4))

/-- The access meets a bank one of whose other rows is being remapped: it waits (R256). -/
def State.bankWaits (s : State) (g : Nat) : Bool :=
  !s.rowHolds.isEmpty && (s.heldGran g).isNone &&
    (match s.channelOf (g * 64) with
      | some (c, m) => s.rowHolds.any fun h =>
          decide (32 * h.n.val + h.ch = c) && decide (h.pc = decide (2 ≤ g % 4)) && decide (h.bank = (linePlace m).2.1)
      | none => false)

/-- Traffic of a command, or of the engine's own, is background traffic (R221). -/
def State.bgOf (s : State) (owner : Option TrackerId) : Bool :=
  match owner with
  | some t => (s.trk t).any fun x => x.background || decide (x.op = 0x41)
  | none => true

/-- Units charged to a partition for granules moved (R253), in half units: two for each burst, and one for each activate they
caused, of which the scheduler alone knows the number: a free value (log 19). -/
def State.bwCharge (s : State) (p : Part) (bg : Bool) (granules : Nat) : State :=
  let v := s.draw
  let n := 2 * granules + v.1.toNat % (granules + 1)
  let old := s.bwRest[p]
  let sum := (if bg then old.2 else old.1) + n
  let rest := if bg then (old.1, sum % 2 ^ 17) else (sum % 2 ^ 17, old.2)
  ({ v.2 with bwRest := v.2.bwRest.set p rest } : State).bump (if bg then fJpBwStat_BG_UNITS else fJpBwStat_FG_UNITS) p.val (sum / 2 ^ 17)

/-- The charge for a read of n bytes at a physical address; reads of the board tier cost no unit of a channel. -/
def State.bwRead (s : State) (p : Part) (owner : Option TrackerId) (a n : Nat) : State :=
  if s.isHbm a then s.bwCharge p (s.bgOf owner) ((a + n + 63) / 64 - a / 64) else s

end Sys2Proof.Machine
end

