-- ==== Sys2Proof/Machine/Float.lean ====
section
/-! DEFINITION. Floating-point arithmetic on bit patterns: exact values, one rounding to nearest with ties to even
(R99), the formats of R89, canonical NaNs (R412), conversion to integers (R413) and stochastic rounding (R105). -/
namespace Sys2Proof.Machine

/-- The value of a floating-point word: m * 2^e, an infinity or NaN. -/
inductive FV where
  | nan
  | inf (neg : Bool)
  | fin (neg : Bool) (m : Nat) (e : Int)
deriving DecidableEq, Repr

/-- A floating-point format: precision with the hidden bit, exponent bias and width, the magnitude bits of the
largest finite value, the canonical NaN, whether infinities exist (R89, R412). -/
structure FFmt where
  p : Nat
  bias : Nat
  eb : Nat
  maxFin : Nat
  nanBits : Nat
  hasInf : Bool
deriving DecidableEq, Repr

/-- FP32. -/
def fmt32 : FFmt := ⟨24, 127, 8, 0x7F7FFFFF, 0x7FC00000, true⟩
/-- BF16. -/
def fmtBf16 : FFmt := ⟨8, 127, 8, 0x7F7F, 0x7FC0, true⟩
/-- FP16. -/
def fmtFp16 : FFmt := ⟨11, 15, 5, 0x7BFF, 0x7E00, true⟩
/-- OCP E4M3: no infinity, NaN at all ones. -/
def fmtE4m3 : FFmt := ⟨4, 7, 4, 0x7E, 0x7F, false⟩
/-- OCP E5M2. -/
def fmtE5m2 : FFmt := ⟨3, 15, 5, 0x7B, 0x7E, true⟩

/-- Bits of a format. -/
def FFmt.width (f : FFmt) : Nat := f.p + f.eb
/-- The exponent of the last place of a subnormal. -/
def FFmt.emin (f : FFmt) : Int := 2 - (f.bias : Int) - (f.p : Int)

/-- The value of a word of a format. -/
def FFmt.decode (f : FFmt) (bits : Nat) : FV :=
  let neg := decide (natBits bits (f.width - 1) 1 = 1)
  let mag := natBits bits 0 (f.width - 1)
  let ex := mag / 2 ^ (f.p - 1)
  let man := mag % 2 ^ (f.p - 1)
  if f.maxFin < mag then (if f.hasInf ∧ mag = f.maxFin + 1 then .inf neg else .nan)
  else if ex = 0 then .fin neg man f.emin
  else .fin neg (man + 2 ^ (f.p - 1)) (f.emin + (ex : Int) - 1)

/-- m / 2^k to nearest, ties to even. -/
def rneShift (m k : Nat) : Nat :=
  let q := m >>> k
  let r := m % 2 ^ k
  if 2 * r < 2 ^ k then q else if 2 ^ k < 2 * r then q + 1 else if k = 0 then q else q + q % 2

/-- The exponent of the last place that a value m * 2^e is rounded to. -/
def FFmt.lastPlace (f : FFmt) (m : Nat) (e : Int) : Int := max f.emin (e + ((m.log2 + 1 : Nat) : Int) - (f.p : Int))

/-- Magnitude bits of a rounded significand at last place t; a carry out of the significand moves the exponent. -/
def FFmt.pack (f : FFmt) (m : Nat) (t : Int) : Nat :=
  if m < 2 ^ (f.p - 1) then m else (t - f.emin).toNat * 2 ^ (f.p - 1) + m

/-- Magnitude bits of m * 2^e rounded to nearest even, without a limit. -/
def FFmt.roundMag (f : FFmt) (m : Nat) (e : Int) : Nat :=
  if m = 0 then 0
  else
    let t := f.lastPlace m e
    let m' := if e < t then rneShift m (t - e).toNat else m <<< (e - t).toNat
    f.pack m' t

/-- The sign bit of a format. -/
def FFmt.sign (f : FFmt) (neg : Bool) : Nat := if neg then 2 ^ (f.width - 1) else 0

/-- Encodes a value: overflow gives infinity where the format has one and `clip` is not asked, else the largest
finite value. -/
def FFmt.encode (f : FFmt) (clip : Bool) : FV → Nat
  | .nan => f.nanBits
  | .inf neg => f.sign neg + (if f.hasInf then f.maxFin + 1 else f.maxFin)
  | .fin neg m e =>
    let mag := f.roundMag m e
    f.sign neg + (if mag ≤ f.maxFin then mag else if clip ∨ ¬ f.hasInf then f.maxFin else f.maxFin + 1)

/-- The value of an FP32 word. -/
def val32 (w : W32) : FV := fmt32.decode w.toNat
/-- An FP32 word from a value, one rounding. -/
def enc32 (v : FV) : W32 := BitVec.ofNat 32 (fmt32.encode false v)

/-- The sum of two finite magnitudes with signs, as a signed integer at a common exponent. -/
def signedAt (neg : Bool) (m : Nat) (e t : Int) : Int :=
  let v : Int := (m <<< (e - t).toNat : Nat)
  if neg then -v else v

/-- Exact sum. -/
def FV.add : FV → FV → FV
  | .nan, _ => .nan
  | _, .nan => .nan
  | .inf a, .inf b => if a = b then .inf a else .nan
  | .inf a, _ => .inf a
  | _, .inf b => .inf b
  | .fin a m e, .fin b n g =>
    if m = 0 ∧ n = 0 then .fin (a && b) 0 0
    else
      let t := min e g
      let v := signedAt a m e t + signedAt b n g t
      .fin (decide (v < 0)) v.natAbs t

/-- Exact product. -/
def FV.mul : FV → FV → FV
  | .nan, _ => .nan
  | _, .nan => .nan
  | .inf a, .inf b => .inf (a != b)
  | .inf a, .fin b n _ => if n = 0 then .nan else .inf (a != b)
  | .fin a m _, .inf b => if m = 0 then .nan else .inf (a != b)
  | .fin a m e, .fin b n g => .fin (a != b) (m * n) (e + g)

/-- Quotient to 64 bits and a sticky bit, enough for one rounding to FP32. -/
def FV.div : FV → FV → FV
  | .nan, _ => .nan
  | _, .nan => .nan
  | .inf _, .inf _ => .nan
  | .inf a, .fin b _ _ => .inf (a != b)
  | .fin a _ _, .inf b => .fin (a != b) 0 0
  | .fin a m e, .fin b n g =>
    if n = 0 then (if m = 0 then .nan else .inf (a != b))
    else
      let k := 64 + n.log2
      let q := (m <<< k) / n
      let r := (m <<< k) % n
      .fin (a != b) (2 * q + (if r = 0 then 0 else 1)) (e - g - (k : Int) - 1)

/-- The greatest r ≤ bound with r * r ≤ n, by halving (fuel bits from the top). -/
def isqrtLoop (n : Nat) : Nat → Nat → Nat
  | 0, r => r
  | k + 1, r => if (r + 2 ^ k) * (r + 2 ^ k) ≤ n then isqrtLoop n k (r + 2 ^ k) else isqrtLoop n k r

/-- Square root with a sticky bit. -/
def FV.sqrt : FV → FV
  | .nan => .nan
  | .inf false => .inf false
  | .inf true => .nan
  | .fin neg m e =>
    if m = 0 then .fin neg 0 0
    else if neg then .nan
    else
      let odd := e.toNat % 2 ≠ (0 : Nat) ∨ (-e).toNat % 2 ≠ (0 : Nat)
      let m1 := if odd then 2 * m else m
      let e1 : Int := if odd then e - 1 else e
      let n := m1 <<< 64
      let r := isqrtLoop n 64 0
      .fin false (2 * r + (if r * r = n then 0 else 1)) (e1 / 2 - 32 - 1)

/-- Negation. -/
def FV.neg : FV → FV
  | .nan => .nan
  | .inf a => .inf (!a)
  | .fin a m e => .fin (!a) m e

/-- Multiplication by 2^k, exact. -/
def FV.scale (k : Int) : FV → FV
  | .fin a m e => .fin a m (e + k)
  | v => v

/-- FP32 sum. -/
def fadd (a b : W32) : W32 := enc32 ((val32 a).add (val32 b))
/-- FP32 difference. -/
def fsub (a b : W32) : W32 := enc32 ((val32 a).add (val32 b).neg)
/-- FP32 product. -/
def fmul (a b : W32) : W32 := enc32 ((val32 a).mul (val32 b))
/-- FP32 quotient, correctly rounded. -/
def fdiv (a b : W32) : W32 := enc32 ((val32 a).div (val32 b))
/-- FP32 square root. -/
def fsqrt (a : W32) : W32 := enc32 (val32 a).sqrt
/-- FP32 fused multiply-add: a * b + c with one rounding. -/
def ffma (a b c : W32) : W32 := enc32 (((val32 a).mul (val32 b)).add (val32 c))
/-- FP32 reciprocal (R100, R109). -/
def frecip (a : W32) : W32 := enc32 ((FV.fin false 1 0).div (val32 a))

/-- The FP32 word is NaN. -/
def isNan32 (a : W32) : Bool := decide (val32 a = .nan)
/-- The FP32 word is NaN or an infinity. -/
def notFinite32 (a : W32) : Bool :=
  match val32 a with
  | .fin _ _ _ => false
  | _ => true

/-- A value as a signed integer pair (numerator at exponent). -/
def FV.lt : FV → FV → Bool
  | .nan, _ => false
  | _, .nan => false
  | .inf a, .inf b => a && !b
  | .inf a, _ => a
  | _, .inf b => !b
  | .fin a m e, .fin b n g => let t := min e g; decide (signedAt a m e t < signedAt b n g t)

/-- FP32 less-than. -/
def flt (a b : W32) : Bool := (val32 a).lt (val32 b)

/-- Maximum of R120: NaN stays NaN (canonical, R412). -/
def fmaxNan (a b : W32) : W32 :=
  if isNan32 a || isNan32 b then 0x7FC00000#32 else if flt a b then b else a

/-- FP32 of an exact integer. -/
def ofInt32 (v : Int) : W32 := enc32 (.fin (decide (v < 0)) v.natAbs 0)

/-- Clips to N bits; the flag says whether it clipped. -/
def satInt (n : Nat) (v : Int) : Int × Bool :=
  let hi : Int := 2 ^ (n - 1) - 1
  let lo : Int := -(2 ^ (n - 1))
  if hi < v then (hi, true) else if v < lo then (lo, true) else (v, false)

/-- satN(rne(x * 2^k)) of R413. -/
def satRne (n : Nat) (x : FV) : Int × Bool :=
  match x with
  | .nan => (0, true)
  | .inf neg => (if neg then -(2 ^ (n - 1)) else 2 ^ (n - 1) - 1, true)
  | .fin neg m e =>
    let v : Nat := if e < 0 then rneShift m (-e).toNat else m <<< e.toNat
    satInt n (if neg then -(v : Int) else v)

/-- Quotient of two integers to nearest, ties to even (R140). -/
def divRne (a : Int) (n : Nat) : Int :=
  let q := a.natAbs / n
  let r := a.natAbs % n
  let q' := if 2 * r < n then q else if n < 2 * r then q + 1 else q + q % 2
  if a < 0 then -(q' : Int) else q'

/-- The low w bits of an integer in two's complement. -/
def ofIntW (w : Nat) (v : Int) : BitVec w := BitVec.ofInt w v
/-- A 32-bit word as a signed integer. -/
def toI32 (w : W32) : Int := w.toInt

/-- FP32 from BF16. -/
def ofBf16 (h : Nat) : W32 := BitVec.ofNat 32 (h % 65536 * 65536)

/-- Stochastic rounding of R105: x is the FP32 result, u the 16 bits of the generator. -/
def stochRound (f : FFmt) (x : W32) (u : Nat) : Nat :=
  match val32 x with
  | .nan => f.nanBits
  | .inf neg => f.sign neg + (if f.hasInf then f.maxFin + 1 else f.maxFin)
  | .fin neg m e =>
    if m = 0 then f.sign neg
    else
      let t := f.lastPlace m e
      let k := (t - e).toNat
      let m' := if e < t then m >>> k else m <<< (e - t).toNat
      let frac := if e < t then (if 16 ≤ k then (m % 2 ^ k) >>> (k - 16) else (m % 2 ^ k) <<< (16 - k)) else 0
      let mag := f.pack m' t + (if u < frac then 1 else 0)
      f.sign neg + min mag f.maxFin

/-- The float format of a row FORMAT code (R89), for the float formats. -/
def rowFmt : Nat → Option FFmt
  | 0 => some fmt32
  | 1 => some fmtBf16
  | 2 => some fmtFp16
  | 3 => some fmtE4m3
  | 4 => some fmtE5m2
  | _ => none

end Sys2Proof.Machine
end

