-- ==== Sys2Proof/Machine/Operands.lean ====
section
/-! DEFINITION. Operand forms: the fields of commands (table after R35), of table descriptors and class records
(R86, R87), of format blocks (R95), stream descriptors (R191, R193), keyed-layer descriptors (R149), shard sets
(R323), index and weight formats (R66); the geometry of rows (R90) and the hashing modes (R74). -/
namespace Sys2Proof.Machine

/-! Commands -/

/-- The header fields (R35). -/
def cOp (c : Cmd) : Nat := bitsOf c 0 8
/-- IRQ. -/
def cIrq (c : Cmd) : Bool := c.getLsbD 8
/-- FENCE. -/
def cFence (c : Cmd) : Bool := c.getLsbD 9
/-- HALT_ON_ERROR. -/
def cHaltOnError (c : Cmd) : Bool := c.getLsbD 10
/-- TAG. -/
def cTag (c : Cmd) : Nat := bitsOf c 32 32
/-- TABLE of the opcodes that name one. -/
def cTable (c : Cmd) : Nat := bitsOf c 64 20
/-- POOL_MODE of GATHER_POOL. -/
def cPoolMode (c : Cmd) : Nat := bitsOf c 84 4
/-- DEST_KIND. -/
def cDestKind (c : Cmd) : Nat := bitsOf c 88 4
/-- CHECKSUM, SCALE_GRAD or LOCK, bit 28 of bytes 8 to 11. -/
def cBit28 (c : Cmd) : Bool := c.getLsbD 92
/-- WEIGHTED. -/
def cWeighted (c : Cmd) : Bool := c.getLsbD 93
/-- BAG_COUNT. -/
def cBagCount (c : Cmd) : Nat := bitsOf c 96 21
/-- INDEX_FMT. -/
def cIndexFmt (c : Cmd) : Nat := bitsOf c 120 4
/-- WEIGHT_FMT. -/
def cWeightFmt (c : Cmd) : Nat := bitsOf c 124 4
/-- The 64-bit word at bytes 16 to 23: OFFSETS, VALUE, TARGET, QUERY, INDICES of SCATTER_APPLY, DESC, BASE. -/
def cW2 (c : Cmd) : W64 := BitVec.ofNat 64 (bitsOf c 128 64)
/-- Bytes 24 to 31: INDICES, DEST of KEYED_LOOKUP, GRAD of SCATTER_APPLY. -/
def cW3 (c : Cmd) : W64 := BitVec.ofNat 64 (bitsOf c 192 64)
/-- Bytes 32 to 39: WEIGHTS, PARAMS. -/
def cW4 (c : Cmd) : W64 := BitVec.ofNat 64 (bitsOf c 256 64)
/-- Bytes 40 to 47: DEST of GATHER_POOL, GRAD of SCATTER_ADD. -/
def cW5 (c : Cmd) : W64 := BitVec.ofNat 64 (bitsOf c 320 64)
/-- INDEX_COUNT. -/
def cIndexCount (c : Cmd) : Nat := bitsOf c 384 32
/-- DEST_STRIDE or GRAD_STRIDE of the bag-batch opcodes. -/
def cStride (c : Cmd) : Nat := bitsOf c 416 32
/-- ALPHA of SCATTER_ADD. -/
def cAlpha (c : Cmd) : W32 := BitVec.ofNat 32 (bitsOf c 448 32)
/-- LAYER of KEYED_LOOKUP. -/
def cLayer (c : Cmd) : Nat := bitsOf c 96 16
/-- K of KEYED_LOOKUP. -/
def cK (c : Cmd) : Nat := bitsOf c 112 7
/-- QUERY_COUNT of KEYED_LOOKUP: 0 encodes 65,536 (R150). -/
def cQueryCount (c : Cmd) : Nat := if bitsOf c 256 16 = 0 then 65536 else bitsOf c 256 16
/-- DEST_STRIDE of KEYED_LOOKUP. -/
def cKeyedStride (c : Cmd) : Nat := bitsOf c 288 32
/-- RULE of SCATTER_APPLY. -/
def cRule (c : Cmd) : Nat := bitsOf c 84 4
/-- STATE_TABLE of SCATTER_APPLY. -/
def cStateTable (c : Cmd) : Nat := bitsOf c 96 20
/-- ROW_COUNT of SCATTER_APPLY. -/
def cRowCount (c : Cmd) : Nat := bitsOf c 320 32
/-- STREAM_ID. -/
def cStreamId (c : Cmd) : Nat := bitsOf c 64 12
/-- VERSION of VERSION_SWITCH. -/
def cVersion (c : Cmd) : W32 := BitVec.ofNat 32 (bitsOf c 96 32)
/-- OBJECT of OBJECT_MOVE. -/
def cObject (c : Cmd) : W32 := BitVec.ofNat 32 (bitsOf c 64 32)
/-- TIER of OBJECT_MOVE. -/
def cTier (c : Cmd) : Nat := bitsOf c 96 4
/-- ALL of CLOCHE_UNLOCK. -/
def cAll (c : Cmd) : Bool := c.getLsbD 84
/-- KIND of MARK and WAIT: 1 is hard. -/
def cHard (c : Cmd) : Bool := c.getLsbD 64
/-- EXTERNAL of MARK. -/
def cExternal (c : Cmd) : Bool := c.getLsbD 65
/-- XMARK of MARK. -/
def cXmark (c : Cmd) : Nat := bitsOf c 72 8
/-- SOURCE of WAIT. -/
def cSource (c : Cmd) : Nat := bitsOf c 68 2
/-- SRC_PART of WAIT. -/
def cSrcPart (c : Cmd) : Nat := bitsOf c 72 4
/-- SRC_INDEX of WAIT. -/
def cSrcIndex (c : Cmd) : Nat := bitsOf c 96 18

/-- The fields each opcode defines, as bit ranges above the header: every other bit of the body is reserved. -/
def bodyFields : Nat → List (Nat × Nat)
  | 0x01 => [(64, 1), (65, 1), (72, 8), (128, 64)]
  | 0x02 => [(64, 1), (68, 2), (72, 4), (96, 18), (128, 64)]
  | 0x10 => [(64, 20), (84, 4), (88, 4), (92, 1), (93, 1), (96, 21), (120, 4), (124, 4), (128, 64), (192, 64), (256, 64),
      (320, 64), (384, 32), (416, 32)]
  | 0x18 => [(64, 20), (88, 4), (96, 16), (112, 7), (128, 64), (192, 64), (256, 16), (288, 32)]
  | 0x20 => [(64, 20), (92, 1), (93, 1), (96, 21), (120, 4), (124, 4), (128, 64), (192, 64), (256, 64), (320, 64),
      (384, 32), (416, 32), (448, 32)]
  | 0x21 => [(64, 20), (84, 4), (96, 20), (128, 64), (192, 64), (256, 64), (320, 32)]
  | 0x30 => [(64, 12), (128, 64)]
  | 0x40 => [(64, 20), (96, 32), (128, 64)]
  | 0x41 => [(64, 32), (96, 4), (128, 64)]
  | 0x50 => [(64, 20), (92, 1), (120, 4), (192, 64), (384, 32)]
  | 0x51 => [(64, 20), (84, 1)]
  | _ => []

/-- The opcodes of the opcode table (R35). -/
def opcodes : List Nat := [0x00, 0x01, 0x02, 0x10, 0x18, 0x20, 0x21, 0x30, 0x40, 0x41, 0x50, 0x51]

/-- A number with the bits of the listed ranges cleared. -/
def clearFields (v : Nat) (l : List (Nat × Nat)) : Nat :=
  l.foldl (fun v f => v - natBits v f.1 f.2 * 2 ^ f.1) v

/-- Every reserved bit of a command is zero (R33): header bits [15:11], bytes 2 and 3, and the body's. -/
def reservedZero (c : Cmd) : Bool :=
  decide (clearFields c.toNat ([(0, 8), (8, 3), (32, 32)] ++ bodyFields (cOp c)) = 0)

/-- Index width in bytes (R66). -/
def idxBytes (fmt : Nat) : Nat := match fmt % 4 with | 0 => 4 | 1 => 8 | _ => 2
/-- FIXED of INDEX_FMT. -/
def idxFixed (fmt : Nat) : Bool := decide (natBits fmt 2 1 = 1)
/-- INDEX_FMT is an encoding in use. -/
def idxFmtOk (fmt : Nat) : Bool := decide (fmt < 8) && decide (fmt % 4 ≠ 3)
/-- Weight width in bytes (R66). -/
def wBytes (fmt : Nat) : Nat := if fmt = 0 then 4 else 2
/-- A weight widened to FP32, exactly (R66). -/
def widenWeight (fmt : Nat) (v : Nat) : W32 :=
  match fmt with
  | 0 => BitVec.ofNat 32 v
  | 1 => ofBf16 v
  | _ => enc32 (fmtFp16.decode v)

/-! Table descriptors (R86, R87) -/

/-- A table descriptor, 128 B. -/
abbrev Desc := BitVec 1024

/-- VALID. -/
def Desc.valid (d : Desc) : Bool := d.getLsbD 63
/-- REPLICATED. -/
def Desc.replicated (d : Desc) : Bool := d.getLsbD 62
/-- HASH_MODE. -/
def Desc.mode (d : Desc) : Nat := bitsOf d 59 3
/-- HASH_COUNT. -/
def Desc.hashCount (d : Desc) : Nat := bitsOf d 57 2
/-- ROWS: 0 encodes 2^40. -/
def Desc.rows (d : Desc) : Nat := if bitsOf d 0 40 = 0 then 2 ^ 40 else bitsOf d 0 40
/-- SEED0. -/
def Desc.seed0 (d : Desc) : W64 := BitVec.ofNat 64 (bitsOf d 64 64)
/-- SEED1. -/
def Desc.seed1 (d : Desc) : W64 := BitVec.ofNat 64 (bitsOf d 128 64)
/-- QR_M. -/
def Desc.qrM (d : Desc) : Nat := bitsOf d 64 32
/-- QR_PARTNER. -/
def Desc.qrPartner (d : Desc) : Nat := bitsOf d 108 20
/-- QR_DOMAIN. -/
def Desc.qrDomain (d : Desc) : Nat := bitsOf d 128 48
/-- REMAP_BASE. -/
def Desc.remapBase (d : Desc) : Nat := bitsOf d 64 64
/-- STATS: address of the statistics record and its enable. -/
def Desc.stats (d : Desc) : Nat := bitsOf d 198 58 * 64
/-- Bit 0 of STATS. -/
def Desc.statsOn (d : Desc) : Bool := d.getLsbD 192
/-- VERSION. -/
def Desc.version (d : Desc) : W32 := BitVec.ofNat 32 (bitsOf d 288 32)
/-- OBJECT. -/
def Desc.object (d : Desc) : W32 := BitVec.ofNat 32 (bitsOf d 256 32)
/-- FMT_BASE as an address. -/
def Desc.fmtBase (d : Desc) : Nat := bitsOf d 326 58 * 64
/-- ESC_BOUND. -/
def Desc.escBound (d : Desc) : Nat := bitsOf d 420 8
/-- OFRAC. -/
def Desc.ofrac (d : Desc) : Nat := bitsOf d 414 6
/-- WFRAC. -/
def Desc.wfrac (d : Desc) : Nat := bitsOf d 408 4
/-- ESC_SLOTS. -/
def Desc.escSlots (d : Desc) : Nat := bitsOf d 404 4
/-- MIGRATE. -/
def Desc.migrate (d : Desc) : Bool := d.getLsbD 401
/-- ACC: 1 is INT32 pooling. -/
def Desc.intAcc (d : Desc) : Bool := d.getLsbD 400
/-- DIM. -/
def Desc.dim (d : Desc) : Nat := bitsOf d 384 15
/-- POP_BASE as an address. -/
def Desc.popBase (d : Desc) : Nat := bitsOf d 454 58 * 64
/-- ROW_BASE of class k. -/
def Desc.rowBase (d : Desc) (k : Nat) : Nat := bitsOf d (512 + 128 * k + 8) 56 * 256
/-- FORMAT of class k. -/
def Desc.format (d : Desc) (k : Nat) : Nat := bitsOf d (512 + 128 * k + 4) 4
/-- PRESENT of class k. -/
def Desc.present (d : Desc) (k : Nat) : Bool := decide (k < 4) && d.getLsbD (512 + 128 * k)
/-- CLASS_ROWS of class k. -/
def Desc.classRows (d : Desc) (k : Nat) : Nat := bitsOf d (512 + 128 * k + 64) 31
/-- UP_THRESH of class k. -/
def Desc.upThresh (d : Desc) (k : Nat) : Nat := bitsOf d (512 + 128 * k + 96) 16
/-- DOWN_THRESH of class k. -/
def Desc.downThresh (d : Desc) (k : Nat) : Nat := bitsOf d (512 + 128 * k + 112) 16
/-- The classes present. -/
def Desc.classes (d : Desc) : List Nat := (List.range 4).filter d.present
/-- Bits per value of a FORMAT (R89). -/
def fmtBits : Nat → Nat
  | 0 => 32 | 1 => 16 | 2 => 16 | 6 => 4 | _ => 8
/-- The scaled formats. -/
def fmtScaled (f : Nat) : Bool := decide (3 ≤ f) && decide (f ≤ 7)
/-- The codebook formats. -/
def fmtCodebook (f : Nat) : Bool := decide (f = 6) || decide (f = 7)
/-- The formats whose rows no add changes: INT8, CB4, CB8 (R109). -/
def fmtFixed (f : Nat) : Bool := decide (5 ≤ f) && decide (f ≤ 7)

/-- Code bytes C(S) of a segment of S bytes in class k (R90). -/
def Desc.codeBytes (d : Desc) (k S : Nat) : Nat :=
  if fmtCodebook (d.format k) ∧ 0 < d.escSlots then S - 4 - 4 * d.escSlots else S
/-- Columns n(S) of a segment of S bytes (R90). -/
def Desc.segCols (d : Desc) (k S : Nat) : Nat := 8 * d.codeBytes k S / fmtBits (d.format k)
/-- The row stride of class k (R90). -/
def Desc.stride (d : Desc) (k : Nat) : Nat :=
  if d.dim ≤ d.segCols k 64 then 64
  else if d.dim ≤ d.segCols k 128 then 128
  else 256 * ceilDiv d.dim (d.segCols k 256)
/-- Segments of a row of class k: byte offset in the row, bytes, first column, columns (R90). -/
def Desc.segs (d : Desc) (k : Nat) : List (Nat × Nat × Nat × Nat) :=
  let st := d.stride k
  if st ≤ 128 then [(0, st, 0, d.dim)]
  else
    let n := d.segCols k 256
    (List.range (st / 256)).map fun j => (256 * j, 256, j * n, min n (d.dim - j * n))
/-- The granules of a segment of S bytes that a lane reads for its columns: the code bytes up to the last column, and the escape
tail (R90, R91). -/
def Desc.need (d : Desc) (k S cols : Nat) : BitVec 4 :=
  let code := ceilDiv (cols * fmtBits (d.format k)) 8
  let tail := d.codeBytes k S
  BitVec.ofNat 4 (sumBy (fun g => if 64 * g < code ∨ (tail < S ∧ tail < 64 * (g + 1) ∧ 64 * g < S) then 2 ^ g else 0) (List.range 4))
/-- The bound on a slot number of class k. -/
def Desc.classBound (d : Desc) (k : Nat) : Nat := if d.mode = 4 then d.classRows k else d.rows
/-- The fields of a descriptor in use per hashing mode; R86 and R87 require the other bits to be zero. The bits that the table of R86
neither assigns nor calls reserved, FMT_BASE [5:0], POP_BASE [5:0] and STATS [5:1], are held to zero with them (DESIGN CHOICE, log 80). -/
def Desc.usedBits (d : Desc) : List (Nat × Nat) :=
  [(0, 40), (59, 5)] ++
  (match d.mode with
    | 1 => [(57, 2), (64, 64), (128, 64)]
    | 2 => [(64, 32), (108, 20), (128, 48)]
    | 3 => [(64, 32), (108, 20), (128, 48)]
    | 4 => [(64, 64)]
    | _ => []) ++
  [(192, 1), (198, 58), (256, 64), (326, 58), (384, 15), (400, 2), (404, 4), (408, 4), (414, 6), (420, 8), (454, 58)] ++
  (List.range 4).flatMap fun k => [(512 + 128 * k, 1), (512 + 128 * k + 4, 60), (512 + 128 * k + 64, 31), (512 + 128 * k + 96, 32)]

/-- The descriptor checks of R88 that need no other memory, with the intake checks of R73 on its own fields. -/
def Desc.ok (d : Desc) : Bool :=
  let cs := d.classes
  d.valid && decide (clearFields d.toNat d.usedBits = 0) && decide (d.mode < 5) &&
  decide (d.mode ≠ 1 ∨ d.hashCount = 1 ∨ d.hashCount = 2) &&
  decide (1 ≤ d.dim) && decide (d.dim ≤ 16384) && (List.range 4).all (fun k => decide (d.format k < 8)) &&
  (decide (d.dim ≤ 4096) || cs.all fun k => !(fmtScaled (d.format k))) &&
  decide (d.wfrac < 15) && decide (d.ofrac ≤ 31) && d.present 0 &&
  (decide (d.mode = 4) || decide (cs = [0])) &&
  (decide (d.mode ≠ 4) || cs.all fun k => decide (1 ≤ d.classRows k) && decide (d.classRows k ≤ 2 ^ 30)) &&
  cs.all (fun k => cs.all fun j => !decide (j < k) || decide (fmtBits (d.format k) ≤ fmtBits (d.format j))) &&
  cs.all (fun k => match cs.find? (fun j => decide (k < j)) with
    | some j => decide (d.downThresh k ≤ d.upThresh j) | none => true) &&
  (!d.intAcc || cs.all fun k => fmtFixed (d.format k)) &&
  (decide (d.fmtBase ≠ 0) || !(d.intAcc || cs.any fun k => fmtScaled (d.format k))) &&
  (!d.migrate || (decide (d.mode = 4) && decide (d.popBase ≠ 0))) &&
  (decide (d.mode ≠ 2 ∧ d.mode ≠ 3) || (decide (1 ≤ d.qrM) && decide (ceilDiv d.qrDomain d.qrM ≤ d.rows))) &&
  (decide (d.mode ≠ 3) || decide (d.qrM ≤ 65536)) && (decide (d.mode ≠ 4) || decide (d.remapBase % 4096 = 0))

/-- The partner conditions of R75. The partner need not pass the checks of R88 itself (DESIGN CHOICE, log 80). -/
def Desc.partnerOk (d partner : Desc) : Bool :=
  partner.valid && decide (partner.mode = 0) && decide (d.qrM ≤ partner.rows) &&
    (decide (d.mode ≠ 3) || partner.replicated)

/-! Format blocks (R95) -/

/-- Bytes of a format block. -/
def fmtBlockSize (dim : Nat) : Nat := 0x840 + ceilDiv dim 64 * 64 + 8 * ceilDiv dim 32

/-- A little-endian field of a byte list. -/
def bytesAt (b : List Byte) (off n : Nat) : Nat := leNat ((b.drop off).take n)

/-- u_c of a format block. -/
def fbU (b : List Byte) (c : Nat) : Nat := bytesAt b (0x840 + c) 1
/-- Group record g of a format block of a table of dim columns. -/
def fbGroup (b : List Byte) (dim g : Nat) : Nat := bytesAt b (0x840 + ceilDiv dim 64 * 64 + 8 * g) 8
/-- S2 of a group. -/
def fbS2 (b : List Byte) (dim g : Nat) : W32 := BitVec.ofNat 32 (natBits (fbGroup b dim g) 0 32)
/-- M_G of a group. -/
def fbM (b : List Byte) (dim g : Nat) : Nat := natBits (fbGroup b dim g) 32 16
/-- SH_G of a group. -/
def fbSh (b : List Byte) (dim g : Nat) : Nat := natBits (fbGroup b dim g) 48 6
/-- SGRAD_BASE as an address. -/
def fbSgrad (b : List Byte) : Nat := bytesAt b 0 8 / 64 * 64
/-- Codebook entry i of class k: BF16 as FP32 bits with ACC = 0 (R95). -/
def fbCodeF (b : List Byte) (k i : Nat) : W32 := ofBf16 (bytesAt b (0x40 + 0x200 * k + 2 * i) 2)
/-- Codebook entry i of class k as INT8 with ACC = 1. -/
def fbCodeI (b : List Byte) (k i : Nat) : Int := (BitVec.ofNat 8 (bytesAt b (0x40 + 0x200 * k + i) 1)).toInt
/-- The column scale s_c = fp32(u_c) * S2 of R99, one rounding. -/
def fbScale (b : List Byte) (dim c : Nat) : W32 := fmul (ofInt32 (fbU b c)) (fbS2 b dim (c / 32))

/-- The escape code of a codebook class, none without escape slots. -/
def Desc.escCode (d : Desc) (k : Nat) : Option Nat :=
  if d.escSlots = 0 then none else if d.format k = 6 then some 15 else if d.format k = 7 then some 255 else none

/-- The format-block checks of R88. -/
def Desc.blockOk (d : Desc) (b : List Byte) : Bool :=
  (d.intAcc || d.classes.all fun k =>
    !(fmtCodebook (d.format k)) || (List.range (2 ^ fmtBits (d.format k))).all fun i =>
      decide (d.escCode k = some i) || !(notFinite32 (fbCodeF b k i))) &&
  (List.range (ceilDiv d.dim 32)).all fun g =>
    let s2 := (fbS2 b d.dim g).toNat
    decide (0x00800000 ≤ s2) && decide (s2 ≤ 0x7F7FFFFF) &&
      (!d.intAcc || (decide (fbM b d.dim g ≠ 0) && decide (fbSh b d.dim g ≤ 47)))

/-! Hashing modes (R74) -/

/-- What an index maps to: rows (table 0 own, 1 partner; class; slot), a remap read, or out of range. -/
inductive Mapped where
  | rows (l : List (Nat × Nat × Nat))
  | product (q r : Nat)
  | remap
  | outOfRange
deriving DecidableEq, Repr

/-- The hashing mode applied to an index (R74); mode 4 reads the remap entry separately. -/
def Desc.mapIndex (d : Desc) (x : Nat) : Mapped :=
  match d.mode with
  | 0 => if x < d.rows then .rows [(0, 0, x)] else .outOfRange
  | 1 =>
    let r1 := reduceHash (mixHash (BitVec.ofNat 64 x) d.seed0) d.rows
    let r2 := reduceHash (mixHash (BitVec.ofNat 64 x) d.seed1) d.rows
    .rows (if d.hashCount = 2 then [(0, 0, r1), (0, 0, r2)] else [(0, 0, r1)])
  | 2 => if x < d.qrDomain then .rows [(0, 0, x / d.qrM), (1, 0, x % d.qrM)] else .outOfRange
  | 3 => if x < d.qrDomain then .product (x / d.qrM) (x % d.qrM) else .outOfRange
  | _ => if x < d.rows then .remap else .outOfRange

/-- The class and slot a remap entry names, none where R74 makes the index out of range. -/
def Desc.remapSlot (d : Desc) (e : Nat) : Option (Nat × Nat) :=
  let k := natBits e 30 2
  let slot := natBits e 0 30
  if e = 0xFFFFFFFF then none else if d.present k ∧ slot < d.classRows k then some (k, slot) else none

/-! Segments -/

/-- The code of segment-local column i of a class (R91). -/
def segCode (bits : Nat) (seg : List Byte) (i : Nat) : Nat :=
  match bits with
  | 4 => natBits (bytesAt seg (i / 2) 1) (4 * (i % 2)) 4
  | 8 => bytesAt seg i 1
  | 16 => bytesAt seg (2 * i) 2
  | _ => bytesAt seg (4 * i) 4

/-- One decoded column of a segment: a plain or scaled value, an escape value, or a malformed escape (R93, R94). -/
inductive ColVal where
  | code (v : Nat)
  | esc (v : W32)
  | badEsc
deriving DecidableEq, Repr

/-- The columns of a segment in order, the escapes taken from its tail (R93), and whether it is malformed (R94). -/
def Desc.decodeSeg (d : Desc) (k : Nat) (seg : List Byte) (cols : Nat) : List ColVal × Bool :=
  let bits := fmtBits (d.format k)
  let codes := (List.range cols).map (segCode bits seg)
  match d.escCode k with
  | none => (codes.map .code, false)
  | some ec =>
    let tail := seg.drop (seg.length - 4 - 4 * d.escSlots)
    let used := bytesAt tail 0 1
    let lim := min used d.escSlots
    let res := codes.foldl (fun (acc : List ColVal × Nat) c =>
      if c = ec then
        ((if acc.2 < lim then .esc (BitVec.ofNat 32 (bytesAt tail (4 + 4 * acc.2) 4)) else .badEsc) :: acc.1, acc.2 + 1)
      else (.code c :: acc.1, acc.2)) ([], 0)
    (res.1.reverse, decide (d.escSlots < used) || decide (used < res.2))

/-- A decoded value before scaling (R89, R108): codebook entry, INT8 value or float. -/
def Desc.rawVal (d : Desc) (k : Nat) (b : List Byte) (code : Nat) : W32 :=
  let f := d.format k
  match rowFmt f with
  | some ff => enc32 (ff.decode code)
  | none =>
    if f = 5 then ofInt32 (BitVec.ofNat 8 code).toInt
    else if d.intAcc then ofInt32 (fbCodeI b k code) else fbCodeF b k code

/-- v of R99: the exact value of an unscaled format, one rounding of value times scale otherwise. -/
def Desc.colValue (d : Desc) (k : Nat) (b : List Byte) (c : Nat) : ColVal → W32
  | .esc v => v
  | .badEsc => 0#32
  | .code code =>
    if fmtScaled (d.format k) then fmul (d.rawVal k b code) (fbScale b d.dim c) else d.rawVal k b code

/-! Keyed-layer descriptors (R149) -/

/-- NA. -/
def kNA (d : BitVec 512) : Nat := bitsOf d 0 13
/-- NB. -/
def kNB (d : BitVec 512) : Nat := bitsOf d 16 13
/-- KEY_DIM. -/
def kDim (d : BitVec 512) : Nat := bitsOf d 32 10
/-- Heads per query group H. -/
def kHeads (d : BitVec 512) : Nat := bitsOf d 48 4 + 1
/-- HEAD_SUM. -/
def kHeadSum (d : BitVec 512) : Bool := d.getLsbD 62
/-- VALID. -/
def kValid (d : BitVec 512) : Bool := d.getLsbD 63
/-- SUBKEY_BASE as an address. -/
def kBase (d : BitVec 512) : Nat := bitsOf d 72 56 * 256
/-- TEMP. -/
def kTemp (d : BitVec 512) : W32 := BitVec.ofNat 32 (bitsOf d 128 32)
/-- SEL_IDX. -/
def kSelIdx (d : BitVec 512) : Nat := bitsOf d 192 64
/-- SEL_WGT. -/
def kSelWgt (d : BitVec 512) : Nat := bitsOf d 256 64
/-- The image length 2 * Dk * (NA + NB). -/
def kImageLen (d : BitVec 512) : Nat := 2 * kDim d * (kNA d + kNB d)
/-- The checks of R151 on the descriptor itself. -/
def kDescOk (d : BitVec 512) : Bool :=
  kValid d && decide (1 ≤ kNA d) && decide (kNA d ≤ 4096) && decide (1 ≤ kNB d) && decide (kNB d ≤ 4096) &&
  decide (32 ≤ kDim d) && decide (kDim d ≤ 512) && decide (kDim d % 32 = 0) &&
  decide (0x00800000 ≤ (kTemp d).toNat) && decide ((kTemp d).toNat ≤ 0x7F7FFFFF) &&
  decide (kSelIdx d % 4 = 0) && decide (kSelWgt d % 4 = 0) &&
  decide (clearFields d.toNat [(0, 13), (16, 13), (32, 10), (48, 4), (62, 2), (72, 56), (128, 32), (192, 64), (256, 64)] = 0)

/-! Stream descriptors (R191 to R194) -/

/-- SRC as an address. -/
def sSrc (d : BitVec 1024) : Nat := bitsOf d 6 58 * 64
/-- RUN. -/
def sRun (d : BitVec 1024) : Nat := bitsOf d 64 32
/-- DIMS. -/
def sDims (d : BitVec 1024) : Nat := bitsOf d 96 3
/-- SLOTS. -/
def sSlots (d : BitVec 1024) : Nat := bitsOf d 100 5
/-- SLOT_LOG2. -/
def sSlotLog2 (d : BitVec 1024) : Nat := bitsOf d 108 5
/-- NOSPEC. -/
def sNoSpec (d : BitVec 1024) : Bool := d.getLsbD 114
/-- RCV_M1. -/
def sRcvM1 (d : BitVec 1024) : Nat := bitsOf d 120 6
/-- COUNT_d, 1 past the dimensions in use. -/
def sCount (d : BitVec 1024) (k : Nat) : Nat := if k < sDims d then bitsOf d (128 + 96 * (k - 1)) 32 else 1
/-- STRIDE_d, 64-bit two's complement. -/
def sStride (d : BitVec 1024) (k : Nat) : Nat := if k < sDims d then bitsOf d (128 + 96 * (k - 1) + 32) 64 else 0
/-- The stream length B. -/
def sLen (d : BitVec 1024) : Nat := sRun d * sCount d 1 * sCount d 2 * sCount d 3 * sCount d 4
/-- Staging units of the ring (R195). -/
def sUnits (d : BitVec 1024) : Nat := sSlots d * 2 ^ (sSlotLog2 d - 16)
/-- The partition address of the byte at a stream offset (R192). -/
def sAddr (d : BitVec 1024) (o : Nat) : Nat :=
  let r := o / sRun d
  let i1 := r % sCount d 1
  let i2 := r / sCount d 1 % sCount d 2
  let i3 := r / (sCount d 1 * sCount d 2) % sCount d 3
  let i4 := r / (sCount d 1 * sCount d 2 * sCount d 3)
  (sSrc d + i1 * sStride d 1 + i2 * sStride d 2 + i3 * sStride d 3 + i4 * sStride d 4 + o % sRun d) % 2 ^ 64
/-- Slots the command fills. -/
def sSlotCount (d : BitVec 1024) : Nat := ceilDiv (sLen d) (2 ^ sSlotLog2 d)
/-- The header checks of R194. -/
def sHeaderOk (d : BitVec 1024) : Bool :=
  decide (1 ≤ sDims d) && decide (sDims d ≤ 5) && decide (3 ≤ sSlots d) && decide (sSlots d ≤ 16) &&
  decide (16 ≤ sSlotLog2 d) && decide (sSlotLog2 d ≤ 20) && decide (0 < sRun d) && decide (sRun d % 64 = 0) &&
  (List.range 4).all (fun k => !decide (k + 1 < sDims d) || (decide (0 < sCount d (k + 1)) && decide (sStride d (k + 1) % 64 = 0))) &&
  (List.range 4).all (fun k => decide (k + 1 < sDims d) || decide (bitsOf d (128 + 96 * k) 96 = 0)) &&
  decide (clearFields d.toNat ([(6, 58), (64, 32), (96, 3), (100, 5), (108, 5), (113, 2), (120, 6)] ++
    (List.range 4).map fun k => (128 + 96 * k, 96)) = 0) && decide (sLen d ≤ 2 ^ 40)

/-- A receiver record as a 128-bit number: KIND. -/
def rcvKind (v : Nat) : Nat := natBits v 64 4
/-- BUFFER of a receiver record. -/
def rcvBuffer (v : Nat) : Nat := natBits v 72 6
/-- LAYER of a receiver record. -/
def rcvLayer (v : Nat) : Nat := natBits v 80 16
/-- The reserved bits of a receiver record are zero. -/
def rcvOk (v : Nat) : Bool :=
  match rcvKind v with
  | 0 => decide (clearFields v [(0, 64), (64, 4)] = 0) && decide (natBits v 0 64 % 64 = 0)
  | 1 => decide (clearFields v [(72, 6), (64, 4)] = 0)
  | 2 => decide (clearFields v [(80, 16), (64, 4)] = 0)
  | _ => false

/-! Feeder descriptors (R145, R146) -/

/-- QUEUE. -/
def fdQueue (v : W64) : Nat := bitsOf v 58 6
/-- SHAPE. -/
def fdShape (v : W64) : Nat := bitsOf v 55 3
/-- ELEM. -/
def fdElem (v : W64) : Nat := bitsOf v 52 3
/-- TCOL_BASE. -/
def fdCol (v : W64) : Nat := bitsOf v 40 12
/-- ROW_BASE. -/
def fdRow (v : W64) : Nat := bitsOf v 0 32
/-- Tile rows of a shape. -/
def tileRows (shape : Nat) : Nat := 8 * 2 ^ shape
/-- Tile columns of a shape. -/
def tileCols (shape : Nat) : Nat := 256 / 2 ^ shape

/-! Memory tiers -/

/-- The kinds of translated access (R266). A `row` access is a read that is translated in the Sieve and made by a lane (R90, R118). -/
inductive XAcc where
  | read | stream | row | write | add
deriving DecidableEq, Repr

/-- ACCESS of a fault record (R279). -/
def XAcc.code : XAcc → Nat
  | .read => 1 | .stream => 1 | .row => 1 | .write => 2 | .add => 4

end Sys2Proof.Machine
end

