-- ==== Sys2Proof/Machine/Flags.lean ====
section
/-! DEFINITION. Status flags: the completion statuses and their precedence (R387, R388), what sets them on a command
(poison, loss, abort), the record of R36, the halt of a ring or of the direct path (R45, R416), and the objects that
a loss tears (R187, R236). -/
namespace Sys2Proof.Machine

/-! Completion statuses (R387) -/

/-- OK. -/
abbrev stOk : Byte := 0x00#8
/-- BAD_OPCODE. -/
abbrev stBadOpcode : Byte := 0x10#8
/-- BAD_FIELD. -/
abbrev stBadField : Byte := 0x11#8
/-- BAD_TABLE. -/
abbrev stBadTable : Byte := 0x12#8
/-- MARK_REGRESS. -/
abbrev stMarkRegress : Byte := 0x13#8
/-- WAIT_DENIED. -/
abbrev stWaitDenied : Byte := 0x14#8
/-- WAIT_TIMEOUT. -/
abbrev stWaitTimeout : Byte := 0x15#8
/-- BAD_OFFSETS. -/
abbrev stBadOffsets : Byte := 0x16#8
/-- LOCK_INCOMPLETE. -/
abbrev stLockIncomplete : Byte := 0x17#8
/-- SUBKEYS_ABSENT. -/
abbrev stSubkeysAbsent : Byte := 0x18#8
/-- FAULT_ABORTED. -/
abbrev stFaultAborted : Byte := 0x30#8
/-- POISONED. -/
abbrev stPoisoned : Byte := 0x40#8
/-- WRITES_LOST. -/
abbrev stWritesLost : Byte := 0x41#8
/-- WINNOW_BYPASSED. -/
abbrev stWinnowBypassed : Byte := 0x50#8
/-- REMOTE_FAILED. -/
abbrev stRemoteFailed : Byte := 0x60#8

/-- No status met. -/
def Marks.none : Marks := ⟨false, false, false, false, Option.none, false, Option.none⟩

/-- The status of a command from what it has met (R388). -/
def Marks.status (m : Marks) : Byte :=
  match m.only with
  | some st => st
  | Option.none =>
    if m.lost then stWritesLost
    else if m.aborted then stFaultAborted
    else if m.bypassed then stWinnowBypassed
    else if m.remoteFailed then stRemoteFailed
    else match m.first with
      | some st => st
      | Option.none => if m.lockShort then stLockIncomplete else stOk

/-- The command met poison: bags that take effect lie before a bad offset in bag order, so POISONED comes first
(R69, R388). -/
def Marks.poison (m : Marks) : Marks := { m with first := some stPoisoned }
/-- The command met bad offsets first. -/
def Marks.badOffsets (m : Marks) : Marks := { m with first := some (m.first.getD stBadOffsets) }

/-- A command meets poison. -/
def State.poisonCmd (s : State) (t : TrackerId) : State := s.mark t Marks.poison

/-- A command ends with a status that is its only outcome and has no more to do. -/
def State.only (s : State) (t : TrackerId) (st : Byte) : State :=
  s.modTrk t fun x => { x with marks := { x.marks with only := some st }, phase := .done }

/-! Objects -/

/-- The registered object of a handle in a partition (R215 to R217). -/
def State.obj (s : State) (p : Part) (h : W32) : Option Obj :=
  s.objs.find? fun o => decide (o.part = p) && decide (o.handle = h)

/-- The partition address of the record of a handle: directory base + 32 * INDEX (R215). -/
def State.objRecAddr (s : State) (p : Part) (h : W32) : Nat :=
  s.fld fJpObjDir_BASE p * 4096 + 32 * bitsOf h 0 24

/-- Changes an object as the engine keeps it; its record in memory is due (R216). -/
def State.modObj (s : State) (p : Part) (h : W32) (f : Obj → Obj) : State :=
  { s with objs := updFirst (fun o => decide (o.part = p) && decide (o.handle = h)) (fun o => { f o with due := true }) s.objs }

/-- Marks an object torn (R187, R236): event once, TORN_MARKS for a scatter command, TORN in the command's record.
A handle that names no registered object raises the event and marks nothing. -/
def State.tear (s : State) (p : Part) (h : W32) (t : Option TrackerId) (count : Bool := true) : State :=
  let tag := match t with
    | some k => (s.trk k).elim 0 Tracker.tag
    | Option.none => 0
  let s1 := match t with
    | some k => s.modTrk k fun x => { x with torn := true }
    | Option.none => s
  match s.obj p h with
  | some o =>
    if o.torn then s1
    else
      let s2 := (s1.modObj p h fun o => { o with torn := true }).eventP p 0x0B h.toNat tag
      if count then s2.bump fJpRakeStat_TORN_MARKS p else s2
  | Option.none => s1.eventP p 0x0B h.toNat tag

/-- A write or add of a command is lost (R186, R187, R314): WRITES_LOST, and its object is torn. -/
def State.loseWrite (s : State) (p : Part) (t : Option TrackerId) (h : W32) : State :=
  let s1 := match t with
    | some k => s.mark k fun m => { m with lost := true }
    | Option.none => s
  s1.tear p h t

/-! Halts (R45, R416) -/

/-- Releases the contexts that no command names (R195). -/
def State.releaseCtx (s : State) : State :=
  { s with sctx := s.sctx.filter fun x => s.streams.any fun c => decide (c.part = x.part) && decide (c.id = x.id) }

/-- Discards the early work that a test picks, with the contexts and units it alone held (R195, R212). -/
def State.dropEarlyOf (s : State) (f : StreamCmd → Bool) : State :=
  ({ s with streams := s.streams.filter fun c => !(decide (c.t = Option.none) && f c) } : State).releaseCtx

/-- Discards the early work of a ring (R212). -/
def State.dropEarly (s : State) (r : RingNo) : State :=
  (s.dropEarlyOf fun c => c.ring.any fun x => decide (x.1 = r)).modRing r fun x => { x with noEarly := [] }

/-- Words that wait for space in the direct-command FIFO are discarded once the path cannot drain (R64). -/
def State.dcmdFlush (s : State) (p : Part) : State :=
  if (s.part p).dcmdWait = [] then s
  else (s.modPart p fun ps => { ps with dcmdWait := [] }).setFld fJpDcmdStatus_DISCARD 1 p

/-- Halts a ring with a status; only the first halt counts (R45). -/
def State.haltRing (s : State) (r : RingNo) (st : Byte) : State :=
  match s.ring r with
  | Option.none => s
  | some x =>
    if x.ctx.halted then s
    else ((s.modRing r fun x => { x with ctx := { x.ctx with halted := true, haltStatus := st } }).eventP x.part 0x07
      r.toNat st.toNat).dropEarly r

/-- Halts the direct path of a partition (R416). -/
def State.haltDirect (s : State) (p : Part) (st : Byte) : State :=
  if s.fld fJpDcmdStatus_HALTED p = 1 then s
  else (((s.setFld fJpDcmdStatus_HALTED 1 p).setFld fJpDcmdStatus_HALT_STATUS st.toNat p).dcmdFlush p).eventP p 0x07 0xFFFFFFFF st.toNat

/-- Halts where a command came from. A served request has no path of its own. -/
def State.haltSrc (s : State) (src : Src) (st : Byte) : State :=
  match src with
  | .ring r => s.haltRing r st
  | .direct p => s.haltDirect p st
  | .remote _ => s

/-! Completion records (table after R35) -/

/-- DETAIL: two parts that stop at 0xFFFF for KEYED_LOOKUP and STREAM (R154, R199), one count otherwise. -/
def Tracker.detailWord (x : Tracker) : Nat :=
  if x.op = 0x18 ∨ x.op = 0x30 then min x.detail 0xFFFF + min x.detailHi 0xFFFF * 65536 else min x.detail 0xFFFFFFFF

/-- The 16 bytes of a completion record as a number. -/
def recordNat (x : Tracker) (version : Nat) (phase : Nat) : Nat :=
  x.tag + (x.count.toNat % 65536) * 2 ^ 32 + x.marks.status.toNat * 2 ^ 48 + x.op * 2 ^ 56 +
  (x.detailWord + (version % 65536) * 2 ^ 32 + (phase + 2 * x.torn.toNat) * 2 ^ 48) * 2 ^ 64

/-- The VERSION of the record: bits [15:0] of the version pinned for TABLE, zero if none. -/
def Tracker.version (x : Tracker) : Nat :=
  match x.pins.find? (fun q => decide (q.table = cTable x.cmd)) with
  | some q => (Desc.version q.desc).toNat % 65536
  | Option.none => 0

/-- The descriptor pinned for the command's own table. -/
def Tracker.desc (x : Tracker) : Option Desc := x.pins.head?.map (·.desc)
/-- The descriptor pinned second: the remainder or state table. -/
def Tracker.desc2 (x : Tracker) : Option Desc := (x.pins[1]?).map (·.desc)

/-! Waits on marks (R42, R44) -/

/-- The value a WAIT compares with TARGET: a published ring mark, a held one, or an external mark (R44). -/
def State.waitValue (s : State) (c : Cmd) : Option W64 :=
  if cSource c = 1 then some (s.reg .jpXmark (cSrcPart c) (cSrcIndex c % 256))
  else
    let r := BitVec.ofNat 18 (cSrcIndex c)
    match s.ring r with
    | some x => some x.ctx.mark
    | none => (s.heldMarks.find? fun e => decide (e.1 = r)).map (·.2)

/-- A blocked WAIT whose source has reached TARGET completes with OK (R42). -/
def State.wake (s : State) : State :=
  { s with trackers := s.trackers.map fun x =>
      if x.op = 0x02 ∧ x.phase = .running ∧ (s.waitValue x.cmd).any (fun v => decide (cW2 x.cmd ≤ v)) then
        { x with phase := .done } else x }

/-! FIFO errors (R382, R383, R401) -/

/-- A word of a FIFO class fails parity: it is counted, and a class past its threshold changes to ECC (R383). -/
def State.fifoParity (s : State) (c : Nat) : State :=
  let s1 := (s.bump fJeFifoStat_PARITY c).bump fJeFifoStat_WINDOW c
  let n := s1.fld fJeFifoStat_WINDOW c
  if c ≠ 0 ∧ s1.fld fJeFifoCtl_AUTO c = 1 ∧ s1.fld fJeFifoCtl_MODE c = 0 ∧ s1.fld fJeFifoCtl_THRESH c < n then
    (s1.setFld fJeFifoCtl_MODE 1 c).eventE 0x26 c n
  else s1

/-- An armed injection lands in the word of a class and partition that is written now (R401); the flag says whether the word
goes on poisoned. In ECC mode every kind but a double-bit error is corrected. -/
def State.inject (s : State) (c : Nat) (p : Part) : State × Bool :=
  match s.armed with
  | some (cls, q, kind) =>
    if cls = c ∧ q = p then
      let s1 := ({ s with armed := Option.none } : State).setFld fJeInject_BUSY 0
      if s.fld fJeFifoCtl_MODE c = 0 then (s1.fifoParity c, true)
      else if kind = 2 then (s1.bump fJeFifoStat_UNCORR c, true)
      else (s1.bump fJeFifoStat_CORR c, false)
    else (s, false)
  | Option.none => (s, false)

/-- A word of a class is read under its format (R382): with the error it has met, and with the injection armed for it. In parity mode
an error delivers it poisoned; in ECC mode a single-bit error is corrected and a double-bit error delivers it poisoned. -/
def State.fifoWord (s : State) (c : Nat) (p : Part) (err : EccErr) : State × Bool :=
  let inj := s.inject c p
  match err with
  | .clean => inj
  | e =>
    if s.fld fJeFifoCtl_MODE c = 0 then (inj.1.fifoParity c, true)
    else if e = .corrected then (inj.1.bump fJeFifoStat_CORR c, inj.2)
    else (inj.1.bump fJeFifoStat_UNCORR c, true)

end Sys2Proof.Machine
end

