-- ==== Sys2Proof/Machine/Cloche.lean ====
section
/-! DEFINITION. The Cloche of each lane (R125 to R138): lookup, allocation with the victims of R128, the eviction buffer,
locks, invalidation, and the ageing tick. Entries hold no data: a Cloche line is never newer than memory, and a copy
is updated or invalidated before a write is accepted (R131). -/
namespace Sys2Proof.Machine

/-- The line of a physical address, as the lanes name it: SPACE and OFFSET, in lines of 256 B. -/
def lineKey (a : Nat) : Nat := a % 2 ^ 56 / 256

/-- The state with other Cloche entries. -/
def State.withCloche (s : State) (l : List ClocheEnt) : State := { s with cloche := l }

/-- A line that a Cloche may allocate: device HBM in a device-owned page (R125). -/
def State.cacheable (s : State) (a : Nat) : Bool :=
  s.isHbm a && (!(s.inWindow a) || decide (s.biasOf (s.pageOf a) = .device))

/-- Slice of a lane. -/
def laneSlice (l : LaneId) : SliceId := Fin.ofNat 8 (l.val / 32)

/-- The lane is the tree mode's: MODE 0 (R128). -/
def State.treeMode (s : State) (l : LaneId) : Bool := decide (s.fld fJsClocheCtl_MODE (l.val / 32) = 0)

/-- The set of a line in a Cloche: bits [2:0] of its number within its channel (R125). -/
def State.clocheSet (s : State) (key : Nat) : Nat :=
  match hashLine s.mappedList (key % 2 ^ 44) with
  | some (_, m) => m % 8
  | none => 0

/-- The entry of a line in a lane. -/
def State.clocheAt (s : State) (l : LaneId) (key : Nat) : Option ClocheEnt :=
  s.cloche.find? fun e => decide (e.lane = l) && decide (e.line = key)

/-- The entries of a set. -/
def State.setEnts (s : State) (l : LaneId) (set : Nat) : List ClocheEnt :=
  s.cloche.filter fun e => decide (e.lane = l) && decide (e.set = set)

/-- The pseudo-LRU tree of a set. -/
def State.treeBits (s : State) (l : LaneId) (set : Nat) : BitVec 7 :=
  ((s.trees.find? fun t => decide (t.lane = l) && decide (t.set = set)).map (·.bits)).getD 0

/-- Sets a tree; a zero tree is not listed. -/
def State.putTree (s : State) (l : LaneId) (set : Nat) (b : BitVec 7) : State :=
  let rest := s.trees.filter fun t => !(decide (t.lane = l) && decide (t.set = set))
  { s with trees := if b = 0 then rest else ⟨l, set, b⟩ :: rest }

/-- A bit of a tree set or cleared. -/
def setBit7 (b : BitVec 7) (i : Nat) (v : Bool) : BitVec 7 :=
  if v then b ||| BitVec.ofNat 7 (2 ^ i) else b &&& ~~~(BitVec.ofNat 7 (2 ^ i))

/-- The tree after a hit or fill of way w: each bit on its path points to the other half (R128). -/
def treeTouch (b : BitVec 7) (w : Nat) : BitVec 7 :=
  let b1 := setBit7 b 0 (decide (w < 4))
  let b2 := setBit7 b1 (1 + w / 4) (decide (w % 4 < 2))
  setBit7 b2 (3 + w / 2) (decide (w % 2 = 0))

/-- One node of the walk to the victim: the indicated half, or the other where it holds no eligible way. -/
def treeSide (b : BitVec 7) (node : Nat) (elig : List Nat) (lo size : Nat) : Nat :=
  let right := b.getLsbD node
  let half := lo + (if right then size / 2 else 0)
  if elig.any (fun w => decide (half ≤ w) && decide (w < half + size / 2)) then half
  else lo + (if right then 0 else size / 2)

/-- The victim of the tree among the eligible ways. -/
def treeVictim (b : BitVec 7) (elig : List Nat) : Nat :=
  let l1 := treeSide b 0 elig 0 8
  let l2 := treeSide b (1 + l1 / 4) elig l1 4
  treeSide b (3 + l2 / 2) elig l2 2

/-- The victim of the ageing mode: the greatest age, ties to the lowest way. -/
def ageVictim (l : List ClocheEnt) : Option Nat :=
  match l with
  | [] => none
  | e :: r => some (r.foldl (fun (best : Nat × Nat) (x : ClocheEnt) =>
      if best.2 < x.age ∨ (best.2 = x.age ∧ x.way < best.1) then (x.way, x.age) else best) (e.way, e.age)).1

/-- A hit or fill of a way: its age is zero and the tree points away (R128). -/
def State.clocheTouch (s : State) (e : ClocheEnt) : State :=
  let same (x : ClocheEnt) : Bool := decide (x.lane = e.lane) && decide (x.set = e.set) && decide (x.way = e.way)
  let s1 : State := { s with cloche := updFirst same (fun x => { x with age := 0 }) s.cloche }
  s1.putTree e.lane e.set (treeTouch (s1.treeBits e.lane e.set) e.way)

/-- A victim's line enters the eviction buffer of four, the oldest leaving (R130). -/
def State.evict (s : State) (e : ClocheEnt) : State :=
  let mine := (s.evb.filter fun x => decide (x.lane = e.lane)) ++ [⟨e.lane, e.line, e.valid, false⟩]
  { s with
    cloche := s.cloche.filter fun x => !(decide (x.lane = e.lane) && decide (x.set = e.set) && decide (x.way = e.way))
    evb := (s.evb.filter fun x => decide (x.lane ≠ e.lane)) ++ mine.drop (mine.length - 4) }

/-- The way an allocation takes: the lowest empty way (DESIGN CHOICE), or a victim, which is evicted; none with no
eligible way (R127, R128). -/
def State.takeWay (s : State) (l : LaneId) (set : Nat) : State × Option Nat :=
  let ents := s.setEnts l set
  match (List.range 8).find? (fun w => !(ents.any fun e => decide (e.way = w))) with
  | some w => (s, some w)
  | none =>
    let el := ents.filter fun e => decide (e.lock = none) && !e.held
    let w := if s.treeMode l then (if el = [] then none else some (treeVictim (s.treeBits l set) (el.map (·.way)))) else ageVictim el
    match w with
    | none => (s, none)
    | some w => match ents.find? (fun e => decide (e.way = w)) with
      | some e => (s.evict e, some w)
      | none => (s, none)

/-- Installs a line with its valid granules (R127): into its own way where it has one, else into a way that frees. The
flag says whether it is installed; NO_ALLOC counts it otherwise. A copy of the line that stands in the eviction buffer leaves it, and
its granules join the new way's (DESIGN CHOICE, log 76). -/
def State.install (s : State) (l : LaneId) (key : Nat) (valid : BitVec 4) : State × Bool :=
  match s.clocheAt l key with
  | some e =>
    let s1 := s.withCloche
      (updFirst (fun x => decide (x.lane = l) && decide (x.line = key)) (fun x => { x with valid := x.valid ||| valid }) s.cloche)
    (s1.clocheTouch e, true)
  | none =>
    let old := (s.evb.find? fun x => decide (x.lane = l) && decide (x.line = key)).elim 0 (·.valid)
    let s0 : State := { s with evb := s.evb.filter fun x => !(decide (x.lane = l) && decide (x.line = key)) }
    let set := s.clocheSet key
    match s0.takeWay l set with
    | (s1, none) => (s1.bump fJsPoolStat_NO_ALLOC (l.val / 32), false)
    | (s1, some w) =>
      let e : ClocheEnt := ⟨l, set, w, key, valid ||| old, none, false, 0, 0⟩
      (({ s1 with cloche := s1.cloche ++ [e] } : State).clocheTouch e, true)

/-- Looks a line up for a granule mask (R125, R129, R130): hit or miss, with its counters. A parity error on a hit, in the Cloche or
in the eviction buffer, invalidates the entry and serves the request as a miss. -/
def State.clocheLookup (s : State) (l : LaneId) (key : Nat) (mask : BitVec 4) (parity : Bool) : State × Bool :=
  let n := l.val / 32
  match s.clocheAt l key with
  | some e =>
    if mask &&& ~~~e.valid = 0 then
      if parity then
        let drop (x : ClocheEnt) : Bool := decide (x.lane = l) && decide (x.line = key)
        let s1 := s.withCloche (if e.lock = none ∧ !e.held then s.cloche.filter fun x => !(drop x)
          else updFirst drop (fun x => { x with valid := 0 }) s.cloche)
        (((s1.bump fJsClocheStat_PARITY n).bump fJsClocheStat_MISSES n), false)
      else ((s.clocheTouch e).bump fJsClocheStat_HITS n, true)
    else (s.bump fJsClocheStat_MISSES n, false)
  | none =>
    match s.evb.find? (fun x => decide (x.lane = l) && decide (x.line = key)) with
    | some v =>
      if mask &&& ~~~v.valid = 0 then
        let s1 : State := { s with evb := eraseFirst (fun x => decide (x = v)) s.evb }
        if parity then ((s1.bump fJsClocheStat_PARITY n).bump fJsClocheStat_MISSES n, false) else
        let s2 := match s1.takeWay l (s.clocheSet key) with
          | (_, none) => s
          | (s3, some w) =>
            let e : ClocheEnt := ⟨l, s.clocheSet key, w, key, v.valid, none, false, 0, 0⟩
            ({ s3 with cloche := s3.cloche ++ [e] } : State).clocheTouch e
        ((s2.bump fJsPoolStat_EVB_HITS n).bump fJsClocheStat_HITS n, true)
      else (s.bump fJsClocheStat_MISSES n, false)
    | none => (s.bump fJsClocheStat_MISSES n, false)

/-! Locks (R134 to R137) -/

/-- Lines a partition has locked in a lane. -/
def State.locksIn (s : State) (p : Part) (l : LaneId) : Nat :=
  (s.cloche.filter fun e => decide (e.lane = l) && e.lock.any fun k => decide (k.1 = p)).length

/-- Locks a line for a partition and table where R134 allows; the flag says whether it is locked for them. -/
def State.lockLine (s : State) (p : Part) (table : Nat) (l : LaneId) (key : Nat) : State × Bool :=
  match s.clocheAt l key with
  | none => (s, false)
  | some e =>
    match e.lock with
    | some k => (s, decide (k = (p, table)))
    | none =>
      let all := (s.cloche.filter fun x => decide (x.lane = l) && decide (x.lock ≠ none)).length
      let inSet := ((s.setEnts l e.set).filter fun x => decide (x.lock ≠ none)).length
      if 32 ≤ all ∨ 4 ≤ inSet ∨ min 32 (s.fld fJpClocheLock_LIMIT p) ≤ s.locksIn p l then (s, false)
      else
        (s.withCloche (updFirst (fun x => decide (x.lane = l) && decide (x.line = key))
            (fun x => { x with lock := some (p, table), age := 0 }) s.cloche), true)

/-- Unlocks the lines that a test picks; an invalidated one gives up its way. -/
def State.unlockWhere (s : State) (f : Part × Nat → Bool) : State :=
  let l := s.cloche.map fun (e : ClocheEnt) => if e.lock.any f then { e with lock := none } else e
  s.withCloche (l.filter fun e => decide (e.valid ≠ 0) || decide (e.lock ≠ none) || e.held)

/-- Counts lost locks in their owners' LOCKS_LOST (R132, R137, R225). -/
def State.countLost (s : State) (l : List ClocheEnt) : State :=
  l.foldl (fun s e => match e.lock with | some k => s.bump fJpPoolStat_LOCKS_LOST k.1.val | none => s) s

/-! Invalidation (R131 to R133) -/

/-- A write that invalidates: the copy goes; a locked or held way is kept and refills (R131). -/
def State.invalidateLine (s : State) (key : Nat) : State :=
  let hit (e : ClocheEnt) : Bool := decide (e.line = key)
  let l := s.cloche.map fun (e : ClocheEnt) => if hit e then { e with valid := 0 } else e
  { s with
    cloche := l.filter fun e => !(hit e) || decide (e.lock ≠ none) || e.held
    evb := s.evb.filter fun x => decide (x.line ≠ key) }

/-- A whole-line zero write: the copy is zero with all four granules valid (R131). -/
def State.zeroLineCopy (s : State) (key : Nat) : State :=
  { s with
    cloche := s.cloche.map fun (e : ClocheEnt) => if e.line = key then { e with valid := BitVec.allOnes 4 } else e
    evb := s.evb.map fun (x : EvbEnt) => if x.line = key then { x with valid := BitVec.allOnes 4 } else x }

/-- Lines of a range are invalidated and their locks lost (R132, R225). -/
def State.dropLines (s : State) (f : Nat → Bool) : State :=
  let s1 := s.countLost (s.cloche.filter fun e => f e.line)
  { s1 with cloche := s1.cloche.filter fun e => !(f e.line), evb := s1.evb.filter fun x => !(f x.line) }

/-- A lane's Cloche at its entry to service, or when it leaves it: invalid, locks lost, trees zero (R128, R133, R137). -/
def State.resetCloche (s : State) (l : LaneId) : State :=
  let s1 := s.countLost (s.cloche.filter fun e => decide (e.lane = l))
  { s1 with
    cloche := s1.cloche.filter fun e => decide (e.lane ≠ l)
    evb := s1.evb.filter fun x => decide (x.lane ≠ l)
    trees := s1.trees.filter fun t => decide (t.lane ≠ l) }

/-- FLUSH of a slice (R133): every entry is invalidated; locks stay, and locked ways refill. -/
def State.flushSlice (s : State) (n : SliceId) : State :=
  let mine (l : LaneId) : Bool := decide (laneSlice l = n)
  let l := s.cloche.map fun (e : ClocheEnt) => if mine e.lane then { e with valid := 0 } else e
  { s with
    cloche := l.filter fun e => !(mine e.lane) || decide (e.lock ≠ none) || e.held
    evb := s.evb.filter fun x => !(mine x.lane)
    trees := s.trees.filter fun t => !(mine t.lane) }

end Sys2Proof.Machine
end

