-- ==== Sys2Proof/Machine/Wcb.lean ====
section
/-! DEFINITION. How a write reaches memory: the write-combining buffers (R245 to R248), the bias of a window page and the
lines that the Trellis tracks (R295, R304), the squash of early work (R211), writes to the board tier (R291, R292), and the
writes that the hub makes to its own structures. -/
namespace Sys2Proof.Machine

/-- Squashes the slots of early work that read a 4 KiB block of an address range (R211). -/
def State.squash (s : State) (a n : Nat) : State :=
  if s.streams.all (fun c => decide (c.t ≠ none)) then s
  else
    { s with streams := s.streams.map fun c =>
        if c.t = none then
          { c with slots := c.slots.map fun sl =>
              if sl.blocks.any (fun b => decide (a / 4096 ≤ b) && decide (b ≤ (a + n - 1) / 4096)) then
                { sl with squashed := true } else sl }
        else c }

/-! Lines that cores may hold (R295 to R304) -/

/-- The line of an HBM address, as its home numbers it. -/
def hbmLine (a : Nat) : Nat := physOff a / 256

/-- The address lies in a page that is not device-owned and not on its way to SHARED: its accesses go through the
Trellis (R295). -/
def State.tracked (s : State) (a : Nat) : Bool :=
  s.inWindow a && (decide (s.biasOf (s.pageOf a) = .shared) || decide (s.biasOf (s.pageOf a) = .toDevice))

/-- The address lies in a page on its way to SHARED: new accesses wait (R295). -/
def State.flipping (s : State) (a : Nat) : Bool := s.inWindow a && decide (s.biasOf (s.pageOf a) = .toShared)

/-- The Trellis entry of a line. -/
def State.trOf (s : State) (line : Nat) : Option TrEnt := s.trellis.find? fun e => decide (e.line = line)

/-- A transaction is open on a line. -/
def State.txnOn (s : State) (line : Nat) : Option Txn := s.txns.find? fun x => decide (x.line = line)

/-- A bit of a four-register array of 256 agents. -/
def State.agentBit (s : State) (r : RegId) (a : Byte) : Bool := (s.reg r (a.toNat / 64)).getLsbD (a.toNat % 64)

/-- The caching agents that are live (R300). -/
def State.liveAgents (s : State) : List Byte :=
  ((List.range 256).map (BitVec.ofNat 8)).filter fun a => s.agentBit .jeFabAgents a && !(s.agentBit .jeFabDeadmask a)

/-- The agents that a snoop of an entry goes to: its listed holders, or every live agent (R303, R304). -/
def State.holdersOf (s : State) (e : TrEnt) : List Byte := if e.ovf then s.liveAgents else e.holders

/-- Opens a transaction and sends its snoops. An overflowed entry's broadcast counts once (R303). -/
def State.openTxn (s : State) (e : Option TrEnt) (line : Nat) (agent : Option Byte) (req : ReqKind)
    (snoops : List (Byte × Snoop)) (atHome : Bool := false) (evict : Bool := false) : State :=
  let s1 := match e with
    | some e => if e.ovf ∧ snoops ≠ [] then s.bump fJsTrellisStat_BROADCASTS e.n.val else s
    | none => s
  let data : List Byte := s.rdBytes (s.hbmPhys (line * 256)) 256
  let s2 := snoops.foldl (fun s x => s.emit (.snoop x.1 line x.2 (if x.2 = .upd then some data else none))) s1
  let owner := e.bind fun e => if e.state = .x then e.holders.head? else none
  { s2 with txns := s2.txns ++ [⟨line, agent, req, snoops, false, atHome, evict, owner, 0, false⟩] }

/-- A grant's 64 fabric cycles still keep snoops from one of the agents (R309). -/
def TrEnt.held (e : TrEnt) (l : List Byte) : Bool := e.hold.any fun a => decide (a ∈ l)

/-- A request of the engine to a line with a Trellis entry or an open transaction: it opens its own transaction, or
waits for the line (R304, R308, R309). -/
def State.homeJ (s : State) (line : Nat) (req : ReqKind) (k : Snoop) : State :=
  match s.txnOn line, s.trOf line with
  | none, some e =>
    let dst := s.holdersOf e
    if e.held dst ∨ s.coreReqs.any (fun r => decide (r.line = line)) then { s with coreReqs := s.coreReqs ++ [⟨none, line, req⟩] }
    else s.openTxn (some e) line none req (dst.map fun a => (a, k))
  | _, _ => { s with coreReqs := s.coreReqs ++ [⟨none, line, req⟩] }

/-- Requests that wait at the home of a slice (R308), those held for a flip apart. -/
def State.homeLoad (s : State) (n : SliceId) : Nat :=
  (s.coreReqs.filter fun r => decide (s.sliceOf (s.hbmPhys (r.line * 256)) = n) && s.tracked (s.hbmPhys (r.line * 256))).length

/-- Whether a read of the engine may go on at an address (R295, R304, R313): a line that an agent owns is first read
from its owner, once for each requester. A stopped fabric link holds reads of the board tier. -/
def State.jReadOk (s : State) (who : Parker) (a : Nat) : State × Bool :=
  if s.isBoard a then (s, decide (s.fld fJeFabStatus_STATE ≠ 1) && decide (s.fld fJeFabStatus_STATE ≠ 3))
  else if s.flipping a ∨ s.isHbm a ∧ s.bankWaits (a / 64) then (s, false)
  else if !(s.tracked a) ∨ (hbmLine a, who) ∈ s.jreads then (s, true)
  else if (s.txnOn (hbmLine a)).isSome then (s, false)
  else match s.trOf (hbmLine a) with
    | some e =>
      if e.state ≠ .x then (s, true)
      else if e.held e.holders then (s, false)
      else (s.openTxn (some e) (hbmLine a) none (.jRead who) (e.holders.map fun a => (a, .cur)), false)
    | none => (s, true)

/-- A requester has used what was read for it from owners. -/
def State.jReadDone (s : State) (who : Parker) : State :=
  { s with jreads := s.jreads.filter fun x => decide (x.2 ≠ who) }

/-! Write-combining buffers (R245 to R248) -/

/-- Entries of a slice. -/
def State.wcbCount (s : State) (n : SliceId) : Nat := (s.wcb.filter fun e => decide (e.n = n)).length

/-- Bytes of a mask from `off` on, as many as there are. -/
def maskAt (off len : Nat) : BitVec 64 := BitVec.ofNat 64 ((2 ^ len - 1) <<< off)

/-- Bits of the data at those bytes. -/
def dataMask (off len : Nat) : BitVec 512 := BitVec.ofNat 512 ((2 ^ (8 * len) - 1) <<< (8 * off))

/-- Bytes merged into an entry. A write of all 64 bytes brings its own poison, a smaller one adds to it (R244). -/
def WcbEnt.merge (e : WcbEnt) (off : Nat) (bs : List Byte) (poison : Bool) : WcbEnt :=
  let m := e.mask ||| maskAt off bs.length
  { e with
    mask := m
    data := (e.data &&& ~~~(dataMask off bs.length)) ||| BitVec.ofNat 512 (leNat bs <<< (8 * off))
    poison := if bs.length = 64 then poison else e.poison || poison
    eligible := e.eligible || decide (m = BitVec.allOnes 64)
    state := if m = BitVec.allOnes 64 then .open_ else e.state }

/-- Two entries cover a granule in common. -/
def WcbEnt.meets (e f : WcbEnt) : Bool :=
  if e.zmask = 0 then f.covers e.granule
  else (List.range 4).any fun k => e.zmask.getLsbD k && f.covers (e.granule / 4 * 4 + k)

/-- Entries that `go` picks are put on their way to HBM, each granule's writes in order (R247). -/
def startEntries (go : WcbEnt → Bool) : List WcbEnt → List WcbEnt → List WcbEnt
  | prev, [] => prev
  | prev, e :: r =>
    let now := go e && !(prev.any fun f => e.meets f)
    startEntries go (prev ++ [if now then { e with state := .writing } else e]) r

/-- A whole entry that may go to HBM. -/
def WcbEnt.waits (e : WcbEnt) : Bool := e.eligible && decide (e.mask = BitVec.allOnes 64) && decide (e.state = .open_)

/-- Reads are queued at a pseudo-channel: of the lanes, of the adders, or merge reads. -/
def State.pcReads (s : State) (c : Nat × Bool) : Bool :=
  s.wcb.any (fun e => decide (e.state = .merging) && decide (s.pcOf e.granule = some c)) ||
  s.misses.any (fun m => (List.range 4).any fun k => m.granules.getLsbD k && decide (s.pcOf (m.line * 4 + k) = some c)) ||
  s.addQ.any (fun o => s.isHbm o.addr && decide (s.pcOf (o.addr / 64) = some c))

/-- The pseudo-channel of an entry has turned to writes (R247): WR_BATCH of its entries are eligible, its read queue is empty, or
the buffer holds 1,792 entries. -/
def State.turned (s : State) (e : WcbEnt) : Bool :=
  match s.pcOf e.granule with
  | none => true
  | some c =>
    let mine := s.wcb.filter fun x => decide (x.n = e.n) && x.eligible && decide (s.pcOf x.granule = some c)
    decide (max 1 (s.fld fJsHbmCtl_WR_BATCH e.n.val) ≤ mine.length) || !(s.pcReads c) || decide (1792 ≤ s.wcbCount e.n)

/-- Whole eligible entries whose pseudo-channel has turned go on their way, but for those of a bank that waits (R247, R256). -/
def State.settleWcb (s : State) : State :=
  if s.wcb.any (·.waits) then
    { s with wcb := startEntries (fun e => e.waits && s.turned e && !(s.bankWaits e.granule)) [] s.wcb }
  else s

/-- An entry becomes eligible; a partial one issues its merge read (R246, R247). -/
def State.makeEligible (s : State) (f : WcbEnt → Bool) : State :=
  let due (e : WcbEnt) : Bool := f e && !e.eligible && decide (e.state = .open_)
  let partials := s.wcb.filter fun e => due e && decide (e.mask ≠ BitVec.allOnes 64)
  let s1 := partials.foldl (fun (s : State) (e : WcbEnt) => s.bump fJsWcbStat_MERGE_READS e.n.val) s
  let step (e : WcbEnt) : WcbEnt :=
    if due e then { e with eligible := true, state := if e.mask = BitVec.allOnes 64 then .open_ else .merging } else e
  ({ s1 with wcb := s1.wcb.map step } : State).settleWcb

/-- Takes a granule out of an entry that is a zero line not on its way; none where nothing of the line is left. -/
def dropZero (g : Nat) (e : WcbEnt) : Option WcbEnt :=
  if e.zmask ≠ 0 ∧ e.covers g ∧ e.state ≠ .writing then
    let z := e.zmask &&& ~~~(BitVec.ofNat 4 (2 ^ (g % 4)))
    if z = 0 then none else some { e with zmask := z }
  else some e

/-- Takes a granule out of the zero lines that cover it. -/
def splitZero (g : Nat) (l : List WcbEnt) : List WcbEnt := l.filterMap (dropZero g)

/-- The effect of an accepted write on the Cloches and on early work (R131, R211). -/
def State.writeActs (s : State) (w : WrReq) : State :=
  let key := lineKey w.addr
  let s1 := if w.zeroLine then s.zeroLineCopy key else if w.invalidate then s.invalidateLine key else s
  s1.squash w.addr w.bytes.length

/-- The groups of IRQ completions are raised once their records are visible (R39, R289). -/
def State.recordSeen (s : State) (p : Part) (irq : List Nat) : State := irq.foldl (fun s g => s.irqRaise p g) s

/-- A write enters the buffer of its slice (R245, R248): none where it finds no entry. -/
def State.takeWcb (s : State) (n : SliceId) (w : WrReq) : Option State :=
  let g := w.addr / 64
  let part := if w.plain then none else some w.part
  let bg := s.bgOf w.owner && decide (w.record = none)
  let fresh (gr : Nat) (z : BitVec 4) : WcbEnt := ⟨n, gr, 0, 0, false, part, bg, .open_, false, z⟩
  let res : Option (List WcbEnt) :=
    if w.zeroLine then
      let rest := s.wcb.filter fun e => !(decide (e.granule / 4 = g / 4) && decide (e.state ≠ .writing))
      if (rest.filter fun e => decide (e.n = n)).length < 2048 then
        some (rest ++ [{ fresh (g / 4 * 4) (BitVec.allOnes 4) with mask := BitVec.allOnes 64, eligible := true }])
      else none
    else
      match s.wcb.find? (fun e => e.covers g && decide (e.state ≠ .writing)) with
      | some e =>
        if e.zmask = 0 then
          some (updFirst (fun x => decide (x = e)) (fun x => { x.merge (w.addr % 64) w.bytes w.poison with part := part, bg := bg }) s.wcb)
        else
          let l := splitZero g s.wcb
          if (l.filter fun e => decide (e.n = n)).length < 2048 then
            some (l ++ [{ fresh g 0 with mask := BitVec.allOnes 64, eligible := true }.merge (w.addr % 64) w.bytes w.poison])
          else none
      | none =>
        if s.wcbCount n < 2048 then some (s.wcb ++ [(fresh g 0).merge (w.addr % 64) w.bytes w.poison]) else none
  match res with
  | none => none
  | some l =>
    let s1 := ({ s with wcb := l } : State).settleWcb
    let s2 := (s1.writeActs w).peak fJsWcbStat_PEAK (s1.wcbCount n) n.val
    let s3 := if 1792 ≤ s2.wcbCount n then s2.makeEligible fun e => decide (e.n = n) else s2
    some (s3.recordSeen w.part w.irq)

/-- A completion record is lost: its ring halts and writes no more records, and COMPLETED stands at the first count without one
(R37, R316). -/
def State.recordLost (s : State) (r : RingNo) (n : W32) : State :=
  (s.haltRing r stWritesLost).modRing r fun x =>
    { x with mute := true, ctx := { x.ctx with completed := if behind n x.ctx.completed then n else x.ctx.completed } }

/-- What a lost write reports: WRITES_LOST and a torn object (R186, R187, R236, R260), or the halt of its ring. -/
def State.writeLost (s : State) (p : Part) (t : Option TrackerId) (h : W32) (record : Option (RingNo × W32))
    (plain : Bool := false) : State :=
  match record with
  | some r => s.recordLost r.1 r.2
  | none => if plain ∧ t = none then s else s.loseWrite p t h

/-- Where a write of HBM stands: its page flips, its channel takes no writes, it goes through its line's home, or to the buffer of
its slice. -/
inductive WrPlace where
  | flips | lost | home (n : SliceId) | buffer (n : SliceId)
deriving DecidableEq, Repr

/-- The way of a write (R260, R297, R304). -/
def State.wrPlace (s : State) (w : WrReq) : WrPlace :=
  let line := hbmLine w.addr
  if s.flipping w.addr ∧ !w.issued ∧ !w.atHome then .flips
  else match s.channelOf w.addr with
  | none => .lost
  | some (c, _) =>
    let n : SliceId := Fin.ofNat 8 (c / 32)
    if !(s.sliceServes n (w.owner.bind s.serialOf)) then .lost
    else if !w.atHome ∧ s.tracked w.addr ∧ ((s.trOf line).isSome ∨ (s.txnOn line).isSome) then .home n
    else .buffer n

/-- One attempt to make a write of HBM visible: none while it waits for its page or for an entry. A line that agents may
hold goes through its home (R304); a channel out of service loses the write (R260). -/
def State.tryWrite (s : State) (w : WrReq) : Option State :=
  match s.wrPlace w with
  | .flips => none
  | .lost => some (s.writeLost w.part w.owner w.obj w.record w.plain)
  | .home n => if s.homeLoad n < 512 then some (s.homeJ (hbmLine w.addr) (.jWrite w) .inv) else none
  | .buffer n => s.takeWcb n w

/-- Counts the first wait of a write that finds no entry (R245). -/
def State.noteFull (s : State) (w : WrReq) : State × WrReq :=
  match w.waited, s.wrPlace w with
  | false, .buffer n => (s.bump fJsWcbStat_FULL_WAITS n.val, { w with waited := true })
  | _, _ => (s, w)

/-- Makes a write visible at once where it can be, and queues it otherwise. -/
def State.putWrite (s : State) (w : WrReq) : State :=
  if s.wrQ.any (fun x => decide (x.addr / 64 = w.addr / 64)) then { s with wrQ := s.wrQ ++ [w] }
  else match s.tryWrite w with
    | some s1 => s1
    | none => let y := s.noteFull w; { y.1 with wrQ := y.1.wrQ ++ [y.2] }

/-! Writes to the board tier (R291, R292, R360) -/

/-- The host physical address of a place of the board tier (R265). -/
def State.boardHost (s : State) (off : Nat) : Nat := s.fld fJeBoardMap_BOARD_BASE * 2 ^ 30 + off

/-- The reads of those of some addresses that lie in the board tier go out to the host (R265, R287). -/
def State.readBoards (s : State) (l : List Nat) : State :=
  (l.filter s.isBoard).foldl (fun s a => s.emit (.boardRead (s.boardHost (physOff a)))) s

/-- The bytes that leave for the board tier, with their offset: a granule of the encrypted range is encrypted whole (R360). -/
def State.boardBytes (s : State) (w : BoardWr) : Nat × List Byte :=
  let off := physOff w.addr
  if s.encrypted off ∧ !w.poison then
    let g := w.addr / 64 * 64
    (off / 64 * 64, Config.xtsEncrypt (s.sec.board.getD []) (off / 64) (s.rdBytes g 64))
  else (off, w.bytes)

/-- The first k writes that are not sent are sent. -/
def markSent : Nat → List BoardWr → List BoardWr
  | 0, l => l
  | _, [] => []
  | k + 1, w :: r => if w.sent then w :: markSent (k + 1) r else { w with sent := true } :: markSent k r

/-- Sends the writes that the fabric agent still holds, while it runs (R313): at most 2,048 are outstanding (R287). -/
def State.sendBoards (s : State) : State :=
  if s.fld fJeFabStatus_STATE ≠ 0 then s
  else
    let room := 2048 - (s.boardWrs.filter (·.sent)).length
    let due := (s.boardWrs.filter fun w => !w.sent).take room
    let s1 := due.foldl (fun (s : State) w => let b := s.boardBytes w; s.emit (.boardWrite (s.boardHost b.1) b.2 w.poison w.isAdd)) s
    { s1 with boardWrs := markSent room s1.boardWrs }

/-- Issues writes to the board tier. After a zeroisation those of the encrypted range are lost (R363). -/
def State.issueBoard (s : State) (l : List BoardWr) : State :=
  let gone (w : BoardWr) : Bool := decide (s.fld fJeSecStatus_ZEROISED = 1) && s.encrypted (physOff w.addr)
  let s1 := (l.filter gone).foldl (fun (s : State) w => s.writeLost w.part w.owner w.obj w.record w.plain) s
  ({ s1 with boardWrs := s1.boardWrs ++ l.filter fun w => !(gone w) } : State).sendBoards

/-! Issue -/

/-- The pieces of a write, one for each granule, in the form the buffers take. -/
def wrPieces (a : Nat) (bs : List Byte) (poison : Bool) (p : Part) (owner : Option TrackerId) (obj : W32) (invalidate : Bool) :
    List WrReq :=
  (splitGran a bs (bs.length / 64 + 2)).map fun x => ⟨x.1, x.2, poison, p, owner, obj, false, invalidate, false, none, [], false, false, false, false⟩

/-- A write as the board tier takes it. -/
def WrReq.toBoard (w : WrReq) : BoardWr := ⟨w.addr, w.bytes, w.poison, w.part, w.owner, w.obj, false, w.record, w.irq, false, w.plain, w.old⟩

/-- Issues a write towards its point of visibility: to the slices' buffers for HBM, to the fabric for the board tier. -/
def State.issueWrite (s : State) (a : Nat) (bs : List Byte) (poison : Bool) (p : Part) (owner : Option TrackerId) (obj : W32)
    (invalidate : Bool := true) : State :=
  let pcs := wrPieces a bs poison p owner obj invalidate
  if s.isBoard a then s.issueBoard (pcs.map (·.toBoard)) else { s with wrQ := s.wrQ ++ pcs }

/-- A write that takes effect in the same step where it can (completion records, and what the hub keeps in memory). -/
def State.writeNow (s : State) (w : WrReq) : State := if s.isBoard w.addr then s.issueBoard [w.toBoard] else s.putWrite w

/-! What the hub keeps in memory for itself -/

/-- Writes bytes of a structure that the hub keeps (contexts, range-table entries): each granule's bytes go the way of any write, to
the buffer of their slice or to the board tier (R242, R245). -/
def State.poke (s : State) (a : Nat) (bs : List Byte) (p : Part := 0) (record : Option (RingNo × W32) := none) : State :=
  let pcs := (wrPieces a bs false p none 0 true).map fun w => { w with plain := true }
  if s.isBoard a then s.issueBoard (pcs.map fun w => { w.toBoard with record := record })
  else pcs.foldl (fun s w => s.putWrite w) s

/-- Writes a little-endian number of n bytes. -/
def State.pokeNat (s : State) (a n v : Nat) : State := s.poke a (leBytes n v)

end Sys2Proof.Machine
end

