-- ==== Sys2Proof/Machine/Xlat.lean ====
section
/-! DEFINITION. Address translation (R264 to R286): the range cache and the walk, where each access may go, parking and
fault records, replies, publication of a key array and the invalidation protocol. -/
namespace Sys2Proof.Machine

/-- Outcome of one lookup. -/
inductive XRes where
  | hit (phys : Nat) (obj : W32)
  | wait
  | fault (kind : FaultKind) (range : W32) (gen : BitVec 16)
deriving DecidableEq, Repr

/-- No range was found (R279). -/
def noRange : W32 := 0xFFFFFFFF#32

/-- N * 6 GiB, the HBM bound of R265. -/
def State.hbmBound (s : State) : Nat := s.mappedList.length * 6 * 2 ^ 30
/-- BOARD_GIB * 2^30, values above 8,192 acting as 8,192. -/
def State.boardBound (s : State) : Nat := min (s.fld fJePhysMap_BOARD_GIB) 8192 * 2 ^ 30

/-- The place of R265 and R266 is allowed for the access. -/
def State.placeOk (s : State) (acc : XAcc) (a : Nat) : Bool :=
  decide (physEngine a = s.fld fJePhysMap_ENGINE) &&
    (match physSpace a with
      | 0 => decide (physOff a < s.hbmBound)
      | 1 => decide (physOff a < s.boardBound)
      | 2 => decide (acc = .stream)
      | _ => false)

/-- The permission R266 requires. -/
def RangeEnt.allows (e : RangeEnt) : XAcc → Bool
  | .read => e.read
  | .stream => e.read
  | .row => e.read
  | .write => e.write
  | .add => e.add

/-- The chunk of an object that is MOVING or stopped decides where an address lies (R224, R227): none while the chunk
is being copied. -/
def State.chunkAddr (s : State) (p : Part) (h : W32) (a phys : Nat) : Option Nat :=
  match s.obj p h with
  | some o =>
    if h ≠ 0 ∧ (o.moving ∨ o.stopped) ∧ o.base.toNat ≤ a ∧ a < o.base.toNat + o.len then
      let k := (a - o.base.toNat) / 2 ^ 21
      if k < o.cursor then some (o.target.toNat + (a - o.base.toNat))
      else if o.moving ∧ k = o.cursor then none
      else some phys
    else some phys
  | none => some phys

/-- A cached range covers an address of its partition (R273). -/
def RangeEnt.covers (e : RangeEnt) (p : Part) (a : Nat) : Bool :=
  decide (e.part = p) && decide (e.start ≤ a) && decide (a < e.start + e.len)

/-- The result of a hit: permission, place, chunk (R224, R266, R277). -/
def State.hitRes (s : State) (p : Part) (a : Nat) (acc : XAcc) (e : RangeEnt) : XRes :=
  if !(e.allows acc) then .fault .permission (BitVec.ofNat 32 e.index) e.gen
  else
    match s.chunkAddr p e.obj a (e.phys + (a - e.start)) with
    | none => .wait
    | some ph => if s.placeOk acc ph then .hit ph e.obj else .fault .tier (BitVec.ofNat 32 e.index) e.gen

/-- Starts a walk where a walker is free (R275). Early work counts nowhere (R208). -/
def State.startWalk (s : State) (p : Part) (a : Nat) (early : Bool := false) : State :=
  if s.walks.length < 16 then
    let k := firstFree (s.walks.map (·.k.val)) 16 0
    let n := min (s.fld fJpXlatTable_SIZE_LOG2 p) 20
    let w : Walk := ⟨Fin.ofNat 16 k, p, a, [], s.fld fJpXlatIndex_BASE p * 4096, 0, max 1 (2 ^ n / 16) - 1, none, false⟩
    let s1 : State := { s with walks := s.walks ++ [w] }
    if early then s1 else s1.bump fJeXlatStat_WALKS
  else s

/-- A lookup has been counted in JE_XLAT_STAT and its access does not go on: given again, it counts nothing more. -/
def State.xnote (s : State) (p : Part) (who : Parker) (a : Nat) : State :=
  if (p, who, a) ∈ s.xnoted then s else { s with xnoted := (p, who, a) :: s.xnoted }

/-- A miss: it waits for the walk of its 2 MiB that is in progress, joining it once, or starts one (R275). -/
def State.missWalk (s : State) (p : Part) (a : Nat) (early : Bool := false) : State :=
  let near (w : Walk) : Bool := decide (w.part = p) && decide (w.addr / 2 ^ 21 = a / 2 ^ 21)
  match s.walks.find? near with
  | none => s.startWalk p a early
  | some w =>
    if w.addr = a ∨ a ∈ w.joins then s
    else
      let s1 : State := { s with walks := updFirst near (fun w => { w with joins := a :: w.joins }) s.walks }
      if early then s1 else s1.bump fJeXlatStat_WALK_JOINS

/-- One lookup (R273, R275): hit, wait for a walk, or the fault a finished walk left for this address. A lookup that missed or was
counted before counts no hit. -/
def State.xlat (s : State) (p : Part) (who : Parker) (a : Nat) (acc : XAcc) : State × XRes :=
  match s.rcache.find? (fun e => e.covers p a) with
  | some e =>
    let s1 : State := { s with rcache := e :: eraseFirst (fun x => decide (x = e)) s.rcache }
    let s2 := if (p, who, a) ∈ s.xnoted then { s1 with xnoted := eraseFirst (fun y => decide (y = (p, who, a))) s1.xnoted }
      else s1.bump fJeXlatStat_HITS
    match s.hitRes p a acc e with
    | .wait => (s2.xnote p who a, .wait)
    | r => (s2, r)
  | none =>
    match s.walkFaults.find? (fun f => decide (f.part = p) && decide (a ∈ f.addrs)) with
    | some f =>
      let left := s.walkFaults.map fun (x : WalkFault) => if x = f then { x with addrs := eraseFirst (fun y => decide (y = a)) x.addrs } else x
      ({ s with
        walkFaults := left.filter fun x => decide (x.addrs ≠ [])
        xnoted := eraseFirst (fun y => decide (y = (p, who, a))) s.xnoted }, .fault f.kind f.range f.gen)
    | none => ((s.missWalk p a).xnote p who a, .wait)

/-! Parking (R278, R279) -/

/-- Some request of a source waits in the parking store. -/
def State.srcParked (s : State) (p : Part) (src : Src) : Bool :=
  (s.part p).parked.any fun x =>
    match x.who with
    | .cmd t => (s.trk t).any fun y => decide (y.src = src)
    | .fetch r => decide (src = .ring r)
    | .record q => decide (q = src)
    | .admission q => decide (q = src)
    | .walk _ => false
    | .engine => false

/-- A command has a parked request. -/
def State.cmdParked (s : State) (p : Part) (t : TrackerId) : Bool :=
  (s.part p).parked.any fun x => decide (x.who = .cmd t)

/-- What a fault record says of the command that faulted: opcode, ring, whether direct, tag (R279, R281). An access of the engine's
own has no command: its record carries what R281 gives a fetch, whose command is not known either (DESIGN CHOICE, log 77). -/
def State.parkerInfo (s : State) (who : Parker) : Nat × RingNo × Bool × Nat :=
  let ofSrc (src : Src) : RingNo × Bool := match src with
    | .ring r => (r, false)
    | .direct _ => (0, true)
    | .remote _ => (0, false)
  match who with
  | .cmd t => match s.trk t with
    | some x => (x.op, (ofSrc x.src).1, (ofSrc x.src).2, x.tag)
    | none => (0xFF, 0, false, 0)
  | .fetch r => (0xFF, r, false, 0)
  | .record src => match s.trackers.find? (fun x => decide (x.src = src)) with
    | some x => (x.op, (ofSrc src).1, (ofSrc src).2, x.tag)
    | none => (0xFF, (ofSrc src).1, (ofSrc src).2, 0)
  | .admission src =>
    let c := match src with
      | .ring r => (s.ring r).bind (·.fetched.head?)
      | .direct q => (s.part q).dcmd.head?
      | .remote _ => none
    match c with
    | some c => (cOp c, (ofSrc src).1, (ofSrc src).2, cTag c)
    | none => (0xFF, (ofSrc src).1, (ofSrc src).2, 0)
  | .walk _ => (0xFF, 0, false, 0)
  | .engine => (0xFF, 0, false, 0)

/-- A faulting request joins an open record (R279). -/
def FaultRec.joins (f : FaultRec) (kind : FaultKind) (range : W32) (a : Nat) : Bool :=
  f.isOpen && decide (f.kind = kind) &&
    (if range = noRange then decide (f.range = noRange) && decide (f.addr / 2 ^ 21 = a / 2 ^ 21)
     else decide (f.range = range))

/-- Gives one waiting request a record: joins an open one, opens one where a place is free, else waits. -/
def State.openFault (s : State) (p : Part) (q : Parked) : State :=
  let ps := s.part p
  match ps.faults.find? (fun f => f.joins q.kind q.range q.addr) with
  | some f =>
    s.modPart p fun ps => { ps with
      faults := updFirst (fun x => decide (x.id = f.id)) (fun x => { x with count := satInc 0xFFFF x.count 1 }) ps.faults
      parked := ps.parked ++ [{ q with rec_ := some f.id }] }
  | none =>
    if ps.faults.length < 16 then
      let i := s.parkerInfo q.who
      (s.modPart p fun ps => { ps with
        faults := ps.faults ++ [⟨ps.faultNext, 1, q.access, q.kind, BitVec.ofNat 8 i.1, q.addr, i.2.2.1, i.2.1,
          BitVec.ofNat 32 i.2.2.2, q.range, q.gen, true, 0⟩]
        faultNext := ps.faultNext + 1
        parked := ps.parked ++ [{ q with rec_ := some ps.faultNext }] }).partVector p
    else s.modPart p fun ps => { ps with parked := ps.parked ++ [q] }

/-- A request is in the parking store: it waits there for the reply to its record (R278, R281). -/
def State.isParked (s : State) (p : Part) (who : Parker) (a : Nat) : Bool :=
  (s.part p).parked.any fun x => decide (x.who = who) && decide (x.addr = a)

/-- A request that faults waits in the parking store, which holds 4,096 (R278). -/
def State.park (s : State) (p : Part) (who : Parker) (a : Nat) (acc : XAcc) (kind : FaultKind) (range : W32)
    (gen : BitVec 16) : State :=
  let ps := s.part p
  if s.isParked p who a ∨ 4096 ≤ ps.parked.length then s
  else
    let s1 := s.openFault p ⟨who, a, acc.code, kind, range, gen, none⟩
    if (s1.part p).parked.any (fun x => decide (x.who = who) && decide (x.addr = a) && decide (x.rec_ = none)) then
      s1.bump fJpFaultStatus_FULL_WAITS p
    else if s1.srcParked p (.direct p) then s1.dcmdFlush p else s1

/-- Drops records that are closed and wholly read, and gives waiting requests the places that free (R279). -/
def State.drainFaults (s : State) (p : Part) : State :=
  let s1 := s.modPart p fun ps => { ps with faults := ps.faults.filter fun f => f.isOpen || decide (f.wordsRead < 4) }
  let waiting := (s1.part p).parked.filter fun x => decide (x.rec_ = none)
  let s2 := s1.modPart p fun ps => { ps with parked := ps.parked.filter fun x => decide (x.rec_ ≠ none) }
  waiting.foldl (fun s q => s.openFault p q) s2

/-! Aborts -/

/-- The stream of a command ends where it stands, with the fill that it feeds: the bank goes back to EMPTY. -/
def State.dropStream (s : State) (t : TrackerId) : State :=
  let gone (i : Fin 2) : Bool := s.fills.any fun f => decide (f.t = t) && decide (f.bank = some i)
  ({ s with
    streams := s.streams.filter fun c => decide (c.t ≠ some t)
    fills := s.fills.filter fun f => decide (f.t ≠ t)
    banks := s.banks.mapFinIdx fun i b h => if gone ⟨i, h⟩ then Bank.reset else b } : State).releaseCtx

/-- Ends a parked command, or one that a stopping disable ends, with FAULT_ABORTED (R61, R281): its requests that
wait are discarded; work already translated goes on. Bag commands drain with their lost bags poisoned (R393); a KEYED_LOOKUP still has
the selections of those bags to write (R160), and gives up its demand fill (DESIGN CHOICE, log 42). -/
def State.abortCmd (s : State) (t : TrackerId) : State :=
  match s.trk t with
  | none => s
  | some x =>
    if x.phase = .done then s
    else
      let s1 := (s.mark t fun m => { m with aborted := true }).modPart x.part fun ps =>
        { ps with parked := ps.parked.filter fun y => decide (y.who ≠ .cmd t) }
      match x.op with
      | 0x10 => s1
      | 0x20 => s1
      | 0x50 => s1
      | 0x18 =>
        { s1.dropStream t with keyed := s1.keyed.map fun k => if k.t = t then { k with bank := none, stage := .aborted, ahead := [] } else k }
      | 0x21 => { s1 with applies := s1.applies.map fun a => if a.t = t then { a with rows := [] } else a }
      | 0x30 => (s1.dropStream t).finish t
      | _ => s1.finish t

/-- The record, or the fetch, of a ring can go no further (R37, R281): the ring halts and writes no more records. -/
def State.muteSrc (s : State) (src : Src) (st : Byte) : State :=
  match src with
  | .ring r => (s.haltRing r st).modRing r fun x => { x with mute := true }
  | .direct p => s.haltDirect p st
  | .remote _ => s

/-- What an abort does to a parked request (R281): its command completes with FAULT_ABORTED; the command in hand at admission completes
without effect (R33); an access of the engine's own is given up (DESIGN CHOICE, log 77). -/
def State.abortParker (s : State) (p : Part) (a : Nat) : Parker → State
  | .cmd t => s.abortCmd t
  | .fetch r => s.haltRing r stFaultAborted
  | .record src => s.muteSrc src stFaultAborted
  | .admission src =>
    { s with admReads := ⟨src, true, false, true⟩ :: s.admReads.filter fun (a : AdmRead) => decide (a.src ≠ src) }
  | .walk _ => s
  | .engine => { s with engAborted := s.engAborted ++ [(p, a)] }

/-- Withdraws every open record of a quiescing partition and aborts its parked commands (R61). -/
def State.withdrawFaults (s : State) (p : Part) : State :=
  let mine := (s.part p).parked
  let s1 := s.modPart p fun ps => { ps with
    parked := [], faults := ps.faults.map fun f => { f with isOpen := false } }
  (mine.foldl (fun s x => s.abortParker p x.addr x.who) s1).drainFaults p

/-! Lookups of a requester -/

/-- Notes the object a command's access meets (R237). -/
def State.touch (s : State) (who : Parker) (h : W32) : State :=
  match who with
  | .cmd t => if h = 0 then s else s.modTrk t fun x => if h ∈ x.touched then x else { x with touched := h :: x.touched }
  | _ => s

/-- The partition's units translate: its parking store is not full (R278). -/
def State.mayTranslate (s : State) (p : Part) : Bool := decide ((s.part p).parked.length < 4096)

/-- A lookup for a requester, parking it on a fault: the physical address where the access goes on, with the handle of
its range. A read also waits for its page and for the owner of its line. A parked request waits, and with a full parking store
nothing is translated (R278). -/
def State.look (s : State) (p : Part) (who : Parker) (a : Nat) (acc : XAcc) : State × Option (Nat × W32) :=
  if s.isParked p who a ∨ !(s.mayTranslate p) then (s, none) else
  let x := s.xlat p who a acc
  match x.2 with
  | .hit ph h =>
    let s1 := x.1.touch who h
    if acc = .read ∨ acc = .stream then
      let g := s1.jReadOk who ph
      if g.2 then (g.1, some (ph, h)) else (g.1.xnote p who a, none)
    else (s1, some (ph, h))
  | .wait => (x.1, none)
  | .fault k r g =>
    let s1 := x.1.park p who a acc k r g
    (if s.partQuiescing p then s1.withdrawFaults p else s1, none)

/-- Looks up each address of a list; none where any of them does not go on. -/
def State.lookAll (s : State) (p : Part) (who : Parker) (acc : XAcc) : List Nat → State × Option (List (Nat × W32))
  | [] => (s, some [])
  | a :: r =>
    match s.look p who a acc with
    | (s1, none) => (s1, none)
    | (s1, some x) =>
      match s1.lookAll p who acc r with
      | (s2, none) => (s2.xnote p who a, none)
      | (s2, some l) => (s2, some (x :: l))

/-- The granule addresses that n bytes from an address touch. -/
def granAddrs (a n : Nat) : List Nat :=
  (List.range ((a + n + 63) / 64 - a / 64)).map fun k => if k = 0 then a else (a / 64 + k) * 64

/-- Reads n bytes at a partition address, granule by granule (R242): the bytes and whether any granule is poisoned;
none while a walk, a closed chunk or a fault holds the read. -/
def State.readPart (s : State) (p : Part) (who : Parker) (a n : Nat) (acc : XAcc := .read) :
    State × Option (List Byte × Bool) :=
  match s.lookAll p who acc (granAddrs a n) with
  | (s1, none) => (s1, none)
  | (s1, some l) =>
    let phs := l.map (·.1)
    let ser := match who with
      | .cmd t => s1.serialOf t
      | _ => none
    let bs := (List.range n).map fun k =>
      let ph := phs.getD ((a + k) / 64 - a / 64) 0
      s1.rdByte (ph / 64 * 64 + (a + k) % 64)
    let own := match who with
      | .cmd t => some t
      | _ => none
    let s2 := (if own = none then s1 else s1.bwRead p own (phs.headD 0) n).readBoards phs
    (s2, some (bs, phs.any fun ph => s1.granPoison (ph / 64) ser))

/-- Issues a write at a partition address: each granule at its own translation. The flag says whether it went out. -/
def State.writePart (s : State) (p : Part) (who : Parker) (a : Nat) (bs : List Byte) (poison : Bool)
    (owner : Option TrackerId) : State × Bool :=
  match s.lookAll p who .write (granAddrs a bs.length) with
  | (s1, none) => (s1, false)
  | (s1, some phs) =>
    let pcs := splitGran a bs (bs.length / 64 + 2)
    ((pcs.zip phs).foldl (fun s x => s.issueWrite x.2.1 x.1.2 poison p owner x.2.2) s1, true)

/-! The rows of chapter 11 -/

/-- The physical addresses of a partition's transfers that have been translated and have not reached their ends (R282 step 4), each
with its mark of R284: writes, adds and contributions of the Rake wherever they stand, line reads, and reads of remote storage. -/
def State.transfers (s : State) (p : Part) : List (Nat × Bool) :=
  let mine (t : TrackerId) : Bool := (s.trk t).any fun x => decide (x.part = p)
  let ofWork (w : LaneWork) : List (Nat × Bool) :=
    if mine w.t then (w.seg.addr, w.old) :: w.rem.map fun r => (r.addr, w.old) else []
  let ofC (c : Contrib) : List (Nat × Bool) := if mine c.t then [(c.addr, c.old)] else []
  let ofOp (o : AddOp) : List (Nat × Bool) := if o.part = p then [(o.addr, o.old)] else []
  let ofWr (w : WrReq) : List (Nat × Bool) := if w.part = p then [(w.addr, w.old)] else []
  let ofReq : ReqKind → List (Nat × Bool)
    | .jWrite w => ofWr w
    | .jAdd o => ofOp o
    | _ => []
  s.wrQ.flatMap ofWr ++ (s.boardWrs.filter fun w => decide (w.part = p)).map (fun w => (w.addr, w.old)) ++
  s.addQ.flatMap ofOp ++ s.misses.flatMap (fun m => m.work.flatMap ofWork) ++ s.laneQ.flatMap ofWork ++
  s.txns.flatMap (fun x => ofReq x.req) ++ s.coreReqs.flatMap (fun x => ofReq x.req) ++
  s.links.toList.flatMap (fun l => l.todo.flatMap (·.flatMap ofC) ++ l.replay.flatMap fun m => m.items.flatMap ofC) ++
  (s.preagg ++ s.mergeStore).flatMap (fun e => ofC e.c) ++
  s.nvme.flatMap fun v => (v.reads.filter fun r => mine r.t).map fun r => (r.addr, r.old)

/-- Transfers of partition p are still on their way in one of some spans of physical bytes (R282 step 4). -/
def State.inTransit (s : State) (p : Part) (spans : List (Nat × Nat)) : Bool :=
  (s.transfers p).any fun y => spans.any fun z => decide (z.1 ≤ y.1) && decide (y.1 < z.1 + z.2)

/-- Transfers of partition p that were translated before an invalidation of every range are still on their way (R284). -/
def State.inTransitOld (s : State) (p : Part) : Bool := (s.transfers p).any (·.2)

/-- Marks what partition p has translated so far (R284). -/
def State.markOld (s : State) (p : Part) : State :=
  let mine (t : TrackerId) : Bool := (s.trk t).any fun x => decide (x.part = p)
  let work (w : LaneWork) : LaneWork := if mine w.t then { w with old := true } else w
  let con (c : Contrib) : Contrib := if mine c.t then { c with old := true } else c
  let op (o : AddOp) : AddOp := if o.part = p then { o with old := true } else o
  let wr (w : WrReq) : WrReq := if w.part = p then { w with old := true } else w
  let req : ReqKind → ReqKind
    | .jWrite w => .jWrite (wr w)
    | .jAdd o => .jAdd (op o)
    | k => k
  let agg (e : PreAgg) : PreAgg := { e with c := con e.c }
  let msg (m : RakeMsg) : RakeMsg := { m with items := m.items.map con }
  { s with
    wrQ := s.wrQ.map wr
    boardWrs := s.boardWrs.map fun (w : BoardWr) => if w.part = p then { w with old := true } else w
    addQ := s.addQ.map op
    misses := s.misses.map fun (m : Miss) => { m with work := m.work.map work }
    laneQ := s.laneQ.map work
    txns := s.txns.map fun (x : Txn) => { x with req := req x.req }
    coreReqs := s.coreReqs.map fun (x : CoreReq) => { x with req := req x.req }
    links := s.links.map fun l => { l with todo := l.todo.map (·.map con), replay := l.replay.map msg, flight := l.flight.map msg }
    preagg := s.preagg.map agg
    mergeStore := s.mergeStore.map agg
    nvme := s.nvme.map fun (v : NvmeSlot) => { v with reads := v.reads.map fun (r : NvmeRead) => if mine r.t then { r with old := true } else r } }

/-- The publication of an index is over once no walk uses the old array (R271). -/
def State.settleIndex (s : State) (p : Part) : State :=
  if s.walks.any (fun w => decide (w.part = p) && w.old) then s else s.setFld fJpXlatIndex_BUSY 0 p

/-- Ends a walk, leaving its fault, if any, for the request that missed, and for those that joined it whose addresses the fault
concerns as well; the others miss again. -/
def State.endWalk (s : State) (w : Walk) (f : Option (FaultKind × W32 × BitVec 16)) (also : Nat → Bool := fun _ => true) : State :=
  let s1 := { s with walks := eraseFirst (fun x => decide (x.k = w.k)) s.walks }
  let s2 : State := match f with
    | some (kind, r, g) => { s1 with walkFaults := s1.walkFaults ++ [(⟨w.part, w.addr :: w.joins.filter also, kind, r, g⟩ : WalkFault)] }
    | none => s1
  s2.settleIndex w.part

/-- The malformed test of R269 on a range table entry, as four 64-bit words. -/
def State.entryBad (s : State) (e : Nat) : Bool :=
  let start := natBits e 12 52 * 4096
  let len := natBits e (64 + 12) 52 * 4096
  let phys := natBits e (128 + 12) 52 * 4096
  let last := phys + len - 1
  let w0 := s.hbmPhys (s.fld fJeWinCtl_BASE_GIB * 2 ^ 30)
  let inWin := s.inWindow phys && decide (phys + len ≤ w0 + 64 * 2 ^ 30)
  let touchesWin := decide (s.fld fJeWinCtl_ENABLED = 1) && decide (phys < w0 + 64 * 2 ^ 30) && decide (w0 < phys + len)
  decide (natBits e 8 4 ≠ 0) || decide (natBits e 4 3 ≠ 0) || decide (natBits e 64 12 ≠ 0) ||
  decide (natBits e 128 12 ≠ 0) || decide (natBits e (192 + 16) 16 ≠ 0) || decide (len = 0) ||
  decide (2 ^ 64 < start + len) || decide (phys / 2 ^ 52 ≠ last / 2 ^ 52) ||
  (decide (physEngine phys = s.fld fJePhysMap_ENGINE) &&
    (match physSpace phys with
      | 0 => decide (s.hbmBound < physOff phys + len)
      | 1 => decide (s.boardBound < physOff phys + len)
      | 2 => decide (phys / 2 ^ 44 ≠ last / 2 ^ 44)
      | _ => false)) ||
  (if natBits e 7 1 = 1 then !inWin else touchesWin)

/-- The cached form of a range table entry. -/
def entryOf (p : Part) (i e : Nat) : RangeEnt :=
  ⟨p, i, BitVec.ofNat 16 (natBits e 192 16), natBits e 12 52 * 4096, natBits e 76 52 * 4096, natBits e 140 52 * 4096,
    decide (natBits e 7 1 = 1), decide (natBits e 1 1 = 1), decide (natBits e 2 1 = 1), decide (natBits e 3 1 = 1),
    BitVec.ofNat 32 (natBits e 224 32)⟩

/-- The cached ranges of a partition. -/
def State.rangesOf (s : State) (p : Part) : Nat := (s.rcache.filter fun e => decide (e.part = p)).length

/-- Removes the last element that a test picks. -/
def eraseLast {α : Type} (f : α → Bool) (l : List α) : List α := (eraseFirst f l.reverse).reverse

/-- A fill of the range cache, with the victim of R274. A range that leaves is remembered, with what it mapped, until an
invalidation has waited for the transfers under it. -/
def State.fillRange (s : State) (e : RangeEnt) : State :=
  let l := s.rcache.filter fun x => !(decide (x.part = e.part) && decide (x.index = e.index))
  let mn (q : Part) : Nat := s.fld fJpXlatCtl_CACHE_MIN q
  let l1 :=
    if l.length < 256 then l
    else if mn e.part ≤ s.rangesOf e.part ∧ 0 < s.rangesOf e.part then eraseLast (fun x => decide (x.part = e.part)) l
    else if l.any (fun x => decide (mn x.part < s.rangesOf x.part)) then
      eraseLast (fun x => decide (mn x.part < s.rangesOf x.part)) l
    else l.dropLast
  let gone := s.rcache.filter fun x => !(x ∈ l1) && decide (x ≠ e) && !(x ∈ s.rpast)
  { s with rcache := e :: l1, rpast := s.rpast ++ gone }

/-- Cached ranges leave the cache while transfers under them may be on their way. -/
def State.forgetRanges (s : State) (f : RangeEnt → Bool) : State :=
  { s with
    rcache := s.rcache.filter fun e => !(f e)
    rpast := s.rpast ++ s.rcache.filter fun e => f e && !(e ∈ s.rpast)
    streams := s.streams.map fun (c : StreamCmd) => { c with
      range := c.range.filter fun e => !(f e)
      rcvs := c.rcvs.map fun (r : Receiver) => { r with range := r.range.filter fun e => !(f e) } } }

/-- The used keys among the first n of a line of the key array: START and index of each (R268). -/
def keysOf (line : List Byte) (n : Nat) : List (Nat × Nat) :=
  (List.range n).filterMap fun i =>
    let st := bytesAt line (16 * i) 8
    if st = 2 ^ 64 - 1 then none else some (st, bytesAt line (16 * i + 8) 4)

/-- A range whose lookups wait: the driver invalidates it (R282), or the engine does at the end of an OBJECT_MOVE (R272). -/
def State.rangeHeld (s : State) (p : Part) (i : Nat) : Bool :=
  ((s.part p).inval).any (fun v => decide (v.range = some i)) ||
    s.objMoves.any fun m => m.finishing && decide (m.part = p) && (s.obj p m.handle).any fun o => decide (o.range = i)

/-- The entry read of a walk (R275): fault, or fill. An invalidation of this range holds the walk (R282); one that did not find its GEN
leaves the range not VALID. -/
def State.walkEntry (s : State) (w : Walk) (i : Nat) : State :=
  let base := s.fld fJpXlatTable_BASE w.part * 4096 + 32 * i
  let rg := BitVec.ofNat 32 i
  if s.rangeHeld w.part i then s
  else if s.rdPoison base 32 then s.endWalk w (some (.walkPoison, rg, 0))
  else
    let e := s.rdNat base 32
    let ent := entryOf w.part i e
    let here (a : Nat) : Bool := decide (ent.start ≤ a) && decide (a < ent.start + ent.len)
    if natBits e 0 1 = 0 ∨ i ∈ (s.part w.part).unmapped then s.endWalk w (some (.noRange, rg, ent.gen)) here
    else if s.entryBad e then s.endWalk w (some (.malformed, rg, ent.gen)) here
    else if !(ent.covers w.part w.addr) then
      s.endWalk w (some (.noRange, rg, ent.gen)) fun a => decide (ent.start + ent.len ≤ a) && decide (a ≤ w.addr)
    else (s.fillRange ent).endWalk w none

/-- One key-line read of a walk (R275): a binary search over lines of 16 keys. -/
def State.walkKeys (s : State) (w : Walk) : State :=
  let mid := if w.lo = w.hi then w.lo else (w.lo + w.hi + 1) / 2
  let la := w.keys + 256 * mid
  if s.rdPoison la 256 then s.endWalk w (some (.walkPoison, noRange, 0))
  else
    let ks := keysOf (s.rdBytes la 256) (min 16 (2 ^ s.fld fJpXlatTable_SIZE_LOG2 w.part))
    if w.lo = w.hi then
      match (ks.filter fun k => decide (k.1 ≤ w.addr)).getLast? with
      | none => s.endWalk w (some (.noRange, noRange, 0)) fun a => decide (a ≤ w.addr)
      | some (st, i) =>
        if 2 ^ min (s.fld fJpXlatTable_SIZE_LOG2 w.part) 20 ≤ i then
          s.endWalk w (some (.malformed, BitVec.ofNat 32 i, 0)) fun a => decide (st ≤ a) && decide (a ≤ w.addr)
        else { s with walks := updFirst (fun x => decide (x.k = w.k)) (fun x => { x with entry := some i }) s.walks }
    else
      let above := match ks.head? with
        | some k => decide (w.addr < k.1)
        | none => true
      let narrow (x : Walk) : Walk := { x with lo := if above then x.lo else mid, hi := if above then mid - 1 else x.hi }
      { s with walks := updFirst (fun x => decide (x.k = w.k)) narrow s.walks }

/-- The address of the read that a walk waits for. -/
def State.walkAddr (s : State) (w : Walk) : Nat :=
  match w.entry with
  | some i => s.fld fJpXlatTable_BASE w.part * 4096 + 32 * i
  | none => w.keys + 256 * (if w.lo = w.hi then w.lo else (w.lo + w.hi + 1) / 2)

/-- A key line or the entry of walk k returns (R275). -/
def State.walkStep (s : State) (k : Fin 16) : State :=
  match s.walks.find? (fun w => decide (w.k = k)) with
  | none => s
  | some w =>
    let g := s.jReadOk (.walk k) (s.walkAddr w)
    if !g.2 then g.1
    else
      let s1 := g.1.jReadDone (.walk k)
      match w.entry with
      | none => s1.walkKeys w
      | some i => s1.walkEntry w i

/-- KIND of R277. -/
def FaultKind.code : FaultKind → Nat
  | .noRange => 1 | .permission => 2 | .tier => 3 | .malformed => 4 | .walkPoison => 5

/-- Word k of a fault record (table after R279). -/
def FaultRec.word (f : FaultRec) (k : Nat) : W64 :=
  BitVec.ofNat 64 (match k with
    | 0 => f.id.toNat * 2 ^ 48 + f.count * 2 ^ 32 + f.access * 2 ^ 20 + f.kind.code * 2 ^ 8 + f.opcode.toNat
    | 1 => f.addr
    | 2 => f.direct.toNat * 2 ^ 63 + f.ring.toNat * 2 ^ 32 + f.tag.toNat
    | _ => f.range.toNat * 2 ^ 32 + f.gen.toNat)

/-- The half of a word that an access returns (R7, R407). -/
def viewOf (acc : RegAcc) (v : W64) : W64 :=
  match acc with
  | .full => v
  | .lo => BitVec.ofNat 64 (v.toNat % 2 ^ 32)
  | .hi => BitVec.ofNat 64 (v.toNat / 2 ^ 32)

/-- A read of JP_FAULT (R280, R407): the next word of the oldest unread record; the low half removes nothing. -/
def State.readFault (s : State) (p : Part) (acc : RegAcc) : State × W64 :=
  match (s.part p).faults.find? (fun f => decide (f.wordsRead < 4)) with
  | none => (s.setFld fJpFaultStatus_UNDERRUN 1 p, (s.part p).faultLast)
  | some f =>
    let v := f.word f.wordsRead
    let s1 := s.modPart p fun ps => { ps with faultLast := v }
    if acc = .lo then (s1, v)
    else
      ((s1.modPart p fun ps => { ps with
        faults := updFirst (fun x => decide (x.id = f.id)) (fun x => { x with wordsRead := x.wordsRead + 1 }) ps.faults }).drainFaults p, v)

/-- Closes a record; a wholly read one frees its place. -/
def State.closeFault (s : State) (p : Part) (id : BitVec 16) : State :=
  s.modPart p fun ps => { ps with
    faults := updWhere (fun x => decide (x.id = id) && x.isOpen) (fun x => { x with isOpen := false }) ps.faults }

/-- What finished walks left for requests of a partition is dropped: they miss afresh. -/
def State.freshWalks (s : State) (p : Part) : State := { s with walkFaults := s.walkFaults.filter fun f => decide (f.part ≠ p) }

/-- A retry reply (R281): every waiting request of the record translates again, with a fresh walk. -/
def State.faultRetry (s : State) (p : Part) (id : BitVec 16) : State :=
  match (s.part p).faults.find? (fun f => decide (f.id = id) && f.isOpen) with
  | none => s.setFld fJpFaultStatus_REPLY_STALE 1 p
  | some f =>
    let s1 := ((s.closeFault p id).modPart p fun ps => { ps with parked := ps.parked.filter fun x => decide (x.rec_ ≠ some id) }).freshWalks p
    (s1.forgetRanges fun e => decide (e.part = p) && decide (BitVec.ofNat 32 e.index = f.range)).drainFaults p

/-- An abort reply (R281): every parked command of the record completes with FAULT_ABORTED. -/
def State.faultAbort (s : State) (p : Part) (id : BitVec 16) : State :=
  match (s.part p).faults.find? (fun f => decide (f.id = id) && f.isOpen) with
  | none => s.setFld fJpFaultStatus_REPLY_STALE 1 p
  | some _ =>
    let mine := (s.part p).parked.filter fun x => decide (x.rec_ = some id)
    let s1 := (s.closeFault p id).modPart p fun ps => { ps with parked := ps.parked.filter fun x => decide (x.rec_ ≠ some id) }
    (mine.foldl (fun s x => s.abortParker p x.addr x.who) s1).drainFaults p

/-- A write of JP_FAULT_REPLY (R281). -/
def State.faultReply (s : State) (p : Part) (v : Nat) : State :=
  match natBits v 62 2 with
  | 1 => s.faultRetry p (BitVec.ofNat 16 v)
  | 2 => s.faultAbort p (BitVec.ofNat 16 v)
  | _ => s

/-- A write of BASE to JP_XLAT_INDEX publishes a key array (R271). -/
def State.publishIndex (s : State) (p : Part) (base : Nat) : State :=
  let s1 : State := { s.freshWalks p with walks := s.walks.map fun (w : Walk) => { w with old := w.old || decide (w.part = p) } }
  ((s1.setFld fJpXlatIndex_BASE base p).setFld fJpXlatIndex_BUSY 1 p).settleIndex p

/-- Drops cached ranges and the walks that read their entries, from the streams that stand in one as well; what they mapped is
squashed (R211, R282 step 2). -/
def State.dropRanges (s : State) (p : Part) (f : Nat → Bool) : State :=
  let hit (e : RangeEnt) : Bool := decide (e.part = p) && f e.index
  let spans := ((s.rcache ++ s.rpast).filter hit).map fun e => (e.phys, e.len)
  let s1 : State := { s.freshWalks p with
    rcache := s.rcache.filter fun e => !(hit e)
    rpast := s.rpast.filter fun e => !(hit e)
    walks := s.walks.filter fun w => !(decide (w.part = p) && w.entry.any f)
    streams := s.streams.map fun (c : StreamCmd) => { c with
      range := c.range.filter fun e => !(hit e)
      rcvs := c.rcvs.map fun (r : Receiver) => { r with range := r.range.filter fun e => !(hit e) } } }
  spans.foldl (fun s y => s.squash y.1 y.2) (s1.settleIndex p)

/-- ACTION 01 of JP_XLAT_INVAL (R282), steps 1 and 2. -/
def State.invalRange (s : State) (p : Part) (gen : BitVec 16) (irq : Bool) : State :=
  let r := s.fld fJpXlatInvalRange_RANGE p
  let old := ((s.rcache ++ s.rpast).filter fun e => decide (e.part = p) && decide (e.index = r)).map fun e => (e.phys, e.len)
  let s1 := s.modPart p fun ps => { ps with inval := some ⟨some r, old, gen, irq⟩ }
  (s1.setFld fJpXlatInval_BUSY 1 p).dropRanges p fun i => decide (i = r)

/-- ACTION 10 of JP_XLAT_INVAL (R284). -/
def State.invalAll (s : State) (p : Part) (gen : BitVec 16) (irq : Bool) : State :=
  let s1 := ((s.markOld p).modPart p fun ps => { ps with inval := some ⟨none, [], gen, irq⟩, unmapped := [] }).setFld fJpXlatInval_BUSY 1 p
  let s2 := s1.dropRanges p fun _ => true
  ({ s2 with walks := s2.walks.filter fun w => decide (w.part ≠ p) } : State).settleIndex p

/-- Step 3 of R282: entry r, read until its GEN is g. It is cached where it is VALID; where g is not found it acts as not VALID. -/
def State.reread (s : State) (p : Part) (r : Nat) (gen : BitVec 16) : State × Bool :=
  let base := s.fld fJpXlatTable_BASE p * 4096 + 32 * r
  let e := s.rdNat base 32
  let found := decide (natBits e 192 16 = gen.toNat) && !(s.rdPoison base 32)
  let put (ps : PartSt) : PartSt := { ps with unmapped := (ps.unmapped.filter fun i => decide (i ≠ r)) ++ (if found then [] else [r]) }
  let s1 := s.modPart p put
  (if found ∧ natBits e 0 1 = 1 ∧ s.entryBad e = false then s1.fillRange (entryOf p r e) else s1, found)

/-- The end of an invalidation (R282 steps 3 to 5, R284), once no old transfer is left. -/
def State.invalDone (s : State) (p : Part) : State :=
  match (s.part p).inval with
  | none => s
  | some v =>
    let s1 := (s.modPart p fun ps => { ps with inval := none }).setFld fJpXlatInval_BUSY 0 p
    match v.range with
    | none =>
      if s.inTransitOld p then s
      else
        let s2 := s1.setFld fJpXlatInval_RESULT 0 p
        if v.irq then s2.eventP p 0x0E 0xFFFFFFFF (s2.fld fJpXlatInval_ACK_GEN p) else s2
    | some r =>
      if s.inTransit p v.old then s
      else
        let y := s1.reread p r v.gen
        let s2 := (y.1.setFld fJpXlatInval_RESULT (if y.2 then 0 else 3) p).setFld fJpXlatInval_ACK_GEN v.gen.toNat p
        if v.irq then s2.eventP p 0x0E r v.gen.toNat else s2

end Sys2Proof.Machine
end

