-- ==== Sys2Proof/Machine/Engine.lean ====
section
/-! DEFINITION. What the engine does in memory on its own account: accesses that no command owns, and the records of registered
objects (R216); what every command ends in; the rows of chapter 11 that read and finish. -/
namespace Sys2Proof.Machine

/-! Memory accesses of the engine's own -/

/-- Why an access of the engine's own does not go on: it waits for a translation, for a line's holders or for the reply to its fault,
for a place among the moves, or it ends in its fault. -/
inductive EngErr where
  | wait (a : Nat) (acc : XAcc)
  | full
  | fault (a : Nat) (acc : XAcc)
deriving DecidableEq, Repr

/-- No core holds the line of an address, and nothing is open on it (R304, R313). -/
def State.lineHome (s : State) (a : Nat) : Bool :=
  if s.isBoard a then decide (s.fld fJeFabStatus_STATE ≠ 1) && decide (s.fld fJeFabStatus_STATE ≠ 3)
  else !(s.flipping a) && !(s.bankWaits (a / 64)) && (!(s.tracked a) || ((s.trOf (hbmLine a)).isNone && (s.txnOn (hbmLine a)).isNone))

/-- Recalls a line that cores hold, once. -/
def State.recallLine (s : State) (a : Nat) : State :=
  let line := hbmLine a
  if s.isBoard a ∨ s.flipping a ∨ !(s.tracked a) ∨ (s.txnOn line).isSome ∨ s.coreReqs.any (fun q => decide (q = ⟨none, line, .recall⟩)) then s
  else s.homeJ line .recall .inv

/-- A translation of the engine's own, to a line that is home. One that faults is parked (R278, R279), and ends in its fault where the
driver aborts it. `quiet` accesses open no record and end in their fault at once (R217). -/
def State.engAt (s : State) (p : Part) (a : Nat) (acc : XAcc) (quiet : Bool := false) : Except EngErr (State × Nat × W32) :=
  if (p, a) ∈ s.engAborted then .error (.fault a acc)
  else if s.isParked p .engine a ∨ !(s.mayTranslate p) then .error (.wait a acc)
  else match s.xlat p .engine a acc with
    | (s1, .hit ph h) => if s1.lineHome ph then .ok (s1, ph, h) else .error (.wait a acc)
    | (_, .wait) => .error (.wait a acc)
    | (_, .fault _ _ _) => .error (if quiet then .fault a acc else .wait a acc)

/-- What an access that does not go on leaves behind: its walk, the recall of its line, or its place in the parking store. A fault or
an abort is used up. -/
def State.engWait (s : State) (p : Part) : EngErr → State
  | .wait a acc =>
    if s.isParked p .engine a ∨ !(s.mayTranslate p) then s
    else match s.xlat p .engine a acc with
      | (s1, .hit ph _) => (s1.xnote p .engine a).recallLine ph
      | (s1, .wait) => s1
      | (s1, .fault k r g) =>
        let s2 := s1.park p .engine a acc k r g
        if s.partQuiescing p then s2.withdrawFaults p else s2
  | .fault a acc =>
    if (p, a) ∈ s.engAborted then { s with engAborted := eraseFirst (fun y => decide (y = (p, a))) s.engAborted }
    else (s.xlat p .engine a acc).1
  | .full => s

/-- A little-endian number of n bytes within one granule, and whether it reads poisoned. -/
def State.engRead (s : State) (p : Part) (a n : Nat) (acc : XAcc := .read) (quiet : Bool := false) :
    Except EngErr (State × Nat × Bool) :=
  match s.engAt p (a % 2 ^ 64) acc quiet with
  | .error e => .error e
  | .ok y => .ok (y.1.readBoards [y.2.1], y.1.rdNat y.2.1 n, y.1.rdPoison y.2.1 n)

/-- Writes bytes within one granule. A granule that the tier no longer takes is lost, and its object is torn (R187, R260). -/
def State.engPut (s : State) (p : Part) (a : Nat) (bs : List Byte) (acc : XAcc := .write) (poison : Bool := false)
    (invalidate : Bool := true) (owner : Option TrackerId := none) (quiet : Bool := false) : Except EngErr State :=
  match s.engAt p (a % 2 ^ 64) acc quiet with
  | .error e => .error e
  | .ok y =>
    let s1 := y.1
    let ph := y.2.1
    let w : WrReq := ⟨ph, bs, poison, p, owner, y.2.2, false, invalidate, false, none, [], false, false, false, false⟩
    .ok (s1.writeNow w)

/-! Object records (R215, R216) -/

/-- The 32 bytes of a registered object's record (table after R215). -/
def Obj.bytes (o : Obj) (valid : Bool) : List Byte :=
  leBytes 8 (o.base.toNat / 4096 * 4096 + o.tier * 2 ^ 8 + o.moving.toNat * 4 + o.torn.toNat * 2 + valid.toNat) ++
  leBytes 8 (bitsOf o.handle 24 8 * 2 ^ 56 + o.len) ++ leBytes 8 (o.cursor * 2 ^ 32 + o.range) ++ leBytes 8 o.target.toNat

/-- Writes the record of one object, where it is due: for the OBJECT_MOVE of the object, which completes once the write is visible
(R36). A write whose fault is aborted is passed by. -/
def State.syncObj (s : State) (o : Obj) : State :=
  let clear (s : State) : State :=
    { s with objs := updFirst (fun y => decide (y.part = o.part) && decide (y.handle = o.handle)) (fun y => { y with due := false }) s.objs }
  let mover := (s.trackers.find? fun x => decide (x.part = o.part) && decide (x.op = 0x41) && x.admitted && decide (cObject x.cmd = o.handle)).map
    (·.id)
  match s.engPut o.part (s.objRecAddr o.part o.handle) (o.bytes true) (owner := mover) with
  | .ok s1 => clear s1
  | .error (.fault a acc) => clear (s.engWait o.part (.fault a acc))
  | .error e => s.engWait o.part e

/-- Keeps the records of registered objects current in memory (R216). -/
def State.syncObjs (s : State) : State := (s.objs.filter (·.due)).foldl (fun s o => s.syncObj o) s

/-- What every command ends in: a next state whose object records are current, and in which each blocked WAIT whose source has
reached TARGET has completed (R42, R216). -/
def stepTo (s : State) : Host.Outcome State Fault Refusal := .next s.syncObjs.wake

end Sys2Proof.Machine
end

