-- ==== Sys2Proof/Machine/Rings.lean ====
section
/-! DEFINITION. Rings, doorbells, command fetch, the direct path and partitions (R22 to R29, R56 to R65, R415 to R418):
contexts, the doorbell buffer, enabling and disabling, quiesce and full initialisation. -/
namespace Sys2Proof.Machine

/-! Ring contexts (R22 to R25) -/

/-- The physical address of a ring's context. -/
def State.ctxAddr (s : State) (r : RingNo) : Nat := s.fld fJeRingCtxBase_BASE * 2 ^ 24 + r.toNat * 64

/-- A ring context as memory holds it. -/
def State.readCtx (s : State) (r : RingNo) : RingCtx :=
  let a := s.ctxAddr r
  let w := s.rdNat (a + 16) 8
  ⟨BitVec.ofNat 64 (s.rdNat a 8), BitVec.ofNat 64 (s.rdNat (a + 8) 8), natBits w 0 6, natBits w 8 6, natBits w 16 2,
    natBits w 20 4, decide (natBits w 31 1 = 1), BitVec.ofNat 8 (natBits w 32 8), BitVec.ofNat 32 (s.rdNat (a + 0x18) 4),
    BitVec.ofNat 32 (s.rdNat (a + 0x1C) 4), BitVec.ofNat 32 (s.rdNat (a + 0x20) 4), BitVec.ofNat 64 (s.rdNat (a + 0x28) 8)⟩

/-- The context as 64 bytes; reserved bits are zero. -/
def RingCtx.bytes (c : RingCtx) : List Byte :=
  leBytes 8 c.cmdBase.toNat ++ leBytes 8 c.cplBase.toNat ++
  leBytes 8 (c.sizeLog2 + c.irqGroup * 2 ^ 8 + c.priority * 2 ^ 16 + c.runahead * 2 ^ 20 + c.halted.toNat * 2 ^ 31 +
    c.haltStatus.toNat * 2 ^ 32) ++
  leBytes 4 c.produced.toNat ++ leBytes 4 c.consumed.toNat ++ leBytes 4 c.completed.toNat ++ leBytes 4 0 ++
  leBytes 8 c.mark.toNat ++ leBytes 16 0

/-- Writes a context back to memory (R25). -/
def State.writeCtx (s : State) (r : RingNo) (c : RingCtx) : State := s.poke (s.ctxAddr r) c.bytes 0 (some (r, c.completed))

/-- The context checks of R58. -/
def RingCtx.valid (c : RingCtx) : Bool :=
  decide (6 ≤ c.sizeLog2) && decide (c.sizeLog2 ≤ 16) && decide (c.cmdBase.toNat % 4096 = 0) &&
  decide (c.cplBase.toNat % 4096 = 0) && !(behind c.consumed c.completed) && !(behind c.produced c.consumed) &&
  decide ((c.produced - c.completed).toNat ≤ 2 ^ c.sizeLog2)

/-- Slots of the ring. -/
def RingCtx.size (c : RingCtx) : Nat := 2 ^ c.sizeLog2

/-- Puts a ring into the context cache, writing back the least recently used of 4,096 (R25). -/
def State.cacheCtx (s : State) (r : RingNo) : State :=
  let lru := r :: s.ctxLru.filter fun x => decide (x ≠ r)
  let s1 : State := { s with ctxLru := lru.take 4096 }
  let s2 := s1.modRing r fun x => { x with cached := true }
  match lru.drop 4096 with
  | [] => s2
  | v :: _ => match s2.ring v with
    | some y => (s2.writeCtx v y.ctx).modRing v fun x => { x with cached := false }
    | none => s2

/-- The ring's context is cached, and now the most recently used; otherwise its read is asked for (R25). -/
def State.needCtx (s : State) (r : RingNo) : State × Bool :=
  match s.ring r with
  | some x => if x.cached then (s.cacheCtx r, true) else ({ s with ctxReads := if r ∈ s.ctxReads then s.ctxReads else s.ctxReads ++ [r] }, false)
  | none => (s, false)

/-! Doorbells (R26 to R29) -/

/-- Event and counter of a discarded doorbell (R28). -/
def State.dbDiscard (s : State) (p : Part) (code : Nat) (f : Fld) (r : RingNo) (n : W32) : State :=
  (s.bump f p).eventP p code r.toNat n.toNat

/-- A doorbell enters the buffer (R29): against the buffered value and the completed count, or anew. -/
def State.dbEnter (s : State) (r : RingNo) (n : W32) : State :=
  match s.ring r with
  | none => s
  | some x =>
    match s.dbBuf.find? (fun e => decide (e.1 = r)) with
    | some e =>
      if n = e.2 then s
      else if behind n e.2 then s.dbDiscard x.part 0x05 fJpDbStat_REGRESS r n
      else if x.ctx.size < (n - x.ctx.completed).toNat then s.dbDiscard x.part 0x06 fJpDbStat_OVERRUN r n
      else { s with dbBuf := s.dbBuf.map fun e => if e.1 = r then (r, n) else e }
    | none =>
      if s.dbBuf.length < 8192 then { s with dbBuf := s.dbBuf ++ [(r, n)] } else { s with dbWait := s.dbWait ++ [(r, n)] }

/-- A doorbell value reaches the fabric agent (R28, R29). -/
def State.dbArrive (s : State) (r : RingNo) (n : W32) : State :=
  match s.ringOwner r.toNat with
  | none => s
  | some p =>
    if !(s.partEnabled p) ∨ s.ring r = none then s.dbDiscard p 0x04 fJpDbStat_DISABLED r n
    else
      match s.needCtx r with
      | (s1, true) => s1.dbEnter r n
      | (s1, false) => { s1 with dbWait := s1.dbWait ++ [(r, n)] }

/-- Bytes of an access width. -/
def accBytes : AccW → Nat
  | .w8 => 1 | .w16 => 2 | .w32 => 4 | .w64 => 8

/-- The event "malformed register access" (R6, R26). -/
def State.malformed (s : State) (off : Nat) (write : Bool) (w : AccW) : State :=
  s.eventE 0x01 off (write.toNat + accBytes w * 16)

/-- A write to the doorbell arrays (R26). -/
def State.doorbell (s : State) (off : BitVec 25) (w : AccW) (v : W64) : State :=
  let o := off.toNat % 128
  if !s.ready ∨ 8 ≤ o then s
  else if o = 0 ∧ (w = .w64 ∨ w = .w32) then s.dbArrive (BitVec.ofNat 18 (off.toNat / 128)) (BitVec.ofNat 32 v.toNat)
  else s.malformed (0x2000000 + off.toNat) true w

/-- DOORBELL_SPACE_FREED (R29): the oldest doorbell that waits for space, with its ring's context cached, enters. -/
def execDoorbellSpaceFreed (s : State) : Host.Outcome State Fault Refusal :=
  stepTo (match s.dbWait.find? (fun e => (s.ring e.1).any (·.cached)) with
    | some e =>
      if 8192 ≤ s.dbBuf.length ∧ !(s.dbBuf.any fun b => decide (b.1 = e.1)) then s
      else ({ s with dbWait := eraseFirst (fun x => decide (x = e)) s.dbWait } : State).dbEnter e.1 e.2
    | none => match s.dbWait.find? (fun e => decide (s.ring e.1 = none)) with
      | some e => ({ s with dbWait := eraseFirst (fun x => decide (x = e)) s.dbWait } : State).dbArrive e.1 e.2
      | none => s)

/-- The checks of R28 on a value that leaves the buffer. -/
def State.dbApply (s : State) (r : RingNo) (n : W32) : State :=
  match s.ringOwner r.toNat with
  | none => s
  | some p => match s.ring r with
    | none => s.dbDiscard p 0x04 fJpDbStat_DISABLED r n
    | some x =>
      if !(s.partEnabled p) then s.dbDiscard p 0x04 fJpDbStat_DISABLED r n
      else if n = x.ctx.produced then s
      else if behind n x.ctx.produced then s.dbDiscard p 0x05 fJpDbStat_REGRESS r n
      else if x.ctx.size < (n - x.ctx.completed).toNat then s.dbDiscard p 0x06 fJpDbStat_OVERRUN r n
      else (s.modRing r fun x => { x with ctx := { x.ctx with produced := n } }).emit (.dbAccepted r)

/-- DOORBELL_BUFFER_TAKE (R25, R28): the oldest entry leaves the buffer; while its ring's context is not cached it waits for the
context's read. -/
def execDoorbellBufferTake (s : State) : Host.Outcome State Fault Refusal :=
  stepTo (match s.dbBuf with
    | [] => s
    | e :: rest =>
      if s.ring e.1 = none then ({ s with dbBuf := rest } : State).dbApply e.1 e.2
      else match s.needCtx e.1 with
        | (s1, true) => ({ s1 with dbBuf := rest } : State).dbApply e.1 e.2
        | (s1, false) => s1)

/-- CONTEXT_READ_RETURN (R25): the context of a live ring returns; a poisoned one halts the ring (R316). Doorbells
that waited for it go on. -/
def execContextReadReturn (ring : RingNo) (s : State) : Host.Outcome State Fault Refusal :=
  stepTo (if ring ∈ s.ctxReads then
    let s1 : State := { s with ctxReads := s.ctxReads.filter fun r => decide (r ≠ ring) }
    let g := s1.jReadOk (.fetch ring) (s1.ctxAddr ring)
    if s1.ring ring = none then s1
    else if !g.2 then { g.1 with ctxReads := s.ctxReads }
    else if s1.rdPoison (s1.ctxAddr ring) 64 then s1.haltRing ring stPoisoned
    else
      let mine := s1.dbWait.filter fun e => decide (e.1 = ring)
      let s2 := (({ s1 with dbWait := s1.dbWait.filter fun e => decide (e.1 ≠ ring) } : State).jReadDone (.fetch ring)).cacheCtx ring
      mine.foldl (fun s e => s.dbEnter e.1 e.2) s2
  else s)

/-- What admission has begun for the next command of a source is forgotten with the command: its reads, its share of a format
block's load, and its parked request (R59, R62, R416). -/
def State.forgetHead (s : State) (p : Part) (src : Src) : State :=
  let gone (x : Parked) : Bool := decide (x.who = .admission src) || (match src with
    | .ring r => decide (x.who = .fetch r)
    | _ => false)
  ({ s with
    admReads := s.admReads.filter fun (a : AdmRead) => decide (a.src ≠ src)
    jreads := s.jreads.filter fun x => decide (x.2 ≠ .admission src)
    admNoted := s.admNoted.filter fun a => decide (a.1 ≠ src)
    fmtLoads := s.fmtLoads.map fun (l : FmtLoad) => { l with srcs := l.srcs.filter fun q => decide (q.1 ≠ src) } } : State).modPart p fun ps =>
    { ps with parked := ps.parked.filter fun x => !(gone x) }

/-! Command fetch (R415) -/

/-- The next count to fetch. -/
def Ring.nextFetch (x : Ring) : W32 := x.admitAt + BitVec.ofNat 32 x.fetched.length

/-- Commands the next line gives: up to the end of its 256 B line, the accepted producer count and 16 held. -/
def Ring.fetchCount (x : Ring) : Nat :=
  min (4 - x.nextFetch.toNat % 4) (min (x.ctx.produced - x.nextFetch).toNat (16 - x.fetched.length))

/-- COMMAND_FETCH_RETURN (R22, R27, R415): a line of command slots returns. A poisoned slot halts the ring once the commands
before it have been admitted (R37). -/
def execCommandFetchReturn (ring : RingNo) (s : State) : Host.Outcome State Fault Refusal :=
  stepTo (match s.needCtx ring with
    | (s1, false) => s1
    | (s1, true) => match s1.ring ring with
      | none => s1
      | some x =>
        let n := x.fetchCount
        if n = 0 ∨ x.ctx.halted ∨ x.phase = .disabling ∨ s1.srcParked x.part (.ring ring) then s1
        else
          let a := (x.ctx.cmdBase.toNat + x.nextFetch.toNat % x.ctx.size * 64)
          match s1.look x.part (.fetch ring) a .read with
          | (s2, none) => s2
          | (s2, some (ph, _)) =>
            let k := ((List.range n).takeWhile fun i => !(s2.granPoison (ph / 64 + i))).length
            if k = 0 then (if x.fetched = [] then s2.haltRing ring stPoisoned else s2)
            else
              let got := (List.range k).map fun i => BitVec.ofNat 512 (s2.rdNat (ph + 64 * i) 64)
              (s2.jReadDone (.fetch ring)).modRing ring fun y =>
                { y with fetched := y.fetched ++ got, ctx := { y.ctx with consumed := y.ctx.consumed + BitVec.ofNat 32 k } })

/-! Enabling and disabling rings (R57 to R59) -/

/-- An action on JP_RING_CMD that R414 has taken: RESULT and, where there is work, BUSY. -/
def State.ringAction (s : State) (p : Part) (enable : Bool) (ring : RingNo) : State :=
  if !(s.partEnabled p) then s.setFld fJpRingCmd_RESULT 4 p
  else if !(s.ringIn p ring.toNat) then s.setFld fJpRingCmd_RESULT 1 p
  else match s.ring ring with
    | some _ =>
      if enable then s.setFld fJpRingCmd_RESULT 0 p
      else
        let s1 := ((s.modRing ring fun x => { x with phase := .disabling, fetched := [] }).forgetHead p (.ring ring)).dropEarly ring
        (s1.modPart p fun ps => { ps with ringAct := some (ring, false) }).setFld fJpRingCmd_BUSY 1 p
    | none =>
      if enable then (s.modPart p fun ps => { ps with ringAct := some (ring, true) }).setFld fJpRingCmd_BUSY 1 p
      else s.setFld fJpRingCmd_RESULT 0 p

/-- Ends a ring action with a result. -/
def State.ringActEnd (s : State) (p : Part) (res : Nat) : State :=
  ((s.modPart p fun ps => { ps with ringAct := none }).setFld fJpRingCmd_BUSY 0 p).setFld fJpRingCmd_RESULT res p

/-- The live ring that a valid context opens (R58): HALTED cleared, commands without a record fetched again. -/
def Ring.ofCtx (ring : RingNo) (p : Part) (c : RingCtx) : Ring :=
  { no := ring, part := p, phase := .enabled
    ctx := { c with halted := false, haltStatus := 0, consumed := if c.consumed = c.completed then c.consumed else c.completed }
    cached := true, admitAt := c.completed, fetched := [], drainTo := none, mute := false, noEarly := [] }

/-- RING_ENABLE_DONE (R58): the context read of an enable returns. -/
def execRingEnableDone (p : Part) (s : State) : Host.Outcome State Fault Refusal :=
  stepTo (match (s.part p).ringAct with
    | some (ring, true) =>
      let g := s.jReadOk (.fetch ring) (s.ctxAddr ring)
      if !(s.partEnabled p) then s.ringActEnd p 4
      else if !g.2 then g.1
      else
        let s := g.1.jReadDone (.fetch ring)
        let c := s.readCtx ring
        if s.rdPoison (s.ctxAddr ring) 64 ∨ !c.valid then s.ringActEnd p 3
        else
          let s1 : State := { s with
            rings := s.rings ++ [Ring.ofCtx ring p c]
            heldMarks := s.heldMarks.filter fun e => decide (e.1 ≠ ring) }
          ((s1.cacheCtx ring).ringActEnd p 0).wake
    | _ => s)

/-- The context a disabled ring leaves in memory (R37, R59): CONSUMED equal to COMPLETED. -/
def RingCtx.closed (c : RingCtx) : RingCtx := { c with consumed := c.completed }

/-- Doorbells of a ring that still stand in the buffer, or wait to enter it, are discarded when the ring closes: it is no longer
enabled (R28, R62). -/
def State.dropDoorbells (s : State) (p : Part) (ring : RingNo) : State :=
  let mine := (s.dbBuf ++ s.dbWait).filter fun e => decide (e.1 = ring)
  mine.foldl (fun (s : State) e => s.dbDiscard p 0x04 fJpDbStat_DISABLED ring e.2)
    { s with
      dbBuf := s.dbBuf.filter fun e => decide (e.1 ≠ ring)
      dbWait := s.dbWait.filter fun e => decide (e.1 ≠ ring) }

/-- Takes a ring out of the engine, its context written back. The mark last published stays held for waits. -/
def State.closeRing (s : State) (ring : RingNo) : State :=
  match s.ring ring with
  | none => s
  | some x =>
    let s1 := ((s.writeCtx ring x.ctx.closed).dropDoorbells x.part ring).forgetHead x.part (.ring ring)
    { s1 with
      rings := s1.rings.filter fun y => decide (y.no ≠ ring)
      ctxLru := s1.ctxLru.filter fun y => decide (y ≠ ring)
      ctxReads := s1.ctxReads.filter fun y => decide (y ≠ ring)
      heldMarks := (ring, x.ctx.mark) :: s1.heldMarks.filter fun e => decide (e.1 ≠ ring) }

/-- Commands of a source still hold trackers. -/
def State.srcBusy (s : State) (src : Src) : Bool := s.trackers.any fun x => decide (x.src = src)

/-- The command a home request of the engine belongs to. -/
def ReqKind.owner : ReqKind → Option TrackerId
  | .jWrite w => w.owner
  | .jAdd o => o.owner
  | _ => none

/-- A request at the home that holds a completion record which a test picks. -/
def ReqKind.isRecord (f : RingNo × W32 → Bool) : ReqKind → Bool
  | .jWrite w => w.record.any f
  | _ => false

/-- A completion record of the ring is on its way (R36). -/
def State.recordOut (s : State) (r : RingNo) : Bool :=
  let mine (x : RingNo × W32) : Bool := decide (x.1 = r)
  s.wrQ.any (fun w => w.record.any mine) || s.boardWrs.any (fun w => w.record.any mine) ||
  s.txns.any (fun x => x.req.isRecord mine) || s.coreReqs.any fun x => x.req.isRecord mine

/-- RING_DISABLE_DONE (R59): the admitted commands have completed, their records are visible, and the context is written back. -/
def execRingDisableDone (p : Part) (s : State) : Host.Outcome State Fault Refusal :=
  stepTo (match (s.part p).ringAct with
    | some (ring, false) => if s.srcBusy (.ring ring) ∨ s.recordOut ring then s else (s.closeRing ring).ringActEnd p 0
    | _ => s)

/-! The direct path (R63 to R65, R416) -/

/-- Words are discarded: the partition is not ENABLED, the path is parked or halted (R64, R416). -/
def State.dcmdClosed (s : State) (p : Part) : Bool :=
  !(s.partEnabled p) || s.srcParked p (.direct p) || decide (s.fld fJpDcmdStatus_HALTED p = 1)

/-- A command from eight words, bytes 0 to 7 first. -/
def cmdOfWords (ws : List W64) : Cmd := BitVec.ofNat 512 (ws.foldr (fun w n => w.toNat + 2 ^ 64 * n) 0)

/-- A word enters the FIFO; every eighth completes a command (R63). -/
def State.dcmdPush (s : State) (p : Part) (v : W64) : State :=
  s.modPart p fun ps =>
    let ws := ps.dcmdWords ++ [v]
    if ws.length = 8 then { ps with dcmdWords := [], dcmd := ps.dcmd ++ [cmdOfWords ws] } else { ps with dcmdWords := ws }

/-- A 64-bit write of JP_DCMD (R63, R64). -/
def State.dcmdWrite (s : State) (p : Part) (v : W64) : State :=
  if s.dcmdClosed p then s.setFld fJpDcmdStatus_DISCARD 1 p
  else if 32 ≤ (s.part p).dcmd.length ∨ (s.part p).dcmdWait ≠ [] then s.modPart p fun ps => { ps with dcmdWait := ps.dcmdWait ++ [v] }
  else s.dcmdPush p v

/-- DCMD_SPACE_FREED (R64): the write that waits completes. -/
def execDcmdSpaceFreed (p : Part) (s : State) : Host.Outcome State Fault Refusal :=
  stepTo (match (s.part p).dcmdWait with
    | [] => s
    | v :: rest =>
      let s1 := s.modPart p fun ps => { ps with dcmdWait := rest }
      if s.dcmdClosed p then s1.setFld fJpDcmdStatus_DISCARD 1 p
      else if 32 ≤ (s.part p).dcmd.length then s
      else s1.dcmdPush p v)

/-- A read of JP_DCMD_CPL (R65, R407). -/
def State.readDcpl (s : State) (p : Part) (acc : RegAcc) : State × W64 :=
  match (s.part p).dcpl with
  | [] => (s.setFld fJpDcmdStatus_UNDERRUN 1 p, (s.part p).dcplLast)
  | r :: rest =>
    let pos := (s.part p).dcplPos
    let v := BitVec.ofNat 64 (r.toNat >>> (64 * pos))
    let s1 := s.modPart p fun ps => { ps with dcplLast := v }
    if acc = .lo then (s1, v)
    else (s1.modPart p fun ps => if pos = 0 then { ps with dcplPos := 1 } else { ps with dcpl := rest, dcplPos := 0 }, v)

/-- RESYNC (R63): discards a partly assembled command. -/
def State.dcmdResync (s : State) (p : Part) : State := s.modPart p fun ps => { ps with dcmdWords := [] }

/-- RESUME (R416): ends a halt, discarding what the FIFO holds. -/
def State.dcmdResume (s : State) (p : Part) : State :=
  if s.fld fJpDcmdStatus_HALTED p = 1 then
    (((s.modPart p fun ps => { ps with dcmd := [], dcmdWords := [] }).forgetHead p (.direct p)).setFld fJpDcmdStatus_HALTED 0 p).setFld fJpDcmdStatus_HALT_STATUS 0 p
  else s

/-! Partitions (R60 to R62, R417, R418) -/

/-- Starts full initialisation; `req` holds where a write of REQ = 01 starts it (R418). -/
def State.startInit (s : State) (p : Part) (req : Bool) : State := s.modPart p fun ps => { ps with initing := true, initReq := req }

/-- REQ = 01 of JP_CTL (R60). -/
def State.partEnable (s : State) (p : Part) : State :=
  if s.partDisabled p then (if (s.part p).initing then s else s.startInit p true)
  else if s.partQuiescing p then s.setFld fJpStatus_ENABLE_PENDING 1 p
  else s

/-- What entering QUIESCING does (R61): parked commands abort, the direct FIFO and speculative work are discarded. A direct
command that is parked at admission stays, to complete with FAULT_ABORTED. -/
def State.enterQuiesce (s : State) (p : Part) : State :=
  let s1 := s.setFld fJpStatus_STATE 2 p
  let keep := if (s1.part p).parked.any (fun x => decide (x.who = .admission (.direct p))) then 1 else 0
  let held := decide (((s1.part p).dcmd.drop keep) ≠ []) || decide ((s1.part p).dcmdWords ≠ []) || decide ((s1.part p).dcmdWait ≠ [])
  let s2 := s1.modPart p fun ps => { ps with dcmd := ps.dcmd.take keep, dcmdWords := [], dcmdWait := [] }
  let s3 := if held then s2.setFld fJpDcmdStatus_DISCARD 1 p else s2
  let s4 := if keep = 0 then s3.forgetHead p (.direct p) else s3
  (s4.dropEarlyOf fun c => decide (c.part = p)).withdrawFaults p

/-- A stopping disable ends blocked WAITs (R61), token waits (R202) and waits for a disabled feeder queue (R144). -/
def State.stopWaits (s : State) (p : Part) : State :=
  let ends (x : Tracker) : Bool :=
    decide (x.part = p) && decide (x.phase ≠ .done) &&
      ((decide (x.op = 0x02) && decide (x.phase ≠ .handed)) ||
       s.streams.any (fun c => decide (c.t = some x.id) && c.rcvs.any fun r => r.waited && decide (r.claim = none)) ||
       s.deliveries.any (fun d => decide (d.t = x.id) && decide (d.kind = 1) && !d.tilesDone &&
         decide (natBits (s.fld fJeFeedEn_ENABLED) (fdQueue d.dest) 1 = 0)))
  (s.trackers.filter ends).foldl (fun s x =>
    if x.op = 0x10 ∨ x.op = 0x18 then
      (({ s with deliveries := s.deliveries.map fun d => if d.t = x.id then { d with tilesDone := true } else d } : State).mark x.id
        fun m => { m with aborted := true })
    else s.abortCmd x.id) s

/-- The next command of a source was parked at admission when its partition stopped: it has only its record to come (R61). -/
def State.headAborted (s : State) (src : Src) : Bool := s.admReads.any fun a => decide (a.src = src) && a.aborted

/-- Enters a quiesce that stops at once: nothing more is admitted, but for commands that end with FAULT_ABORTED. -/
def State.stopRings (s : State) (p : Part) : State :=
  let last (x : Ring) : W32 := if s.headAborted (.ring x.no) then x.admitAt + 1 else x.admitAt
  ({ s with rings := s.rings.map fun (x : Ring) => if x.part = p then { x with drainTo := some (last x) } else x } : State).setFld
    fJpStatus_STOP_MODE 1 p |>.stopWaits p

/-- REQ = 10 of JP_CTL (R60): rings drain to the PRODUCED count accepted before the request. -/
def State.partDrain (s : State) (p : Part) : State :=
  if s.partEnabled p then
    let s1 : State := { s with rings := s.rings.map fun (x : Ring) => if x.part = p then { x with drainTo := some x.ctx.produced } else x }
    s1.enterQuiesce p
  else if s.partQuiescing p then s.setFld fJpStatus_ENABLE_PENDING 0 p
  else s

/-- REQ = 11 of JP_CTL (R60). -/
def State.partStop (s : State) (p : Part) : State :=
  if s.partEnabled p then (s.enterQuiesce p).stopRings p
  else if s.partQuiescing p then (s.setFld fJpStatus_ENABLE_PENDING 0 p).stopRings p
  else s

/-- A ring has drained (R417). -/
def Ring.drained (x : Ring) : Bool :=
  x.ctx.halted || decide (x.phase = .disabling) || decide (x.drainTo = some x.admitAt)

/-- Every ring of a partition is closed, its contexts written back. -/
def State.closeRings (s : State) (p : Part) : State :=
  (s.rings.filter fun x => decide (x.part = p)).foldl (fun s x => s.closeRing x.no) s

/-- Nothing of a quiescing partition is left to complete: no command, no record on its way, every ring drained (R60, R417). -/
def State.quiesced (s : State) (p : Part) : Bool :=
  s.partQuiescing p && !(s.trackers.any fun x => decide (x.part = p)) && decide ((s.part p).dcmd = []) &&
    s.rings.all fun x => decide (x.part ≠ p) || (x.drained && !(s.recordOut x.no))

/-- PARTITION_QUIESCE_DONE (R60, R417): IN_FLIGHT is 0 and every ring has drained. -/
def execPartitionQuiesceDone (p : Part) (s : State) : Host.Outcome State Fault Refusal :=
  stepTo (if s.quiesced p then
    let s1 := (s.closeRings p).modPart p fun ps => { ps with ringAct := none }
    let s2 := if ((s.part p).ringAct).isSome then
        (s1.setFld fJpRingCmd_BUSY 0 p).setFld fJpRingCmd_RESULT (if ((s.part p).ringAct).any (·.2) then 4 else 0) p
      else s1
    let s3 := (s2.setFld fJpStatus_STATE 0 p).setFld fJpStatus_STOP_MODE 0 p
    if s3.fld fJpStatus_ENABLE_PENDING p = 1 then s3.startInit p false else s3
  else s)

/-- The registers of a partition that full initialisation resets (R62). UNDERRUN and DISCARD of JP_DCMD_STATUS go with the halt of the
direct path, though R62 does not list them (DESIGN CHOICE, log 31). -/
def initRegs (p : Nat) (x : RegRef) : Bool :=
  decide (x.i = p) && (decide (x.reg = .jpXmark) || decide (x.reg = .jpIrqPend) || decide (x.reg = .jpDbStat) ||
    decide (x.reg = .jpFaultStatus) || decide (x.reg = .jpEventStatus) || decide (x.reg = .jpDcmdStatus))

/-- Full initialisation (R62, R165): FIFOs, marks, Cloche locks and banks of the partition. -/
def State.initPart (s : State) (p : Part) : State :=
  let s1 : State := { s with
    regs := s.regs.filter fun x => !(initRegs p x.1)
    cloche := (s.cloche.map fun (e : ClocheEnt) => if e.lock.any (fun l => decide (l.1 = p)) then { e with lock := none } else e).filter
      fun (e : ClocheEnt) => decide (e.valid ≠ 0) || decide (e.lock ≠ none) || e.held
    banks := s.banks.map fun (b : Bank) => if b.part = p ∧ b.state ≠ .empty then Bank.reset else b
    graft := s.graft.filter fun (g : Current) => decide (g.part ≠ p) }
  (s1.forgetHead p (.direct p)).modPart p fun ps => { PartSt.reset with
    turn := ps.turn, lastRing := ps.lastRing, inval := ps.inval, retire := ps.retire, objAct := ps.objAct }

end Sys2Proof.Machine
end

