-- ==== Sys2Proof/Machine/Admit.lean ====
section
/-! DEFINITION. Admission (R30 to R35, R48 to R52): which command comes next, the checks of every opcode, the reads
they wait for, the versions they pin and the resources they hold. -/
namespace Sys2Proof.Machine

/-! What a source offers -/

/-- The next command of a ring or of the direct path. -/
def State.headCmd (s : State) (src : Src) : Option Cmd :=
  match src with
  | .ring r => (s.ring r).bind (·.fetched.head?)
  | .direct p => (s.part p).dcmd.head?
  | .remote _ => none

/-- The partition of a source. -/
def State.srcPart (s : State) (src : Src) : Option Part :=
  match src with
  | .ring r => (s.ring r).map (·.part)
  | .direct p => some p
  | .remote q => (s.qps.find? fun x => decide (x.i = q)).map fun x => partOf (bitsOf x.ctx 56 4)

/-- A MARK not completed, a WAIT not satisfied or a FENCE bars admission (R40, R42, R48). -/
def State.barred (s : State) (src : Src) (c : Cmd) : Bool :=
  let mine := s.trackers.filter fun x => decide (x.src = src)
  mine.any (fun x => decide (x.op = 0x01) ||
    (decide (x.op = 0x02) && (decide (x.phase ≠ .done) || decide (x.marks.only ≠ none)))) ||
    (cFence c && decide (mine ≠ []))

/-- Commands of the direct path whose completion records are not yet read (R65). -/
def State.directRoom (s : State) (p : Part) : Bool :=
  decide ((s.part p).dcpl.length + (s.trackers.filter fun x => decide (x.src = .direct p)).length < 64)

/-- A source may offer its next command: enabled, not halted, not parked, not drained, not barred. -/
def State.offers (s : State) (p : Part) (src : Src) : Bool :=
  match s.headCmd src with
  | none => false
  | some c =>
    !(s.srcParked p src) && !(s.barred src c) &&
    (match src with
      | .ring r => (s.ring r).any fun x => decide (x.phase = .enabled) && !x.ctx.halted &&
          (s.partEnabled p || (s.partQuiescing p && decide (x.drainTo ≠ some x.admitAt) && decide (x.drainTo ≠ none)))
      | .direct q => (s.partEnabled q || (s.partQuiescing q && s.headAborted (.direct q))) &&
          decide (s.fld fJpDcmdStatus_HALTED q = 0) && s.directRoom q
      | .remote _ => false)

/-- The sources of a partition at a priority level, in ring order: its rings, and at level 0 the direct path. -/
def State.sourcesAt (s : State) (p : Part) (lvl : Nat) : List (Nat × Src) :=
  (s.rings.filter fun x => decide (x.part = p) && decide (x.ctx.priority = lvl)).map (fun x => (x.no.toNat, Src.ring x.no)) ++
  (if lvl = 0 then [(2 ^ 18, Src.direct p)] else []) ++
  (s.served.filter fun x => decide (x.t = none) && (s.qps.any fun q => decide (q.i = x.qp) &&
      decide (bitsOf q.ctx 56 4 = p.val) && decide (bitsOf q.ctx 52 2 = lvl))).map fun x =>
    (2 ^ 18 + 1 + x.qp.toNat, Src.remote x.qp)

/-- Round robin: the sources after the last one served come first. -/
def rotate (last : Nat) (l : List (Nat × Src)) : List (Nat × Src) :=
  (l.filter fun x => decide (last < x.1)) ++ l.filter fun x => decide (x.1 ≤ last)

/-- The levels in the weighted ratio 8:4:2:1 of R31. -/
def levelPattern : List Nat := [0, 1, 0, 2, 0, 1, 0, 3, 0, 1, 0, 2, 0, 1, 0]

/-- The levels a partition tries at its turn: the pattern's level first, then the others in order. -/
def levelsFrom (turn : Nat) : List Nat :=
  let l := levelPattern.getD (turn % 15) 0
  l :: [0, 1, 2, 3].filter fun k => decide (k ≠ l)

/-! Field checks (R33, R66, R67, R85, R142 to R146, R173) -/

/-- Index and bag fields of the bag-batch opcodes. -/
def bagFieldsOk (c : Cmd) : Bool :=
  let fmt := cIndexFmt c
  idxFmtOk fmt && decide ((cW3 c).toNat % idxBytes fmt = 0) &&
  decide (1 ≤ cBagCount c) && decide (cBagCount c ≤ 1048576) && decide (1 ≤ cIndexCount c) && decide (cIndexCount c ≤ 67108864) &&
  (!(cWeighted c) || (decide (cWeightFmt c < 3) && decide ((cW4 c).toNat % wBytes (cWeightFmt c) = 0))) &&
  (if idxFixed fmt then decide (cIndexCount c % cBagCount c = 0) else decide ((cW2 c).toNat % 4 = 0))

/-- The queue pair of a push descriptor is in RTS with ROLE 0 (R334). -/
def State.qpReady (s : State) (i : Nat) : Bool :=
  s.qps.any fun q => decide (q.i.toNat = i) && decide (q.state = .rts) && decide (bitsOf q.ctx 61 2 = 0)

/-- The checks on DEST_KIND, DEST, DEST_STRIDE and CHECKSUM for vectors of `dim` columns (R142 to R146, R334). -/
def State.destOk (s : State) (kind : Nat) (dest : W64) (stride dim : Nat) (checksum : Bool) : Bool :=
  match kind with
  | 0 => decide (dest.toNat % 4 = 0) && decide (stride % 4 = 0) && (decide (stride = 0) || decide (4 * dim ≤ stride))
  | 1 => decide (fdShape dest ≤ 4) && decide (fdElem dest ≤ 6) && decide (bitsOf dest 32 8 = 0) &&
      decide (natBits (s.fld fJeFeedEn_ENABLED) (fdQueue dest) 1 = 1) && !(checksum && decide (5 ≤ fdElem dest))
  | 2 => !checksum && dest.getLsbD 51 && decide (bitsOf dest 32 19 = 0) && s.qpReady (bitsOf dest 52 12)
  | _ => false

/-- The checks that need no table (R33). `direct` is the direct path. -/
def cmdFieldsOk (c : Cmd) (direct : Bool) : Bool :=
  reservedZero c &&
  (match cOp c with
    | 0x01 => !(direct && !(cExternal c))
    | 0x02 => decide (cSource c < 2) && !(decide (cSource c = 1) && decide (255 < cSrcIndex c))
    | 0x10 => bagFieldsOk c && decide (cPoolMode c < 3) && decide (cDestKind c < 3)
    | 0x18 => decide (cDestKind c < 3) && decide (1 ≤ cK c) && decide (cK c ≤ 64) && decide ((cW2 c).toNat % 64 = 0)
    | 0x20 => bagFieldsOk c && decide ((cW5 c).toNat % 4 = 0) && decide (cStride c % 4 = 0) && !(notFinite32 (cAlpha c))
    | 0x21 => decide (cRule c < 3) && decide (1 ≤ cRowCount c) && decide (cRowCount c ≤ 1048576) &&
        decide ((cW2 c).toNat % 8 = 0) && decide ((cW3 c).toNat % 4 = 0) && decide ((cW4 c).toNat % 4 = 0)
    | 0x30 => decide ((cW2 c).toNat % 64 = 0)
    | 0x40 => decide ((cW2 c).toNat % 64 = 0)
    | 0x50 => idxFmtOk (cIndexFmt c) && !(idxFixed (cIndexFmt c)) && decide ((cW3 c).toNat % idxBytes (cIndexFmt c) = 0) &&
        decide (1 ≤ cIndexCount c) && decide (cIndexCount c ≤ 2048)
    | _ => true)

/-! Tables and the Graft (R33, R51, R230, R231) -/

/-- The bound of a directory: 2^SIZE_LOG2, larger values acting as the cap. -/
def dirBound (sz cap : Nat) : Nat := 2 ^ min sz cap

/-- The current descriptor of a table: as the Graft holds it, else read from the directory. Outer none: the read
waits or is parked; inner none: it arrived poisoned. -/
def State.getTable (s : State) (p : Part) (src : Src) (table : Nat) : State × Option (Option Desc) :=
  match s.graft.find? (fun g => decide (g.part = p) && decide (g.table = table)) with
  | some g => (s, some (some g.desc))
  | none =>
    match s.readPart p (.admission src) (s.fld fJpTableDir_BASE p * 4096 + 128 * table) 128 with
    | (s1, none) => (s1, none)
    | (s1, some (bs, poison)) =>
      if poison then (s1, some none)
      else
        let d : Desc := BitVec.ofNat 1024 (leNat bs)
        ({ s1 with graft := s1.graft ++ [⟨p, table, d⟩] }, some (some d))

/-- Descriptors the version store holds for admitted commands (R231). -/
def State.pinned (s : State) : List Pin := (s.trackers.flatMap (·.pins)).eraseDups

/-- A table needs its format block at the lanes (R88). -/
def Desc.needsBlock (d : Desc) : Bool := d.intAcc || d.classes.any fun k => fmtScaled (d.format k)

/-- The resident format block of a descriptor (R96). -/
def State.block (s : State) (p : Part) (d : Desc) : Option (List Byte) :=
  (s.fmt.find? fun b => decide (b.part = p) && decide (b.base = d.fmtBase) && decide (b.version = d.version) &&
    decide (b.bytes.length = fmtBlockSize d.dim)).map (·.bytes)

/-- The block of a pinned table, empty where none is needed or resident. -/
def State.blockOf (s : State) (p : Part) (d : Desc) : List Byte := (s.block p d).getD []

/-! Outcomes -/

/-- The outcome of one attempt at admission: wait, fail with a status, or hold (pins, bags, shards, columns, what was read for the
command). -/
inductive AdmRes where
  | wait
  | fail (st : Byte)
  | ok (pins : List Pin) (bags : Nat) (shards : List Shard) (total : Nat) (body : BitVec 1024)
  | okStream (desc : BitVec 1024) (rcvs : List Receiver)
deriving DecidableEq, Repr

/-- Counts a wait once per command (R98, R181). -/
def State.noteWait (s : State) (src : Src) (k : Nat) (f : Fld) : State :=
  if (src, k) ∈ s.admNoted then s else ({ s with admNoted := s.admNoted ++ [(src, k)] } : State).bump f

/-- A format block that no admitted command uses (R96). -/
def State.blockIdle (s : State) (b : FmtBlock) : Bool :=
  !(s.trackers.any fun x => decide (x.part = b.part) && x.pins.any fun q =>
    decide (Desc.fmtBase q.desc = b.base) && decide (Desc.version q.desc = b.version))

/-- Units of 512 B that the blocks in use take of the store's 128 (R96). -/
def State.unitsBusy (s : State) : Nat :=
  sumBy (fun (b : FmtBlock) => ceilDiv b.bytes.length 512) (s.fmt.filter fun b => !(s.blockIdle b))

/-- The blocks in use leave room for one more of `n` units (R96). -/
def State.blockRoom (s : State) (n : Nat) : Bool :=
  decide ((s.fmt.filter fun b => !(s.blockIdle b)).length < 16) && decide (s.unitsBusy + n ≤ 128)

/-- Asks for the block of a table (R88, R96): none while the command waits, else whether the resident block passes the table's checks. A
full store with no block to evict is counted once. -/
def State.needBlock (s : State) (p : Part) (src : Src) (d : Desc) : State × Option Bool :=
  if !d.needsBlock then (s, some true)
  else match s.block p d with
  | some bs => (s, some (d.blockOk bs))
  | none =>
    if !(s.blockRoom (ceilDiv (fmtBlockSize d.dim) 512)) then (s.noteWait src 0 fJeFmtStat_WAITS, none)
    else
      let same (l : FmtLoad) : Bool :=
        decide (l.part = p) && decide (l.base = d.fmtBase) && decide (l.version = d.version) && decide (l.dim = d.dim)
      if s.fmtLoads.any same then
        let join (l : FmtLoad) : FmtLoad := { l with srcs := if (src, (d : BitVec 1024)) ∈ l.srcs then l.srcs else (src, d) :: l.srcs }
        ({ s with fmtLoads := updWhere same join s.fmtLoads }, none)
      else ({ s with fmtLoads := s.fmtLoads ++ [⟨p, d.fmtBase, d.version, d.dim, [(src, d)]⟩] }, none)

/-- The reads a command waits for before its own checks (R173, R193, R232): address and bytes. -/
def admReadOf (c : Cmd) : Option (Nat × Nat) :=
  match cOp c with
  | 0x21 => some ((cW4 c).toNat, 32)
  | 0x30 => some ((cW2 c).toNat, 128)
  | 0x40 => some ((cW2 c).toNat, 128)
  | _ => none

/-- The opcodes that read a shard directory entry (R324). -/
def namesShards (op : Nat) : Bool :=
  decide (op = 0x10) || decide (op = 0x18) || decide (op = 0x20) || decide (op = 0x21) || decide (op = 0x50)

/-- The shard directory has an entry for the table (R324). -/
def State.hasShardEntry (s : State) (p : Part) (table : Nat) : Bool :=
  decide (s.fld fJpShardDir_BASE p ≠ 0) && decide (table < dirBound (s.fld fJpShardDir_SIZE_LOG2 p) 20)

/-- Shard k of a shard set (R323). -/
def shardOf (set : List Byte) (k : Nat) : Shard :=
  let w0 := bytesAt set (16 + 16 * k) 8
  let w1 := bytesAt set (24 + 16 * k) 8
  ⟨natBits w0 56 8, natBits w0 40 12, natBits w0 0 20, natBits w1 0 14, natBits w1 32 15⟩

/-- The shards cover columns 0 to total - 1 exactly once. -/
def coversOnce (l : List Shard) (total : Nat) : Bool :=
  (List.range total).all (fun c => decide ((l.filter fun h => decide (h.start ≤ c) && decide (c < h.start + h.cols)).length = 1)) &&
    l.all fun h => decide (h.start + h.cols ≤ total)

/-- The conditions of R324 on a shard set for a table. -/
def State.shardSetOk (s : State) (d : Desc) (set : List Byte) (l : List Shard) : Bool :=
  let own := s.fld fJePhysMap_ENGINE
  let total := natBits (bytesAt set 2 2) 0 15
  decide (1 ≤ l.length) && decide (l.length ≤ 256) && decide (1 ≤ total) && decide (total ≤ 16384) && coversOnce l total &&
  decide ((l.filter fun h => decide (h.engine = own)).length ≤ 1) &&
  l.all (fun h => decide (h.engine ≠ own) || decide (h.cols = d.dim)) &&
  decide (natBits (bytesAt set 4 1) 0 1 = d.intAcc.toNat) && decide (natBits (bytesAt set 5 1) 0 5 = d.ofrac) &&
  l.all fun h => decide (h.engine = own) || (s.qpReady h.qp && s.qps.any fun q =>
    decide (q.i.toNat = h.qp) && decide (bitsOf q.ctx 40 8 = h.engine))

/-- Reads the shard set of a table (R324); a served request acts on this engine's columns alone (R328). Outer none while the read waits; then a failing status, or the shards and
the columns of the whole table. -/
def State.readShards (s : State) (p : Part) (src : Src) (c : Cmd) (d : Desc) :
    State × Option (Except Byte (List Shard × Nat)) :=
  let served : Bool := match src with | .remote _ => true | _ => false
  if served ∨ !(namesShards (cOp c)) ∨ !(s.hasShardEntry p (cTable c)) then (s, some (.ok ([], d.dim)))
  else
    match s.readPart p (.admission src) (s.fld fJpShardDir_BASE p * 4096 + 8 * cTable c) 8 with
    | (s1, none) => (s1, none)
    | (s1, some (bs, poison)) =>
      let e := leNat bs
      if poison then (s1, some (.error stPoisoned))
      else if e % 2 = 0 then (s1, some (.ok ([], d.dim)))
      else
        match s1.readPart p (.admission src) (e / 64 * 64) 16 with
        | (s2, none) => (s2, none)
        | (s2, some (hd, poison)) =>
          let n := natBits (leNat (hd.take 2)) 0 9
          if poison then (s2, some (.error stPoisoned))
          else
            match s2.readPart p (.admission src) (e / 64 * 64) (16 + 16 * n) with
            | (s3, none) => (s3, none)
            | (s3, some (set, poison)) =>
              let l := (List.range n).map (shardOf set)
              if poison then (s3, some (.error stPoisoned))
              else if cOp c = 0x21 ∨ cOp c = 0x50 then (s3, some (.ok ([], d.dim)))
              else if s3.shardSetOk d set l then (s3, some (.ok (l, natBits (bytesAt set 2 2) 0 15)))
              else (s3, some (.error stBadTable))

/-! Table-dependent checks -/

/-- PARAMS ranges (R182). -/
def paramsOk (rule : Nat) (b : List Byte) : Bool :=
  let w (k : Nat) : W32 := BitVec.ofNat 32 (bytesAt b (4 * k) 4)
  !(notFinite32 (w 0)) && !(notFinite32 (w 3)) && decide (bytesAt b 16 16 = 0) &&
  (decide (rule = 0) || (decide (0x00800000 ≤ (w 1).toNat) && decide ((w 1).toNat ≤ 0x7F7FFFFF))) &&
  (decide (rule ≠ 2) || (!(notFinite32 (w 2)) && !(flt (w 2) 0#32) && flt (w 2) 0x3F800000#32))

/-- The state table conditions of R184. -/
def stateTableOk (d st : Desc) : Bool :=
  st.ok && decide (st.mode = 0) && !st.replicated && decide (st.classes = [0]) && decide (st.format 0 = 0) &&
    decide (st.dim = 16) && decide (ceilDiv d.rows 16 ≤ st.rows)

/-- BAD_TABLE conditions of an opcode on its table and second table. -/
def tableFits (c : Cmd) (d : Desc) (d2 : Option Desc) : Bool :=
  d.ok && (decide (d.mode ≠ 2 ∧ d.mode ≠ 3) || d2.any (d.partnerOk ·)) &&
  (match cOp c with
    | 0x20 => decide (d.mode ≠ 3) && !d.replicated && !(d2.any (·.replicated)) &&
        (cBit28 c || !(d.classes.any fun k => fmtFixed (d.format k)) && !(d2.any fun e => decide (d.mode = 2) && e.classes.any fun k => fmtFixed (e.format k))) &&
        (!(cBit28 c) || d.classes.any fun k => fmtScaled (d.format k))
    | 0x21 => (decide (d.mode = 0) || decide (d.mode = 4)) && !d.replicated && !(d.classes.any fun k => fmtFixed (d.format k)) &&
        (decide (cRule c = 0) || d2.any (stateTableOk d ·))
    | _ => true)

/-- BAD_FIELD conditions that need the table's columns (R121, R142, R145, R169). -/
def State.dimFieldsOk (s : State) (c : Cmd) (d : Desc) (total : Nat) : Bool :=
  match cOp c with
  | 0x10 => s.destOk (cDestKind c) (cW5 c) (cStride c) total (cBit28 c) &&
      !(decide (cPoolMode c = 2) && (decide (d.mode = 2) || (decide (d.mode = 1) && decide (d.hashCount = 2))))
  | 0x18 => s.destOk (cDestKind c) (cW3 c) (cKeyedStride c) total false
  | 0x20 => decide (cStride c = 0) || decide (4 * total ≤ cStride c)
  | _ => true

/-- The second table a command pins (R75, R184). -/
def secondTable (c : Cmd) (d : Desc) : Option Nat :=
  if cOp c = 0x21 then (if cRule c = 0 then none else some (cStateTable c))
  else if d.mode = 2 ∨ d.mode = 3 then some d.qrPartner else none

/-- Engine row moves of a table that have not written their remap entries (R114, R234). -/
def State.movesIn (s : State) (p : Part) (table : Nat) : Bool :=
  s.moves.any fun m => decide (m.part = p) && decide (m.table = table)

/-- Bag credits held (R32). -/
def State.creditsHeld (s : State) (p : Option Part) : Nat :=
  sumBy (·.bags) (s.trackers.filter fun x => match p with | some q => decide (x.part = q) | none => true)

/-- Bags a command needs credits for (R32, R69, R150). -/
def bagsOf (c : Cmd) (kd : BitVec 512) : Nat :=
  match cOp c with
  | 0x10 => cBagCount c
  | 0x20 => cBagCount c
  | 0x50 => 1
  | 0x18 => if kHeadSum kd then cQueryCount c / kHeads kd else cQueryCount c
  | _ => 0

/-- Reads a keyed-layer descriptor (R149): none while it waits; poisoned or out of the directory as given. -/
def State.getLayer (s : State) (p : Part) (src : Src) (layer : Nat) : State × Option (Except Byte (BitVec 512)) :=
  if dirBound (s.fld fJpKeyedDir_SIZE_LOG2 p) 16 ≤ layer then (s, some (.error stBadTable))
  else
    match s.readPart p (.admission src) (s.fld fJpKeyedDir_BASE p * 4096 + 64 * layer) 64 with
    | (s1, none) => (s1, none)
    | (s1, some (bs, poison)) =>
      if poison then (s1, some (.error stPoisoned)) else (s1, some (.ok (BitVec.ofNat 512 (leNat bs))))

/-- The checks of R151 on a keyed layer against its value table. -/
def keyedFits (c : Cmd) (d : Desc) (kd : BitVec 512) : Option Byte :=
  let n := kNA kd * kNB kd
  if !(kDescOk kd) then some stBadTable
  else if ((d.mode = 0 ∨ d.mode = 4) ∧ d.rows < n) ∨ ((d.mode = 2 ∨ d.mode = 3) ∧ d.qrDomain < n) then some stBadTable
  else if kNA kd < cK c ∨ kNB kd < cK c ∨ cQueryCount c % kHeads kd ≠ 0 then some stBadField
  else none

/-! Checks of the opcodes that read tables -/

/-- Admission of GATHER_POOL, KEYED_LOOKUP, SCATTER_ADD, SCATTER_APPLY and CLOCHE_PRELOAD. -/
def State.admitTable (s : State) (p : Part) (src : Src) (c : Cmd) : State × AdmRes :=
  if dirBound (s.fld fJpTableDir_SIZE_LOG2 p) 20 ≤ cTable c then (s, .fail stBadTable)
  else match s.getTable p src (cTable c) with
  | (s1, none) => (s1, .wait)
  | (s1, some none) => (s1, .fail stPoisoned)
  | (s1, some (some d)) =>
    let second : State × Option (Option (Option Desc)) := match secondTable c d with
      | none => (s1, some (some none))
      | some t2 =>
        if dirBound (s1.fld fJpTableDir_SIZE_LOG2 p) 20 ≤ t2 then (s1, some (some none))
        else match s1.getTable p src t2 with
          | (s2, none) => (s2, none)
          | (s2, some none) => (s2, some none)
          | (s2, some (some e)) => (s2, some (some (some e)))
    match second with
    | (s2, none) => (s2, .wait)
    | (s2, some none) => (s2, .fail stPoisoned)
    | (s2, some (some d2)) =>
      if !(tableFits c d d2) then (s2, .fail stBadTable)
      else match s2.readShards p src c d with
      | (s3, none) => (s3, .wait)
      | (s3, some (.error st)) => (s3, .fail st)
      | (s3, some (.ok (shards, total))) =>
        let layer : State × Option (Except Byte (BitVec 512)) :=
          if cOp c = 0x18 then s3.getLayer p src (cLayer c) else (s3, some (.ok 0#512))
        match layer with
        | (s4, none) => (s4, .wait)
        | (s4, some (.error st)) => (s4, .fail st)
        | (s4, some (.ok kd)) =>
          let params : State × Option (Except Byte (BitVec 1024)) :=
            if cOp c = 0x21 then
              match s4.readPart p (.admission src) (cW4 c).toNat 32 with
              | (s5, none) => (s5, none)
              | (s5, some (bs, poison)) =>
                (s5, some (if poison then .error stPoisoned
                  else if paramsOk (cRule c) bs then .ok (BitVec.ofNat 1024 (leNat bs)) else .error stBadField))
            else (s4, some (.ok (BitVec.ofNat 1024 kd.toNat)))
          match params with
          | (s5, none) => (s5, .wait)
          | (s5, some (.error st)) => (s5, .fail st)
          | (s5, some (.ok body)) =>
            let kf := if cOp c = 0x18 then keyedFits c d kd else none
            match kf with
            | some st => (s5, .fail st)
            | none =>
              if !(s5.dimFieldsOk c d total) then (s5, .fail stBadField)
              else if cOp c = 0x18 ∧ s5.fld fJeWinnowCtl_STATE ≠ 0 then
                (s5, .fail stWinnowBypassed)
              else match s5.needBlock p src d with
              | (s6, none) => (s6, .wait)
              | (s6, some false) => (s6, .fail stBadTable)
              | (s6, some true) =>
                let nb2 : State × Option Bool := match d2 with
                  | some e => s6.needBlock p src e
                  | none => (s6, some true)
                match nb2 with
                | (s7, none) => (s7, .wait)
                | (s7, some false) => (s7, .fail stBadTable)
                | (s7, some true) =>
                  if cOp c = 0x20 ∧ cBit28 c ∧ fbSgrad (s7.blockOf p d) = 0 then (s7, .fail stBadTable)
                  else
                    let pins : List Pin := ⟨p, cTable c, d⟩ :: (match d2, secondTable c d with
                      | some e, some t2 => [⟨p, t2, e⟩]
                      | _, _ => [])
                    let bags := bagsOf c kd
                    let sgrad := (s7.trackers.filter fun x => decide (x.op = 0x20) && cBit28 x.cmd && x.admitted).length
                    let queued := (s7.keyed.filter fun k => decide (k.bank = none) && decide (k.stage ≠ .aborted)).length
                    if 4194304 < s7.creditsHeld none + bags ∨ 2097152 < s7.creditsHeld (some p) + bags then (s7, .wait)
                    else if (cOp c = 0x20 ∨ cOp c = 0x21) ∧ s7.movesIn p (cTable c) then (s7, .wait)
                    else if cOp c = 0x20 ∧ cBit28 c ∧ 4 ≤ sgrad then (s7.noteWait src 1 fJeRakeStat_SGRAD_WAITS, .wait)
                    else if cOp c = 0x18 ∧ 64 ≤ queued then (s7, .wait)
                    else if 4096 < (pins ++ s7.pinned).eraseDups.length then (s7, .wait)
                    else (s7, .ok pins bags shards total body)

/-! STREAM (R194 to R196, R209) -/

/-- Staging units a partition may hold: MAX, at least MIN, at most 128 (R213). -/
def State.streamMax (s : State) (p : Part) : Nat :=
  max (s.fld fJpStreamQuota_MIN p) (min (s.fld fJpStreamQuota_MAX p) 128)

/-- Units a partition's streams hold. -/
def State.unitsOf (s : State) (p : Part) : Nat := sumBy (·.units) (s.sctx.filter fun x => decide (x.part = p))

/-- Whether `u` more units and a context are available to a partition (R195). -/
def State.streamRoom (s : State) (p : Part) (u : Nat) : Bool :=
  let used := sumBy (fun (q : Part) => max (s.fld fJpStreamQuota_MIN q) (s.unitsOf q)) (List.finRange 16)
  let own := s.fld fJpStreamQuota_MIN p - s.unitsOf p
  decide (s.sctx.length < 64) && decide (s.unitsOf p + u ≤ s.streamMax p) && decide (u ≤ own + (128 - used))

/-- The stream context of a stream. -/
def State.ctxOf (s : State) (p : Part) (id : Nat) : Option StreamCtx :=
  s.sctx.find? fun x => decide (x.part = p) && decide (x.id = id)

/-- Discards the most recently started early work (R209, R212). -/
def State.dropLastEarly (s : State) : State :=
  match s.streams.reverse.find? (fun c => decide (c.t = none)) with
  | none => s
  | some c => ({ s with streams := eraseLast (fun x => decide (x = c)) s.streams } : State).releaseCtx

/-- Frees early work until an admitted STREAM has its context and units, as far as it can. -/
def State.makeRoom (s : State) (p : Part) (u : Nat) : Nat → State
  | 0 => s
  | n + 1 => if s.streamRoom p u ∨ !(s.streams.any fun c => decide (c.t = none)) then s else s.dropLastEarly.makeRoom p u n

/-- Receiver records of a stream descriptor. -/
def rcvRecords (bs : List Byte) (n : Nat) : List Nat := (List.range n).map fun i => bytesAt bs (128 + 16 * i) 16

/-- The receiver checks of R194 that need no layer. -/
def rcvListOk (l : List Nat) (len : Nat) : Bool :=
  l.all rcvOk && decide ((l.filter fun v => decide (rcvKind v = 2)).length ≤ 1) &&
  (l.filter fun v => decide (rcvKind v = 1)).all (fun _ => decide (len ≤ 2 ^ 21)) &&
  decide (((l.filter fun v => decide (rcvKind v = 1)).map rcvBuffer).Nodup)

/-- A receiver as the engine keeps it. -/
def rcvStart (v : Nat) : Receiver :=
  { kind := rcvKind v, addr := BitVec.ofNat 64 (natBits v 0 64), buffer := Fin.ofNat 64 (rcvBuffer v), layer := rcvLayer v
    slots := 0, claim := none, waited := false, dropped := false, reader := false, atBound := false, readySent := false
    poison := false, done := false, range := none, longWait := false, again := none, buf := [] }

/-- The early work held for the command of a source with a count (R208). -/
def State.earlyOf (s : State) (src : Src) (count : W32) : Option StreamCmd :=
  match src with
  | .ring r => s.streams.find? fun c => decide (c.t = none) && decide (c.ring = some (r, count))
  | _ => none

/-- The count of the next command of a source. -/
def State.nextCount (s : State) (src : Src) : W32 :=
  match src with
  | .ring r => (s.ring r).elim 0 (·.admitAt)
  | .direct p => (s.part p).dcmdNext
  | .remote _ => 0

/-- A stream descriptor at an address, with the checks of R194 that need nothing else: none while the read waits. -/
def State.readStreamDesc (s : State) (p : Part) (who : Parker) (a : Nat) :
    State × Option (Except Byte (BitVec 1024 × List Receiver)) :=
  match s.readPart p who a 128 with
  | (s1, none) => (s1, none)
  | (s1, some (_, true)) => (s1, some (.error stPoisoned))
  | (s1, some (hd, false)) =>
    let d : BitVec 1024 := BitVec.ofNat 1024 (leNat hd)
    match s1.readPart p who a (128 + 16 * (sRcvM1 d + 1)) with
    | (s2, none) => (s2, none)
    | (s2, some (_, true)) => (s2, some (.error stPoisoned))
    | (s2, some (bs, false)) =>
      let rc := rcvRecords bs (sRcvM1 d + 1)
      if !(sHeaderOk d) ∨ !(rcvListOk rc (sLen d)) ∨ s2.streamMax p < sUnits d then (s2, some (.error stBadField))
      else (s2, some (.ok (d, rc.map rcvStart)))

/-- Admission of STREAM (R194, R195): the checks, and the descriptor with its receivers. A descriptor already read as
early work is not read again (R193). A context of another geometry that early work alone holds is taken from it (R209). -/
def State.admitStream (s : State) (p : Part) (src : Src) (c : Cmd) : State × AdmRes :=
  let got : State × Option (Except Byte (BitVec 1024 × List Receiver)) :=
    match s.earlyOf src (s.nextCount src) with
    | some e => (s, some (if s.streamMax p < sUnits e.desc then .error stBadField else .ok (e.desc, e.rcvs)))
    | none => s.readStreamDesc p (.admission src) (cW2 c).toNat
  match got with
  | (s2, none) => (s2, .wait)
  | (s2, some (.error st)) => (s2, .fail st)
  | (s2, some (.ok (d, rcvs))) =>
    let keyed : State × Option (Except Byte (BitVec 512)) := match rcvs.find? (fun v => decide (v.kind = 2)) with
      | some v => s2.getLayer p src v.layer
      | none => (s2, some (.ok 0#512))
    match keyed with
    | (s3, none) => (s3, .wait)
    | (s3, some (.error st)) => (s3, .fail st)
    | (s3, some (.ok kd)) =>
      let has2 := rcvs.any fun v => decide (v.kind = 2)
      if has2 ∧ !(kDescOk kd) then (s3, .fail stBadTable)
      else if has2 ∧ (sDims d ≠ 1 ∨ sSrc d ≠ kBase kd ∨ sRun d ≠ kImageLen kd) then (s3, .fail stBadField)
      else if has2 ∧ s3.fld fJeWinnowCtl_STATE ≠ 0 then (s3, .fail stWinnowBypassed)
      else
        let here (y : StreamCmd) : Bool := decide (y.part = p) && decide (y.id = cStreamId c)
        let other (x : StreamCtx) : Bool := decide (x.slots ≠ sSlots d) || decide (x.slotLog2 ≠ sSlotLog2 d)
        let s3 := if (s3.ctxOf p (cStreamId c)).any other ∧ !(s3.streams.any fun y => here y && decide (y.t ≠ none)) then s3.dropEarlyOf here
          else s3
        match s3.ctxOf p (cStreamId c) with
        | some x => if other x then (s3, .wait) else (s3, .okStream d rcvs)
        | none =>
          let s4 := s3.makeRoom p (sUnits d) s3.streams.length
          if s4.streamRoom p (sUnits d) then (s4, .okStream d rcvs) else (s4, .wait)

/-! VERSION_SWITCH (R52, R232) and OBJECT_MOVE (R222) -/

/-- A region of a version lies wholly inside its object (R219). -/
def Obj.holds (o : Obj) (a n : Nat) : Bool := decide (o.base.toNat ≤ a) && decide (a + n ≤ o.base.toNat + o.len)

/-- Bytes of the storage of class k of a version (R92, R219): of a replicated table, 256 B for each copy of a line. -/
def State.classBytes (s : State) (d : Desc) (k : Nat) : Nat :=
  let n := d.classBound k * d.stride k
  if d.replicated then ceilDiv n 256 * 256 * s.mappedList.length else n

/-- The object conditions of R219 and R232 on a new version. -/
def State.versionObjOk (s : State) (p : Part) (d : Desc) : Bool :=
  match s.obj p d.object with
  | none => false
  | some o =>
    !o.retiring && decide (o.tier ≠ 2) &&
    d.classes.all (fun k => o.holds (d.rowBase k) (s.classBytes d k)) &&
    (decide (d.mode ≠ 4) || o.holds d.remapBase (4 * d.rows))

/-- Admission of VERSION_SWITCH (R232). -/
def State.admitSwitch (s : State) (p : Part) (src : Src) (c : Cmd) : State × AdmRes :=
  if dirBound (s.fld fJpTableDir_SIZE_LOG2 p) 20 ≤ cTable c then (s, .fail stBadTable)
  else match s.readPart p (.admission src) (cW2 c).toNat 128 with
  | (s1, none) => (s1, .wait)
  | (s1, some (_, true)) => (s1, .fail stPoisoned)
  | (s1, some (bs, false)) =>
    let d : Desc := BitVec.ofNat 1024 (leNat bs)
    match s1.getTable p src (cTable c) with
    | (s2, none) => (s2, .wait)
    | (s2, some none) => (s2, .fail stPoisoned)
    | (s2, some (some cur)) =>
      if d.version ≠ cVersion c then (s2, .fail stBadField)
      else if cur.valid ∧ (cVersion c = cur.version ∨ behind (cVersion c) cur.version) then (s2, .fail stBadField)
      else if d.valid ∧ !d.ok then (s2, .fail stBadTable)
      else if d.valid ∧ !(s2.versionObjOk p d) then (s2, .fail stBadTable)
      else if s2.movesIn p (cTable c) then (s2, .wait)
      else (s2, .ok [] 0 [] 0 d)

/-- The physical base of an object as its range-table entry gives it (R217, R222). -/
def State.objPhys (s : State) (o : Obj) : Nat :=
  let e := s.rdNat (s.fld fJpXlatTable_BASE o.part * 4096 + 32 * o.range) 32
  natBits e 140 52 * 4096 + (o.base.toNat - natBits e 12 52 * 4096)

/-- Two physical ranges meet. -/
def overlaps (a n b m : Nat) : Bool := decide (a < b + m) && decide (b < a + n)

/-- The conditions of R222. -/
def State.moveOk (s : State) (p : Part) (c : Cmd) : Bool :=
  match s.obj p (cObject c) with
  | none => false
  | some o =>
    let tg := (cW2 c).toNat
    let cur := s.objPhys o
    let win := s.hbmPhys (s.fld fJeWinCtl_BASE_GIB * 2 ^ 30)
    decide (cObject c ≠ 0) && !o.moving && decide (cTier c < 2) && decide (tg % 2 ^ 21 = 0) && decide (physSpace tg = cTier c) &&
    decide (physEngine tg = s.fld fJePhysMap_ENGINE) &&
    (if cTier c = 0 then decide (physOff tg + o.len ≤ s.hbmBound) else decide (physOff tg + o.len ≤ s.boardBound)) &&
    !(overlaps tg o.len cur o.len) &&
    !(decide (s.fld fJeWinCtl_ENABLED = 1) && (overlaps tg o.len win (64 * 2 ^ 30) || overlaps cur o.len win (64 * 2 ^ 30)))

/-! The admission step -/

/-- The checks of one opcode. -/
def State.admByOp (s : State) (p : Part) (src : Src) (c : Cmd) : State × AdmRes :=
  match cOp c with
  | 0x30 => s.admitStream p src c
  | 0x40 => s.admitSwitch p src c
  | 0x41 => if s.moveOk p c then (s, .ok [] 0 [] 0 0) else (s, .fail stBadField)
  | 0x51 =>
    if cAll c then (s, .ok [] 0 [] 0 0)
    else if dirBound (s.fld fJpTableDir_SIZE_LOG2 p) 20 ≤ cTable c then (s, .fail stBadTable)
    else match s.getTable p src (cTable c) with
      | (s1, none) => (s1, .wait)
      | (s1, some none) => (s1, .fail stPoisoned)
      | (s1, some (some d)) => if d.valid then (s1, .ok [] 0 [] 0 0) else (s1, .fail stBadTable)
  | 0x00 => (s, .ok [] 0 [] 0 0)
  | 0x01 => (s, .ok [] 0 [] 0 0)
  | 0x02 => (s, .ok [] 0 [] 0 0)
  | _ => s.admitTable p src c

/-- The checks of a command in their order (R33, R35). -/
def State.admCheck (s : State) (p : Part) (src : Src) (c : Cmd) : State × AdmRes :=
  if cOp c ∉ opcodes then (s, .fail stBadOpcode)
  else if !(cmdFieldsOk c (match src with | .direct _ => true | _ => false)) then (s, .fail stBadField)
  else
    match s.admReads.find? (fun a => decide (a.src = src)) with
    | some a =>
      if a.aborted then (s, .fail stFaultAborted)
      else if !a.ready then (s, .wait)
      else if a.poisoned then (s, .fail stPoisoned)
      else s.admByOp p src c
    | none =>
      if ((admReadOf c).isSome ∧ !(s.earlyOf src (s.nextCount src)).isSome) ∨ (namesShards (cOp c) ∧ s.hasShardEntry p (cTable c)) then
        ({ s with admReads := s.admReads ++ [⟨src, false, false, false⟩] }, .wait)
      else s.admByOp p src c

/-! Served requests (R328, R330 to R332) -/

/-- A field of a column-slice header (R330): n bytes at an offset. -/
def mField (msg : List Byte) (off n : Nat) : Nat := bytesAt msg off n
/-- FLAGS bit k. -/
def mFlag (msg : List Byte) (k : Nat) : Bool := decide (natBits (bytesAt msg 3 1) k 1 = 1)
/-- TABLE. -/
def mTable (msg : List Byte) : Nat := natBits (bytesAt msg 8 4) 0 20
/-- POOL_MODE. -/
def mPoolMode (msg : List Byte) : Nat := natBits (bytesAt msg 8 4) 20 4
/-- OFRAC. -/
def mOfrac (msg : List Byte) : Nat := natBits (bytesAt msg 8 4) 24 5
/-- COLS. -/
def mCols (msg : List Byte) : Nat := natBits (bytesAt msg 12 4) 0 15
/-- BAGS. -/
def mBags (msg : List Byte) : Nat := natBits (bytesAt msg 12 4) 16 16
/-- BAG_FIRST. -/
def mBagFirst (msg : List Byte) : Nat := bytesAt msg 16 4
/-- ENTRIES. -/
def mEntries (msg : List Byte) : Nat := bytesAt msg 20 4
/-- ALPHA. -/
def mAlpha (msg : List Byte) : W32 := BitVec.ofNat 32 (bytesAt msg 24 4)
/-- REQ_ID. -/
def mReqId (msg : List Byte) : W32 := BitVec.ofNat 32 (bytesAt msg 4 4)
/-- DROPPED. -/
def mDropped (msg : List Byte) : Nat := bytesAt msg 28 4

/-- A column-slice message (R330): header fields and body. -/
def mkMsg (typ status flags : Nat) (reqId : W32) (table mode ofrac cols bags first entries : Nat) (alpha : W32) (dropped : Nat)
    (body : List Byte) : List Byte :=
  leBytes 1 typ ++ leBytes 1 1 ++ leBytes 1 status ++ leBytes 1 flags ++ leBytes 4 reqId.toNat ++
  leBytes 4 (table + mode * 2 ^ 20 + ofrac * 2 ^ 24) ++ leBytes 4 (cols + bags * 2 ^ 16) ++ leBytes 4 first ++
  leBytes 4 entries ++ leBytes 4 alpha.toNat ++ leBytes 4 dropped ++ body

/-- The queue pair of a number. -/
def State.qp (s : State) (i : BitVec 12) : Option QP := s.qps.find? fun q => decide (q.i = i)

/-- Changes a queue pair. -/
def State.modQp (s : State) (i : BitVec 12) (f : QP → QP) : State :=
  { s with qps := updFirst (fun q => decide (q.i = i)) f s.qps }

/-- Path MTU in bytes (R321). -/
def QP.mtu (q : QP) : Nat := 1024 * 2 ^ bitsOf q.ctx 26 2

/-- The UDP source port of a queue pair: bits [15:0] of mix(QPN, 0), bits [15:14] forced to 1 (R320, R321). -/
def udpSource (i : BitVec 12) : BitVec 16 := (mixHash (0x10000 + i.setWidth 64) 0).setWidth 16 ||| 0xC000

/-- Sends a message on a pair in RTS: one packet number for each packet of it (R320). -/
def State.sendMsg (s : State) (i : BitVec 12) (msg : List Byte) : State :=
  match s.qp i with
  | some q =>
    if q.state = .rts then
      (s.modQp i fun q => { q with sendPsn := q.sendPsn + BitVec.ofNat 24 (max 1 (ceilDiv msg.length q.mtu)) }).emit
        (.packet i q.port (udpSource i) msg)
    else s
  | none => s

/-- A reply to a request that carries `bags` bags from `first` on: TYPE is the request's plus one. -/
def replyMsg (msg : List Byte) (status flags dropped bags first : Nat) (body : List Byte) : List Byte :=
  mkMsg (mField msg 0 1 + 1) status flags (mReqId msg) (mTable msg) (mPoolMode msg) (mOfrac msg) (mCols msg) bags first 0
    (mAlpha msg) dropped body

/-- A reply without a body. -/
def replyTo (msg : List Byte) (status flags dropped : Nat) : List Byte :=
  replyMsg msg status (flags ||| 1) dropped 0 (mBagFirst msg) []

/-- The command that a served request runs as (R328): 64-bit indices with FP32 weights, one bag for each bag of the
message. -/
def servedCmd (msg : List Byte) : Cmd :=
  let op := if mField msg 0 1 = 1 then 0x10 else 0x20
  BitVec.ofNat 512 (op + mTable msg * 2 ^ 64 + mPoolMode msg * 2 ^ 84 + (mFlag msg 4).toNat * 2 ^ 92 + 2 ^ 93 +
    mBags msg * 2 ^ 96 + 2 ^ 120 + mEntries msg * 2 ^ 384 + (mAlpha msg).toNat * 2 ^ 448)

/-- Reply status of a request that fails admission (R332). -/
def servedStatus (st : Byte) : Nat :=
  if st = stBadField then 0x08 else if st = stFaultAborted then 0x05 else 0x02

/-- A request's shape against the table it names (R332). -/
def shapeOk (d : Desc) (msg : List Byte) : Bool :=
  decide (mCols msg = d.dim) && decide (mFlag msg 2 = d.intAcc) && decide (mOfrac msg = d.ofrac)

/-! The effect of an admission (R30 to R33, R47, R51, R52) -/

/-- Takes the command a source offered: admission goes on to the next one. -/
def State.takeHead (s : State) (src : Src) : State :=
  match src with
  | .ring r => s.modRing r fun x => { x with
      fetched := x.fetched.drop 1, admitAt := x.admitAt + 1, noEarly := x.noEarly.filter fun k => decide (k ≠ x.admitAt) }
  | .direct p => s.modPart p fun ps => { ps with dcmd := ps.dcmd.drop 1, dcmdNext := ps.dcmdNext + 1 }
  | .remote _ => s

/-- Forgets what admission noted of a served request. -/
def State.admDone (s : State) (src : Src) : State :=
  match s.srcPart src with
  | some p => s.forgetHead p src
  | none => s

/-- A free tracker number. -/
def State.freeTracker (s : State) : TrackerId :=
  BitVec.ofNat 14 (firstFree (s.trackers.map (·.id.toNat)) s.trackers.length 0)

/-- The tracker a command starts with. -/
def newTracker (id : TrackerId) (p : Part) (src : Src) (count : W32) (c : Cmd) (serial : Nat) : Tracker :=
  { id := id, part := p, src := src, count := count, cmd := c, admitted := true, phase := .handed, marks := Marks.none,
    torn := false, detail := 0, detailHi := 0, pins := [], bags := 0, waitCount := 0, serial := serial,
    background := false, touched := [], shards := [], total := 0, body := 0 }

/-- A command that fails admission (R33): no effect but its completion record; its early work is discarded (R212). It holds a
tracker until the record is written, and waits while none is free (DESIGN CHOICE, log 73: R32 gives trackers to admitted commands). -/
def State.admFail (s : State) (p : Part) (src : Src) (c : Cmd) (st : Byte) : State :=
  let n := s.nextCount src
  let x := newTracker s.freeTracker p src n c s.admitted
  let early (e : StreamCmd) : Bool := match src with
    | .ring r => decide (e.ring = some (r, n))
    | _ => false
  let s1 : State := { s with
    trackers := s.trackers ++ [{ x with admitted := false, phase := .done, marks := { Marks.none with only := some st } }] }
  (((s1.dropEarlyOf early).takeHead src).forgetHead p src)

/-- Blocks that a command's tables use become the most recently used (R96). -/
def State.touchBlocks (s : State) (p : Part) (pins : List Pin) : State :=
  let uses (b : FmtBlock) : Bool := decide (b.part = p) && pins.any fun q =>
    decide (Desc.fmtBase q.desc = b.base) && decide (Desc.version q.desc = b.version)
  { s with fmt := s.fmt.filter uses ++ s.fmt.filter fun b => !(uses b) }

/-- VERSION_SWITCH takes effect at its admission (R52, R233): the descriptor becomes current, and DETAIL counts the
commands pinned to the replaced version. -/
def State.switchNow (s : State) (p : Part) (t : TrackerId) (c : Cmd) (d : BitVec 1024) : State :=
  let old := ((s.graft.find? fun g => decide (g.part = p) && decide (g.table = cTable c)).map (·.desc)).getD 0
  let held := (s.trackers.filter fun x => x.pins.any fun q =>
    decide (q.part = p) && decide (q.table = cTable c) && decide (q.desc = old)).length
  let s1 : State := { s with
    graft := s.graft.map fun (g : Current) => if g.part = p ∧ g.table = cTable c then { g with desc := d } else g
    switches := s.switches ++ [⟨t, p, cTable c, s.admitted, old⟩] }
  s1.modTrk t fun x => { x with detail := held }

/-- A KEYED_LOOKUP enters the Winnow's queue with its layer as read at admission (R162). -/
def State.keyedNow (s : State) (t : TrackerId) (c : Cmd) (layer : BitVec 512) : State :=
  { s with keyed := s.keyed ++ [⟨t, cLayer c, layer, cK c, cW2 c, cQueryCount c, none, false, 0, .idle, [], [], [], [], [], false, []⟩] }

/-- A SCATTER_ADD enters the Rake with MERGE as it stands at admission (R177). -/
def State.scatterNow (s : State) (t : TrackerId) : State :=
  { s with scatters := s.scatters ++ [⟨t, decide (s.fld fJeRakeCtl_MERGE = 1), [], [], [], false, 0, 0, 0, false, [], []⟩] }

/-- OBJECT_MOVE closes its object to another move at its admission (R222, R223). -/
def State.moveNow (s : State) (p : Part) (c : Cmd) : State :=
  s.modObj p (cObject c) fun o => { o with moving := true, stopped := false, cursor := 0, target := cW2 c }

/-- A STREAM at its admission (R195, R208, R211): its stream is bound, and early work held for it is confirmed; the data of
squashed slots are discarded, with their poison, and read again. -/
def State.streamNow (s : State) (p : Part) (src : Src) (n : W32) (t : TrackerId) (c : Cmd) (d : BitVec 1024)
    (rcvs : List Receiver) : State :=
  match s.earlyOf src n with
  | some e =>
    let k := (e.slots.filter (·.squashed)).length
    let fresh (sl : SSlot) : SSlot := if sl.squashed then { sl with data := [], poison := [], squashed := false, blocks := [] } else sl
    let kept := e.slots.map fresh
    let conf (x : StreamCmd) : StreamCmd :=
      { x with t := some t, slots := kept, refetched := x.refetched + k, passedSoft := false, paused := false
               poison := kept.any fun sl => sl.poison.any id }
    let s1 : State := { s with streams := updFirst (fun x => decide (x = e)) conf s.streams }
    ((s1.bump fJeStreamStat_EARLY_CONFIRMED).bump fJeStreamStat_REFETCHED 0 k).modTrk t fun x =>
      { x with detail := x.detail + k, touched := x.touched ++ e.touched.filter fun h => decide (h ≠ 0) }
  | none =>
    let x : StreamCmd := ⟨some t, none, p, cStreamId c, d, rcvs, [], 0, 0, false, false, none, false, []⟩
    let s1 : State := { s with streams := s.streams ++ [x] }
    if (s1.ctxOf p (cStreamId c)).isSome then s1
    else { s1 with sctx := s1.sctx ++ [⟨p, cStreamId c, sSlots d, sSlotLog2 d, sUnits d⟩] }

/-- A command of priority 3 runs as background traffic (R221). -/
def State.srcBackground (s : State) (src : Src) : Bool :=
  match src with
  | .ring r => (s.ring r).any fun x => decide (x.ctx.priority = 3)
  | _ => false

/-- Admits a command (R30 to R32, R51): it takes a tracker, its credits and its pins, and goes to its unit. -/
def State.admitNow (s : State) (p : Part) (src : Src) (c : Cmd) (r : AdmRes) : State :=
  let n := s.nextCount src
  let id := s.freeTracker
  let base := { newTracker id p src n c s.admitted with background := s.srcBackground src }
  let x : Tracker := match r with
    | .ok pins bags shards total body => { base with pins := pins, bags := bags, shards := shards, total := total, body := body }
    | _ => base
  let s1 : State := { s with trackers := s.trackers ++ [x], admitted := s.admitted + 1 }
  let s2 := match r with
    | .okStream d rcvs => s1.streamNow p src n id c d rcvs
    | _ =>
      if cOp c = 0x40 then s1.switchNow p id c x.body
      else if cOp c = 0x41 then s1.moveNow p c
      else if cOp c = 0x18 then (s1.touchBlocks p x.pins).keyedNow id c (x.body.setWidth 512)
      else if cOp c = 0x20 then (s1.touchBlocks p x.pins).scatterNow id
      else s1.touchBlocks p x.pins
  (s2.takeHead src).forgetHead p src

/-- Trackers a partition's admitted commands hold are below their limit (R32). -/
def State.trackerRoom (s : State) (p : Part) : Bool := decide (s.inFlight p < 8192)

/-- One attempt for a ring or the direct path; the flag says whether a command was admitted or failed. -/
def State.tryCmd (s : State) (p : Part) (src : Src) : State × Bool :=
  if 16384 ≤ s.trackers.length then (s, false)
  else match s.headCmd src with
  | none => (s, false)
  | some c =>
    match s.admCheck p src c with
    | (s1, .wait) => (s1, false)
    | (s1, .fail st) => (s1.admFail p src c st, true)
    | (s1, r) => if s1.trackerRoom p then (s1.admitNow p src c r, true) else (s1, false)

/-- Answers a served request and forgets it. -/
def State.answer (s : State) (x : Served) (status flags dropped : Nat) : State :=
  let s1 : State := { s with served := eraseFirst (fun y => decide (y = x)) s.served }
  s1.sendMsg x.qp (replyTo x.msg status flags dropped)

/-! Pushed vectors (R334) -/

/-- PUSH_BASE of a pair (R321). -/
def QP.pushBase (q : QP) : Nat := bitsOf q.ctx 384 64
/-- PUSH_STRIDE of a pair. -/
def QP.pushStride (q : QP) : Nat := bitsOf q.ctx 448 32

/-- The bags of a PUSH or a GATHER_REPLY: number, count, poison flag, and the bytes of the values (R331). -/
def msgBags (msg : List Byte) : List (Nat × Nat × Bool × List Byte) :=
  let n := 8 + 4 * mCols msg
  (List.range (mBags msg)).map fun k =>
    (mBagFirst msg + k, bytesAt msg (32 + n * k) 4, decide (bytesAt msg (36 + n * k) 1 % 2 = 1), (msg.drop (40 + n * k)).take (4 * mCols msg))

/-- Looks every address up for a write; the first that does not hit, if any. -/
def State.xlatAll (s : State) (p : Part) (who : Parker) : List Nat → State × XRes
  | [] => (s, .hit 0 0)
  | a :: r =>
    if !(s.mayTranslate p) then (s, .wait)
    else match s.xlat p who a .write with
      | (s1, .hit _ _) => match s1.xlatAll p who r with
        | (s2, .hit x y) => (s2, .hit x y)
        | (s2, y) => (s2.xnote p who a, y)
      | x => x

/-- One attempt for a PUSH (R332, R334): its vectors are written as a delivery, by a command that holds a tracker until the writes
are visible; it is refused where PUSH_BASE is 0 or a write does not translate. -/
def State.tryPush (s : State) (p : Part) (q : QP) (x : Served) : State × Bool :=
  let refuse (s : State) : State × Bool := ((s.bump fJpNetStat_PUSH_REFUSED p).answer x 0x07 0 0, true)
  let at0 (b : Nat) : Nat := (q.pushBase + b * q.pushStride) % 2 ^ 64
  let bags := msgBags x.msg
  if q.pushBase = 0 then refuse s
  else if 16384 ≤ s.trackers.length ∨ !(s.trackerRoom p) then (s, false)
  else match s.xlatAll p (.admission (.remote x.qp)) (bags.flatMap fun b => granAddrs (at0 b.1) b.2.2.2.length) with
    | (s1, .fault _ _ _) => refuse s1
    | (s1, .wait) => (s1, false)
    | (s1, .hit _ _) =>
      let t := s1.freeTracker
      let y := { newTracker t p (.remote x.qp) 0 0 s1.admitted with phase := .done }
      let s2 : State := { s1 with
        trackers := s1.trackers ++ [y]
        admitted := s1.admitted + 1
        served := updFirst (fun z => decide (z = x)) (fun z => { z with t := some t }) s1.served }
      let s3 := if bags.any (fun b => b.2.2.1) then s2.poisonCmd t else s2
      (bags.foldl (fun (s : State) b => (s.writePart p (.cmd t) (at0 b.1) b.2.2.2 b.2.2.1 (some t)).1) s3, true)

/-- One attempt for the oldest request of a pair (R328). -/
def State.tryServed (s : State) (p : Part) (q : BitVec 12) : State × Bool :=
  match s.served.find? (fun x => decide (x.qp = q) && decide (x.t = none)) with
  | none => (s, false)
  | some x =>
    let src := Src.remote q
    if !(s.partEnabled p) then (s.answer x 0x04 0 0, true)
    else if x.typ = 5 then (match s.qp q with
      | some y => s.tryPush p y x
      | none => (s, false))
    else if 16384 ≤ s.trackers.length then (s, false)
    else
      let c := servedCmd x.msg
      if (mField x.msg 0 1 = 1 ∧ mPoolMode x.msg > 2) ∨ (mField x.msg 0 1 = 3 ∧ notFinite32 (mAlpha x.msg)) then (s.answer x 0x08 0 0, true)
      else match s.admReads.find? (fun a => decide (a.src = src) && a.aborted) with
      | some _ => ((s.admDone src).answer x 0x05 0 0, true)
      | none => match s.admitTable p src c with
        | (s1, .wait) => (s1, false)
        | (s1, .fail st) => ((s1.admDone src).answer x (servedStatus st) 0 0, true)
        | (s1, .ok pins bags sh total body) =>
          if !(pins.head?.any fun y => shapeOk y.desc x.msg) then ((s1.admDone src).answer x 0x03 0 0, true)
          else if !(s1.trackerRoom p) then (s1, false)
          else
            let id := s1.freeTracker
            let s2 := s1.admitNow p src c (.ok pins bags sh total body)
            ({ s2 with served := updFirst (fun y => decide (y = x)) (fun y => { y with t := some id }) s2.served }, true)
        | (s1, _) => (s1, false)

/-- One attempt for a source. -/
def State.tryAdmit (s : State) (p : Part) (src : Src) : State × Bool :=
  match src with
  | .remote q => s.tryServed p q
  | _ => if s.offers p src then s.tryCmd p src else (s, false)

/-- A candidate for admission: partition, level, place in the rotation, source. -/
structure Cand where
  part : Part
  lvl : Nat
  no : Nat
  src : Src
deriving DecidableEq, Repr

/-- The candidates of a partition in the order of R31. -/
def State.candsOf (s : State) (p : Part) : List Cand :=
  (levelsFrom (s.part p).turn).flatMap fun l =>
    (rotate ((s.part p).lastRing.getD l 0) (s.sourcesAt p l)).map fun x => ⟨p, l, x.1, x.2⟩

/-- The candidates in the order of R31: partitions in rotation. -/
def State.cands (s : State) : List Cand :=
  (List.range 16).flatMap fun k => s.candsOf (partOf (s.rotor + k))

/-- The turn passes on after a partition has been served (R31). -/
def State.turnTaken (s : State) (x : Cand) : State :=
  let s1 : State := { s with rotor := (x.part.val + 1) % 16 }
  s1.modPart x.part fun ps => { ps with turn := ps.turn + 1, lastRing := ps.lastRing.set x.lvl x.no }

/-- Tries the candidates until one goes ahead. -/
def State.tryAll (s : State) : List Cand → State
  | [] => s
  | x :: r => match s.tryAdmit x.part x.src with
    | (s1, true) => s1.turnTaken x
    | (s1, false) => s1.tryAll r

/-- ADMIT_COMMAND (R30 to R33): the next command in the order of R31 that can be admitted, or that fails a check. -/
def execAdmitCommand (s : State) : Host.Outcome State Fault Refusal :=
  stepTo (if s.ready ∧ s.fld fJePwrStatus_STATE < 2 then s.tryAll s.cands else s)

/-- Fails the command a source waits with, where it still offers one. -/
def State.failHead (s : State) (src : Src) (st : Byte) : State :=
  match src, s.srcPart src with
  | .remote q, _ => match s.served.find? (fun x => decide (x.qp = q) && decide (x.t = none)) with
    | some x => (s.admDone src).answer x (servedStatus st) 0 0
    | none => s
  | _, some p => match s.headCmd src with
    | some c => if s.offers p src ∧ s.trackers.length < 16384 then s.admFail p src c st else s
    | none => s
  | _, none => s

/-- ADMISSION_READ_RETURN (R173, R193, R232, R324): the read a command waits for returns, and the command is checked
against it; a check that fails ends it here. -/
def execAdmissionReadReturn (src : Src) (s : State) : Host.Outcome State Fault Refusal :=
  stepTo (match s.admReads.find? (fun a => decide (a.src = src) && !a.ready), s.srcPart src, s.headCmd src with
    | some _, some p, some c =>
      let rd : State × Option (List Byte × Bool) := match admReadOf c with
        | some (a, n) => s.readPart p (.admission src) a n
        | none => s.readPart p (.admission src) (s.fld fJpShardDir_BASE p * 4096 + 8 * cTable c) 8
      match rd with
      | (s1, none) => s1
      | (s1, some (_, poison)) =>
        let s2 : State := { s1 with admReads := s1.admReads.map fun (a : AdmRead) =>
          if a.src = src then { a with ready := true, poisoned := poison } else a }
        if s2.offers p src ∧ s2.trackers.length < 16384 then
          match s2.admCheck p src c with
          | (s3, .fail st) => s3.admFail p src c st
          | _ => s2
        else s2
    | _, _, _ => s)

/-- A table's current version is a descriptor. -/
def State.isCurrent (s : State) (p : Part) (d : BitVec 1024) : Bool := s.graft.any fun g => decide (g.part = p) && decide (g.desc = d)

/-- Evicts the least recently used idle blocks until a block of `n` units fits (R96). -/
def State.evictBlocks (s : State) (n : Nat) : Nat → State
  | 0 => s
  | k + 1 =>
    if s.fmt.length < 16 ∧ sumBy (fun (b : FmtBlock) => ceilDiv b.bytes.length 512) s.fmt + n ≤ 128 then s
    else ({ s with fmt := eraseLast s.blockIdle s.fmt } : State).evictBlocks n k

/-- The read of a format block has faulted for the source it was made for: every other command that waits for it is parked with it
(R96). -/
def State.parkWaiting (s : State) (l : FmtLoad) (src : Src) : State :=
  let ps := (s.part l.part).parked.filter fun x => decide (x.who = .admission src)
  match ps.find? (fun x => (granAddrs l.base (fmtBlockSize l.dim)).contains x.addr) with
  | none => s
  | some q => (l.srcs.map (·.1)).eraseDups.foldl (fun (s : State) y =>
      if y = src ∨ s.isParked l.part (.admission y) q.addr ∨ !(s.mayTranslate l.part) then s
      else s.openFault l.part { q with who := .admission y, rec_ := none }) s

/-- FORMAT_BLOCK_LOAD_DONE (R88, R95, R96): a format block has been read. A poisoned one fails every waiting command
with POISONED; a command whose current table's checks it fails ends with BAD_TABLE. Otherwise it is installed in every lane in
service, once a block can be evicted for it. -/
def execFormatBlockLoadDone (src : Src) (s : State) : Host.Outcome State Fault Refusal :=
  stepTo (match s.fmtLoads.find? (fun l => l.srcs.any fun y => decide (y.1 = src)) with
    | none => s
    | some l =>
      match s.readPart l.part (.admission src) l.base (fmtBlockSize l.dim) with
      | (s1, none) => s1.parkWaiting l src
      | (s1, some (bs, poison)) =>
        let s2 : State := { s1 with fmtLoads := eraseFirst (fun x => decide (x = l)) s1.fmtLoads }
        if poison then (l.srcs.map (·.1)).eraseDups.foldl (fun s q => s.failHead q stPoisoned) s2
        else
          let good := l.srcs.filter fun y => Desc.blockOk y.2 bs
          let failed := (l.srcs.filter fun y => !(Desc.blockOk y.2 bs) && s2.isCurrent l.part y.2).map (·.1)
          let s3 := failed.eraseDups.foldl (fun s q => s.failHead q stBadTable) s2
          let n := ceilDiv bs.length 512
          if good = [] then s3
          else if !(s3.blockRoom n) then (good.map (·.1)).foldl (fun s q => s.noteWait q 0 fJeFmtStat_WAITS) s3
          else
            let s4 := s3.evictBlocks n 16
            ({ s4 with fmt := ⟨l.part, l.base, l.version, bs⟩ :: s4.fmt } : State).bump fJeFmtStat_LOADS)

end Sys2Proof.Machine
end

