-- ==== Sys2Proof/Machine/Sieve.lean ====
section
/-! DEFINITION. The Sieve (R66 to R85): the index, offset and weight streams, dealing bags to the pipelines, validation,
mapping, deduplication with its windows and holds, fan-out, and the closing of bags in their slices (R123, R139). -/
namespace Sys2Proof.Machine

/-! Batches and bags -/

/-- The batch of a command. -/
def State.batch (s : State) (t : TrackerId) : Option Batch := s.batches.find? fun b => decide (b.t = t)

/-- Changes a batch. -/
def State.modBatch (s : State) (t : TrackerId) (f : Batch → Batch) : State :=
  { s with batches := updFirst (fun b => decide (b.t = t)) f s.batches }

/-- A bag in flight. -/
def State.bag (s : State) (t : TrackerId) (b : Nat) : Option Bag :=
  s.bags.find? fun g => decide (g.t = t) && decide (g.bag = b)

/-- Changes a bag. -/
def State.modBag (s : State) (t : TrackerId) (b : Nat) (f : Bag → Bag) : State :=
  { s with bags := updFirst (fun g => decide (g.t = t) && decide (g.bag = b)) f s.bags }

/-- A bag that starts. -/
def newBag (t : TrackerId) (b first stop : Nat) (entries : List (W64 × W32)) (whole : Bool) : Bag :=
  { t := t, bag := b, first := first, stop := stop, entries := entries, fwd := [], whole := whole, reserved := false,
    slices := 0, sent := List.replicate 8 0, applied := List.replicate 8 0, token := false, closed := 0, arrived := 0,
    accepted := 0, sat := false, esc := 0, poison := false, acc := none, rerun := .no, shards := 0, pieces := [],
    result := none, clipped := false, delivered := false }

/-- No counts yet. -/
def noCounts : SieveCounts := ⟨0, 0, 0, 0, 0, 0, 0, 0⟩

/-- The batch a bag-batch command starts with (R66, R69). -/
def newBatch (t : TrackerId) (c : Cmd) (kind : BatchKind) (given : Bool) : Batch :=
  let one := decide (kind = .preload) || decide (kind = .apply)
  { t := t, kind := kind, mode := if cOp c = 0x10 then cPoolMode c else 0
    weighted := !one && (given || cWeighted c)
    idxFmt := if kind = .apply then 1 else if given then 1 else cIndexFmt c
    wFmt := if given then 0 else cWeightFmt c
    bagCount := if one then 1 else cBagCount c
    indexCount := if kind = .apply then cRowCount c else cIndexCount c
    indices := if kind = .apply then cW2 c else cW3 c
    offsets := cW2 c, weights := cW4 c, lines := [], nextBag := 0, ended := none, lock := cBit28 c, given := given,
    hash := [], remaps := [], winMax := none, seen := [], counts := noCounts, statsDone := false, sentBag := 0 }

/-- Element k of a list, one added to it. -/
def addAt (l : List Nat) (k n : Nat) : List Nat := l.set k (l.getD k 0 + n)

/-- Marks a bag poisoned, and its command with it (R70, R141). -/
def State.poisonBag (s : State) (t : TrackerId) (b : Nat) : State :=
  (s.modBag t b fun g => { g with poison := true }).poisonCmd t

/-! Partial vectors (R120, R139, R140) -/

/-- One column of two partial results, by mode and accumulator type; the flag tells a saturation. -/
def combine (int : Bool) (mode : Nat) (a b : W32) : W32 × Bool :=
  if int then
    (if mode = 2 then (if toI32 a < toI32 b then b else a, false)
     else let r := satInt 32 (toI32 a + toI32 b); (ofIntW 32 r.1, r.2))
  else if mode = 2 then (fmaxNan a b, false) else (fadd a b, false)

/-- The value accumulators start at (R120). -/
def startVal (int : Bool) (mode : Nat) : W32 :=
  if mode = 2 then (if int then 0x80000000#32 else 0xFF800000#32) else 0#32

/-- Combines a run of columns into a vector from a column on. -/
def combineAt (int : Bool) (mode col : Nat) (v : List W32) (x : List W32) : List W32 × Bool :=
  let r := (List.range v.length).map fun c =>
    if col ≤ c ∧ c < col + x.length then combine int mode (v.getD c 0) (x.getD (c - col) 0) else (v.getD c 0, false)
  (r.map (·.1), r.any (·.2))

/-- The bag pools on the integer grid: ACC is 1 and it is not in its re-run (R102). -/
def Bag.intPass (g : Bag) (d : Desc) : Bool := d.intAcc && decide (g.rerun ≠ .running)

/-- The slice's partial of a bag: its accumulator rows combined, and whether a sum saturated. -/
def State.slicePartial (s : State) (g : Bag) (n : SliceId) (d : Desc) (mode : Nat) : List W32 × Bool :=
  let int := g.intPass d
  let mine := s.accs.filter fun a => decide (a.t = g.t) && decide (a.bag = g.bag) && decide (laneSlice a.lane = n)
  mine.foldl (fun (v : List W32 × Bool) a =>
    let r := combineAt int mode a.col v.1 a.vals
    (r.1, v.2 || r.2)) (List.replicate d.dim (startVal int mode), false)

/-- Closes a bag in a slice whose applied count has reached its token's count (R139). -/
def State.closeSlice (s : State) (t : TrackerId) (b : Nat) (n : SliceId) : State :=
  match s.bag t b, s.batch t, (s.trk t).bind (·.desc) with
  | some g, some bt, some d =>
    if g.token ∧ g.slices.getLsbD n.val ∧ !(g.closed.getLsbD n.val) ∧ g.applied.getD n.val 0 = g.sent.getD n.val 0 then
      let vec := s.slicePartial g n d bt.mode
      let vals := if g.sent.getD n.val 0 = 0 then none else some vec.1
      let s1 : State := { s with
        accs := s.accs.filter fun a => !(decide (a.t = t) && decide (a.bag = b) && decide (laneSlice a.lane = n))
        partials := s.partials ++ [⟨n, t, b, vals⟩] }
      s1.modBag t b fun g => { g with closed := g.closed ||| BitVec.ofNat 8 (2 ^ n.val), sat := g.sat || vec.2 }
    else s
  | _, _, _ => s

/-- Closes a bag in every slice where it can be closed. -/
def State.closeSlices (s : State) (t : TrackerId) (b : Nat) : State :=
  (List.finRange 8).foldl (fun s n => s.closeSlice t b n) s

/-! Reduction-buffer units (R123) -/

/-- This engine holds columns of the command's table (R324). -/
def State.localShard (s : State) (x : Tracker) : Bool :=
  decide (x.shards = []) || x.shards.any fun h => decide (h.engine = s.fld fJePhysMap_ENGINE)

/-- Units a bag of a command reserves in each buffer: by the descriptor's DIM, or by TOTAL_DIM where no shard of a split table is
here (R324). -/
def State.units (s : State) (x : Tracker) : Nat :=
  ceilDiv (4 * (if s.localShard x then (x.desc.map Desc.dim).getD x.total else x.total)) 256

/-- Hub units reserved, of one partition or of all. -/
def State.hubUnits (s : State) (p : Option Part) : Nat :=
  sumBy (fun (g : Bag) => match s.trk g.t with
    | some x => if g.reserved && !g.delivered && (match p with | some q => decide (x.part = q) | none => true) then s.units x else 0
    | none => 0) s.bags

/-- Units reserved in a slice. -/
def State.sliceUnits (s : State) (n : SliceId) (p : Option Part) : Nat :=
  sumBy (fun (g : Bag) => match s.trk g.t with
    | some x => if g.reserved && g.slices.getLsbD n.val && !(g.closed.getLsbD n.val) &&
        (match p with | some q => decide (x.part = q) | none => true) then s.units x else 0
    | none => 0) s.bags

/-- PART_CAP in sixteenths, 0 acting as 16. -/
def State.partCap (s : State) : Nat := if s.fld fJePoolCtl_PART_CAP = 0 then 16 else s.fld fJePoolCtl_PART_CAP

/-- Reserves a bag's units where every buffer has room and the partition stays within its share. -/
def State.reserveBag (s : State) (x : Tracker) (b : Nat) : State × Bool :=
  let u := s.units x
  let hub := decide (s.hubUnits none + u ≤ 16384) && decide (s.hubUnits (some x.part) + u ≤ 1024 * s.partCap)
  let ok := s.slicesIn.all fun n => decide (s.sliceUnits n none + u ≤ 8192) && decide (s.sliceUnits n (some x.part) + u ≤ 512 * s.partCap)
  if hub && ok then
    let mask := s.slicesIn.foldl (fun (m : Byte) n => m ||| BitVec.ofNat 8 (2 ^ n.val)) 0
    let s1 := s.modBag x.id b fun g => { g with reserved := true, slices := mask }
    (s1.peak fJePoolStat_HUB_PEAK (s1.hubUnits none), true)
  else (s, false)

/-! Hash entries, windows and holds (R79 to R83) -/

/-- MIN hash entries of a partition, at least 4,096. -/
def State.hashMin (s : State) (p : Nat) : Nat := max 4096 (s.fld fJpSieveQuota_MIN p)
/-- MAX hash entries of a partition. -/
def State.hashMax (s : State) (p : Nat) : Nat := max (s.hashMin p) (min (s.fld fJpSieveQuota_MAX p) 1048576)
/-- Hash entries a partition holds. -/
def State.hashUse (s : State) (p : Part) : Nat :=
  sumBy (fun (b : Batch) => if (s.trk b.t).any (fun x => decide (x.part = p)) then b.hash.length else 0) s.batches
/-- A hash entry the partition may take is free, in a window that was opened under a MAX (R84). -/
def State.hashRoom (s : State) (p : Part) (most : Nat) : Bool :=
  decide (s.hashUse p < s.hashMin p) ||
    (decide (s.hashUse p < most) &&
      decide (sumBy (fun (q : Part) => max (s.hashMin q) (s.hashUse q)) (List.finRange 16) < 1048576))

/-- Closes a command's window (R83): entries whose lines are not held go, and with them the remap entries read for them; the entries
of held lines, and the remap entry of the key whose first sight closes it, go on into the next window. -/
def State.closeWindow (s : State) (p : Part) (t : TrackerId) (key : Nat) : State :=
  let f (b : Batch) : Batch :=
    let kept := b.hash.filter (·.held)
    { b with
      hash := kept
      remaps := b.remaps.filter fun m => decide (m.1.toNat = key) || kept.any fun e => decide (e.table = 0) && decide (e.key = m.1.toNat)
      winMax := some (s.hashMax p), counts := { b.counts with windows := b.counts.windows + 1 } }
  (s.modBatch t f).bump fJpSieveDrop_QUOTA_CLOSES p.val

/-- Inserts a hash entry, opening the command's first window, or closing its window where no entry is free. -/
def State.hashInsert (s : State) (p : Part) (t : TrackerId) (e : HashEnt) : State :=
  let most := ((s.batch t).bind (·.winMax)).getD (s.hashMax p)
  let s1 := if s.hashRoom p most then s else s.closeWindow p t e.key
  let f (b : Batch) : Batch := { b with
    hash := b.hash ++ [e], winMax := some (b.winMax.getD (s.hashMax p)), counts := { b.counts with windows := max 1 b.counts.windows } }
  let most1 := ((s1.batch t).bind (·.winMax)).getD (s1.hashMax p)
  let s2 := if s1.hashRoom p most1 then s1.modBatch t f else s1
  s2.peak fJpSieveUse_HASH_PEAK (s2.hashUse p) p.val

/-- Counts an entry of a row in its command, and latches HOT_SPREAD at its first sight (R81, R171). -/
def State.seeRow (s : State) (t : TrackerId) (table key : Nat) : State :=
  let same (y : RowSeen) : Bool := decide (y.table = table) && decide (y.key = key)
  s.modBatch t fun b => { b with
    seen := if b.seen.any same then updFirst same (fun y => { y with count := y.count + 1 }) b.seen
      else b.seen ++ [⟨table, key, 1, s.fld fJeSieveCtl_HOT_SPREAD⟩] }

/-- What a command has seen of a row. -/
def State.seenOf (s : State) (t : TrackerId) (table key : Nat) : Option RowSeen :=
  (s.batch t).bind fun b => b.seen.find? fun y => decide (y.table = table) && decide (y.key = key)

/-- A row whose entries have reached HOT_SPREAD · 64: the ones after them are dealt out, 0 never. -/
def RowSeen.past (y : RowSeen) : Bool := decide (y.spread ≠ 0) && decide (y.spread * 64 ≤ y.count)

/-- Held lines per lane (R80). -/
def State.holdLane (s : State) : Nat := min 16 (s.fld fJeSieveCtl_HOLD_LANE)

/-- The held rows, each with its command. -/
def State.heldRows (s : State) : List (TrackerId × HashEnt) :=
  s.batches.flatMap fun b => (b.hash.filter (·.held)).map fun e => (b.t, e)

/-- Lines held in a lane. -/
def State.laneHolds (s : State) (l : LaneId) : Nat :=
  sumBy (fun (e : TrackerId × HashEnt) => (e.2.lines.filter fun x => decide (x.1 = l)).length) s.heldRows

/-- Cloche entries keep their hold only while some held row names them. -/
def State.fixHeld (s : State) : State :=
  let rows := s.heldRows
  let named (e : ClocheEnt) : Bool := rows.any fun r => (e.lane, e.line) ∈ r.2.lines
  let l := s.cloche.map fun (e : ClocheEnt) => if e.held ∧ !(named e) then { e with held := false } else e
  s.withCloche (l.filter fun e => decide (e.valid ≠ 0) || decide (e.lock ≠ none) || e.held)

/-- Releases a held row in all its lanes (R80). -/
def State.releaseRow (s : State) (t : TrackerId) (table key : Nat) : State :=
  let f (e : HashEnt) : HashEnt := { e with held := false, hot := false }
  (s.modBatch t fun b => { b with
    hash := updFirst (fun e => decide (e.table = table) && decide (e.key = key)) f b.hash }).fixHeld

/-- The row least recently referenced among the held rows that a test picks. -/
def leastRef (l : List (TrackerId × HashEnt)) : Option (TrackerId × HashEnt) :=
  match l with
  | [] => none
  | a :: r => some (r.foldl (fun best x => if x.2.lastRef < best.2.lastRef then x else best) a)

/-- Releases the least recently referenced hold of a lane, other than a row of a command; the flag says whether there was one. -/
def State.releaseOldest (s : State) (l : LaneId) (but : Option (TrackerId × Nat × Nat)) : State × Bool :=
  match leastRef (s.heldRows.filter fun e =>
      e.2.lines.any (fun x => decide (x.1 = l)) && decide (but ≠ some (e.1, e.2.table, e.2.key))) with
  | some (t, e) => (s.releaseRow t e.table e.key, true)
  | none => (s, false)

/-- Makes room for n more holds in a lane (R80); the flag says whether there is. -/
def State.roomIn (s : State) (l : LaneId) (n : Nat) (but : Option (TrackerId × Nat × Nat)) : Nat → State × Bool
  | 0 => (s, decide (s.laneHolds l + n ≤ s.holdLane))
  | k + 1 =>
    if s.laneHolds l + n ≤ s.holdLane then (s, true)
    else match s.releaseOldest l but with
      | (s1, true) => s1.roomIn l n but k
      | (s1, false) => (s1, false)

/-- Makes room for a row's lines in their lanes; the flag says whether the row can be held in all of them. A row with more lines in
a lane than HOLD_LANE is not held, and releases nothing (DESIGN CHOICE, log 36). -/
def State.makeHolds (s : State) (lanes : List LaneId) (but : Option (TrackerId × Nat × Nat)) : State × Bool :=
  let most (l : LaneId) : Nat := (lanes.filter fun y => decide (y = l)).length
  if lanes.any fun l => decide (s.holdLane < most l) then (s, false)
  else lanes.eraseDups.foldl (fun (y : State × Bool) l =>
    if y.2 then y.1.roomIn l (most l) but (y.1.laneHolds l) else y) (s, true)

/-- Releases holds past HOLD_LANE in every lane, least recently referenced first, after a decrease (R80). -/
def State.trimHolds (s : State) : Nat → State
  | 0 => s
  | k + 1 =>
    match (List.finRange 256).find? (fun l => decide (s.holdLane < s.laneHolds l)) with
    | some l => (s.releaseOldest l none).1.trimHolds k
    | none => s

/-- Releases every hold and hash entry of a command (R80, R83). -/
def State.freeHash (s : State) (t : TrackerId) : State :=
  (s.modBatch t fun b => { b with hash := [], remaps := [], winMax := none }).fixHeld

/-- Frees a pooled or preloading command's hash entries and holds once all of its fan-out has been applied (R80, R83). -/
def State.windowOver (s : State) (t : TrackerId) : State :=
  match s.batch t with
  | none => s
  | some b =>
    if b.hash ≠ [] ∧ (b.kind = .pool ∨ b.kind = .keyed ∨ b.kind = .preload) ∧ (b.ended.isSome ∨ b.bagCount ≤ b.nextBag) ∧
        (s.bags.all fun g => decide (g.t ≠ t) || (g.token && decide (g.applied = g.sent)))
      then s.freeHash t else s

/-! Rows and segments -/

/-- A row an entry names: the table (0 own, 1 partner), the deduplication key, the class and slot, and in mode 3 the
remainder row that goes with it. -/
structure RowRef where
  table : Nat
  key : Nat
  cls : Nat
  slot : Nat
  mul : Option Nat
deriving DecidableEq, Repr

/-- The descriptor of a row's table. -/
def Tracker.descOf (x : Tracker) (table : Nat) : Option Desc := if table = 0 then x.desc else x.desc2

/-- The partition addresses that a row's requests name. -/
def Desc.rowAddrs (d : Desc) (r : RowRef) : List Nat :=
  if d.replicated then [d.rowBase r.cls]
  else (d.segs r.cls).map fun g => (d.rowBase r.cls + r.slot * d.stride r.cls + g.1) % 2 ^ 64

/-- A request for a row of an entry is parked (R278). -/
def State.rowParked (s : State) (x : Tracker) (r : RowRef) : Bool :=
  ((x.descOf r.table).elim [] fun d => d.rowAddrs r).any (fun a => s.isParked x.part (.cmd x.id) a) ||
    (r.mul.isSome && x.desc2.any fun d => s.isParked x.part (.cmd x.id) (d.rowBase 0))

/-- Translates the segments of a row (R90, R92, R273), and in mode 3 row 0 of the remainder table. Of a replicated table's own row
the first copy of each group is taken (DESIGN CHOICE, log 35: every copy holds the same bytes). -/
def State.mapRow (s : State) (x : Tracker) (r : RowRef) : State × Option (List Seg) :=
  match x.descOf r.table with
  | none => (s, some [])
  | some d =>
    let off := r.slot * d.stride r.cls
    match s.lookAll x.part (.cmd x.id) .row (d.rowAddrs r) with
    | (s1, none) => (s1, none)
    | (s1, some l) =>
      let phs := l.map (·.1)
      let n := s1.mappedList.length
      let rem : State × Option (Option (Nat × Nat)) := match r.mul, x.desc2 with
        | some k, some d2 => match s1.look x.part (.cmd x.id) (d2.rowBase 0) .row with
          | (s2, some (a, _)) => (s2, some (some (a, k)))
          | (s2, none) => (s2, none)
        | _, _ => (s1, some none)
      match rem with
      | (s2, none) => (s2, none)
      | (s2, some mul) =>
        let seg (i : Nat) (g : Nat × Nat × Nat × Nat) : Seg :=
          let a := if d.replicated then phs.getD 0 0 + 256 * ((off + g.1) / 256 * n) + (off + g.1) % 256 else phs.getD i 0
          ⟨a, g.2.1, d.need r.cls g.2.1 g.2.2.2, g.2.2.1, g.2.2.2, r.table, r.cls, mul⟩
        (s2, some ((d.segs r.cls).mapIdx seg))

/-- Translates the segments of several rows; none while one of them waits. -/
def State.mapRows (s : State) (x : Tracker) : List RowRef → State × Option (List (RowRef × List Seg))
  | [] => (s, some [])
  | r :: rest =>
    match s.mapRow x r with
    | (s1, none) => (s1, none)
    | (s1, some segs) => match s1.mapRows x rest with
      | (s2, none) => (s2, none)
      | (s2, some l) => (s2, some ((r, segs) :: l))

/-! Fan-out queue (R81) -/

/-- Fan-out entries of a partition that wait. -/
def State.fanUse (s : State) (p : Part) : Nat :=
  (s.laneQ.filter fun w => w.fan && (s.trk w.t).any fun x => decide (x.part = p)).length

/-- The partition may take k more queue entries: 16,384 guaranteed, the rest borrowed from 229,376. -/
def State.fanRoom (s : State) (p : Part) (k : Nat) : Bool :=
  let u := s.fanUse p + k
  decide (u ≤ 16384) ||
    decide (u - 16384 + sumBy (fun (q : Part) => if q = p then 0 else s.fanUse q - 16384) (List.finRange 16) ≤ 229376)

/-- The hash entry of a row in a command's window. -/
def State.hashOf (s : State) (t : TrackerId) (r : RowRef) : Option HashEnt :=
  (s.batch t).bind fun b => b.hash.find? fun e => decide (e.table = r.table) && decide (e.key = r.key)

/-- The pieces of a remainder row beside a quotient segment, in the copy of a channel (R75, R92). -/
def State.remSegs (s : State) (x : Tracker) (g : Seg) (ch : Nat) : List RemSeg :=
  match g.mul, x.desc2 with
  | some (base, row), some d2 =>
    let n := s.mappedList.length
    let gth := (s.mappedList.findIdx? fun z => decide (z = ch)).getD 0
    ((d2.segs 0).filter fun p => decide (p.2.2.1 < g.col + g.cols) && decide (g.col < p.2.2.1 + p.2.2.2)).map fun p =>
      let b := row * d2.stride 0 + p.1
      let t := b / 256
      let m := physOff base / (256 * n) + t
      let h := (m ^^^ (m >>> 8) ^^^ (m >>> 16) ^^^ (m >>> 24)) % 256
      let j := (gth + n * (256 / n + 1) - h) % n
      ⟨base + 256 * (t * n + j) + b % 256, p.2.1, d2.need 0 p.2.1 p.2.2.2, p.2.2.1, p.2.2.2⟩
  | _, _ => []

/-- Granules of its line that a segment needs. -/
def Seg.mask (g : Seg) : BitVec 4 := g.need <<< (g.addr % 256 / 64)

/-- Granules of its line that a remainder's piece needs. -/
def RemSeg.mask (r : RemSeg) : BitVec 4 := r.need <<< (r.addr % 256 / 64)

/-- The lines that an entry needs in its lane: physical address and granules. -/
def needLines (g : Seg) (rem : List RemSeg) : List (Nat × BitVec 4) :=
  (g.addr / 256 * 256, g.mask) :: rem.map fun r => (r.addr / 256 * 256, r.mask)

/-- Sends work to lanes: each piece counts towards its slice's token (R139). A bag that does not include the slice is
poisoned instead (R260, R399). -/
def State.sendWork (s : State) (x : Tracker) (b : Nat) (fan : Bool) (w : W32) (l : List (LaneId × Seg × List RemSeg)) : State :=
  l.foldl (fun s y =>
    let n := y.1.val / 32
    let inSlices := s.sliceServes (Fin.ofNat 8 n) (some x.serial) && (s.bag x.id b).any fun g => !g.reserved || g.slices.getLsbD n
    if inSlices then
      let s1 := s.modBag x.id b fun g => { g with sent := addAt g.sent n 1 }
      { s1 with laneQ := s1.laneQ ++ [⟨y.1, fan, x.id, b, y.2.1, w, y.2.2, needLines y.2.1 y.2.2, false, false⟩] }
    else s.poisonBag x.id b) s

/-- Counts in a command's statistics, unless its bag is in its re-run (DESIGN CHOICE: a re-run counts nothing). -/
def State.count (s : State) (t : TrackerId) (quiet : Bool) (f : SieveCounts → SieveCounts) : State :=
  if quiet then s else s.modBatch t fun b => { b with counts := f b.counts }

/-- Changes a row's hash entry in its command's window. -/
def State.modHash (s : State) (t : TrackerId) (r : RowRef) (f : HashEnt → HashEnt) : State :=
  s.modBatch t fun b => { b with hash := updFirst (fun y => decide (y.table = r.table) && decide (y.key = r.key)) f b.hash }

/-- Lines of a row are fetched (R79, R80): counted, again where the row was fetched earlier in the command (R72), and held in their
lanes beside the lines `kept` where the lanes can hold them. -/
def State.fetchLines (s : State) (x : Tracker) (r : RowRef) (kept new : List (LaneId × Nat)) (may quiet : Bool) : State :=
  let n := new.length
  let seen := (s.seenOf x.id r.table r.key).isSome
  let h := if may ∧ 0 < s.holdLane then s.makeHolds (new.map (·.1)) (some (x.id, r.table, r.key)) else (s, false)
  let s1 := h.1.count x.id quiet fun c => { c with fetches := c.fetches + n, refetch := if seen then c.refetch + n else c.refetch }
  let s2 := match s1.hashOf x.id r with
    | some e =>
      let f (e : HashEnt) : HashEnt := { e with held := h.2, hot := h.2 && e.hot, lastRef := s1.clock, lines := kept ++ new }
      if e.held ∧ !h.2 then (s1.releaseRow x.id r.table r.key).modHash x.id r f else s1.modHash x.id r f
    | none => s1.hashInsert x.part x.id ⟨r.key, r.cls, r.slot, r.table, h.2, false, s1.clock, new⟩
  { s2 with clock := s2.clock + 1 }

/-- The remainder row of an entry in mode 3, at the lanes its quotient lines go to (R75, R79): lines its hash entry does not have
there are fetched. A copy in another lane than before is a fetch of a row already fetched (DESIGN CHOICE, log 35). -/
def State.remSight (s : State) (x : Tracker) (row : Nat) (lines : List (LaneId × Nat)) (may quiet : Bool) : State :=
  let r : RowRef := ⟨1, row, 0, row, none⟩
  let kept := match s.hashOf x.id r with
    | some e => if e.held then e.lines else []
    | none => []
  let new := lines.eraseDups.filter fun l => !(l ∈ kept)
  let s1 := if new = [] then (s.modHash x.id r fun e => { e with lastRef := s.clock }) else s.fetchLines x r kept new may quiet
  s1.seeRow x.id 1 row

/-- Sends a row's entries to their lanes, each with the channel it belongs to, and in mode 3 the remainder with them. -/
def State.sendRow (s : State) (x : Tracker) (b : Nat) (fan : Bool) (w : W32) (quiet : Bool) (l : List (LaneId × Nat × Seg)) : State :=
  let work := l.map fun y => (y.1, y.2.2, s.remSegs x y.2.2 y.2.1)
  let s1 := match l.head?.bind (·.2.2.mul) with
    | none => s
    | some (base, row) =>
      s.remSight x row (work.flatMap fun (y : LaneId × Seg × List RemSeg) => y.2.2.map fun (r : RemSeg) => (y.1, lineKey r.addr)) (s.cacheable base) quiet
  s1.sendWork x b fan w work

/-- The lane of a line's home, with the channel its references belong to (R117, R118). -/
def State.rowHome (s : State) (g : Seg) : LaneId × Nat × Seg := (s.laneOfLine g.addr, (s.refChannel g.addr).getD 0, g)

/-- Spreads a held row over the other lanes of its slice that are in service and have a hold free (R81). -/
def State.spreadRow (s : State) (x : Tracker) (r : RowRef) (segs : List Seg) : State :=
  let put (key : Nat) (valid : BitVec 4) (s : State) (l : LaneId) : State :=
    let i := s.install l key valid
    if i.2 then
      (i.1.withCloche (updFirst (fun y => decide (y.lane = l) && decide (y.line = key))
        (fun y => { y with held := decide (y.lock = none) }) i.1.cloche)).modHash x.id r fun y => { y with lines := y.lines ++ [(l, key)] }
    else i.1
  let one (s : State) (g : Seg) : State :=
    let home := s.laneOfLine g.addr
    let key := lineKey g.addr
    match s.clocheAt home key with
    | none => s
    | some c =>
      ((List.finRange 256).filter fun l => decide (l.val / 32 = home.val / 32) && decide (l ≠ home) &&
        decide (s.laneState l.val = 0) && decide (s.laneHolds l < s.holdLane)).foldl (put key c.valid) s
  (segs.foldl one s).modHash x.id r fun y => { y with hot := true }

/-- The lane that takes a later sight of a line: its home, or in rotation one of the lanes a spread row's line stands in, with that
lane's own channel. -/
def State.fanTo (s : State) (e : HashEnt) (k : Nat) (g : Seg) : LaneId × Nat × Seg :=
  let ls := (e.lines.filter fun y => decide (y.2 = lineKey g.addr) && decide (s.laneState y.1.val = 0)).map (·.1)
  let home := s.rowHome g
  if e.hot then
    let l := ls.getD (k % ls.length) home.1
    if l = home.1 then home else (l, l.val, g)
  else home

/-- A later sight of a held row: fan-out entries to the lanes that hold its lines (R79, R81). The row is spread once its entries
have reached the threshold and its lines are in their lanes; the entries after that are dealt out. -/
def State.fanRow (s : State) (x : Tracker) (b : Nat) (r : RowRef) (segs : List Seg) (w : W32) (quiet : Bool) (e : HashEnt) : State :=
  let seen := s.seenOf x.id r.table r.key
  let k := (seen.map (·.count)).getD 0
  let here (g : Seg) : Bool := (s.clocheAt (s.laneOfLine g.addr) (lineKey g.addr)).any fun c => decide (g.mask &&& ~~~c.valid = 0)
  let s1 := if !e.hot && seen.any (·.past) && segs.all here then s.spreadRow x r segs else s
  let e1 := (s1.hashOf x.id r).getD e
  let s2 := (s1.modHash x.id r fun y => { y with lastRef := s1.clock }).seeRow x.id r.table r.key
  ({ s2 with clock := s2.clock + 1 } : State).sendRow x b true w quiet (segs.map (s2.fanTo e1 k))

/-- Fetches a row for a first sight, or again after its release (R79, R80). -/
def State.fetchRow (s : State) (x : Tracker) (b : Nat) (r : RowRef) (segs : List Seg) (w : W32) (quiet : Bool) : State :=
  let s1 := (s.fetchLines x r [] (segs.map fun g => (s.laneOfLine g.addr, lineKey g.addr)) (segs.all fun g => s.cacheable g.addr) quiet).seeRow
    x.id r.table r.key
  s1.sendRow x b false w quiet (segs.map s1.rowHome)

/-- One row of an accepted entry goes to its lanes. A re-run's entry whose row has moved since reads it where it is now, beside
the window (R103). -/
def State.poolRow (s : State) (x : Tracker) (b : Nat) (r : RowRef) (segs : List Seg) (w : W32) (quiet : Bool) : State :=
  match s.hashOf x.id r with
  | some e =>
    if e.cls ≠ r.cls ∨ e.slot ≠ r.slot then s.sendRow x b false w quiet (segs.map s.rowHome)
    else if e.held then s.fanRow x b r segs w quiet e
    else s.fetchRow x b r segs w quiet
  | none => s.fetchRow x b r segs w quiet

/-- One row of an accepted scatter entry becomes a row reference of the Rake (R171): hot once HOT_SPREAD · 64 entries of it have gone
before it in the command. -/
def State.scatterRow (s : State) (x : Tracker) (b : Nat) (r : RowRef) (w : W32) : State :=
  let hot := (s.seenOf x.id r.table r.key).any (·.past)
  let put (s : State) : State :=
    { s with scatters := updFirst (fun c => decide (c.t = x.id)) (fun c => { c with refs := c.refs ++ [⟨b, r.table, r.cls, r.slot, w, hot, false, []⟩] }) s.scatters }
  let s1 := if (s.hashOf x.id r).isSome then s
    else (s.count x.id false fun c => { c with fetches := c.fetches + 1 }).hashInsert x.part x.id
      ⟨r.key, r.cls, r.slot, r.table, false, false, s.clock, []⟩
  put (s1.seeRow x.id r.table r.key)

/-! Entries (R66, R70) -/

/-- An entry as the pipeline reads it. -/
structure Ent where
  x : W64
  w : W32
  poison : Bool
deriving DecidableEq, Repr

/-- A word of a stream that starts at a partition address, from the line buffer: its value and its poison. -/
def Batch.word (b : Batch) (k : IdxStream) (base off n : Nat) : Option (Nat × Bool) :=
  let a := base + off
  (b.lines.find? fun l => decide (l.kind = k) && decide (l.line = a / 256 - base / 256)).map fun l =>
    (natBits l.data.toNat (8 * (a % 256)) (8 * n), l.poison.getLsbD (a % 256 / 64))

/-- Entry i of a bag; none while its line is not there. -/
def Batch.entry (b : Batch) (g : Bag) (i : Nat) : Option Ent :=
  if b.given then (g.entries[i - g.first]?).map fun e => ⟨e.1, e.2, false⟩
  else
    let iw := idxBytes b.idxFmt
    match b.word .index b.indices.toNat (i * iw) iw with
    | none => none
    | some (x, px) =>
      if !b.weighted then some ⟨BitVec.ofNat 64 x, 0x3F800000#32, px⟩
      else
        let ww := wBytes b.wFmt
        (b.word .weight b.weights.toNat (i * ww) ww).map fun y => ⟨BitVec.ofNat 64 x, widenWeight b.wFmt y.1, px || y.2⟩

/-- The padding index of a width (R70). -/
def Batch.isPad (b : Batch) (x : W64) : Bool := decide (x.toNat = 2 ^ (8 * idxBytes b.idxFmt) - 1)

/-- The classes of a dropped entry (R70). -/
inductive Drop where
  | padded | outOfRange | badWeight | poisoned
deriving DecidableEq, Repr

/-- Drops an entry: statistics, the partition's totals, DETAIL, and poison where it is poisoned (R70 to R72). -/
def State.dropEntry (s : State) (x : Tracker) (b : Nat) (quiet : Bool) (k : Drop) : State :=
  let s0 := if k = .poisoned ∧ x.op ≠ 0x21 then s.poisonBag x.id b else if k = .poisoned then s.poisonCmd x.id else s
  if quiet then s0
  else
    let det (s : State) : State := s.modTrk x.id fun y => { y with detail := y.detail + 1 }
    match k with
    | .padded => s0.count x.id false fun c => { c with padded := c.padded + 1 }
    | .outOfRange => det ((s0.count x.id false fun c => { c with outOfRange := c.outOfRange + 1 }).bump fJpSieveDrop_OUT_OF_RANGE x.part.val)
    | .badWeight => det ((s0.count x.id false fun c => { c with badWeight := c.badWeight + 1 }).bump fJpSieveDrop_BAD_WEIGHT x.part.val)
    | .poisoned => det ((s0.count x.id false fun c => { c with poisoned := c.poisoned + 1 }).bump fJpSieveDrop_POISONED x.part.val)

/-- The popularity sampler (R111): an accepted entry of a table with MIGRATE is sampled with probability
2^-SAMPLE_LOG2; the draw is a free value. -/
def State.sample (s : State) (x : Tracker) (d : Desc) (r : RowRef) : State :=
  if s.fld fJePopCtl_ENABLE = 1 ∧ d.migrate then
    let v := s.draw
    if v.1.toNat % 2 ^ min 24 (s.fld fJePopCtl_SAMPLE_LOG2) = 0 then
      { v.2 with popAdds := v.2.popAdds ++ [⟨x.part, cTable x.cmd, r.key, r.cls, r.slot, d⟩] }
    else v.2
  else s

/-- Accepts an entry that maps to rows (R70, R79, R325): none of it happens while a translation or a full fan-out queue
holds it. An entry whose row faults leaves the pipeline and waits for the reply (R278). The flag says whether the pipeline goes
on. -/
def State.acceptEntry (s : State) (x : Tracker) (d : Desc) (b i : Nat) (e : Ent) (quiet : Bool) (rows : List RowRef) : State × Bool :=
  match (s.batch x.id).map (·.kind) with
  | none => (s, true)
  | some kind =>
    let done (s : State) : State :=
      let s1 := s.count x.id quiet fun c => { c with accepted := c.accepted + 1 }
      let s2 := s1.modBag x.id b fun g => { g with
        accepted := g.accepted + 1, fwd := if x.shards = [] ∨ quiet then g.fwd else g.fwd ++ [(e.x, e.w)] }
      match rows with
      | r :: _ => if d.mode = 4 ∧ !quiet then s2.sample x d r else s2
      | [] => s2
    match kind with
    | .scatter =>
      let s1 := if s.localShard x then rows.foldl (fun s r => s.scatterRow x b r e.w) s else s
      (done s1, true)
    | .apply =>
      if 8192 ≤ sumBy (fun (a : Apply) => a.rows.length) s.applies then (s, false)
      else
        let row : ApplyRow := ⟨i, e.x.toNat, (rows.head?.map (·.cls)).getD 0, (rows.head?.map (·.slot)).getD 0, none, none⟩
        let s1 : State := { s with applies := updFirst (fun a => decide (a.t = x.id)) (fun a => { a with rows := a.rows ++ [row] }) s.applies }
        (done s1, true)
    | _ =>
      if !(s.localShard x) then (done s, true)
      else match s.mapRows x rows with
      | (s1, none) =>
        if rows.any fun r => s1.rowParked x r then
          let slot := if d.mode = 4 then rows.head?.map fun r => (r.cls, r.slot) else none
          ({ s1 with rowWaits := s1.rowWaits ++ [⟨x.id, b, i, e.x, e.w, slot⟩] }, true)
        else (s1, false)
      | (s1, some l) =>
        let fans := sumBy (fun (y : RowRef × List Seg) => if (s1.hashOf x.id y.1).any (·.held) then y.2.length else 0) l
        if !(s1.fanRoom x.part fans) then (s1, false)
        else (done (l.foldl (fun s y => s.poolRow x b y.1 y.2 e.w quiet) s1), true)

/-- The rows of an index in modes 0 to 3 (R74): in mode 3 the quotient row, with the remainder row beside it (R75). -/
def rowsOf (m : Mapped) : List RowRef :=
  match m with
  | .rows l => l.map fun y => ⟨y.1, y.2.2, y.2.1, y.2.2, none⟩
  | .product q r => [⟨0, q, 0, q, some r⟩]
  | _ => []

/-- An entry whose mapping is known: its weight is checked, then it is accepted (R70). -/
def State.mapped (s : State) (x : Tracker) (d : Desc) (bt : Batch) (b i : Nat) (e : Ent) (quiet : Bool) (rows : List RowRef) :
    State × Bool :=
  if bt.weighted ∧ notFinite32 e.w then (s.dropEntry x b quiet .badWeight, true)
  else s.acceptEntry x d b i e quiet rows

/-- An entry of mode 4 whose remap entry is known (R74): poisoned, out of range, or mapped. -/
def State.remapped (s : State) (x : Tracker) (d : Desc) (bt : Batch) (b i : Nat) (e : Ent) (quiet : Bool) :
    Option (Option (Nat × Nat)) → State × Bool
  | none => (s.dropEntry x b quiet .poisoned, true)
  | some none => (s.dropEntry x b quiet .outOfRange, true)
  | some (some (k, slot)) => s.mapped x d bt b i e quiet [⟨0, e.x.toNat, k, slot, none⟩]

/-- Remap reads in flight: an index of a command whose entries wait for a value (R76). -/
def State.remapReads (s : State) : Nat :=
  ((s.remapWaits.filter fun w => !((s.batch w.t).any fun b => b.remaps.any fun m => decide (m.1 = w.x))).map fun w => (w.t, w.x)).eraseDups.length

/-- Classifies one entry (R70): dropped, accepted, or waiting for its remap read (R76). An index's first sight in a window reads its
remap entry, and every later entry of it in the window uses what was read; an entry of a re-run reads it again (R103). -/
def State.takeEntry (s : State) (x : Tracker) (d : Desc) (bt : Batch) (g : Bag) (i : Nat) (e : Ent) : State × Bool :=
  let quiet := decide (g.rerun = .running)
  if e.poison then (s.dropEntry x g.bag quiet .poisoned, true)
  else if bt.isPad e.x then (s.dropEntry x g.bag quiet .padded, true)
  else match d.mapIndex e.x.toNat with
  | .outOfRange => (s.dropEntry x g.bag quiet .outOfRange, true)
  | .remap =>
    let waiting := s.remapWaits.any fun w => decide (w.t = x.id) && decide (w.x = e.x)
    match bt.remaps.find? (fun m => decide (m.1 = e.x)), quiet || waiting with
    | some m, false => s.remapped x d bt g.bag i e quiet m.2
    | _, _ =>
      if waiting ∨ s.remapReads < 4096 then
        ({ s with remapWaits := s.remapWaits ++ [⟨x.id, g.bag, i, e.x, e.w⟩] }, true)
      else (s, false)
  | m => s.mapped x d bt g.bag i e quiet (rowsOf m)

/-! Dealing bags to pipelines (R68, R69, R77) -/

/-- Boundary k of a batch with offsets: none while its line is not there; the flag tells poison. -/
def Batch.bound (b : Batch) (k : Nat) : Option (Nat × Bool) :=
  if idxFixed b.idxFmt then some (b.indexCount / b.bagCount * k, false)
  else if k = b.bagCount then some (b.indexCount, false)
  else b.word .offset b.offsets.toNat (4 * k) 4

/-- A bag enters its pipeline: a command's bags are dealt in rotation, bag b to pipeline b mod 32 (DESIGN CHOICE, log 75: the spec does
not say which pipeline a command's rotation starts at). -/
def State.pushBag (s : State) (g : Bag) : State :=
  let k : Fin 32 := Fin.ofNat 32 g.bag
  { s with bags := s.bags ++ [g], pipes := s.pipes.set k (s.pipes[k] ++ [⟨g.t, g.bag, g.first, false⟩]) }

/-- The end of a command at bag b (R69). -/
def State.badOffsets (s : State) (x : Tracker) (b : Nat) (poison : Bool) : State :=
  let m := if poison then s.mark x.id fun m => { m with first := some (m.first.getD stPoisoned) }
    else s.mark x.id fun m => { m with first := some (m.first.getD stBadOffsets) }
  (m.modBatch x.id fun bt => { bt with ended := some b }).eventP x.part 0x09 x.tag b

/-- Deals the bags whose boundaries are known. -/
def State.dealBags (s : State) (x : Tracker) : Nat → State
  | 0 => s
  | k + 1 =>
    match s.batch x.id with
    | none => s
    | some bt =>
      let b := bt.nextBag
      if bt.ended.isSome ∨ bt.bagCount ≤ b ∨ bt.given then s
      else if bt.kind = .preload ∨ bt.kind = .apply then
        (s.modBatch x.id fun bt => { bt with nextBag := 1 }).pushBag (newBag x.id 0 0 bt.indexCount [] true)
      else
        match bt.bound b, bt.bound (b + 1) with
        | some (lo, pl), some (hi, ph) =>
          if pl then s.badOffsets x b true
          else if (b = 0 ∧ lo ≠ 0) ∨ bt.indexCount < lo then s.badOffsets x b false
          else if ph then s.badOffsets x b true
          else if hi < lo ∨ bt.indexCount < hi then s.badOffsets x b false
          else ((s.modBatch x.id fun bt => { bt with nextBag := b + 1 }).pushBag (newBag x.id b lo hi [] true)).dealBags x k
        | _, _ => s

/-- Deals what it can of a command. -/
def State.deal (s : State) (t : TrackerId) : State :=
  match s.trk t, s.batch t with
  | some x, some bt => s.dealBags x (bt.bagCount - bt.nextBag)
  | _, _ => s

/-- A preload ends with the entries of its bag (R135). -/
def State.preloadEnd (s : State) (t : TrackerId) (b : Nat) : State :=
  match s.batch t, s.bag t b with
  | some bt, some g => if bt.kind = .preload ∧ g.applied = g.sent then s.finish t else s
  | _, _ => s

/-- A bag whose entries have all left: once no remap read of it is out and no row of it is parked, its token goes to the slices (R139). A preload with
nothing left to install is done. -/
def State.tokenBag (s : State) (t : TrackerId) (b : Nat) : State :=
  let inPipe := (List.finRange 32).any fun k => s.pipes[k].any fun i => decide (i.t = t) && decide (i.bag = b)
  if inPipe ∨ s.remapWaits.any (fun w => decide (w.t = t) && decide (w.bag = b)) ∨
      s.rowWaits.any (fun w => decide (w.t = t) && decide (w.bag = b)) then s
  else
    (((s.modBag t b fun g => { g with token := true }).closeSlices t b).windowOver t).preloadEnd t b

/-- A bag leaves its pipeline. -/
def State.endBag (s : State) (k : Fin 32) (t : TrackerId) (b : Nat) : State :=
  ({ s with pipes := s.pipes.set k (s.pipes[k].filter fun i => !(decide (i.t = t) && decide (i.bag = b))) } : State).tokenBag t b

/-- The bags of aborted commands that lost requests drain poisoned (R393): entries not yet taken, and bags not yet dealt. -/
def State.drainAborted (s : State) : State :=
  let lost (s : State) (p : Part) (t : TrackerId) (b : Nat) : State :=
    (s.modBag t b fun g => { g with poison := true, whole := true }).bump fJpErrStat_ABORT_BAGS p.val
  (s.trackers.filter fun x => x.marks.aborted && (s.batch x.id).isSome).foldl (fun s x =>
    match s.batch x.id with
    | none => s
    | some bt =>
      let cut := (s.bags.filter fun g => decide (g.t = x.id) && !g.token).map (·.bag)
      let s1 := cut.foldl (fun s b => lost s x.part x.id b) s
      let s2 : State := { s1 with
        pipes := s1.pipes.map fun l => l.filter fun i => decide (i.t ≠ x.id)
        remapWaits := s1.remapWaits.filter fun w => decide (w.t ≠ x.id)
        rowWaits := s1.rowWaits.filter fun w => decide (w.t ≠ x.id) }
      let s3 := cut.foldl (fun s b => s.tokenBag x.id b) s2
      if bt.ended.isSome ∨ bt.kind = .preload ∨ bt.kind = .apply then s3
      else
        let rest := (List.range (bt.bagCount - bt.nextBag)).map fun k => bt.nextBag + k
        let s4 := s3.modBatch x.id fun bt => { bt with nextBag := bt.bagCount }
        rest.foldl (fun (s : State) b =>
          let s5 : State := { s with bags := s.bags ++ [newBag x.id b 0 0 [] true] }
          ((lost s5 x.part x.id b).reserveBag x b).1.tokenBag x.id b) s4) s

/-! Requests to remote shards (R322, R325, R333) -/

/-- Bytes of a message body (R330). -/
def maxBody : Nat := 131040

/-- Entries in pieces of n. -/
def chunks {α : Type} (n : Nat) (l : List α) : Nat → List (List α)
  | 0 => []
  | k + 1 => if l.length ≤ n then [l] else l.take n :: chunks n (l.drop n) k

/-- Packs bags into messages: each is a list of bags with their entries, whether it continues a bag, and whether its bag
spans messages. A bag that fits a message of its own is never split (DESIGN CHOICE). `extra` is what a bag takes beside its
entries. -/
def packBags (extra : Nat) : List (Nat × List (W64 × W32)) → List (Nat × List (W64 × W32)) → Nat →
    List (List (Nat × List (W64 × W32)) × Bool × Bool)
  | [], cur, _ => if cur = [] then [] else [(cur, false, false)]
  | (b, es) :: r, cur, size =>
    let c := 4 + extra + 12 * es.length
    if maxBody < c then
      (if cur = [] then [] else [(cur, false, false)]) ++
        (chunks ((maxBody - 4 - extra) / 12) es es.length).mapIdx (fun k l => ([(b, l)], decide (k ≠ 0), true)) ++
        packBags extra r [] 0
    else if maxBody < size + c then (cur, false, false) :: packBags extra r [(b, es)] c
    else packBags extra r (cur ++ [(b, es)]) (size + c)

/-- The entry counts and records of a request's body (R331). -/
def reqBody (bags : List (Nat × List (W64 × W32))) : List Byte :=
  bags.flatMap (fun b => leBytes 4 b.2.length) ++
    bags.flatMap fun b => b.2.flatMap fun e => leBytes 8 e.1.toNat ++ leBytes 4 e.2.toNat

/-- The shards of a command's table that other engines hold. -/
def State.remoteShards (s : State) (x : Tracker) : List Shard :=
  x.shards.filter fun h => decide (h.engine ≠ s.fld fJePhysMap_ENGINE)

/-- A remote request has failed with its pair, before a reply (R333). -/
def State.remoteFail (s : State) (r : RemoteReq) : State :=
  if r.typ = 1 then
    let s1 := (List.range r.counts.length).foldl (fun (s : State) k =>
      s.modBag r.t (r.bagFirst + k) fun g =>
        { g with poison := g.poison || !g.delivered, shards := if k < r.got then g.shards else g.shards - 1 }) s
    s1.mark r.t fun m => { m with remoteFailed := true }
  else
    match s.trk r.t with
    | some x => (s.mark r.t fun m => { m with lost := true }).tear x.part 0 (some r.t)
    | none => s

/-- MAX_OUT of a pair (R321). -/
def QP.maxOut (q : QP) : Nat := bitsOf q.ctx 288 9

/-- Sends the request messages that their pairs take now: in order, at most MAX_OUT unanswered on a pair (R322). -/
def State.pumpNetL (s : State) : List NetOut → State
  | [] => s
  | o :: rest =>
    match s.qp o.qp with
    | some q =>
      if q.state ≠ .rts then (s.remoteFail o.req).pumpNetL rest
      else if q.out.length < q.maxOut ∧ !(s.netQ.any fun w => decide (w.qp = o.qp)) then
        ((s.modQp o.qp fun q => { q with out := q.out ++ [o.req] }).sendMsg o.qp o.msg).pumpNetL rest
      else ({ s with netQ := s.netQ ++ [o] } : State).pumpNetL rest
    | none => (s.remoteFail o.req).pumpNetL rest

/-- Tries every request message that waits. -/
def State.pumpNet (s : State) : State := ({ s with netQ := [] } : State).pumpNetL s.netQ

/-- Queues a request message under a request number of its own. -/
def State.queueReq (s : State) (qp : Nat) (r : RemoteReq) (msg : W32 → List Byte) : State :=
  let id := BitVec.ofNat 32 s.clock
  { s with clock := s.clock + 1, netQ := s.netQ ++ [⟨BitVec.ofNat 12 qp, { r with reqId := id }, msg id⟩] }

/-- The bags of a command from one on whose entries are all known, in bag order. -/
def State.knownBags (s : State) (t : TrackerId) : Nat → Nat → List Bag
  | 0, _ => []
  | k + 1, n => match s.bag t n with
    | some g => if g.token then g :: s.knownBags t k (n + 1) else []
    | none => []

/-- Sends the bags of a pooled command that are ready to its remote shards, packed in bag order (R325). A bag in its re-run,
or of an aborted command, sends nothing. -/
def State.flushShards (s : State) (t : TrackerId) : State :=
  match s.trk t, s.batch t with
  | some x, some bt =>
    match x.desc with
    | none => s
    | some d =>
      if x.shards = [] ∨ (bt.kind ≠ .pool ∧ bt.kind ≠ .keyed) then s
      else
        let run := s.knownBags t s.bags.length bt.sentBag
        let s1 := s.modBatch t fun b => { b with sentBag := bt.sentBag + run.length }
        if x.marks.aborted then s1
        else
          let msgs := packBags 0 (run.map fun g => (g.bag, g.fwd)) [] 0
          ((s.remoteShards x).foldl (fun s h => msgs.foldl (fun (s : State) m =>
            let bags := m.1
            let first := (bags.head?.map (·.1)).getD 0
            let s2 := bags.foldl (fun (s : State) b => s.modBag t b.1 fun g => { g with shards := g.shards + 1 }) s
            let entries := sumBy (fun (b : Nat × List (W64 × W32)) => b.2.length) bags
            s2.queueReq h.qp ⟨0, 1, t, first, bags.map (·.2.length), 0, h.start, h.cols, m.2.2⟩ fun id =>
              mkMsg 1 0 (2 * m.2.1.toNat + 4 * d.intAcc.toNat + 32) id h.table (if m.2.2 ∧ bt.mode = 1 then 0 else bt.mode) d.ofrac
                h.cols bags.length first entries 0 0 (reqBody bags)) s) s1).pumpNet
  | _, _ => s

/-- Sends what any command has ready. -/
def State.flushAll (s : State) : State :=
  (s.batches.filter fun b => (s.trk b.t).any fun x => decide (x.shards ≠ [])).foldl (fun s b => s.flushShards b.t) s

/-! The rows of chapter 3 -/

/-- The bytes of a stream that one 256-byte line of it holds (R66): from, to. -/
def Batch.lineSpan (bt : Batch) (k : IdxStream) (line : Nat) : Nat × Nat :=
  let base := match k with | .index => bt.indices.toNat | .offset => bt.offsets.toNat | .weight => bt.weights.toNat
  let len := match k with
    | .index => bt.indexCount * idxBytes bt.idxFmt
    | .offset => if idxFixed bt.idxFmt then 0 else 4 * bt.bagCount
    | .weight => if bt.weighted then bt.indexCount * wBytes bt.wFmt else 0
  let la := (base / 256 + line) * 256
  (max base la, min (base + len) (la + 256))

/-- A line of a stream as it was read, from byte `lo` on: each granule's bytes and its poison (R66, R389). -/
def State.lineOf (s : State) (k : IdxStream) (line lo : Nat) (phs : List (Nat × W32)) (serial : Nat) : StreamLine :=
  let gran (j : Nat) : Option Nat := if lo / 64 ≤ lo / 256 * 4 + j then (phs[lo / 256 * 4 + j - lo / 64]?).map (·.1 / 64) else none
  let data := (List.range 4).foldl (fun n j => match gran j with
    | some g => n + s.rdNat (g * 64) 64 * 2 ^ (512 * j)
    | none => n) 0
  let pois := (List.range 4).foldl (fun n j => match gran j with
    | some g => if s.granPoison g (some serial) then n + 2 ^ j else n
    | none => n) 0
  ⟨k, line, BitVec.ofNat 2048 data, BitVec.ofNat 4 pois⟩

/-- INDEX_STREAM_LINE_RETURN (R68, R69, R77): a line of a stream returns to the line buffer, counted from the line of the
stream's first byte; bags whose boundaries it settles are dealt. -/
def execIndexStreamLineReturn (t : TrackerId) (k : IdxStream) (line : BitVec 32) (s : State) : Host.Outcome State Fault Refusal :=
  stepTo (match s.batch t, s.trk t with
    | some bt, some x =>
      let (lo, hi) := bt.lineSpan k line.toNat
      if bt.given ∨ x.marks.aborted ∨ hi ≤ lo ∨ (bt.lines.any fun l => decide (l.kind = k) && decide (l.line = line.toNat)) then s
      else match s.lookAll x.part (.cmd t) .read (granAddrs lo (hi - lo)) with
        | (s1, none) => s1
        | (s1, some phs) =>
          (s1.modBatch t fun bt => { bt with lines := bt.lines ++ [s1.lineOf k line.toNat lo phs x.serial] }).deal t
    | _, _ => s)

/-- One entry of a bag in a pipeline; the flag says whether the pipeline went on. The entry's word may have met an error (R382). -/
def State.intakeItem (s : State) (k : Fin 32) (err : EccErr) (it : PipeItem) : State × Bool :=
  match s.trk it.t, s.batch it.t, s.bag it.t it.bag with
  | some x, some bt, some g =>
    match x.desc with
    | none => (s, false)
    | some d =>
      let pooled := decide (bt.kind = .pool) || decide (bt.kind = .keyed)
      if pooled ∧ !g.reserved then
        let r := s.reserveBag x g.bag
        if r.2 then (r.1, true)
        else
          let note (l : List PipeItem) : List PipeItem := updFirst (fun i => decide (i = it)) (fun i => { i with waited := true }) l
          let s1 : State := { s with pipes := s.pipes.set k (note s.pipes[k]) }
          (if it.waited then s else s1.bump fJePoolStat_BUDGET_WAITS, false)
      else if g.stop ≤ it.next then (if g.whole then (s.endBag k g.t g.bag, true) else (s, false))
      else match bt.entry g it.next with
        | none => (s, false)
        | some e =>
          match s.takeEntry x d bt g it.next e with
          | (s0, false) => (s0, false)
          | (_, true) =>
            -- the word leaves the line buffer, where an error or an injection of class 1 strikes it (R382, R401)
            let word := s.fifoWord 1 x.part err
            let s1 := (word.1.takeEntry x d bt g it.next { e with poison := e.poison || word.2 }).1
            let step (l : List PipeItem) : List PipeItem :=
              updFirst (fun i => decide (i.t = it.t) && decide (i.bag = it.bag)) (fun i => { i with next := it.next + 1 }) l
            let s2 : State := { s1 with pipes := s1.pipes.set k (step s1.pipes[k]) }
            if g.stop ≤ it.next + 1 ∧ g.whole then (s2.endBag k g.t g.bag, true) else (s2, true)
  | _, _, _ => (s, false)

/-- The first bag in a pipeline that can go on: a bag that waits lets bags of other partitions pass (R123). -/
def State.intakeTry (s : State) (k : Fin 32) (err : EccErr) (blocked : List Part) : List PipeItem → State × Bool
  | [] => (s, false)
  | it :: rest =>
    match s.trk it.t with
    | none => s.intakeTry k err blocked rest
    | some x =>
      if x.part ∈ blocked then s.intakeTry k err blocked rest
      else match s.intakeItem k err it with
        | (s1, true) => (s1, true)
        | (s1, false) => s1.intakeTry k err (x.part :: blocked) rest

/-- Up to n entries of a pipeline; an error is of the first. -/
def State.intake (s : State) (k : Fin 32) (err : EccErr) : Nat → State
  | 0 => s
  | n + 1 => match s.intakeTry k err [] s.pipes[k] with
    | (s1, true) => s1.intake k .clean n
    | (s1, false) => s1

/-- One entry whose row has faulted, once its record has had a reply (R281). -/
def State.rowAgain (s : State) (w : RowWait) : State :=
  match s.trk w.t, s.bag w.t w.bag with
  | some x, some g => match x.desc with
    | none => s
    | some d =>
      let rows : List RowRef := match w.slot with
        | some y => [⟨0, w.x.toNat, y.1, y.2, none⟩]
        | none => rowsOf (d.mapIndex w.x.toNat)
      if rows.any fun r => s.rowParked x r then s
      else match ({ s with rowWaits := eraseFirst (fun y => decide (y = w)) s.rowWaits } : State).acceptEntry x d w.bag w.i
          ⟨w.x, w.w, false⟩ (decide (g.rerun = .running)) rows with
        | (s1, true) => s1.tokenBag x.id w.bag
        | (s1, false) => { s1 with rowWaits := w :: s1.rowWaits }
  | _, _ => s

/-- The entries of a pipeline's bags whose rows have faulted translate again. -/
def State.rowsAgain (s : State) (k : Fin 32) : State :=
  (s.rowWaits.filter fun w => decide (w.bag % 32 = k.val)).foldl (fun s w => s.rowAgain w) s

/-- SIEVE_ENTRY_INTAKE (R70, R77 to R83, R281, R382): a pipeline takes up to four entries; entries whose fault has had its reply go
first. -/
def execSieveEntryIntake (pipe : Fin 32) (s : State) (word : EccErr := .clean) : Host.Outcome State Fault Refusal :=
  stepTo ((s.drainAborted.rowsAgain pipe).intake pipe word 4).flushAll

/-- FAN_OUT_QUEUE_FREED (R81): a pipeline that stalled for a queue entry goes on with the entry that waits. -/
def execFanOutQueueFreed (pipe : Fin 32) (s : State) : Host.Outcome State Fault Refusal := stepTo (s.intake pipe .clean 1).flushAll

/-- Settles the entries that waited for a remap read, in their order, as long as they go: with the window's value, or a re-run's with
the value read now. -/
def State.settleRemap (s : State) (x : Tracker) (d : Desc) (bt : Batch) (win now : Option (Option (Nat × Nat))) : List RemapWait → State
  | [] => s
  | w :: rest =>
    let quiet := (s.bag x.id w.bag).any fun g => decide (g.rerun = .running)
    match s.remapped x d bt w.bag w.i ⟨w.x, w.w, false⟩ quiet (if quiet then now else win) with
    | (s1, false) => s1
    | (s1, true) =>
      let s2 : State := { s1 with remapWaits := eraseFirst (fun y => decide (y = w)) s1.remapWaits }
      (s2.tokenBag x.id w.bag).settleRemap x d bt win now rest

/-- REMAP_READ_RETURN (R74, R76): a mode-4 remap entry returns, and stands for its index in the window; the entries that wait for it
are mapped or dropped. -/
def execRemapReadReturn (t : TrackerId) (x : W64) (s : State) : Host.Outcome State Fault Refusal :=
  stepTo (let s := s.drainAborted
    match s.trk t, s.batch t with
    | some k, some bt =>
      let ws := s.remapWaits.filter fun w => decide (w.t = t) && decide (w.x = x)
      if ws = [] then s
      else match k.desc with
      | none => s
      | some d =>
        let rerun := ws.any fun w => (s.bag t w.bag).any fun g => decide (g.rerun = .running)
        match bt.remaps.find? (fun m => decide (m.1 = x)), rerun with
        | some m, false => (s.settleRemap k d bt m.2 m.2 ws).flushAll
        | old, _ => match s.readPart k.part (.cmd t) (d.remapBase + 4 * x.toNat) 4 with
          | (s1, none) => s1
          | (s1, some (bs, poison)) =>
            let v := if poison then none else some (d.remapSlot (leNat bs))
            match old with
            | some m => (s1.settleRemap k d bt m.2 v ws).flushAll
            | none => ((s1.modBatch t fun b => { b with remaps := b.remaps ++ [(x, v)] }).settleRemap k d bt v v ws).flushAll
    | _, _ => s)

/-- The intake of a batch has ended: every bag dealt, every entry taken (R69, R77). -/
def State.intakeEnded (s : State) (bt : Batch) : Bool :=
  (bt.ended.isSome || decide (bt.bagCount ≤ bt.nextBag)) &&
    s.bags.all fun g => decide (g.t ≠ bt.t) || g.token

end Sys2Proof.Machine
end

