-- ==== Sys2Proof/Machine/Deliver.lean ====
section
/-! DEFINITION. The end of a bag and its delivery (R101 to R103, R140 to R148, R326, R334): the hub's last steps, writes to
memory, tiles for the feeder queues, pushes and the finish of pooled commands. -/
namespace Sys2Proof.Machine

/-! The hub's result of a bag (R101, R102, R140) -/

/-- One column of the integer rescale (R101), with its clip. -/
def rescale (b : List Byte) (dim c : Nat) (acc : W32) : W32 × Bool :=
  let sh := fbSh b dim (c / 32)
  let v : Int := toI32 acc * (fbU b c : Int) * (fbM b dim (c / 32) : Int) + (if sh = 0 then 0 else 2 ^ (sh - 1))
  let r := satInt 32 (v >>> sh)
  (ofIntW 32 r.1, r.2)

/-- One column of a re-run bag: sat32(rne(v * 2^OFRAC)) (R102). -/
def toGrid (ofrac : Nat) (v : W32) : W32 × Bool :=
  let r := satRne 32 ((val32 v).scale ofrac)
  (ofIntW 32 r.1, r.2)

/-- Mean division by n accepted entries (R140). -/
def meanOf (int : Bool) (n : Nat) (v : W32) : W32 :=
  if int then ofIntW 32 (divRne (toI32 v) n) else enc32 ((val32 v).div (.fin false n 0))

/-- Bags in their re-run (R103). -/
def State.rerunning (s : State) : Nat :=
  (s.bags.filter fun g => decide (g.rerun = .running) && decide (g.result = none)).length

/-- Starts the re-run of a bag: the Sieve reads its entries again (R102). -/
def State.startRerun (s : State) (g : Bag) : State :=
  let k : Fin 32 := Fin.ofNat 32 g.bag
  let fresh (g : Bag) : Bag := { g with
    rerun := .running, sent := List.replicate 8 0, applied := List.replicate 8 0, token := false, closed := 0, arrived := 0
    accepted := 0, sat := false, esc := 0, acc := none }
  let s1 := s.modBag g.t g.bag fresh
  { s1 with pipes := s1.pipes.set k (s1.pipes[k] ++ [⟨g.t, g.bag, g.first, false⟩]) }

/-- The engine's own vector of a bag from its reduced accumulator (R101, R140): the values, and whether the rescale
clipped. -/
def Bag.finish (g : Bag) (d : Desc) (b : List Byte) (mode : Nat) : List W32 × Bool :=
  let acc := g.acc.getD (List.replicate d.dim 0)
  let out := acc.mapIdx fun c v =>
    if !d.intAcc then (v, false) else if g.rerun = .running then toGrid d.ofrac v else rescale b d.dim c v
  if g.accepted = 0 then (List.replicate d.dim 0, false)
  else (out.map fun x => if mode = 1 then meanOf d.intAcc g.accepted x.1 else x.1, out.any (·.2))

/-- The last partial or marker of a bag has arrived (R102, R140): a re-run, or its result. -/
def State.finishBag (s : State) (x : Tracker) (d : Desc) (bt : Batch) (g : Bag) : State :=
  let bad := g.sat || decide (d.escBound < g.esc)
  if d.intAcc ∧ g.rerun = .no ∧ !g.poison ∧ bad then
    let s1 := if g.sat then s.bump fJpWidenStat_SAT_RERUN x.part.val else s.bump fJpWidenStat_ESC_RERUN x.part.val
    if s1.rerunning < 1024 then s1.startRerun g
    else s1.modBag g.t g.bag fun g => { g with rerun := .waiting }
  else
    let r := g.finish d (s.blockOf x.part d) bt.mode
    let s1 := s.modBag g.t g.bag fun g => { g with result := some r.1 }
    if r.2 then s1.bump fJpWidenStat_OUT_SAT x.part.val else s1

/-! Whole vectors (R326) -/

/-- The values of remote shards from one first column on: one reply's, or the parts of a bag that spanned messages combined
(DESIGN CHOICE: such a bag is asked for as a sum in mean mode, and divided here). -/
def Bag.piece (g : Bag) (d : Desc) (mode col : Nat) : List W32 :=
  match g.pieces.filter (fun p => decide (p.1 = col)) with
  | [] => []
  | [p] => p.2
  | p :: r =>
    let v := r.foldl (fun (v : List W32) q => (combineAt d.intAcc mode 0 v q.2).1) p.2
    if mode = 1 ∧ g.accepted ≠ 0 then v.map (meanOf d.intAcc g.accepted) else v

/-- The bag's vector: every shard's values in their columns. -/
def State.vector (s : State) (x : Tracker) (d : Desc) (mode : Nat) (g : Bag) : List W32 :=
  let own := g.result.getD []
  if x.shards = [] then own
  else
    (List.range x.total).map fun c =>
      match x.shards.find? (fun h => decide (h.start ≤ c) && decide (c < h.start + h.cols)) with
      | some h =>
        if h.engine = s.fld fJePhysMap_ENGINE then own.getD (c - h.start) 0 else (g.piece d mode h.start).getD (c - h.start) 0
      | none => 0

/-- A bag is finished: its own partial and every remote shard's values have arrived (R326). -/
def State.bagDone (s : State) (x : Tracker) (g : Bag) : Bool :=
  g.result.isSome &&
    (decide (x.shards = []) || (decide (g.shards = 0) && (s.batch x.id).any fun b => decide (g.bag < b.sentBag)))

/-! Delivery -/

/-- A bag has been delivered: its hub units are free, and a poisoned one is counted (R123, R141). -/
def State.markDelivered (s : State) (x : Tracker) (b : Nat) : State :=
  let pois := (s.bag x.id b).any (·.poison)
  let s1 := s.modBag x.id b fun g => { g with delivered := true }
  if pois then (s1.bump fJpPoolStat_POISON_BAGS x.part.val).poisonCmd x.id else s1

/-- A granule of a write of a command's has ended in a fault (used for what an aborted command still delivers). -/
def State.anyFault (s : State) (x : Tracker) (a n : Nat) : Bool :=
  (granAddrs a n).any fun y => match (s.xlat x.part (.cmd x.id) y .write).2 with
    | .fault _ _ _ => true
    | _ => false

/-- Delivery of one finished bag to memory (R142). A bag of an aborted command whose address does not translate has lost its
write (R393). -/
def State.deliverMem (s : State) (x : Tracker) (d : Desc) (bt : Batch) (dl : Delivery) (g : Bag) : State :=
  let st := if dl.stride = 0 then 4 * x.total else dl.stride
  let a := (dl.dest.toNat + g.bag * st) % 2 ^ 64
  let bs := (s.vector x d bt.mode g).flatMap fun v => leBytes 4 v.toNat
  if x.marks.aborted ∧ s.anyFault x a bs.length then
    ((s.modBag x.id g.bag fun g => { g with poison := true }).bump fJpErrStat_ABORT_BAGS x.part.val).markDelivered x g.bag
  else match s.writePart x.part (.cmd x.id) a bs g.poison (some x.id) with
    | (s1, true) => s1.markDelivered x g.bag
    | (s1, false) => s1

/-- Delivery of one finished bag to a peer (R334): one PUSH message of one bag (DESIGN CHOICE). -/
def State.deliverPush (s : State) (x : Tracker) (d : Desc) (bt : Batch) (dl : Delivery) (g : Bag) : State :=
  let body := leBytes 4 g.accepted ++ leBytes 4 g.poison.toNat ++ (s.vector x d bt.mode g).flatMap fun v => leBytes 4 v.toNat
  ((s.queueReq (bitsOf dl.dest 52 12) ⟨0, 5, x.id, g.bag, [0], 0, 0, x.total, false⟩ fun id =>
      mkMsg 5 0 (1 + 4 * d.intAcc.toNat) id 0 0 d.ofrac x.total 1 (bitsOf dl.dest 0 32 + g.bag) 0 0 0 body).pumpNet).markDelivered x g.bag

/-- Tile rows that bags may fill: one less with a checksum row (R146). -/
def Delivery.rowsOf (dl : Delivery) : Nat := tileRows (fdShape dl.dest) - dl.checksum.toNat

/-- The bags of a command: known once its intake has ended, or as far as the fields of the command give them. -/
def Batch.lastBag (b : Batch) : Nat := b.ended.getD b.bagCount

/-- No tile of a delivery is left to send: its row blocks are past the last bag (R69, R148). -/
def Delivery.over (dl : Delivery) (b : Batch) : Bool :=
  dl.tilesDone || decide (b.lastBag = 0) || decide (fdRow dl.dest + b.lastBag ≤ dl.tileRow * dl.rowsOf)

/-- Every bag of a command is delivered and none is to come. -/
def State.poolEnded (s : State) (x : Tracker) (bt : Batch) : Bool :=
  s.intakeEnded bt && (s.bags.all fun g => decide (g.t ≠ x.id) || g.delivered) && !(s.keyed.any fun k => decide (k.t = x.id)) &&
    (s.deliveries.all fun dl => decide (dl.t ≠ x.id) || decide (dl.kind ≠ 1) || dl.over bt)

/-- A position of the selection arrays that receives no entry (R160). -/
def noSel : W32 × W32 := (0xFFFFFFFF#32, 0#32)

/-- The selections of an aborted KEYED_LOOKUP's bags, which are poisoned, from the one it had reached on (R160, R393). Of an array
whose address does not translate the writes are lost. -/
def State.padSel (s : State) (x : Tracker) : State :=
  match s.keyed.find? (fun k => decide (k.t = x.id) && decide (k.stage = .aborted)) with
  | none => s
  | some k =>
    let per := if kHeadSum k.desc then kHeads k.desc else 1
    let first := k.head / per * per * k.k
    let n := k.count * k.k - first
    let at_ (base : Nat) : Nat := (base + 4 * first) % 2 ^ 64
    let arrays := [(kSelIdx k.desc, noSel.1), (kSelWgt k.desc, noSel.2)].filter fun y =>
      decide (y.1 ≠ 0) && !(s.anyFault x (at_ y.1) (4 * n))
    match s.lookAll x.part (.cmd x.id) .write (arrays.flatMap fun y => granAddrs (at_ y.1) (4 * n)) with
    | (s1, none) => s1
    | (s1, some _) =>
      let s2 := arrays.foldl (fun (s : State) y =>
        (s.writePart x.part (.cmd x.id) (at_ y.1) ((List.replicate n y.2).flatMap fun v => leBytes 4 v.toNat) false (some x.id)).1) s1
      { s2 with keyed := s2.keyed.filter fun y => decide (y.t ≠ x.id) }

/-- Goes on with a pooled command: finished bags are delivered, and it ends once all are (R36, R142, R334). -/
def State.settlePool (s : State) (t : TrackerId) : State :=
  match s.trk t, s.batch t, s.deliveries.find? (fun dl => decide (dl.t = t)) with
  | some x, some bt, some dl =>
    match x.desc with
    | none => s
    | some d =>
      let s := s.padSel x
      let due := s.bags.filter fun g => decide (g.t = t) && !g.delivered && s.bagDone x g
      let s1 := due.foldl (fun (s : State) g =>
        match dl.kind with
        | 0 => s.deliverMem x d bt dl g
        | 2 => s.deliverPush x d bt dl g
        | 3 => s.markDelivered x g.bag
        | _ => if dl.tilesDone ∧ x.marks.aborted then s.markDelivered x g.bag else s) s
      if x.phase = .running ∧ s1.poolEnded x bt then s1.finish t else s1
  | _, _, _ => s

/-! Tiles (R144 to R148) -/

/-- The format of an ELEM code that is a float format (R145). -/
def elemFmt : Nat → Option FFmt
  | 0 => some fmt32
  | 1 => some fmtBf16
  | 2 => some fmtFp16
  | 3 => some fmtE4m3
  | 4 => some fmtE5m2
  | _ => none

/-- A value in a float format, and whether E4M3 clipped it (R147). -/
def convFloat (f : FFmt) (v : FV) : Nat × Bool :=
  let clip := match v with
    | .nan => false
    | .inf _ => !f.hasInf
    | .fin _ m e => !f.hasInf && decide (f.maxFin < f.roundMag m e)
  (f.encode false v, clip)

/-- One value of a pooled vector converted to ELEM, and whether it clipped (R147). -/
def convElem (int : Bool) (ofrac elem : Nat) (v : W32) : Nat × Bool :=
  let exact : FV := if int then (FV.fin (decide (toI32 v < 0)) (toI32 v).natAbs 0).scale (-(ofrac : Int)) else val32 v
  match elemFmt elem with
  | some f => convFloat f exact
  | none =>
    let w : Int × Bool := if int then (toI32 v, false) else satRne 32 (exact.scale ofrac)
    if elem = 5 then ((ofIntW 32 w.1).toNat, w.2)
    else let r := satInt 8 w.1; ((ofIntW 8 r.1).toNat, w.2 || r.2)

/-- One element of the checksum row: the FP32 sum of a column in ascending row order, converted to ELEM (R146). -/
def sumElem (elem : Nat) (col : List Nat) : Nat :=
  match elemFmt elem with
  | none => 0
  | some f =>
    match col.map (fun v => enc32 (f.decode v)) with
    | [] => 0
    | v :: r => (convFloat f (val32 (r.foldl fadd v))).1

/-- One tile of a delivery, where all of its bags are finished: rows, row poison, and the bags that clipped (R146, R147). -/
def State.tileOf (s : State) (x : Tracker) (d : Desc) (bt : Batch) (dl : Delivery) : Option (List (List Nat) × List Bool × List Nat) :=
  let R := tileRows (fdShape dl.dest)
  let C := tileCols (fdShape dl.dest)
  let D := dl.rowsOf
  let known (b : Nat) : Bool := (s.bag x.id b).any fun g => s.bagDone x g
  let bagAt (r : Nat) : Option Nat :=
    let t := dl.tileRow * D + r
    if r < D ∧ fdRow dl.dest ≤ t ∧ t < fdRow dl.dest + bt.lastBag then some (t - fdRow dl.dest) else none
  if !((List.range D).all fun r => match bagAt r with | some b => known b | none => true) then none
  else
    let width := min C (x.total - dl.tileCol * C)
    let row (r : Nat) : List (Nat × Bool) :=
      match (bagAt r).bind (s.bag x.id) with
      | some g =>
        let v := s.vector x d bt.mode g
        (List.range C).map fun c =>
          if c < width then convElem d.intAcc d.ofrac (fdElem dl.dest) (v.getD (dl.tileCol * C + c) 0) else (0, false)
      | none => List.replicate C (0, false)
    let rows := (List.range D).map row
    let vals := rows.map fun l => l.map (·.1)
    let pois := (List.range D).map fun r => ((bagAt r).bind (s.bag x.id)).any (·.poison)
    let clips := (List.range D).filterMap fun r => if (rows.getD r []).any (·.2) then bagAt r else none
    if dl.checksum then
      let sums := (List.range C).map fun c => sumElem (fdElem dl.dest) (vals.map fun l => l.getD c 0)
      some (vals ++ [sums], pois ++ [pois.any id], clips)
    else some (vals ++ List.replicate (R - D) [], pois, clips)

/-- The next tile of a delivery leaves for its queue. -/
def State.sendTile (s : State) (x : Tracker) (bt : Batch) (dl : Delivery) (q : Fin 64)
    (tile : List (List Nat) × List Bool × List Nat) : State :=
  let C := tileCols (fdShape dl.dest)
  let lastCol := decide (ceilDiv x.total C ≤ dl.tileCol + 1)
  let lastRow := decide (fdRow dl.dest + bt.lastBag ≤ (dl.tileRow + 1) * dl.rowsOf)
  let s1 := tile.2.2.foldl (fun (s : State) b =>
    if (s.bag x.id b).any (·.clipped) then s
    else (s.modBag x.id b fun g => { g with clipped := true }).bump fJpPoolStat_OUT_CLIPS x.part.val) s
  let next (y : Delivery) : Delivery := { y with
    tileRow := if lastCol then y.tileRow + 1 else y.tileRow
    tileCol := if lastCol then 0 else y.tileCol + 1
    tilesDone := lastCol && lastRow }
  let s2 : State := { s1 with
    deliveries := updFirst (fun y => decide (y.t = x.id)) next s1.deliveries
    credits := s1.credits.set q (s1.credits[q] - 1)
    tiles := s1.tiles ++ [⟨q, x.id, dl.tileRow, lastCol⟩] }
  s2.emit (.tile q dl.tileRow (fdCol dl.dest + dl.tileCol) (fdElem dl.dest) tile.2.1 dl.checksum tile.1)

/-- The first delivery of a queue with a tile that may leave sends it. -/
def State.tileFrom (s : State) (q : Fin 64) : List Delivery → State
  | [] => s
  | dl :: rest =>
    match s.trk dl.t, s.batch dl.t with
    | some x, some bt =>
      match if dl.over bt then none else x.desc.bind (fun d => s.tileOf x d bt dl) with
      | some tile => (s.sendTile x bt dl q tile).settlePool x.id
      | none => s.tileFrom q rest
    | _, _ => s.tileFrom q rest

/-- FEED_TILE_SEND (R144 to R148): the next tile for a queue leaves where its bags are finished, the queue is enabled and
it has a credit. -/
def execFeedTileSend (q : Fin 64) (s : State) : Host.Outcome State Fault Refusal :=
  stepTo (if s.credits[q] = 0 ∨ natBits (s.fld fJeFeedEn_ENABLED) q.val 1 = 0 then s
    else s.tileFrom q (s.deliveries.filter fun dl => decide (dl.kind = 1) && decide (fdQueue dl.dest = q.val) && !dl.tilesDone))

/-- FEED_TILE_ACK (R144): the oldest tile sent to a queue is accepted; with a row block's last tile its bags are delivered. -/
def execFeedTileAck (q : Fin 64) (s : State) : Host.Outcome State Fault Refusal :=
  stepTo (match s.tiles.find? (fun y => decide (y.q = q)) with
    | none => s
    | some y =>
      let s1 : State := { s with tiles := eraseFirst (fun z => decide (z = y)) s.tiles }
      match s1.trk y.t, s1.deliveries.find? (fun dl => decide (dl.t = y.t)) with
      | some x, some dl =>
        if y.last then
          let done := s1.bags.filter fun g => decide (g.t = y.t) && !g.delivered &&
            decide ((fdRow dl.dest + g.bag) / dl.rowsOf = y.rowBlock)
          (done.foldl (fun s g => s.markDelivered x g.bag) s1).settlePool y.t
        else s1
      | _, _ => s1)

/-- FEED_CREDIT (R144): the array adds free tile slots to a queue. -/
def execFeedCredit (q : Fin 64) (count : BitVec 8) (s : State) : Host.Outcome State Fault Refusal :=
  stepTo { s with credits := s.credits.set q (s.credits[q] + count.toNat) }

/-- FEED_ENABLE (R144): `feed_enable` as last received. -/
def execFeedEnable (mask : W64) (s : State) : Host.Outcome State Fault Refusal :=
  stepTo (s.setFld fJeFeedEn_ENABLED mask.toNat)

/-! The row of GATHER_POOL -/

/-- The bags of a served request: first index, end and entries (R331). -/
def servedBags (msg : List Byte) : List (Nat × List (W64 × W32)) :=
  let n := mBags msg
  let start (k : Nat) : Nat := sumBy (fun j => bytesAt msg (32 + 4 * j) 4) (List.range k)
  (List.range n).map fun k =>
    (start k, (List.range (bytesAt msg (32 + 4 * k) 4)).map fun i =>
      let a := 32 + 4 * n + 12 * (start k + i)
      (BitVec.ofNat 64 (bytesAt msg a 8), BitVec.ofNat 32 (bytesAt msg (a + 8) 4)))

/-- Bags that come with their entries enter their pipelines. -/
def State.pushGiven (s : State) (t : TrackerId) (l : List (Nat × List (W64 × W32))) : State :=
  let s1 := (l.zipIdx).foldl (fun (s : State) y =>
    s.pushBag (newBag t y.2 y.1.1 (y.1.1 + y.1.2.length) y.1.2 true)) s
  s1.modBatch t fun b => { b with nextBag := l.length }

/-- The request a served command answers. -/
def State.servedOf (s : State) (t : TrackerId) : Option Served := s.served.find? fun y => decide (y.t = some t)

/-- The delivery a command's fields ask for; a served request's is its reply. -/
def deliveryOf (t : TrackerId) (c : Cmd) (served : Bool) (dest : W64) (stride : Nat) : Delivery :=
  let dl : Delivery := ⟨t, if served then 3 else cDestKind c, dest, stride, !served && decide (cOp c = 0x10) && cBit28 c, 0, 0, false⟩
  if dl.kind = 1 then { dl with tileRow := fdRow dest / dl.rowsOf } else dl

/-- GATHER_POOL (R16, R66, R328): the batch goes to the Sieve, its delivery to the hub. -/
def execGatherPool (t : TrackerId) (s : State) : Host.Outcome State Fault Refusal :=
  stepTo (match s.startable t 0x10 with
    | none => s
    | some x =>
      let sv := s.servedOf t
      let s1 : State := { s.run t with
        batches := s.batches ++ [newBatch t x.cmd .pool sv.isSome]
        deliveries := s.deliveries ++ [deliveryOf t x.cmd sv.isSome (cW5 x.cmd) (cStride x.cmd)] }
      match sv with
      | some y => (s1.pushGiven t (servedBags y.msg)).settlePool t
      | none => s1.deal t)

end Sys2Proof.Machine
end

