-- ==== Sys2Proof/Machine/Lanes.lean ====
section
/-! DEFINITION. The pooling lanes and the reduction (R93, R94, R99, R100, R117 to R130, R135, R139 to R141): lookups, misses
and fills, what a lane does with one segment, accumulator rows and their spills, and the partials at the hub. -/
namespace Sys2Proof.Machine

/-! One segment (R93, R94, R99, R100) -/

/-- A column of a segment as a lane uses it: an FP32 word, or an integer e with the escapes read for it and its clip flag. -/
structure LaneVal where
  f : W32
  e : Int
  esc : Nat
  clip : Bool
deriving DecidableEq, Repr

/-- The integer value of a column (R100), with its flags. -/
def Desc.gridVal (d : Desc) (k : Nat) (b : List Byte) (c : Nat) : ColVal → LaneVal
  | .code code => ⟨0, if d.format k = 5 then (BitVec.ofNat 8 code).toInt else fbCodeI b k code, 0, false⟩
  | .esc v => let r := satRne 16 (val32 (fmul v (frecip (fbScale b d.dim c)))); ⟨0, r.1, 1, r.2⟩
  | .badEsc => ⟨0, 0, 0, false⟩

/-- The columns of a segment of a table (R90 to R94), from its first column on, and whether it is malformed. -/
def Desc.segVals (d : Desc) (int : Bool) (k : Nat) (b : List Byte) (bytes : List Byte) (col cols : Nat) : List LaneVal × Bool :=
  let r := d.decodeSeg k bytes cols
  (r.1.mapIdx fun i v => if int then d.gridVal k b (col + i) v else ⟨d.colValue k b (col + i) v, 0, 0, false⟩, r.2)

/-- The remainder row's columns beside a segment in hashing mode 3 (R74, R75), from the pieces its lane was given, and how many of
them are malformed. -/
def State.remVals (s : State) (x : Tracker) (int : Bool) (w : LaneWork) : List LaneVal × Nat :=
  match x.desc2 with
  | none => ([], 0)
  | some d2 =>
    let parts := w.rem.map fun r => (d2.segVals int 0 (s.blockOf x.part d2) (s.rdBytes r.addr r.bytes) r.col r.cols, r.col)
    let absent (c : Nat) : LaneVal :=
      let v := Config.absentColumn (w.seg.addr / 256) c
      ⟨v, (BitVec.ofNat 16 v.toNat).toInt, 0, false⟩
    let at_ (c : Nat) : LaneVal :=
      match parts.find? (fun r => decide (r.2 ≤ c) && decide (c < r.2 + r.1.1.length)) with
      | some r => if int ∧ !(fmtFixed (d2.format 0)) then absent c else r.1.1.getD (c - r.2) (absent c)
      | none => absent c
    ((List.range w.seg.cols).map fun i => at_ (w.seg.col + i), (parts.filter (·.1.2)).length)

/-- The product of two columns, element by element (R74). -/
def LaneVal.times (int : Bool) (a b : LaneVal) : LaneVal :=
  if int then ⟨0, a.e * b.e, a.esc + b.esc, a.clip || b.clip⟩ else ⟨fmul a.f b.f, 0, 0, false⟩

/-- One column added to its accumulator (R99, R100, R120): the new value, and whether the sum clipped. In max mode an integer
contribution of hashing mode 3 may pass INT32, and wraps where it is kept (DESIGN CHOICE, log 38). -/
def accStep (int : Bool) (mode : Nat) (w : W32) (wq : Int) (v : LaneVal) (acc : W32) : W32 × Bool :=
  if int then
    if mode = 2 then (if toI32 acc < wq * v.e then ofIntW 32 (wq * v.e) else acc, false)
    else let r := satInt 32 (toI32 acc + wq * v.e); (ofIntW 32 r.1, r.2)
  else if mode = 2 then (fmaxNan acc (fmul w v.f), false)
  else (ffma w v.f acc, false)

/-! Accumulator rows (R122) -/

/-- Makes room for one more accumulator row in a lane: the least recently written of 256 is spilled. -/
def State.accRoom (s : State) (l : LaneId) : State :=
  let mine (a : Acc) : Bool := decide (a.lane = l) && !a.spilled
  if (s.accs.filter mine).length < 256 then s
  else ({ s with accs := updFirst mine (fun a => { a with spilled := true }) s.accs } : State).bump fJsPoolStat_LANE_SPILLS (l.val / 32)

/-- Adds up to 128 columns of a segment into their accumulator row; the flag tells a clip. -/
def State.accRow (s : State) (w : LaneWork) (int : Bool) (mode : Nat) (wq : Int) (col : Nat) (vs : List LaneVal) : State × Bool :=
  let same (a : Acc) : Bool :=
    decide (a.t = w.t) && decide (a.bag = w.bag) && decide (a.lane = w.lane) && decide (a.col = col) && !a.spilled &&
      decide (a.vals.length = vs.length)
  let old := (s.accs.find? same).map (·.vals)
  let s1 := if old.isSome then s else s.accRoom w.lane
  let start := old.getD (List.replicate vs.length (startVal int mode))
  let r := vs.mapIdx fun i v => accStep int mode w.w wq v (start.getD i 0)
  ({ s1 with accs := eraseFirst same s1.accs ++ [⟨w.t, w.bag, w.lane, col, r.map (·.1), false⟩] }, r.any (·.2))

/-- Adds a segment in rows of 128 columns. -/
def State.accSeg (s : State) (w : LaneWork) (int : Bool) (mode : Nat) (wq : Int) (vs : List LaneVal) : State × Bool :=
  (List.range (ceilDiv vs.length 128)).foldl (fun (y : State × Bool) k =>
    let r := y.1.accRow w int mode wq (w.seg.col + 128 * k) ((vs.drop (128 * k)).take 128)
    (r.1, y.2 || r.2)) (s, false)

/-! What a lane does with one entry -/

/-- The lane has applied an entry of a bag: the slice counts it (R139), and a preload that has all its lines is finished. -/
def State.applied (s : State) (w : LaneWork) : State :=
  let s1 := ((s.modBag w.t w.bag fun g => { g with applied := addAt g.applied (w.lane.val / 32) 1 }).closeSlices w.t w.bag).windowOver w.t
  match s1.batch w.t, s1.bag w.t w.bag with
  | some bt, some g =>
    if bt.kind = .preload ∧ g.token ∧ g.applied = g.sent then s1.finish w.t else s1
  | _, _ => s1

/-- Pools one segment for its bag (R99, R100, R120). A poisoned or malformed one poisons its bag (R94, R141). -/
def State.poolSeg (s : State) (x : Tracker) (bt : Batch) (g : Bag) (w : LaneWork) : State :=
  match x.desc, x.descOf w.seg.table with
  | some d, some dt =>
    let int := g.intPass d
    let own := dt.segVals int w.seg.cls (s.blockOf x.part dt) (s.rdBytes w.seg.addr w.seg.bytes) w.seg.col w.seg.cols
    let rem := s.remVals x int w
    let vs := if w.seg.mul.isSome then own.1.mapIdx fun i v => v.times int (rem.1.getD i ⟨0, 0, 0, false⟩) else own.1
    let q := satRne 16 ((val32 w.w).scale d.wfrac)
    let r := s.accSeg w int bt.mode q.1 vs
    let clip := int && (r.2 || q.2 || vs.any (·.clip))
    let escs := if int then sumBy (fun (v : LaneVal) => v.esc) vs else 0
    let s1 := r.1.modBag w.t w.bag fun g => { g with sat := g.sat || clip, esc := g.esc + escs }
    let bad := own.2.toNat + rem.2
    if bad = 0 then s1 else (s1.bump fJpWidenStat_BAD_ESC x.part.val bad).poisonBag w.t w.bag
  | _, _ => s

/-- A preloaded line is in its lane, or could not be installed: it is locked where LOCK asks and R134 allows (R135). A locked line is
no longer held. -/
def State.preloadLine (s : State) (x : Tracker) (bt : Batch) (lane : LaneId) (key : Nat) : State :=
  let short (s : State) : State := (s.bump fJpPoolStat_LOCK_SHORT x.part.val).mark x.id fun m => { m with lockShort := true }
  match s.clocheAt lane key with
  | none => short s
  | some e =>
    if e.valid = 0 then short s
    else if bt.lock then
      let r := s.lockLine x.part (cTable x.cmd) lane key
      if r.2 then
        r.1.withCloche (updFirst (fun y => decide (y.lane = lane) && decide (y.line = key)) (fun y => { y with held := false }) r.1.cloche)
      else short r.1
    else s

/-- A lane applies an entry that has been given all of its lines: pooled, or its lines settled for a preload; one that was given poison
poisons its bag instead (R141). -/
def State.laneApply (s : State) (w : LaneWork) : State :=
  match s.trk w.t, s.batch w.t, s.bag w.t w.bag with
  | some x, some bt, some g =>
    let s1 :=
      if bt.kind = .preload then
        (if w.fan then s else (needLines w.seg w.rem).foldl (fun s l => s.preloadLine x bt w.lane (lineKey l.1)) s)
      else if w.bad then s
      else s.poolSeg x bt g w
    (if w.bad then s1.poisonBag w.t w.bag else s1).applied w
  | _, _, _ => s

/-! Lookup, miss and fill (R125 to R130) -/

/-- The lanes of a slice are gated in Rest (R369). -/
def State.laneGated (s : State) (l : LaneId) : Bool :=
  decide (natBits (s.fld fJePwrStatus_LANES_GATED) (l.val / 32) 1 = 1)

/-- Miss trackers of a lane in use; at 128 the lane takes no lookup (R126). -/
def State.laneFull (s : State) (l : LaneId) : Bool := decide (128 ≤ (s.misses.filter fun m => decide (m.lane = l)).length)

/-- A miss joins its line's tracker, or takes one of its lane's (R126). A foreground line read to HBM counts in its slice's load
(R228). -/
def State.missEnter (s : State) (w : LaneWork) (a : Nat) (mask : BitVec 4) : State :=
  let key := lineKey a
  let mine (m : Miss) : Bool := decide (m.lane = w.lane) && decide (m.line = key)
  if s.misses.any mine then
    { s with misses := updFirst mine (fun m => { m with granules := m.granules ||| mask, work := m.work ++ [w] }) s.misses }
  else
    let n := laneSlice w.lane
    let counts := s.isHbm a && !((s.trk w.t).any (·.background))
    let s1 : State := { s with
      misses := s.misses ++ [⟨w.lane, key, a / 256 * 256, mask, [w]⟩]
      lineReads := if counts then s.lineReads.set n (s.lineReads[n] + 1) else s.lineReads }
    s1.readBoards [a / 256 * 256]

/-- Granules of a line, by its physical address, that an entry needs. -/
def LaneWork.needs (w : LaneWork) (base : Nat) : BitVec 4 :=
  ((needLines w.seg w.rem).filter fun l => decide (l.1 = base)).foldl (fun v l => v ||| l.2) 0

/-- Some held row names the line in the lane (R80). -/
def State.holdWanted (s : State) (l : LaneId) (key : Nat) : Bool := s.heldRows.any fun r => (l, key) ∈ r.2.lines

/-- Releases the least recently referenced hold of a set that has no eligible way (R127). -/
def State.freeHeldWay (s : State) (l : LaneId) (key : Nat) : State :=
  let ents := s.setEnts l (s.clocheSet key)
  if ents.length < 8 ∨ ents.any (fun e => decide (e.lock = none) && !e.held) then s
  else
    let lines := (ents.filter (·.held)).map (·.line)
    match leastRef (s.heldRows.filter fun r => r.2.lines.any fun y => decide (y.1 = l) && decide (y.2 ∈ lines)) with
    | some (t, e) => s.releaseRow t e.table e.key
    | none => s

/-- A line that the Sieve holds is held in its lane's Cloche, where it stands there unlocked; its age is zero (R80, R128). -/
def State.holdLine (s : State) (l : LaneId) (key : Nat) : State :=
  let at_ (e : ClocheEnt) : Bool := decide (e.lane = l) && decide (e.line = key) && decide (e.lock = none)
  if s.holdWanted l key then s.withCloche (updFirst at_ (fun e => { e with held := true, age := 0 }) s.cloche) else s

/-- A lane holds back the lookup of a line: no miss tracker is left (R126), its page is on its way to SHARED (R295), or it would be one
more than 4,096 reads of the board tier (R287). -/
def State.laneWaits (s : State) (l : LaneId) (a : Nat) : Bool :=
  s.laneFull l || s.flipping a ||
    (s.isBoard a && (s.clocheAt l (lineKey a)).isNone && decide (4096 ≤ (s.misses.filter fun m => s.isBoard m.base).length))

/-- An entry is looked up for the lines it has still to be given: each in its turn, until one misses and the entry waits for its
fill. A lane that cannot take a lookup puts it back. With all of its lines given, it is applied. -/
def State.laneLook (s : State) (w : LaneWork) (parity : Bool) : List (Nat × BitVec 4) → State
  | [] => s.laneApply { w with todo := [] }
  | (a, mask) :: rest =>
    if s.laneWaits w.lane a then { s with laneQ := { w with todo := (a, mask) :: rest } :: s.laneQ }
    else
      let s1 := if s.clocheAt w.lane (lineKey a) = none ∧ s.holdWanted w.lane (lineKey a) then s.freeHeldWay w.lane (lineKey a) else s
      match s1.clocheLookup w.lane (lineKey a) mask parity with
      | (s2, true) => (s2.holdLine w.lane (lineKey a)).laneLook w false rest
      | (s2, false) => s2.missEnter { w with todo := rest } a mask

/-- An entry's turn in its lane: pooled where its lines hit, sent to memory where one misses. A lane with no miss tracker left takes no
lookup. An error or an injection of class 2 poisons the request (R382, R401). -/
def State.laneServe (s : State) (w : LaneWork) (parity : Bool) (err : EccErr) : State :=
  if s.laneFull w.lane then s
  else
    let inj := ({ s with laneQ := eraseFirst (fun y => decide (y = w)) s.laneQ } : State).fifoWord 2 (((s.trk w.t).map (·.part)).getD 0) err
    inj.1.laneLook { w with bad := w.bad || inj.2 } parity w.todo

/-- LANE_ROW_REFERENCE (R79, R119, R126, R129): the next row reference of a lane. -/
def execLaneRowReference (lane : LaneId) (parityError : Bool) (s : State) (word : EccErr := .clean) : Host.Outcome State Fault Refusal :=
  stepTo (match s.laneQ.find? (fun w => decide (w.lane = lane) && !w.fan) with
    | none => s
    | some w => if s.laneGated lane then s else s.laneServe w parityError word)

/-- The partition-wide loss of R385: every command of the partition in flight is touched. The commands that write are those that the
table of R35 calls writers of a table, and OBJECT_MOVE (DEDUCED, log 69). -/
def State.unattributed (s : State) (p : Part) (cls : Nat) : State :=
  let hit := s.trackers.filter fun x => decide (x.part = p) && x.admitted
  hit.foldl (fun (s : State) x =>
    if x.op = 0x20 ∨ x.op = 0x21 ∨ x.op = 0x41 then
      ((x.pins.map fun q => Desc.object q.desc) ++ if x.op = 0x41 then [cObject x.cmd] else []).foldl (fun s h => s.tear x.part h (some x.id)) (s.mark x.id fun m => { m with lost := true })
    else s.poisonCmd x.id) ((s.bump fJpErrStat_UNATTRIBUTED p.val).eventP p 0x10 cls hit.length)

/-- FAN_OUT_ENTRY (R79, R81, R129, R384, R385): the next fan-out entry of a lane. A header that fails uncorrectably discards the
word, and touches every command of its partition. -/
def execFanOutEntry (lane : LaneId) (headerError : Bool) (s : State) (parityError : Bool := false) (word : EccErr := .clean) : Host.Outcome State Fault Refusal :=
  stepTo (match s.laneQ.find? (fun w => decide (w.lane = lane) && w.fan) with
    | none => s
    | some w =>
      if s.laneGated lane then s
      else if headerError then
        let s1 : State := { s with laneQ := eraseFirst (fun y => decide (y = w)) s.laneQ }
        let s2 := s1.unattributed (((s.trk w.t).map (·.part)).getD 0) 2
        (s2.poisonBag w.t w.bag).applied w
      else s.laneServe w parityError word)

/-- A filled line is installed, and held where the Sieve still holds it (R80, R127). Poisoned granules are not allocated
(R141). -/
def State.installFill (s : State) (m : Miss) (good : BitVec 4) : State :=
  if !(s.cacheable m.base) ∨ good = 0 then s
  else
    let s1 := if s.clocheAt m.lane m.line = none ∧ s.holdWanted m.lane m.line then s.freeHeldWay m.lane m.line else s
    (s1.install m.lane m.line good).1.holdLine m.lane m.line

/-- The line of a miss may be read: its banks, its owner and the fabric let it (R256, R304, R313). The state is with what the wait begins,
and the line's data are used where it does not wait. -/
def State.fillOk (s : State) (m : Miss) : State × Bool :=
  if (List.range 4).any (fun k => m.granules.getLsbD k && s.isHbm m.base && s.bankWaits (m.base / 64 + k)) then (s, false)
  else match m.work.head? with
    | none => (s, true)
    | some w =>
      let r := s.jReadOk (.cmd w.t) m.base
      if r.2 then ({ r.1 with jreads := eraseFirst (fun y => decide (y = (hbmLine m.base, .cmd w.t))) r.1.jreads }, true) else r

/-- LANE_FILL_RETURN (R126, R127, R141, R304, R378, R380): the granules of a missed line return; the line is installed, and every
entry that waited goes on. A parity error on the way poisons them. -/
def execLaneFillReturn (lane : LaneId) (line : BitVec 48) (parityError : Bool) (s : State) (word : EccErr := .clean) :
    Host.Outcome State Fault Refusal :=
  stepTo (match s.misses.find? (fun m => decide (m.lane = lane) && decide (m.line = line.toNat)) with
    | none => s
    | some m =>
      let base := m.base
      let part := ((m.work.head?.bind fun w => s.trk w.t).map (·.part)).getD 0
      let serial := m.work.head?.bind fun w => s.serialOf w.t
      let ok := s.fillOk m
      if !ok.2 then ok.1
      else
      let s1 : State := { ok.1 with misses := eraseFirst (fun y => decide (y = m)) ok.1.misses }
      let s2 := if parityError then s1.bump fJsPathStat_PARITY (lane.val / 32) else s1
      let inj := s2.fifoWord 3 part word
      let allBad := parityError || inj.2
      let bad (k : Nat) : Bool := allBad || inj.1.granPoison (base / 64 + k) serial
      let mask (f : Nat → Bool) : BitVec 4 :=
        (List.range 4).foldl (fun (v : BitVec 4) k => if m.granules.getLsbD k && f k then v ||| BitVec.ofNat 4 (2 ^ k) else v) 0
      let n := ((List.range 4).filter fun k => m.granules.getLsbD k).length
      let s3 := if inj.1.isHbm base then
          (inj.1.setReg .jeEnergyBits (inj.1.reg .jeEnergyBits + BitVec.ofNat 64 (512 * n))).bwRead part (m.work.head?.map (·.t)) base (64 * n)
        else inj.1
      let poisoned := mask bad
      let got (w : LaneWork) : LaneWork := { w with bad := w.bad || decide (w.needs m.base &&& poisoned ≠ 0) }
      (m.work.foldl (fun s w => s.laneLook (got w) false w.todo) (s3.installFill m (mask fun k => !(bad k)))).settleWcb)

/-! Partials at the hub (R139, R140) -/

/-- A partial joins its bag at the hub, or a marker closes the slice's part in it. -/
def State.joinPartial (s : State) (d : Desc) (mode : Nat) (p : Partial) : State :=
  s.modBag p.t p.bag fun g =>
    let int := g.intPass d
    let r : Option (List W32) × Bool := match p.vals, g.acc with
      | some v, some a => let c := combineAt int mode 0 a v; (some c.1, c.2)
      | some v, none => (some v, false)
      | none, a => (a, false)
    { g with acc := r.1, sat := g.sat || r.2, arrived := g.arrived ||| BitVec.ofNat 8 (2 ^ p.n.val) }

/-- A bag whose last partial has arrived is finished (R140). -/
def State.hubStep (s : State) (t : TrackerId) (b : Nat) : State :=
  match s.trk t, s.batch t, s.bag t b with
  | some x, some bt, some g =>
    match x.desc with
    | none => s
    | some d =>
      if g.token ∧ g.slices &&& ~~~g.arrived = 0 ∧ g.result = none ∧ g.rerun ≠ .waiting then (s.finishBag x d bt g).settlePool t else s
  | _, _, _ => s

/-- SLICE_PARTIAL_ARRIVE (R139 to R141): the next partial or marker of a slice arrives at the hub. -/
def execSlicePartialArrive (n : SliceId) (s : State) (word : EccErr := .clean) : Host.Outcome State Fault Refusal :=
  stepTo (match s.partials.find? (fun p => decide (p.n = n)) with
    | none => s
    | some p =>
      let s1 : State := { s with partials := eraseFirst (fun y => decide (y = p)) s.partials }
      match s1.trk p.t, s1.batch p.t with
      | some x, some bt =>
        let inj := s1.fifoWord 4 x.part word
        let s2 := match x.desc with
          | some d => inj.1.joinPartial d bt.mode p
          | none => inj.1
        (if inj.2 then s2.poisonBag p.t p.bag else s2).hubStep p.t p.bag
      | _, _ => s1)

/-- RERUN_PLACE_FREED (R103): a bag that waited for a re-run place starts its re-run. -/
def execRerunPlaceFreed (s : State) : Host.Outcome State Fault Refusal :=
  stepTo (match s.bags.find? (fun g => decide (g.rerun = .waiting)) with
    | some g => if s.rerunning < 1024 then s.startRerun g else s
    | none => s)

/-- CLOCHE_PRELOAD (R135): its rows are read as one bag, whose lines are installed and locked. -/
def execClochePreload (t : TrackerId) (s : State) : Host.Outcome State Fault Refusal :=
  stepTo (match s.startable t 0x50 with
    | none => s
    | some x => ({ s.run t with batches := s.batches ++ [newBatch t x.cmd .preload false] } : State).deal t)

/-- CLOCHE_AGE_TICK (R128): in a slice in ageing mode, entries neither locked nor held age by one up to 7, and those
already at 7 are invalidated. -/
def execClocheAgeTick (n : SliceId) (s : State) : Host.Outcome State Fault Refusal :=
  stepTo (if s.fld fJsClocheCtl_MODE n.val = 0 then s
  else
    let mine (e : ClocheEnt) : Bool := decide (laneSlice e.lane = n) && decide (e.lock = none) && !e.held
    s.withCloche ((s.cloche.filter fun e => !(mine e && decide (7 ≤ e.age))).map
        fun (e : ClocheEnt) => if mine e then { e with age := e.age + 1 } else e))

/-- CLOCHE_UNLOCK (R136): every lane clears the partition's locks for the table, or all of them. -/
def execClocheUnlock (t : TrackerId) (s : State) : Host.Outcome State Fault Refusal :=
  stepTo (match s.startable t 0x51 with
    | none => s
    | some x => (s.unlockWhere fun k => decide (k.1 = x.part) && (cAll x.cmd || decide (k.2 = cTable x.cmd))).finish t)

end Sys2Proof.Machine
end

