-- ==== Sys2Proof/Machine/Slices.lean ====
section
/-! DEFINITION. The failure of a slice (R188, R260, R400): what its lanes, its buffers and its directory held is lost, and reported
against the commands and bags concerned. -/
namespace Sys2Proof.Machine

/-- The contributions on the link to a slice that the slice has not merged (R174, R188). -/
def RakeLink.items (l : RakeLink) : List Contrib :=
  (l.todo ++ (l.replay.filter fun m => decide ((m.seq - l.expect).toNat < 2048)).map (·.items)).flatten

/-- The command and object of an adder operation. -/
def AddOp.owed (o : AddOp) : List (Option TrackerId × W32) := if o.owner = none ∧ o.obj = 0 then [] else [(o.owner, o.obj)]

/-- What the Rake and the adders of a slice hold that has not landed: commands and objects. -/
def State.unlanded (s : State) (n : SliceId) : List (Option TrackerId × W32) :=
  let ofC (c : Contrib) : Option TrackerId × W32 := (some c.t, c.obj)
  let ofE (e : PreAgg) : Option TrackerId × W32 := (some e.c.t, e.c.obj)
  let pre := (s.preagg.filter fun (e : PreAgg) => decide (e.n = n)).map ofE
  let hub := (s.mergeStore.filter fun (e : PreAgg) => decide (e.n = n) && !(s.isBoard e.c.addr)).map ofE
  let ops := (s.addQ.filter fun (o : AddOp) => decide (o.n = n) && !(s.isBoard o.addr)).flatMap AddOp.owed
  let pl : List (Option TrackerId × W32) :=
    (s.scatters.filter fun (c : Scatter) => c.places.any fun y => decide (y.n = n)).map fun c => (some c.t, 0)
  (s.links[n].items.map ofC ++ pre ++ hub ++ ops ++ pl).eraseDups

/-- The slice whose scale-gradient place takes the terms of a command's board-tier rows: the first in service that has not reported for it
(DESIGN CHOICE, log 43). -/
def State.boardSlice (s : State) (t : Option TrackerId) : SliceId :=
  let x := t.bind s.trk
  let rep_ : Byte := ((s.scatters.find? fun c => decide (some c.t = t)).map (·.reported)).getD 0
  ((List.finRange 8).find? fun n => s.sliceServes n (x.map (·.serial)) && !(rep_.getLsbD n.val)).getD 0

/-- Scatter losses of a slice that leaves service without its reports (R188). Operations on the board tier are not the slice's. -/
def State.loseScatter (s : State) (n : SliceId) : State :=
  let lost := s.unlanded n
  let mine (o : AddOp) : Bool := decide (o.n = n) && !(s.isBoard o.addr)
  let rowsGone := (s.addQ.filter mine).filterMap fun o => match o.kind, o.owner with
    | .applyState i _, some t => some (t, i)
    | _, _ => none
  let s1 := lost.foldl (fun (s : State) y =>
    let p := (y.1.bind fun t => (s.trk t).map (·.part)).getD 0
    match y.1, decide (y.2 = 0) with
    | some t, true => s.mark t fun m => { m with lost := true }
    | _, _ => s.loseWrite p y.1 y.2) s
  let bit : Byte := BitVec.ofNat 8 (2 ^ n.val)
  let fixC (c : Scatter) : Scatter := { c with
    places := c.places.filter fun y => decide (y.n ≠ n)
    ended := c.ended ||| (c.toMask &&& bit)
    reported := c.reported ||| (c.toMask &&& bit) }
  let fixA (a : Apply) : Apply := { a with rows := a.rows.filter fun r => !(rowsGone.any fun y => decide (y = (a.t, r.i))) }
  { s1 with
    links := s1.links.set n RakeLink.reset
    preagg := s1.preagg.filter fun e => decide (e.n ≠ n)
    mergeStore := s1.mergeStore.filter fun e => decide (e.n ≠ n) || s1.isBoard e.c.addr
    addQ := (s1.addQ.filter fun o => !(mine o)).map fun (o : AddOp) => if o.n = n then { o with n := s1.boardSlice o.owner } else o
    endTokens := s1.endTokens.filter fun y => decide (y.1 ≠ n)
    scatters := s1.scatters.map fixC
    applies := s1.applies.map fixA }

/-- A line homed in a slice. -/
def State.lineIn (s : State) (n : SliceId) (line : Nat) : Bool := decide (s.sliceOf (s.hbmPhys (line * 256)) = n)

/-- A request at the home that can no longer be served: an agent gets the fabric's error response, an engine write or add is
lost (R260, R400). -/
def State.refuseReq (s : State) (agent : Option Byte) (line : Nat) (r : ReqKind) : State :=
  match agent, r with
  | some a, _ => s.emit (.fabError a (line * 256 - s.fld fJeWinCtl_BASE_GIB * 2 ^ 30))
  | none, .jWrite w => s.writeLost w.part w.owner w.obj w.record w.plain
  | none, .jAdd o => if o.owed = [] then s else s.loseWrite o.part o.owner o.obj
  | none, _ => s

/-- The directory and the home of a failed slice go with it. -/
def State.dropHome (s : State) (n : SliceId) : State :=
  let tx := s.txns.filter fun x => s.lineIn n x.line
  let rq := s.coreReqs.filter fun x => s.lineIn n x.line
  let s1 : State := { s with
    txns := s.txns.filter fun x => !(s.lineIn n x.line)
    coreReqs := s.coreReqs.filter fun x => !(s.lineIn n x.line)
    trellis := s.trellis.filter fun e => decide (e.n ≠ n)
    wcb := s.wcb.filter fun e => decide (e.n ≠ n)
    errRows := s.errRows.filter fun e => decide (e.n ≠ n) }
  let s2 := tx.foldl (fun s x => s.refuseReq x.agent x.line x.req) s1
  rq.foldl (fun s x => s.refuseReq x.agent x.line x.req) s2

/-- A slice fails (R400), with its CAUSE. -/
def State.failSlice (s : State) (n : SliceId) (cause : Nat) : State :=
  if s.sliceState n = 4 then s
  else
    let bit : Byte := BitVec.ofNat 8 (2 ^ n.val)
    let s1 := (((s.setFld fJsSliceCtl_STATE 4 n).setFld fJsSliceCtl_CAUSE cause n).setFld fJsSliceCtl_ENABLE_PENDING 0 n).eventE 0x21 n cause
    let mine (l : LaneId) : Bool := decide (laneSlice l = n)
    let work := (s1.laneQ.filter fun w => mine w.lane) ++ (s1.misses.filter fun m => mine m.lane).flatMap (·.work)
    let hit := s1.bags.filter fun g => g.reserved && g.slices.getLsbD n.val && !(g.arrived.getLsbD n.val) &&
      !(s1.partials.any fun p => decide (p.n = n) && decide (p.t = g.t) && decide (p.bag = g.bag))
    let s2 : State := { s1 with
      laneQ := s1.laneQ.filter fun w => !(mine w.lane)
      misses := s1.misses.filter fun m => !(mine m.lane)
      accs := s1.accs.filter fun a => !(mine a.lane)
      evb := s1.evb.filter fun e => !(mine e.lane) }
    let s3 := ((List.finRange 256).filter mine).foldl (fun s l => s.resetCloche l) s2
    let s4 := hit.foldl (fun (s : State) g =>
      (s.modBag g.t g.bag fun g => { g with closed := g.closed ||| bit, arrived := g.arrived ||| bit }).poisonBag g.t g.bag) s3
    let s5 := work.foldl (fun s w => s.laneApply { w with bad := true }) s4
    let s6 := (s5.loseScatter n).dropHome n
    hit.foldl (fun s g => s.hubStep g.t g.bag) s6

end Sys2Proof.Machine
end

