-- ==== Sys2Proof/Machine/Adders.lean ====
section
/-! DEFINITION. The memory-side adders and the atomics (R105 to R109, R178 to R184, R292, R306): the stochastic-rounding generators, the
arithmetic of every add, update and atomic, and their execution at the memory and in the board add unit. -/
namespace Sys2Proof.Machine

/-! Stochastic rounding (R105, R106) -/

/-- The generators a unit draws from: the first, their number, and the slice whose RNE it obeys. -/
structure Gens where
  base : Nat
  num : Nat
  rne : Nat
deriving DecidableEq, Repr

/-- The adders of a slice. -/
def sliceGens (n : SliceId) : Gens := ⟨32 * n.val, 32, n.val⟩
/-- The atomic unit of a slice's home: generator 0 of the slice (R306). -/
def homeGens (n : SliceId) : Gens := ⟨32 * n.val, 1, n.val⟩
/-- The board add unit: generators 256 to 259 (R292). -/
def boardGens : Gens := ⟨256, 4, 0⟩

/-- A generator's state of zero is replaced (R106). -/
def srSeed (x : W64) : W64 := if x = 0 then 0x9E3779B97F4A7C15#64 else x

/-- A draw for one rounding: bits [63:48] of a generator. Which of the unit's generators serves, and the memory cycles it has
stepped through since its last draw, are free. -/
def State.srDraw (s : State) (g : Gens) : State × Nat :=
  let v := s.draw
  let i := g.base + v.1.toNat % g.num
  let k := v.1.toNat / 256
  let old : W64 × State := match s.sr.find? (fun y => decide (y.1 = i)) with
    | some y => (y.2, v.2)
    | none => let w := v.2.draw; (srSeed w.1, w.2)
  let x := Nat.repeat xorshift k old.1
  ({ old.2 with sr := putAssoc old.2.sr i x }, x.toNat >>> 48)

/-- An FP32 result narrowed to a stored format (R105, R179): stochastic, or nearest-even with RNE. -/
def State.narrow (s : State) (g : Gens) (f : FFmt) (y : W32) : State × Nat :=
  if f.width = 32 then (s, y.toNat)
  else if s.fld fJsSrCtl_RNE g.rne = 1 then (s, f.encode true (val32 y))
  else let r := s.srDraw g; (r.1, stochRound f y r.2)

/-- Narrows columns in order to their stored bytes. -/
def State.narrowAll (s : State) (g : Gens) (f : FFmt) : List W32 → State × List Byte
  | [] => (s, [])
  | y :: r =>
    let a := s.narrow g f y
    let b := a.1.narrowAll g f r
    (b.1, leBytes (f.width / 8) a.2 ++ b.2)

/-- SR_RESEED (R106): seeds the 32 generators of a slice; slice 0 seeds those of the board add unit too. -/
def State.reseed (s : State) (n : SliceId) : State :=
  let ids := (List.range 32).map (fun i => 32 * n.val + i) ++ (if n = 0 then [256, 257, 258, 259] else [])
  ids.foldl (fun (s : State) i =>
    if s.fld fJsSrCtl_FIXED n = 1 then
      { s with sr := putAssoc s.sr i (srSeed (mixHash (BitVec.ofNat 64 (s.fld fJsSrCtl_SEED n)) (BitVec.ofNat 64 i))) }
    else let v := s.draw; { v.2 with sr := putAssoc v.2.sr i (srSeed v.1) }) s

/-! Arithmetic -/

/-- The stored code of column i of a contribution (R91). -/
def State.codeAt (s : State) (bits addr sub i : Nat) : Nat :=
  if bits = 4 then natBits (s.rdByte (addr + (sub % 2 + i) / 2)).toNat (4 * ((sub + i) % 2)) 4
  else s.rdNat (addr + i * (bits / 8)) (bits / 8)

/-- Counts the columns whose FP32 result is NaN or infinite (R179). -/
def State.countBad (s : State) (p : Part) (ys : List W32) : State := s.bump fJpRakeStat_NONFINITE p.val (ys.filter notFinite32).length

/-- The negative of an FP32 word. -/
def fneg (a : W32) : W32 := a ^^^ 0x80000000#32

/-- Adds to a scale-gradient place (R181). -/
def addPlace (n : SliceId) (table col : Nat) (v : W32) : List ScalePlace → List ScalePlace
  | [] => [⟨n, table, col, fadd 0#32 v⟩]
  | y :: r => if y.n = n ∧ y.table = table ∧ y.col = col then { y with sum := fadd y.sum v } :: r else y :: addPlace n table col v r

/-- The bytes of a list from an offset on are replaced. -/
def putBytes (l : List Byte) (off : Nat) (bs : List Byte) : List Byte := l.take off ++ bs ++ l.drop (off + bs.length)

/-- A scatter add of one column (R108, R109, R179, R181): its term for the scale gradient of its table, where that has a record, and the
bytes of its granule with its sum, where the class takes adds. -/
def State.addCol (s : State) (g : Gens) (op : AddOp) (x : Tracker) (d : Desc) (c : Contrib) (i : Nat) (v : W32) (cur : List Byte) :
    State × List Byte :=
  let b := s.blockOf x.part d
  let f := d.format c.cls
  let code := s.codeAt (fmtBits f) c.addr c.sub i
  let raw := d.rawVal c.cls b code
  let put (z : Scatter) : Scatter := { z with places := addPlace op.n c.table (c.col + i) (fmul v raw) z.places }
  let s1 : State :=
    if cBit28 x.cmd ∧ fmtScaled f ∧ fbSgrad b ≠ 0 ∧ d.escCode c.cls ≠ some code then
      { s with scatters := updFirst (fun z => decide (z.t = x.id)) put s.scatters }
    else s
  match rowFmt f with
  | none => (s1, cur)
  | some ff =>
    let y := fadd raw (if f = 3 ∨ f = 4 then fmul v (frecip (fbScale b d.dim (c.col + i))) else v)
    let r := (s1.countBad x.part [y]).narrow g ff y
    (r.1, putBytes cur (c.addr % 64 + i * (ff.width / 8)) (leBytes (ff.width / 8) r.2))

/-- The columns of a contribution, in order. -/
def State.addContrib (s : State) (g : Gens) (op : AddOp) (x : Tracker) (c : Contrib) (cur : List Byte) : State × List Byte :=
  match x.descOf c.table with
  | none => (s, cur)
  | some d => (c.vals.zipIdx).foldl (fun (y : State × List Byte) v => match v.1 with
    | some w => y.1.addCol g op x d c v.2 w y.2
    | none => y) (s, cur)

/-- A scatter add of the entries of one stored granule (R176, R179): one read of it, and one write where its class takes adds. -/
def State.addScatter (s : State) (g : Gens) (op : AddOp) (x : Tracker) (cs : List Contrib) : State × Option (List Byte) :=
  let r := cs.foldl (fun (y : State × List Byte) c => y.1.addContrib g op x c y.2) (s, s.rdBytes op.addr 64)
  let stored := cs.any fun c => (x.descOf c.table).any fun d => (rowFmt (d.format c.cls)).isSome
  (r.1, if stored then some r.2 else none)

/-- The new optimiser state of R183. -/
def newState (a : Apply) (old m : W32) : W32 :=
  if a.rule = 1 then fadd old m else fadd (fmul a.beta old) (fmul (fsub 0x3F800000#32 a.beta) m)

/-- The parameter update of one granule (R183). -/
def State.addParam (s : State) (g : Gens) (op : AddOp) (x : Tracker) (d : Desc) (a : Apply) (col cls : Nat) (fac : W32) (gr : List W32) :
    State × Option (List Byte) :=
  match rowFmt (d.format cls) with
  | none => (s, none)
  | some ff =>
    let b := s.blockOf x.part d
    let aa := fsub 0x3F800000#32 (fmul a.lr a.wd)
    let ys := gr.mapIdx fun i gv =>
      let b0 := fmul (fneg fac) gv
      let b1 := if d.format cls = 3 ∨ d.format cls = 4 then fmul b0 (frecip (fbScale b d.dim (col + i))) else b0
      ffma aa (d.rawVal cls b (s.codeAt (fmtBits (d.format cls)) op.addr 0 i)) b1
    let r := (s.countBad x.part ys).narrowAll g ff ys
    (r.1, some r.2)

/-- The arithmetic of an adder operation: the state with its draws, counts and returned values, and the bytes it stores at its
address. -/
def State.addCompute (s : State) (g : Gens) (op : AddOp) : State × Option (List Byte) :=
  let x := op.owner.bind s.trk
  match op.kind with
  | .int64 v => (s, some (leBytes 8 ((BitVec.ofNat 64 (s.rdNat op.addr 8)) + v).toNat))
  | .satI32 v => (s, some (leBytes 4 (ofIntW 32 (satInt 32 (toI32 (BitVec.ofNat 32 (s.rdNat op.addr 4)) + toI32 v)).1).toNat))
  | .fp32 v => (s, some (leBytes 4 (fadd (BitVec.ofNat 32 (s.rdNat op.addr 4)) v).toNat))
  | .scatter cs => match x with
    | some x => s.addScatter g op x cs
    | none => (s, none)
  | .applyState i m => match s.applies.find? (fun a => decide (some a.t = op.owner)) with
    | some a =>
      let v := newState a (BitVec.ofNat 32 (s.rdNat op.addr 4)) m
      let put (r : ApplyRow) : ApplyRow := { r with state := some v }
      let putA (y : Apply) : Apply := { y with rows := updFirst (fun r => decide (r.i = i)) put y.rows }
      let s1 : State := { s with applies := updFirst (fun y => decide (y.t = a.t)) putA s.applies }
      (s1.countBad op.part [v], some (leBytes 4 v.toNat))
    | none => (s, none)
  | .applyParam col cls f gr => match x, x.bind (·.desc), s.applies.find? (fun a => decide (some a.t = op.owner)) with
    | some x, some d, some a => s.addParam g op x d a col cls f gr
    | _, _, _ => (s, none)

/-- An operation has landed (R186): its command has effects in memory, and poison met at the granule reports itself (R179); an intake
statistics record leaves its command's status as it is (R72). -/
def State.landed (s : State) (op : AddOp) (poison : Bool) : State :=
  let s1 : State := match op.kind, op.owner with
    | .scatter _, some t => { s with scatters := updFirst (fun c => decide (c.t = t)) (fun c => { c with landedAny := true }) s.scatters }
    | .applyState _ _, some t => { s with applies := updFirst (fun a => decide (a.t = t)) (fun a => { a with landedAny := true }) s.applies }
    | .applyParam _ _ _ _, some t => { s with applies := updFirst (fun a => decide (a.t = t)) (fun a => { a with landedAny := true }) s.applies }
    | _, _ => s
  if poison then
    let s2 := s1.bump fJpRakeStat_POISON_ADDS op.part.val
    match op.owner, op.kind with
    | some _, .int64 _ => s2
    | some t, _ => s2.poisonCmd t
    | none, _ => s2
  else s1

/-- An operation does not land: it is lost against its command (R186, R260). -/
def State.loseAdd (s : State) (op : AddOp) : State :=
  let s1 : State := match op.kind, op.owner with
    | .applyState i _, some t =>
      { s with applies := updFirst (fun a => decide (a.t = t)) (fun a => { a with rows := a.rows.filter fun r => decide (r.i ≠ i) }) s.applies }
    | _, _ => s
  if op.owed = [] then s1 else s1.loseWrite op.part op.owner op.obj

/-- Executes an operation at an HBM granule with the given generators (R178): none while no buffer entry takes its result. -/
def State.addHbm (s : State) (g : Gens) (op : AddOp) : Option State :=
  match s.channelOf op.addr with
  | none => some (s.loseAdd op)
  | some (c, _) =>
    let n : SliceId := Fin.ofNat 8 (c / 32)
    if !(s.sliceServes n (op.owner.bind s.serialOf)) then some (s.loseAdd op)
    else
      let r := (s.bwRead op.part op.owner op.addr 1).addCompute g op
      match r.2 with
      | none => some (r.1.landed op (s.rdPoison op.addr 1 (op.owner.bind s.serialOf)))
      | some bs =>
        let poison := s.rdPoison op.addr bs.length (op.owner.bind s.serialOf)
        (r.1.takeWcb n ⟨op.addr, bs, poison, op.part, op.owner, op.obj, false, false, false, none, [], false, false, false, op.old⟩).map fun s2 => s2.landed op poison

/-- Lines that the board add unit holds, of 256 (R292). -/
def State.boardLines (s : State) : List Nat := ((s.boardWrs.filter (·.isAdd)).map fun w => w.addr / 256).eraseDups

/-- Executes an operation in the board add unit: it becomes visible when its write-back is acknowledged. -/
def State.addBoard (s : State) (op : AddOp) : State :=
  let r := s.addCompute boardGens op
  let poison := s.rdPoison op.addr 1
  match r.2 with
  | none => r.1.landed op poison
  | some bs => (r.1.issueBoard [⟨op.addr, bs, poison, op.part, op.owner, op.obj, true, none, [], false, false, op.old⟩]).landed op poison

/-- Every operation that waits for a board-tier line executes on it once the unit holds the line (R292). -/
def State.addBoardLine (s : State) (line : Nat) : State :=
  if 256 ≤ s.boardLines.length ∧ line ∉ s.boardLines then s
  else
    let due := s.addQ.filter fun o => s.isBoard o.addr && decide (o.addr / 256 = line)
    let s := if due = [] ∨ line ∈ s.boardLines then s else s.emit (.boardOwn (s.boardHost (physOff (line * 256))))
    due.foldl (fun s o => s.addBoard o) { s with addQ := s.addQ.filter fun o => !(s.isBoard o.addr && decide (o.addr / 256 = line)) }

/-! Fabric atomics (R287, R306) -/

/-- Bytes of an atomic's operand. -/
def atomSize : AtomicOp → Nat
  | .addI32 _ => 4
  | .addF32 _ => 4
  | _ => 8

/-- The new value of an atomic. A fetch-add on an integer wraps (PRESUMED). -/
def atomApply (op : AtomicOp) (old : W64) : W64 :=
  match op with
  | .addI32 v => BitVec.ofNat 64 (BitVec.ofNat 32 old.toNat + v).toNat
  | .addI64 v => old + v
  | .addF32 v => BitVec.ofNat 64 (fadd (BitVec.ofNat 32 old.toNat) v).toNat
  | .swap64 v => v
  | .cas64 c v => if old = c then v else old

end Sys2Proof.Machine
end

