-- ==== Sys2Proof/Machine/Home.lean ====
section
/-! DEFINITION. The coherent window and the Trellis (R293 to R312): the requests of the fabric's agents, how a line's home serves
them, snoops and their answers, page bias and its flips, and an agent that is dead. -/
namespace Sys2Proof.Machine

/-! What sleep does with an access from outside (R372) -/

/-- The engine is in Dormant or Overwinter, or on its way out of it. -/
def State.asleep (s : State) : Bool := decide (2 ≤ s.fld fJePwrStatus_STATE)

/-- A wake trigger (R372, R373): it begins a wake, or ends an entry in progress. -/
def State.trigger (s : State) : State :=
  if s.power.entry ≠ 0 then { s with power := { s.power with trigger := true } }
  else if s.asleep then { s with power := { s.power with waking := true } }
  else s

/-- An access that arrives from outside: while the engine sleeps, or stops its clocks on the way there (step 4 of an entry), it is
held, and wakes the engine (R372, R373). -/
def State.orHold (s : State) (c : Instr) (f : State → State) : State :=
  if s.asleep ∨ 4 ≤ s.power.step then ({ s with power := { s.power with held := s.power.held ++ [c] } } : State).trigger
  else if s.power.entry ≠ 0 then f s.trigger
  else f s

/-! Lines and their entries -/

/-- The home of a line, and the set of its Trellis entry (R300). -/
def State.homeOf (s : State) (line : Nat) : Option (SliceId × Nat) :=
  (hashLine s.mappedList line).map fun y => (Fin.ofNat 8 (y.1 / 32), y.2 % 512 * 32 + y.1 % 32)

/-- The line of a window offset. -/
def State.winLine (s : State) (x : BitVec 36) : Nat := s.fld fJeWinCtl_BASE_GIB * 2 ^ 22 + x.toNat / 256

/-- The physical address of a line. -/
def State.lineAddr (s : State) (line : Nat) : Nat := s.hbmPhys (line * 256)

/-- Changes a line's entry. -/
def State.modTr (s : State) (line : Nat) (f : TrEnt → TrEnt) : State :=
  { s with trellis := updFirst (fun e => decide (e.line = line)) f s.trellis }

/-- A way of a set frees: its refusals start anew (R311). -/
def State.freeTr (s : State) (line : Nat) : State :=
  match s.trOf line with
  | none => s
  | some e => { s with
      trellis := eraseFirst (fun y => decide (y.line = line)) s.trellis
      retryCount := s.retryCount.filter fun y => decide (y.1 ≠ e.n.val * 16384 + e.set) }

/-- A holder is added by RD_SHARED (R301, R303, R304); with a forwarder where `fwd` holds. -/
def TrEnt.share (e : TrEnt) (a : Byte) (fwd : Bool) : TrEnt :=
  let named (l : List Byte) : TrEnt := { e with
    holders := l, state := if fwd then .f else .s, fwd := if fwd then some a else none }
  if e.ovf then { e with state := .s }
  else if a ∈ e.holders then named e.holders
  else if e.holders.length < 4 then named (e.holders ++ [a])
  else { e with ovf := true, holders := [], fwd := none, state := .s }

/-- The line's only holder. -/
def TrEnt.own (e : TrEnt) (a : Byte) : TrEnt := { e with state := .x, ovf := false, holders := [a], fwd := none }

/-- A holder that answered ABSENT is removed; nothing is removed from an overflowed entry (R301). -/
def TrEnt.drop (e : TrEnt) (a : Byte) : TrEnt :=
  if e.ovf then e
  else { e with
    holders := e.holders.filter fun h => decide (h ≠ a)
    fwd := if e.fwd = some a then none else e.fwd
    state := if e.fwd = some a then .s else e.state }

/-- A line's bytes as its home reads them, and whether any granule is poisoned. -/
def State.lineData (s : State) (line : Nat) : List Byte × Bool :=
  (s.rdBytes (s.lineAddr line) 256, s.rdPoison (s.lineAddr line) 256)

/-- A line's data are written to memory by its home: four whole granules, which enter the buffer of the slice (R245, R304). -/
def State.putLine (s : State) (line : Nat) (data : List Byte) (poison : Bool := false) : State :=
  (wrPieces (s.lineAddr line) ((List.range 256).map fun i => data.getD i 0) poison 0 none 0 true).foldl (fun (s : State) w =>
    s.putWrite { w with plain := true, atHome := true }) s

/-- Every granule of a line is written poisoned (R312, R314). -/
def State.poisonLine (s : State) (line : Nat) : State := s.putLine line (s.lineData line).1 true

/-- An entry with no holder left is freed (R301). -/
def State.freeIfEmpty (s : State) (line : Nat) : State :=
  if (s.trOf line).any fun e => !e.ovf && decide (e.holders = []) then s.freeTr line else s

/-- Grants a line to an agent: the entry as `f` leaves it, with the grant's holding time begun (R309). An agent that
has died meanwhile is refused instead (R312). -/
def State.grantLine (s : State) (a : Byte) (line : Nat) (data : Bool) (f : TrEnt → TrEnt) : State :=
  let d := s.lineData line
  let give (e : TrEnt) : TrEnt := { f e with hold := e.hold ++ [a], grant := s.clock }
  let s1 := ({ s with clock := s.clock + 1 } : State).modTr line give
  if s.agentBit .jeFabDeadmask a then
    ((s1.modTr line fun e => { e.drop a with hold := e.hold.filter fun h => decide (h ≠ a) }).freeIfEmpty line).emit (.fabError a
      (line * 256 - s.fld fJeWinCtl_BASE_GIB * 2 ^ 30))
  else s1.emit (.grant a line (if data then some d.1 else none) (data && d.2))

/-- Refuses a fabric request with RETRY (R311). -/
def State.retry (s : State) (n : SliceId) (set : Nat) (a : Byte) (line : Nat) : State :=
  let key := n.val * 16384 + set
  let k := getAssoc s.retryCount key 0
  let s1 : State := { s with retryCount := putAssoc s.retryCount key (k + 1) }
  (s1.bump fJsTrellisStat_RETRIES n.val).emit (.retry a line (min (16 * 2 ^ min k 6) 1024))

/-! Ways and victims (R310) -/

/-- The order in which victims are preferred. -/
def TrEnt.rank (e : TrEnt) : Nat := if e.state = .x then 6 else if e.ovf then 5 else e.holders.length

/-- The better of two victims. -/
def betterVictim (a b : TrEnt) : TrEnt :=
  if b.rank < a.rank ∨ (b.rank = a.rank ∧ b.grant < a.grant) then b else a

/-- What the home answers to a request at this moment. -/
inductive HRes where
  | done | wait | full
deriving DecidableEq, Repr

/-- Makes a way for a line: a free one, or a victim's, whose recall begins (R310). -/
def State.takeTrWay (s : State) (n : SliceId) (set line : Nat) : State × HRes :=
  let used := s.trellis.filter fun e => decide (e.n = n) && decide (e.set = set)
  let enter (s : State) (way : Nat) : State :=
    let s1 : State := { s with trellis := s.trellis ++ [⟨n, set, way, line, .s, false, [], none, [], s.clock⟩] }
    s1.peak fJsTrellisUse_PEAK (s1.trellis.filter fun e => decide (e.n = n)).length n.val
  if used.length < 16 then (enter s (firstFree (used.map (·.way)) 16 0), .done)
  else
    match used.filter fun e => (s.txnOn e.line).isNone with
    | [] => (s, .full)
    | v :: r =>
      let e := r.foldl betterVictim v
      if 32 ≤ (s.txns.filter fun x => x.evict && s.lineIn n x.line).length then (s, .full)
      else if e.held (s.holdersOf e) then (s, .wait)
      else
        let s1 := (s.openTxn (some e) e.line none .recall ((s.holdersOf e).map fun a => (a, .inv)) false true).bump fJsTrellisStat_BACK_INVALS n.val
        (enter { s1 with trellis := eraseFirst (fun y => decide (y.line = e.line)) s1.trellis } e.way, .done)

/-! Service at the memory -/

/-- The masked bytes of a line in runs that each lie in one granule. -/
def maskRuns (mask : BitVec 256) (data : List Byte) : List (Nat × List Byte) :=
  (List.range 256).foldl (fun l i =>
    if mask.getLsbD i then
      let b := data.getD i 0
      match l.getLast? with
      | some y => if y.1 + y.2.length = i ∧ i % 64 ≠ 0 then l.dropLast ++ [(y.1, y.2 ++ [b])] else l ++ [(i, [b])]
      | none => [(i, [b])]
    else l) []

/-- The writes of a core's request; a whole line of zeros is a whole-line zero write (R248). -/
def coreWrites (addr : Nat) (mask : BitVec 256) (data : List Byte) : List WrReq :=
  if mask = BitVec.allOnes 256 ∧ (List.range 256).all (fun i => decide (data.getD i 0 = 0)) then
    [⟨addr, List.replicate 256 0, false, 0, none, 0, true, true, false, none, [], false, true, true, false⟩]
  else (maskRuns mask data).map fun y => ⟨addr + y.1, y.2, false, 0, none, 0, false, true, false, none, [], false, true, true, false⟩

/-- Writes that all enter the buffer, or none of them. -/
def State.takeAll (s : State) (n : SliceId) : List WrReq → Option State
  | [] => some s
  | w :: r => (s.takeWcb n w).bind fun s1 => s1.takeAll n r

/-- Executes an atomic on a line's current data: the state with its result accepted, and the old value (R287, R306). -/
def State.doAtomic (s : State) (n : SliceId) (line off : Nat) (op : AtomicOp) : Option (State × W64) :=
  let a := s.lineAddr line + off
  let old : W64 := BitVec.ofNat 64 (s.rdNat a (atomSize op))
  let w : WrReq := ⟨a, leBytes (atomSize op) (atomApply op old).toNat, s.rdPoison a (atomSize op), 0, none, 0, false, true, false, none, [], false, true, true, false⟩
  (s.takeWcb n w).map fun s1 => (s1, old)

/-- Serves a request at the memory: a line with no holder, or a page that is DEVICE. None while the write-combining buffer
has no entry. -/
def State.serveMem (s : State) (n : SliceId) (q : CoreReq) : Option State :=
  match q.req, q.agent with
  | .rdCur, some a => let d := s.lineData q.line; some (s.emit (.grant a q.line (some d.1) d.2))
  | .write m d, some a => (s.takeAll n (coreWrites (s.lineAddr q.line) m d)).map fun s1 => s1.emit (.ack a q.line)
  | .atomic off op, some a => (s.doAtomic n q.line off op).map fun y => y.1.emit (.old a y.2)
  | .jWrite w, _ => s.takeWcb n w
  | .jAdd op, _ => s.addHbm (sliceGens n) op
  | .jRead who, _ => some { s with jreads := (q.line, who) :: s.jreads }
  | _, _ => some s

/-- An adder operation or an atomic (R306). -/
def ReqKind.isAtomic : ReqKind → Bool
  | .atomic _ _ => true
  | .jAdd _ => true
  | _ => false

/-- Where an atomic on a shared line executes (R307), with the predictor and the placement counted: the flag says at the
home. -/
def State.placeAtomic (s : State) (n : SliceId) (set : Nat) (e : Option TrEnt) : State × Bool :=
  let key := n.val * 1024 + set % 1024
  let k := getAssoc s.predictor key 0
  let held := e.isSome
  let k' := if held then min 7 (k + 1) else k - 1
  let mode := s.fld fJeFabCtl_ATOMIC_MODE
  let want := if mode = 0 then false else if mode = 1 then true else decide (max 1 (s.fld fJeFabCtl_PRED_THRESH) ≤ k)
  let home := want && (match e with | some e => !e.ovf | none => false)
  let s1 : State := { s with predictor := putAssoc s.predictor key k' }
  (if home then s1.bump fJsAtomicStat_AT_HOME n.val else s1.bump fJsAtomicStat_AT_MEMORY n.val, home)

/-- Executes an add or an atomic at the home (R306): the old value with the state; none while the buffer has no entry. -/
def State.doAtHome (s : State) (n : SliceId) (line : Nat) (req : ReqKind) : Option (State × W64) :=
  match req with
  | .atomic off op => s.doAtomic n line off op
  | .jAdd op => (s.addHbm (homeGens n) op).map fun s1 => (s1, 0)
  | _ => some (s, 0)

/-! Service of a line (R304) -/

/-- Serves a request to a line with no entry. -/
def State.serveI (s : State) (n : SliceId) (set : Nat) (q : CoreReq) : State × HRes :=
  let mem : State × HRes :=
    let s1 := if q.req.isAtomic then (s.placeAtomic n set none).1 else s
    match s1.serveMem n q with
    | some s2 => (s2, .done)
    | none => (s, .wait)
  match q.req, q.agent with
  | .rdShared, some a => match s.takeTrWay n set q.line with
    | (s1, .done) => (s1.grantLine a q.line true fun e => e.share a (decide (s.fld fJeFabCtl_FWD_EN = 1)), .done)
    | r => r
  | .rdOwn, some a => match s.takeTrWay n set q.line with
    | (s1, .done) => (s1.grantLine a q.line true fun e => e.own a, .done)
    | r => r
  | .upgrade, some a => match s.takeTrWay n set q.line with
    | (s1, .done) => (s1.grantLine a q.line true fun e => e.own a, .done)
    | r => r
  | _, _ => mem

/-- Opens a transaction on a line for a request, unless a grant still keeps one of its snoops (R309). -/
def State.openFor (s : State) (e : TrEnt) (q : CoreReq) (dst : List Byte) (k : Snoop) (atHome : Bool := false) : State × HRes :=
  let dst := if e.ovf then dst.filter fun a => decide (some a ≠ q.agent) else dst
  if e.held dst then (s, .wait) else (s.openTxn (some e) q.line q.agent q.req (dst.map fun a => (a, k)) atHome, .done)

/-- An agent takes a clean line for itself: other holders are invalidated first. -/
def State.takeOwn (s : State) (e : TrEnt) (q : CoreReq) (a : Byte) (data : Bool) : State × HRes :=
  match (s.holdersOf e).filter fun h => decide (h ≠ a) with
  | [] => (s.grantLine a q.line data fun e => e.own a, .done)
  | dst => s.openFor e q dst .inv

/-- An upgrade brings no data to an agent that the entry lists. -/
def TrEnt.listed (e : TrEnt) (a : Byte) : Bool := e.ovf || decide (a ∈ e.holders)

/-- An atomic or add on a shared clean line, at its place. -/
def State.serveAtomicS (s : State) (n : SliceId) (set : Nat) (e : TrEnt) (q : CoreReq) : State × HRes :=
  let p := s.placeAtomic n set (some e)
  if e.held (s.holdersOf e) then (s, .wait)
  else if p.2 then
    match p.1.doAtHome n q.line q.req with
    | none => (s, .wait)
    | some y =>
      let s1 := y.1.openTxn (some e) q.line q.agent q.req (e.holders.map fun a => (a, .upd)) true
      ({ s1 with txns := updFirst (fun x => decide (x.line = q.line)) (fun x => { x with old := y.2 }) s1.txns }, .done)
  else p.1.openFor e q (p.1.holdersOf e) .inv

/-- Serves a request to a line in S or F. -/
def State.serveS (s : State) (n : SliceId) (set : Nat) (e : TrEnt) (q : CoreReq) : State × HRes :=
  match q.req, q.agent with
  | .rdShared, some a =>
    let now := s.grantLine a q.line true fun e => e.share a (decide (s.fld fJeFabCtl_FWD_EN = 1))
    match e.state, e.fwd with
    | .f, some f => if f = a then (now, .done) else s.openFor e q [f] .fwd
    | _, _ => (now, .done)
  | .rdOwn, some a => s.takeOwn e q a true
  | .upgrade, some a => s.takeOwn e q a (!(e.listed a))
  | .rdCur, _ => ((s.serveMem n q).getD s, .done)
  | .jRead _, _ => ((s.serveMem n q).getD s, .done)
  | .atomic _ _, _ => s.serveAtomicS n set e q
  | .jAdd _, _ => s.serveAtomicS n set e q
  | _, _ => s.openFor e q (s.holdersOf e) .inv

/-- Serves a request to a line in X. The owner's own request finds memory current. -/
def State.serveX (s : State) (n : SliceId) (set : Nat) (e : TrEnt) (q : CoreReq) : State × HRes :=
  let mine (a : Byte) : Bool := decide (e.holders = [a])
  match q.req, q.agent with
  | .rdShared, some a =>
    if mine a then (s.grantLine a q.line true fun e => e.share a true, .done) else s.openFor e q e.holders .share
  | .rdOwn, some a =>
    if mine a then (s.grantLine a q.line true fun e => e.own a, .done) else s.openFor e q e.holders .inv
  | .upgrade, some a =>
    if mine a then (s.grantLine a q.line true fun e => e.own a, .done) else s.openFor e q e.holders .inv
  | .rdCur, _ => s.openFor e q e.holders .cur
  | .jRead _, _ => s.openFor e q e.holders .cur
  | .atomic _ _, _ =>
    if e.held e.holders then (s, .wait)
    else let p := s.placeAtomic n set (some e); p.1.openFor e q e.holders (if p.2 then .share else .inv) p.2
  | .jAdd _, _ =>
    if e.held e.holders then (s, .wait)
    else let p := s.placeAtomic n set (some e); p.1.openFor e q e.holders (if p.2 then .share else .inv) p.2
  | _, _ => s.openFor e q e.holders .inv

/-- A caching request (R296). -/
def ReqKind.caching : ReqKind → Bool
  | .rdShared => true
  | .rdOwn => true
  | .upgrade => true
  | _ => false

/-! Flips to SHARED (R296, R297) -/

/-- Sets the bias of a page. -/
def State.setBias (s : State) (page : Nat) (b : Bias) : State :=
  let k := BitVec.ofNat 15 page
  if b = .device then { s with pages := s.pages.filter fun y => decide (y.1 ≠ k) } else { s with pages := putAssoc s.pages k b }

/-- The first physical address of a page of the window. -/
def State.pageAddr (s : State) (page : Nat) : Nat := s.hbmPhys (s.fld fJeWinCtl_BASE_GIB * 2 ^ 30 + page * 2 ^ 21)

/-- A line lies in a page. -/
def State.inPage (s : State) (page line : Nat) : Bool := decide (s.pageOf (s.lineAddr line) = page)

/-- Begins a flip to SHARED where fewer than 16 run (R297): records of the page are squashed, its Cloche copies invalidated;
accesses issued before are marked, to finish under DEVICE bias. -/
def State.startFlip (s : State) (page : Nat) : State :=
  if 16 ≤ (s.pages.filter fun y => decide (y.2 = .toShared)).length then s
  else
    let a := s.pageAddr page
    let mine (x : Nat) : Bool := decide (a ≤ x) && decide (x < a + 2 ^ 21)
    let s1 := (s.setBias page .toShared).squash a (2 ^ 21)
    let s2 := s1.dropLines fun key => mine (key * 256)
    { s2 with
      wrQ := s2.wrQ.map fun (w : WrReq) => if mine w.addr then { w with issued := true } else w
      addQ := s2.addQ.map fun (o : AddOp) => if mine o.addr then { o with issued := true } else o }

/-- Serves one request at its home: DEVICE pages without the Trellis (R296), the others through it. -/
def State.serveReq (s : State) (q : CoreReq) : State × HRes :=
  match s.homeOf q.line with
  | none => (s.refuseReq q.agent q.line q.req, .done)
  | some (n, set) =>
    if !(s.sliceServes n none) then (s.refuseReq q.agent q.line q.req, .done)
    else
      let a := s.lineAddr q.line
      if !(s.inWindow a) ∨ s.biasOf (s.pageOf a) = .device then
        (if q.req.caching ∧ s.inWindow a then (s.startFlip (s.pageOf a), .wait)
         else match s.serveMem n q with
          | some s1 => (s1, .done)
          | none => (s, .wait))
      else if s.flipping a then (s, .wait)
      else match s.trOf q.line with
        | none => s.serveI n set q
        | some e => if e.state = .x then s.serveX n set e q else s.serveS n set e q

/-! Closing a transaction (R304, R306) -/

/-- Takes a transaction off its line. -/
def State.dropTxn (s : State) (line : Nat) : State := { s with txns := eraseFirst (fun y => decide (y.line = line)) s.txns }

/-- The end of an atomic at the home: the old value goes back once every update is acknowledged. -/
def State.closeHome (s : State) (n : SliceId) (x : Txn) : State :=
  match x.owner, s.trOf x.line with
  | some o, some e =>
    if e.state = .x then
      match s.doAtHome n x.line x.req with
      | none => s
      | some y =>
        if e.holders = [] then
          let s1 := (y.1.freeTr x.line).dropTxn x.line
          match x.agent with
          | some a => s1.emit (.old a y.2)
          | none => s1
        else
          let s1 := (y.1.modTr x.line fun e => { e with state := .f, fwd := some o }).emit (.snoop o x.line .upd (some (y.1.lineData x.line).1))
          { s1 with txns := updFirst (fun z => decide (z.line = x.line)) (fun z => { z with old := y.2, snoops := [(o, .upd)] }) s1.txns }
    else
      let s1 := (s.dropTxn x.line).freeIfEmpty x.line
      match x.agent with
      | some a => s1.emit (.old a x.old)
      | none => s1
  | _, _ =>
    let s1 := (s.dropTxn x.line).freeIfEmpty x.line
    match x.agent with
    | some a => s1.emit (.old a x.old)
    | none => s1

/-- Closes a transaction whose snoops are all answered; it stays open while the buffer takes no entry. -/
def State.closeTxn (s : State) (x : Txn) : State :=
  match s.homeOf x.line with
  | none => s.dropTxn x.line
  | some (n, _) =>
    let fromX := x.owner.isSome
    if x.atHome then s.closeHome n x
    else match x.req, x.agent with
      | .rdShared, some a =>
        let s1 := s.dropTxn x.line
        if fromX then s1.grantLine a x.line true fun e => { e with state := .s }.share a true
        else s1.grantLine a x.line x.absent fun e => e.share a (decide (s.fld fJeFabCtl_FWD_EN = 1))
      | .rdOwn, some a => (s.dropTxn x.line).grantLine a x.line true fun e => e.own a
      | .upgrade, some a =>
        let listed := !fromX && (s.trOf x.line).any fun e => e.listed a
        (s.dropTxn x.line).grantLine a x.line (!listed) fun e => e.own a
      | .rdCur, some a =>
        let s1 := s.dropTxn x.line
        if x.absent then let d := s1.lineData x.line; (s1.freeTr x.line).emit (.grant a x.line (some d.1) d.2) else s1
      | .jRead who, _ =>
        let s1 := s.dropTxn x.line
        let s2 : State := { s1 with jreads := (x.line, who) :: s1.jreads }
        if x.absent then s2.freeTr x.line else s2
      | .recall, _ => if x.evict then s.dropTxn x.line else (s.dropTxn x.line).freeTr x.line
      | _, _ => match s.serveMem n ⟨x.agent, x.line, x.req⟩ with
        | some s1 => (s1.dropTxn x.line).freeTr x.line
        | none => s

/-- Closes every transaction that can be closed. -/
def State.closeDue (s : State) : State :=
  (s.txns.filter fun x => decide (x.snoops = [])).foldl (fun s x =>
    if s.txns.any (fun y => decide (y = x)) then s.closeTxn x else s) s

/-- Tries the oldest waiting request of each line, once (R308). A fabric request that finds its set full is refused (R310). -/
def State.tryLines (s : State) (seen : List Nat) : List CoreReq → State
  | [] => s
  | q :: r =>
    if q.line ∈ seen then s.tryLines seen r
    else if (s.txnOn q.line).isSome then s.tryLines (q.line :: seen) r
    else
      let gone (s : State) : State := { s with coreReqs := eraseFirst (fun y => decide (y = q)) s.coreReqs }
      match s.serveReq q with
      | (s1, .done) => (gone s1).tryLines seen r
      | (s1, .wait) => s1.tryLines (q.line :: seen) r
      | (s1, .full) => match q.agent, s.homeOf q.line with
        | some a, some (n, set) => ((gone s1).retry n set a q.line).tryLines seen r
        | _, _ => s1.tryLines (q.line :: seen) r

/-- The homes go on with what they can: transactions close, and the requests that waited for them are served. -/
def State.settleHomeN (s : State) : Nat → State
  | 0 => s
  | k + 1 =>
    let s1 := s.closeDue
    let s2 := s1.tryLines [] s1.coreReqs
    if s2.coreReqs.length = s.coreReqs.length ∧ s2.txns = s.txns then s2 else s2.settleHomeN k

/-- As far as it goes. -/
def State.settleHome (s : State) : State :=
  if s.txns = [] ∧ s.coreReqs = [] then s else s.settleHomeN (s.coreReqs.length + s.txns.length + 1)

/-! Requests of the fabric's agents (R293, R296, R299) -/

/-- The agent is refused: dead, or a caching request from one that is not a caching agent (R312, R317). -/
def State.agentRefused (s : State) (a : Byte) (caching : Bool) : Bool :=
  s.agentBit .jeFabDeadmask a || (caching && !(s.agentBit .jeFabAgents a))

/-- A flip to DEVICE is abandoned on a caching request (R299). -/
def State.abandonFlip (s : State) (page : Nat) : State :=
  let recallHere (q : CoreReq) : Bool := decide (q.req = .recall) && s.inPage page q.line
  let s1 : State := { s with coreReqs := s.coreReqs.filter fun q => !(recallHere q) }
  let s2 := (s1.setBias page .shared).bump fJeBiasStat_FLIP_ABORTS
  let s3 := if s2.power.entry ≠ 0 then { s2 with power := { s2.power with trigger := true } } else s2
  if s3.fab.biasPage = some (BitVec.ofNat 15 page) then
    ((({ s3 with fab := { s3.fab with biasPage := none } } : State).setFld fJeBiasCmd_BUSY 0).setFld fJeBiasCmd_RESULT 3).setFld fJeBiasCmd_BIAS 1
  else if s3.flipsAll then s3.setFld fJeBiasCmd_RESULT 3
  else s3

/-- A request of an agent to a window line whose home is in service. -/
def State.coreGo (s : State) (n : SliceId) (set : Nat) (q : CoreReq) (a : Byte) : State :=
  let page := s.pageOf (s.lineAddr q.line)
  let s1 := if q.req.caching ∧ s.biasOf page = .toDevice then s.abandonFlip page else s
  let wait (s : State) : State :=
    if 512 ≤ s.homeLoad n then s.retry n set a q.line else { s with coreReqs := s.coreReqs ++ [q] }
  if (s1.txnOn q.line).isSome ∨ s1.coreReqs.any (fun y => decide (y.line = q.line)) then wait s1
  else match s1.serveReq q with
    | (s2, .done) => s2.settleHome
    | (s2, .wait) => wait s2
    | (s2, .full) => s2.retry n set a q.line

/-- The entry of a line fails its check uncorrectably (R300): its owner is not known, and every live agent is snooped. Where a transaction
is open on the line, the entry is not looked up. -/
def State.entryLost (s : State) (line : Nat) : State :=
  match s.trOf line, s.txnOn line with
  | some e, none =>
    let s1 := (s.eventE 0x41 e.n.val (e.set * 16 + e.way)).openTxn none line none .recall (s.liveAgents.map fun a => (a, .inv))
    ({ s1 with txns := updFirst (fun x => decide (x.line = line)) (fun x => { x with lost := true }) s1.txns } : State).settleHome
  | _, _ => s

/-- A request of an agent at window offset x; `lost` says that the lookup of the line's entry fails its check. -/
def State.coreReq (s : State) (a : Byte) (x : BitVec 36) (req : ReqKind) (lost : Bool := false) : State :=
  let line := s.winLine x
  if s.fld fJeFabStatus_STATE ≠ 0 then s
  else if s.fld fJeWinCtl_ENABLED = 0 then (s.eventE 0x40 a.toNat x.toNat).emit (.fabError a x.toNat)
  else if s.agentRefused a req.caching then s.emit (.fabError a x.toNat)
  else match s.homeOf line with
    | none => s.emit (.fabError a x.toNat)
    | some (n, set) =>
      if s.fab.winAction = 3 then (s.bump fJsTrellisStat_RETRIES n.val).emit (.retry a line 1024)
      else if !(s.sliceServes n none) then s.emit (.fabError a x.toNat)
      else (if lost then s.entryLost line else s).coreGo n set ⟨some a, line, req⟩ a

/-- RD_SHARED (R296, R301, R303, R304). -/
def execRdShared (a : Byte) (x : BitVec 36) (s : State) (lost : Bool := false) : Host.Outcome State Fault Refusal :=
  stepTo (s.orHold (.rdShared a x lost) fun s => s.coreReq a x .rdShared lost)

/-- RD_OWN (R296, R304). -/
def execRdOwn (a : Byte) (x : BitVec 36) (s : State) (lost : Bool := false) : Host.Outcome State Fault Refusal :=
  stepTo (s.orHold (.rdOwn a x lost) fun s => s.coreReq a x .rdOwn lost)

/-- UPGRADE (R296, R304). -/
def execUpgrade (a : Byte) (x : BitVec 36) (s : State) (lost : Bool := false) : Host.Outcome State Fault Refusal :=
  stepTo (s.orHold (.upgrade a x lost) fun s => s.coreReq a x .upgrade lost)

/-- RD_CUR (R296, R304, R305). -/
def execRdCur (a : Byte) (x : BitVec 36) (s : State) (lost : Bool := false) : Host.Outcome State Fault Refusal :=
  stepTo (s.orHold (.rdCur a x lost) fun s => s.coreReq a x .rdCur lost)

/-- WR_LINE (R296, R304, R305). -/
def execWrLine (a : Byte) (x : BitVec 36) (data : List Byte) (s : State) (lost : Bool := false) : Host.Outcome State Fault Refusal :=
  stepTo (s.orHold (.wrLine a x data lost) fun s => s.coreReq a x (.write (BitVec.allOnes 256) data) lost)

/-- WR_PART (R296, R304, R305). -/
def execWrPart (a : Byte) (x : BitVec 36) (mask : BitVec 256) (data : List Byte) (s : State) (lost : Bool := false) : Host.Outcome State Fault Refusal :=
  stepTo (s.orHold (.wrPart a x mask data lost) fun s => s.coreReq a x (.write mask data) lost)

/-- ATOMIC (R287, R306, R307): at its natural alignment. -/
def execAtomic (a : Byte) (x : BitVec 36) (op : AtomicOp) (s : State) (lost : Bool := false) : Host.Outcome State Fault Refusal :=
  stepTo (s.orHold (.atomic a x op lost) fun s => s.coreReq a x (.atomic (x.toNat % 256 / (atomSize op) * (atomSize op)) op) lost)

/-! Write-backs and the answers to snoops (R301, R302, R304) -/

/-- A write-back from an agent: the owner's data goes to memory, a stray one's is discarded (R302). -/
def State.writeBack (s : State) (a : Byte) (x : BitVec 36) (data : List Byte) : State :=
  let line := s.winLine x
  if s.fld fJeFabStatus_STATE ≠ 0 then s
  else if s.fld fJeWinCtl_ENABLED = 0 then (s.eventE 0x40 a.toNat x.toNat).emit (.fabError a x.toNat)
  else match s.homeOf line with
  | none => s.emit (.fabError a x.toNat)
  | some (n, _) =>
    if s.agentRefused a true ∨ !(s.sliceServes n none) then s.emit (.fabError a x.toNat)
    else match s.txnOn line, s.trOf line with
      | some t, e =>
        let owner := t.lost || (decide (t.owner = some a) && (t.evict || e.any fun e => decide (e.state = .x)))
        let discard := match t.req with
          | .write m _ => decide (m = BitVec.allOnes 256)
          | _ => false
        if owner then (if discard then s else s.putLine line data).emit (.ack a line)
        else (s.bump fJsAtomicStat_STRAY_WB n.val).emit (.ack a line)
      | none, some e =>
        if e.state = .x ∧ e.holders = [a] then ((((s.putLine line data).freeTr line).emit (.ack a line))).settleHome
        else (s.bump fJsAtomicStat_STRAY_WB n.val).emit (.ack a line)
      | none, none => (s.bump fJsAtomicStat_STRAY_WB n.val).emit (.ack a line)

/-- WB_DIRTY (R302, R304). -/
def execWbDirty (a : Byte) (x : BitVec 36) (data : List Byte) (s : State) : Host.Outcome State Fault Refusal :=
  stepTo (s.orHold (.wbDirty a x data) fun s => s.writeBack a x data)

/-- A snoop of an agent is answered in its transaction: modified data that it brought has been written. -/
def State.answerSnoop (s : State) (line : Nat) (a : Byte) (absent : Bool) : State :=
  let put (x : Txn) : Txn := { x with snoops := x.snoops.filter fun y => decide (y.1 ≠ a), absent := x.absent || absent }
  ({ s with txns := updFirst (fun x => decide (x.line = line)) put s.txns } : State).settleHome

/-- The snoop that a line's transaction awaits from an agent. -/
def State.awaited (s : State) (line : Nat) (a : Byte) : Option (Txn × Snoop) :=
  (s.txnOn line).bind fun t => (t.snoops.find? fun y => decide (y.1 = a)).map fun y => (t, y.2)

/-- ACK, or ACK_DATA with the holder's modified data. -/
def State.snoopAck (s : State) (a : Byte) (x : BitVec 36) (data : Option (List Byte)) : State :=
  match s.awaited (s.winLine x) a with
  | none => s
  | some (t, _) =>
    let discard := match t.req with
      | .write m _ => decide (m = BitVec.allOnes 256)
      | _ => false
    let s1 := match data with
      | some d => if discard ∨ (t.owner ≠ some a ∧ !t.lost) then s else s.putLine (s.winLine x) d
      | none => s
    s1.answerSnoop (s.winLine x) a false

/-- An agent no longer holds a line: it leaves the entry, and STALE_ACKS counts it (R301). -/
def State.absentAt (s : State) (line : Nat) (a : Byte) (count : Bool) : State :=
  let n := (s.homeOf line).map (·.1)
  let s1 := if count then s.bump fJsTrellisStat_STALE_ACKS (n.getD 0).val else s
  (s1.modTr line fun e => e.drop a).answerSnoop line a true

/-- ABSENT: the agent does not hold the line. -/
def State.snoopAbsent (s : State) (a : Byte) (x : BitVec 36) : State :=
  match s.awaited (s.winLine x) a with
  | none => s
  | some _ => s.absentAt (s.winLine x) a true

/-- GRANT_HOLD_EXPIRY (R309): the oldest grant of a line has had its time. -/
def execGrantHoldExpiry (x : BitVec 36) (s : State) : Host.Outcome State Fault Refusal :=
  stepTo ((s.modTr (s.winLine x) fun e => { e with hold := e.hold.drop 1 }).settleHome)

/-! Page bias (R295 to R299) -/

/-- An access to a page that was issued under DEVICE bias has not reached its end (R297). -/
def State.flipLeft (s : State) (page : Nat) : Bool :=
  let a := s.pageAddr page
  let mine (x : Nat) : Bool := decide (a ≤ x) && decide (x < a + 2 ^ 21)
  s.wrQ.any (fun w => w.issued && mine w.addr) || s.addQ.any (fun o => o.issued && mine o.addr) || s.misses.any fun m => mine m.base

/-- FLIP_TO_SHARED_DONE (R297): no access issued under DEVICE bias is left, so the page is SHARED and the held requests
go on. -/
def execFlipToSharedDone (page : BitVec 15) (s : State) : Host.Outcome State Fault Refusal :=
  stepTo (if s.biasOf page.toNat ≠ .toShared ∨ s.flipLeft page.toNat then s
    else ((s.setBias page.toNat .shared).bump fJeBiasStat_TO_SHARED).settleHome)

/-- Begins a flip of a shared page to DEVICE (R298): every entry of the page is recalled. -/
def State.recallPage (s : State) (page : Nat) : State :=
  let mine := (s.trellis.filter fun e => s.inPage page e.line).map fun e => (⟨none, e.line, .recall⟩ : CoreReq)
  let s1 := s.setBias page .toDevice
  ({ s1 with coreReqs := s1.coreReqs ++ mine } : State).settleHome

/-- The pages that are SHARED. -/
def State.sharedPages (s : State) : List Nat := (s.pages.filter fun y => decide (y.2 = .shared)).map fun y => y.1.toNat

/-- Begins a flip of every shared page to DEVICE. -/
def State.recallAll (s : State) : State := s.sharedPages.foldl (fun s p => s.recallPage p) s

/-- BIAS of JE_BIAS_CMD. -/
def Bias.code : Bias → Nat
  | .device => 0
  | .shared => 1
  | .toShared => 2
  | .toDevice => 3

/-- Ends the action of JE_BIAS_CMD, with the bias of PAGE. -/
def State.biasEnd (s : State) (res : Nat) : State :=
  let b := (s.biasOf (s.fld fJeBiasCmd_PAGE)).code
  ((({ s with flipsAll := false, fab := { s.fab with biasPage := none } } : State).setFld fJeBiasCmd_BUSY 0).setFld fJeBiasCmd_RESULT res).setFld
    fJeBiasCmd_BIAS b

/-- Ends an ACTION 11 once no page is on its way to DEVICE. -/
def State.biasAllStep (s : State) : State :=
  if s.flipsAll ∧ !(s.pages.any fun y => decide (y.2 = .toDevice)) then s.biasEnd (s.fld fJeBiasCmd_RESULT) else s

/-- ACTION 01 of JE_BIAS_CMD (R298, R299). -/
def State.biasFlip (s : State) (page : BitVec 15) : State :=
  let s0 := s.setFld fJeBiasCmd_PAGE page.toNat
  if s0.fld fJeWinCtl_ENABLED = 0 then s0.biasEnd 1
  else match s0.biasOf page.toNat with
    | .toShared => s0.biasEnd 2
    | .device => s0.biasEnd 0
    | _ => ({ s0 with fab := { s0.fab with biasPage := some page } } : State).setFld fJeBiasCmd_BUSY 1 |>.recallPage page.toNat

/-- ACTION 10 of JE_BIAS_CMD. -/
def State.biasRead (s : State) (page : BitVec 15) : State :=
  let s0 := s.setFld fJeBiasCmd_PAGE page.toNat
  s0.biasEnd (if s0.fld fJeWinCtl_ENABLED = 0 then 1 else 0)

/-- ACTION 11 of JE_BIAS_CMD (R298). -/
def State.biasAll (s : State) : State :=
  if s.fld fJeWinCtl_ENABLED = 0 then s.biasEnd 1
  else
    let s1 := ({ s with flipsAll := true } : State).setFld fJeBiasCmd_BUSY 1 |>.setFld fJeBiasCmd_RESULT 0
    s1.recallAll.biasAllStep

/-- A page on its way to DEVICE has no entry and no request left. -/
def State.pageEmpty (s : State) (page : Nat) : Bool :=
  !(s.trellis.any fun e => s.inPage page e.line) && !(s.txns.any fun x => s.inPage page x.line) &&
    !(s.coreReqs.any fun q => s.inPage page q.line)

/-- FLIP_TO_DEVICE_DONE (R298). -/
def execFlipToDeviceDone (page : BitVec 15) (s : State) : Host.Outcome State Fault Refusal :=
  stepTo (if s.biasOf page.toNat ≠ .toDevice ∨ !(s.pageEmpty page.toNat) then s
    else
      let s1 := (s.setBias page.toNat .device).bump fJeBiasStat_TO_DEVICE
      if s1.fab.biasPage = some page then s1.biasEnd 0 else s1.biasAllStep)

/-! The window (R294) -/

/-- Ends an action of JE_WIN_CTL with a result. -/
def State.winEnd (s : State) (res : Nat) : State :=
  (({ s with fab := { s.fab with winAction := 0 } } : State).setFld fJeWinCtl_BUSY 0).setFld fJeWinCtl_RESULT res

/-- A base is inside the mapped HBM (R293). -/
def State.winFits (s : State) (base : Nat) : Bool := decide (base + 64 ≤ 6 * s.mappedList.length)

/-- An action of JE_WIN_CTL begins. -/
def State.winBegin (s : State) (action : Nat) : State :=
  (({ s with fab := { s.fab with winAction := action } } : State).setFld fJeWinCtl_BUSY 1).setFld fJeWinCtl_RESULT 0

/-- ACTION 01 of JE_WIN_CTL: every page starts device-owned. -/
def State.winEnable (s : State) (base : BitVec 11) : State :=
  let s0 := s.setFld fJeWinCtl_NEW_BASE_GIB base.toNat
  if s0.fld fJeWinCtl_ENABLED = 1 then s0.winEnd 3
  else if !(s0.winFits base.toNat) then s0.winEnd 1
  else (({ s0 with pages := [] } : State).winBegin 1).setFld fJeWinCtl_BASE_GIB base.toNat |>.setFld fJeWinCtl_ENABLED 1

/-- ACTION 10 of JE_WIN_CTL. -/
def State.winDisable (s : State) : State :=
  if s.fld fJeWinCtl_ENABLED = 0 then s.winEnd 3 else (s.winBegin 2).recallAll

/-- ACTION 11 of JE_WIN_CTL. -/
def State.winMove (s : State) (base : BitVec 11) : State :=
  let s0 := s.setFld fJeWinCtl_NEW_BASE_GIB base.toNat
  if s0.fld fJeWinCtl_ENABLED = 0 then s0.winEnd 3
  else if !(s0.winFits base.toNat) then s0.winEnd 1
  else (({ s0 with fab := { s0.fab with winBase := base.toNat } } : State).winBegin 3).recallAll

/-- Ranges that meet 64 GiB of HBM from a base are dropped from the range cache (R294). -/
def State.dropWinRanges (s : State) (base : Nat) : State :=
  let lo := s.hbmPhys (base * 2 ^ 30)
  s.forgetRanges fun e => decide (e.phys < lo + 2 ^ 36) && decide (lo < e.phys + e.len)

/-- Requests already translated are on their way in 64 GiB from a base. -/
def State.winTransit (s : State) (base : Nat) : Bool :=
  (List.finRange 16).any fun p => s.inTransit p [(s.hbmPhys (base * 2 ^ 30), 2 ^ 36)]

/-- The window moves once no page is shared and nothing translated under the old window is on its way. -/
def State.winMoveStep (s : State) : State :=
  let old := s.fld fJeWinCtl_BASE_GIB
  let new := s.fab.winBase
  let s1 := (s.dropWinRanges old).dropWinRanges new
  if s1.winTransit old ∨ s1.winTransit new then s1
  else (({ s1 with pages := [] } : State).setFld fJeWinCtl_BASE_GIB new).winEnd 0

/-- WINDOW_ACTION_DONE (R294): the action finishes once its pages are DEVICE; a page that a core's request kept shared is
recalled again. -/
def execWindowActionDone (s : State) : Host.Outcome State Fault Refusal :=
  stepTo (match s.fab.winAction with
    | 1 => s.winEnd 0
    | 2 => if s.pages = [] then (s.setFld fJeWinCtl_ENABLED 0).winEnd 0 else s.recallAll
    | 3 => if s.pages = [] then s.winMoveStep else s.recallAll
    | _ => s)

/-! A dead agent (R312) -/

/-- Every snoop that awaits an agent completes as ABSENT. -/
def State.absentAll (s : State) (a : Byte) : State :=
  (s.txns.filter fun x => x.snoops.any fun y => decide (y.1 = a)).foldl (fun s x => s.absentAt x.line a false) s

/-- Removes an agent from every entry; a line it owned is written to memory poisoned and counted (R312). -/
def State.reclaim (s : State) (a : Byte) : State :=
  let owned := (s.trellis.filter fun e => decide (e.state = .x) && decide (e.holders = [a])).map (·.line)
  let evicted := (s.txns.filter fun x => x.evict && decide (x.owner = some a)).map (·.line)
  let s1 := (owned ++ evicted).foldl (fun s l => s.poisonLine l) s
  let s2 := s1.setFld fJeFabDead_POISONED (min (2 ^ 24 - 1) (owned ++ evicted).length)
  let s3 := s2.absentAll a
  let rest := (s3.trellis.filter fun e => decide (a ∈ e.holders)).map (·.line)
  (rest.foldl (fun (s : State) l =>
    let s1 := s.modTr l fun e => e.drop a
    if (s1.txnOn l).isSome then s1 else s1.freeIfEmpty l) s3).settleHome

/-- An agent is declared dead (R312). -/
def State.declareDead (s : State) (a : Byte) (cause : Nat) : State :=
  let w := s.reg .jeFabDeadmask (a.toNat / 64)
  let s1 := s.setReg .jeFabDeadmask (w ||| BitVec.ofNat 64 (2 ^ (a.toNat % 64))) (a.toNat / 64)
  let s2 := ((s1.setFld fJeFabDead_LAST_DEAD a.toNat).setFld fJeFabDead_BUSY 1).eventE 0x42 a.toNat cause
  let s3 : State := { s2 with
    fab := { s2.fab with deadScan := some a }
    coreReqs := s2.coreReqs.filter fun q => decide (q.agent ≠ some a) }
  let s4 := (s2.coreReqs.filter fun q => decide (q.agent = some a)).foldl (fun (s : State) q => s.refuseReq (some a) q.line q.req) s3
  s4.reclaim a

/-- SNOOP_TIMEOUT (R312): the limit passes, counted while the link is up and not retraining. -/
def execSnoopTimeout (a : Byte) (x : BitVec 36) (s : State) : Host.Outcome State Fault Refusal :=
  stepTo (if (s.awaited (s.winLine x) a).isSome ∧ s.fld fJeFabCtl_SNOOP_LIMIT ≠ 0 ∧ s.fld fJeFabStatus_LINK_UP = 1 ∧ s.fab.retrain = false then
    s.declareDead a 0 else s)

/-- ACTION 01 of JE_FAB_DEAD. -/
def State.deadByHand (s : State) (a : Byte) : State := (s.setFld fJeFabDead_AGENT a.toNat).declareDead a 1

/-- DEAD_AGENT_SCAN_DONE (R312). -/
def execDeadAgentScanDone (s : State) : Host.Outcome State Fault Refusal :=
  stepTo (match s.fab.deadScan with
    | some _ => ({ s with fab := { s.fab with deadScan := none } } : State).setFld fJeFabDead_BUSY 0
    | none => s)

end Sys2Proof.Machine
end

