-- ==== Sys2Proof/Machine/Fabric.lean ====
section
/-! DEFINITION. The fabric agent's link (R313 to R316): retrains, host resets, link loss and return; and the traffic of the board tier
(R291, R292, R360). -/
namespace Sys2Proof.Machine

/-! Link signals (R312, R313) -/

/-- FAB_RETRAIN (R313): while the signal is high the agent holds its traffic. -/
def execFabRetrain (high : Bool) (s : State) : Host.Outcome State Fault Refusal :=
  stepTo (
    let s1 : State := { s with fab := { s.fab with retrain := high } }
    let st := s.fld fJeFabStatus_STATE
    if high ∧ !s.fab.retrain then
      let s2 := s1.bump fJeFabStatus_RETRAINS
      if st = 0 then s2.setFld fJeFabStatus_STATE 1 else s2
    else if !high ∧ st = 1 then (s1.setFld fJeFabStatus_STATE 0).sendBoards
    else s1)

/-- FAB_LINK_UP_CHANGE: `fab_link_up` as the agent sees it. -/
def execFabLinkUpChange (up : Bool) (s : State) : Host.Outcome State Fault Refusal :=
  stepTo (({ s with fab := { s.fab with linkUp := up, counting := !up } } : State).setFld fJeFabStatus_LINK_UP up.toNat)

/-! Reset of the fabric agent (R314, R316) -/

/-- Everything the board add unit holds or waits to hold is lost, and every write not acknowledged (R314). -/
def State.loseBoard (s : State) : State :=
  let ops := s.addQ.filter fun o => s.isBoard o.addr
  let ws := s.boardWrs
  let s1 : State := { s with boardWrs := [], addQ := s.addQ.filter fun o => !(s.isBoard o.addr) }
  let s2 := ws.foldl (fun (s : State) w => s.writeLost w.part w.owner w.obj w.record w.plain) s1
  let s3 := ops.foldl (fun (s : State) o => s.loseAdd o) s2
  let n := ws.length + ops.length
  ({ s3 with fab := { s3.fab with lost := n } } : State).bump fJeFabStatus_LOST_WRITES 0 n

/-- The outstanding board-tier reads that a unit's state shows return poisoned (R314): lines of the lanes, contexts, walks. -/
def State.poisonBoardReads (s : State) : State :=
  let board (m : Miss) : Bool := s.isBoard m.base
  let gone := s.misses.filter board
  let s1 := gone.foldl (fun (s : State) m => m.work.foldl (fun s w => s.laneApply { w with bad := true }) s)
    { s with misses := s.misses.filter fun m => !(board m) }
  let rings := s1.ctxReads.filter fun r => s1.isBoard (s1.ctxAddr r)
  let s2 := rings.foldl (fun (s : State) r => s.haltRing r stPoisoned)
    { s1 with ctxReads := s1.ctxReads.filter fun r => !(s1.isBoard (s1.ctxAddr r)) }
  (s2.walks.filter fun w => s2.isBoard (s2.walkAddr w)).foldl (fun (s : State) w =>
    s.endWalk w (some (.walkPoison, (w.entry.map fun i => BitVec.ofNat 32 i).getD noRange, 0))) s2

/-- The agent begins its reset (R314): 0 host reset, 1 link loss. -/
def State.fabReset (s : State) (cause : Nat) : State :=
  let st := s.fld fJeFabStatus_STATE
  if st = 2 then s
  else
    let s1 : State := { s with fab := { s.fab with cause := cause, scanning := true } }
    ((s1.setFld fJeFabStatus_STATE 2).loseBoard).poisonBoardReads

/-- FAB_HOST_RESET (R314): `fab_host_rst_n` goes low. -/
def execFabHostReset (s : State) : Host.Outcome State Fault Refusal :=
  stepTo (({ s with fab := { s.fab with hostReset := true } } : State).fabReset 0)

/-- FAB_LINK_LOSS (R314): `fab_link_up` has been low for 64 fabric cycles. -/
def execFabLinkLoss (s : State) : Host.Outcome State Fault Refusal :=
  stepTo (({ s with fab := { s.fab with linkUp := false, counting := false } } : State).setFld fJeFabStatus_LINK_UP 0 |>.fabReset 1)

/-- The home after the scan (R299, R314): lines in X poisoned, every entry freed, every page DEVICE; the requests of the agents are
gone, the engine's own go on, but for an add whose result only its updates still held (R306). -/
def State.scanDone (s : State) : State :=
  let owned := (s.trellis.filter fun e => decide (e.state = .x)).map (·.line)
  let evicted := (s.txns.filter fun x => x.evict && x.owner.isSome).map (·.line)
  let s1 := (owned ++ evicted).foldl (fun s l => s.poisonLine l) s
  let added (x : Txn) : Bool := x.atHome && (s1.trOf x.line).any fun e => decide (e.state ≠ .x)
  let held := (s1.txns.filter fun x => x.agent.isNone && decide (x.req ≠ .recall) && !(added x)).map fun x => (⟨none, x.line, x.req⟩ : CoreReq)
  let waiting := s1.coreReqs.filter fun q => q.agent.isNone && decide (q.req ≠ .recall)
  let s2 : State := { s1 with trellis := [], txns := [], pages := [], retryCount := [], coreReqs := held ++ waiting }
  s2.settleHome

/-- FAB_RESET_SCAN_DONE (R299, R314). -/
def execFabResetScanDone (s : State) : Host.Outcome State Fault Refusal :=
  stepTo (if s.fld fJeFabStatus_STATE ≠ 2 then s
    else
      let s1 := ((s.scanDone.setFld fJeFabStatus_STATE 3).bump fJeFabStatus_AGENT_RESETS).eventE 0x43 s.fab.cause s.fab.lost
      let s2 : State := { s1 with fab := { s1.fab with scanning := false } }
      if s2.fab.biasPage.isSome ∨ s2.flipsAll then s2.biasEnd 0 else s2)

/-- The interrupt messages sent again at the return of the link (R314). -/
def State.resendIrqs (s : State) : State :=
  (List.finRange 16).foldl (fun (s : State) (p : Part) =>
    let s1 := (List.range 64).foldl (fun (s : State) g =>
      if natBits (s.fld fJpIrqPend_PEND p) g 1 = 1 ∧ natBits (s.fld fJpIrqMask_MASK p) g 1 = 0 then s.emit (.irq (65 * p.val + g)) else s) s
    if (s1.part p).events.recs ≠ [] ∨ (s1.part p).faults.any (fun f => decide (f.wordsRead < 4)) then s1.partVector p else s1) s

/-- FAB_LINK_RETURN (R314): `fab_link_up` and `fab_host_rst_n` are high; the agent initialises. -/
def execFabLinkReturn (s : State) : Host.Outcome State Fault Refusal :=
  stepTo (if s.fld fJeFabStatus_STATE ≠ 3 then s
    else
      let s1 : State := { s with fab := { s.fab with linkUp := true, hostReset := false, counting := false } }
      let s2 := (List.range 4).foldl (fun (s : State) k => s.setReg .jeFabDeadmask 0 k) (s1.setFld fJeFabStatus_LINK_UP 1)
      ((s2.setFld fJeFabStatus_STATE (if s2.fab.retrain then 1 else 0)).resendIrqs).sendBoards)

/-! The board tier (R291, R292, R360) -/

/-- The partition for which a board-tier line is read: that of the first add or lane miss that waits for it. -/
def State.boardReader (s : State) (line : Nat) : Option Part :=
  match s.addQ.find? (fun o => s.isBoard o.addr && decide (o.addr / 256 = line)) with
  | some o => some o.part
  | none => (s.misses.find? fun m => s.isBoard m.base && decide (m.base / 256 = line)).bind fun m =>
      (m.work.head?.bind fun w => s.trk w.t).map (·.part)

/-- A granule of the board tier arrives: decrypted in the encrypted range (R360), poisoned where it comes with poison or an
error response (R291). -/
def State.boardArrive (s : State) (a : Nat) (data : List Byte) (poisoned : Bool) : State :=
  let off := physOff a
  let plain := if s.encrypted off then Config.xtsDecrypt (s.sec.board.getD []) (off / 64) data else data
  let bytes := (List.range 64).map fun i => plain.getD i 0
  if poisoned then { s with poison := insNat (a / 64) s.poison }
  else { s with mem := memPutList s.mem a bytes, poison := delNat (a / 64) s.poison }

/-- BOARD_READ_RETURN (R118, R291, R292, R360): a granule returns from the board tier; the adds that wait for its line execute
once the board add unit holds it. -/
def execBoardReadReturn (granule : BitVec 46) (data : List Byte) (poisoned : Bool) (s : State) (word : EccErr := .clean) :
    Host.Outcome State Fault Refusal :=
  let a := s.boardPhys (granule.toNat * 64)
  if s.boardBound ≤ granule.toNat * 64 then .fault .outsideSpace
  else stepTo (if s.fld fJeFabStatus_STATE ≠ 0 then s
    else
      let inj : State × Bool := match s.boardReader (a / 256) with
        | some p => s.fifoWord 7 p word
        | none => (s, false)
      (inj.1.boardArrive a data (poisoned || inj.2)).addBoardLine (a / 256))

/-- A write to the board tier is visible: its bytes are what the tier holds (R291, R292). -/
def State.boardVisible (s : State) (w : BoardWr) : State :=
  let g := w.addr / 64
  let p := if w.poison then insNat g s.poison else if w.bytes.length = 64 then delNat g s.poison else s.poison
  let s1 : State := { s with mem := memPutList s.mem w.addr w.bytes, poison := p }
  let s2 := s1.squash w.addr w.bytes.length
  s2.recordSeen w.part w.irq

/-- BOARD_WRITE_ACK (R36, R289, R291, R292): the oldest write sent is acknowledged. -/
def execBoardWriteAck (s : State) : Host.Outcome State Fault Refusal :=
  stepTo (match s.boardWrs.find? (·.sent) with
    | none => s
    | some w => if s.fld fJeFabStatus_STATE ≠ 0 then s
      else (({ s with boardWrs := eraseFirst (fun x => decide (x = w)) s.boardWrs } : State).boardVisible w).sendBoards)

end Sys2Proof.Machine
end

