-- ==== Sys2Proof/Machine/Rake.lean ====
section
/-! DEFINITION. The Rake (R169 to R190): forming contributions, the hub merge store, the links to the slices, pre-aggregation and its
flushes, the adders' turn, landing reports, and SCATTER_APPLY. -/
namespace Sys2Proof.Machine

/-! Reading gradients (R169, R182, R386) -/

/-- FP32 columns from a partition address: each with the poison of the granule it lies in. -/
def State.readCols (s : State) (p : Part) (t : TrackerId) (a n : Nat) : State × Option (List (W32 × Bool)) :=
  match s.lookAll p (.cmd t) .read (granAddrs a (4 * n)) with
  | (s1, none) => (s1, none)
  | (s1, some l) =>
    let col (k : Nat) : W32 × Bool :=
      let b := a + 4 * k
      let g := (l.getD (b / 64 - a / 64) (0, 0)).1 / 64
      (BitVec.ofNat 32 (s1.rdNat (g * 64 + b % 64) 4), s1.granPoison g (s1.serialOf t))
    (s1, some ((List.range n).map col))

/-- Columns in pieces that each lie in one stored granule and one group of `grp` columns (R172); poisoned columns have no value, and a
piece without any value is not formed (R386). -/
def cutSeg (t : TrackerId) (obj : W32) (table cls bits grp addr col : Nat) (vals : List (W32 × Bool)) : List Contrib :=
  ((vals.zipIdx).foldl (fun (l : List Contrib) y =>
    let c := col + y.2
    let a := addr + y.2 * bits / 8
    let v := if y.1.2 then none else some y.1.1
    let one : Contrib := ⟨t, a, c, y.2, table, cls, obj, [v], false⟩
    match l.getLast? with
    | some k =>
      if k.col / grp = c / grp ∧ k.addr / 64 = a / 64 then l.dropLast ++ [{ k with vals := k.vals ++ [v] }] else l ++ [one]
    | none => [one]) []).filter fun c => c.vals.any (·.isSome)

/-- The segments of a row as places to add to: their addresses are translated, each with the handle of its range. -/
def State.addPlaces (s : State) (x : Tracker) (d : Desc) (cls slot : Nat) : State × Option (List (Nat × W32 × Nat × Nat)) :=
  let segs := d.segs cls
  match s.lookAll x.part (.cmd x.id) .add (segs.map fun g => (d.rowBase cls + slot * d.stride cls + g.1) % 2 ^ 64) with
  | (s1, none) => (s1, none)
  | (s1, some l) => (s1, some ((l.zip segs).map fun y => (y.1.1, y.1.2, y.2.2.2.1, y.2.2.2.2)))

/-! Contributions on their way (R172, R174, R177) -/

/-- Two contributions meet in one entry: the same command, stored granule and column group (R175). -/
def Contrib.same (a b : Contrib) : Bool :=
  decide (a.t = b.t) && decide (a.addr / 64 = b.addr / 64) && decide (a.col / 16 = b.col / 16) && decide (a.table = b.table)

/-- The sum of two columns, either of which may have no value. -/
def addCol? : Option W32 × Option W32 → Option W32
  | (some a, some b) => some (fadd a b)
  | (some a, none) => some a
  | (none, b) => b

/-- Sums a contribution into an entry (R175). -/
def PreAgg.add (e : PreAgg) (c : Contrib) (now : Nat) : PreAgg :=
  { e with c := { e.c with vals := (e.c.vals.zip c.vals).map addCol? }, lastMerge := now }

/-- The adder operation of the entries of one stored granule (R176, R178); none for no entry. -/
def flushOp (n : SliceId) (p : Part) (cs : List Contrib) : Option AddOp :=
  cs.head?.map fun c => ⟨n, p, some c.t, c.obj, c.addr / 64 * 64, .scatter cs, false, false, cs.any (·.old)⟩

/-- Moves messages into the replay store and onto the link: at most 128 unacknowledged (R174). -/
def RakeLink.pump (l : RakeLink) : Nat → RakeLink
  | 0 => l
  | k + 1 => match l.todo with
    | [] => l
    | m :: r =>
      if l.replay.length < 128 then
        let msg : RakeMsg := ⟨l.nextSeq, m⟩
        ({ l with todo := r, replay := l.replay ++ [msg], flight := l.flight ++ [msg], nextSeq := l.nextSeq + 1 } : RakeLink).pump k
      else l

/-- Sends what a link can take. -/
def State.pumpLink (s : State) (n : SliceId) : State := { s with links := s.links.set n (s.links[n].pump s.links[n].todo.length) }

/-- Sends contributions of a command: to their slices in messages of up to 8 granules, to the board add unit, or to no one where
the slice is out of service and they are lost (R172, R174, R260, R292). -/
def State.sendContribs (s : State) (x : Tracker) (l : List Contrib) : State :=
  let board := l.filter fun c => s.isBoard c.addr
  let grans := (board.map fun c => c.addr / 64).eraseDups
  let ops := grans.filterMap fun g => flushOp (s.boardSlice (some x.id)) x.part (board.filter fun c => decide (c.addr / 64 = g))
  let s1 : State := { s with addQ := s.addQ ++ ops }
  (List.finRange 8).foldl (fun (s : State) (n : SliceId) =>
    let mine := l.filter fun c => !(s.isBoard c.addr) && decide (s.sliceOf c.addr = n)
    if mine = [] then s
    else if s.sliceServes n (some x.serial) then
      let put (k : RakeLink) : RakeLink := { k with todo := k.todo ++ chunks 8 mine mine.length }
      ({ s with links := s.links.set n (put s.links[n]) } : State).pumpLink n
    else mine.foldl (fun (s : State) c => s.loseWrite x.part (some x.id) c.obj) s) s1

/-- Sums a contribution granule into the hub merge store, opening its entry where needed. -/
def State.hubInsert (s : State) (c : Contrib) : State :=
  let l := if s.mergeStore.any fun (e : PreAgg) => e.c.same c then
      updFirst (fun (e : PreAgg) => e.c.same c) (fun e => e.add c s.clock) s.mergeStore
    else s.mergeStore ++ [⟨s.sliceOf c.addr, c, s.clock⟩]
  { s with mergeStore := l }

/-- The contribution granules of a row. -/
def Desc.rowGrans (d : Desc) (cls : Nat) : Nat :=
  sumBy (fun g => (cutSeg 0 0 0 cls (fmtBits (d.format cls)) 16 g.1 g.2.2.1 (List.replicate g.2.2.2 (0, false))).length) (d.segs cls)

/-! Forming (R170, R172, R325) -/

/-- The first column of this engine's shard. -/
def State.ownStart (s : State) (x : Tracker) : Nat :=
  ((x.shards.find? fun h => decide (h.engine = s.fld fJePhysMap_ENGINE)).map (·.start)).getD 0

/-- A SCATTER_ADD in the Rake. -/
def State.scatterOf (s : State) (t : TrackerId) : Option Scatter := s.scatters.find? fun c => decide (c.t = t)

/-- Changes a SCATTER_ADD. -/
def State.modScatter (s : State) (t : TrackerId) (f : Scatter → Scatter) : State :=
  { s with scatters := updFirst (fun c => decide (c.t = t)) f s.scatters }

/-- Whether a row reference is summed at the hub (R177): its row is hot, and found the entries it may take free in the store of 16,384
when it first came hot; otherwise MERGE_FULL counts it then. -/
def State.hubRow (s : State) (x : Tracker) (d : Desc) (r : ScatRef) : State × Bool :=
  match s.scatterOf x.id with
  | none => (s, false)
  | some c =>
    if !c.merge || !r.hot then (s, false)
    else match c.hub.find? fun h => decide (h.table = r.table) && decide (h.cls = r.cls) && decide (h.slot = r.slot) with
      | some h => (s, decide (0 < h.entries))
      | none =>
        let need := d.rowGrans r.cls
        let used := sumBy (fun (c : Scatter) => sumBy (·.entries) c.hub) s.scatters
        let fits := decide (used + need ≤ 16384)
        let s1 := s.modScatter x.id fun c => { c with hub := c.hub ++ [⟨r.table, r.cls, r.slot, if fits then need else 0⟩] }
        (if fits then s1 else s1.bump fJeRakeStat_MERGE_FULL, fits)

/-- Contribution granules that the replay store of a slice's link takes, 8 to a message (R174). -/
def RakeLink.room (l : RakeLink) : Nat := if l.todo = [] then 8 * (128 - l.replay.length) else 0

/-- What forming has come to: the contributions to send, and the room left on each link. -/
structure Forming where
  out : List Contrib
  room : List Nat
deriving DecidableEq, Repr

/-- Forms the contributions of one segment of a row reference (R170, R172): into the hub merge store, or to be sent, where the link of
their slice has room for them (R174). The flag says whether they are formed; a translation that waits or faults forms none (R278). -/
def State.formSeg (s : State) (x : Tracker) (d : Desc) (g : List (W32 × Bool)) (atHub : Bool) (r : ScatRef) (j : Nat)
    (sg : Nat × Nat × Nat × Nat) (f : Forming) : State × Forming × Bool :=
  let a := (d.rowBase r.cls + r.slot * d.stride r.cls + sg.1) % 2 ^ 64
  match s.look x.part (.cmd x.id) a .add with
  | (s1, none) => (s1, f, false)
  | (s1, some (ph, h)) =>
    let cs := cutSeg x.id h r.table r.cls (fmtBits (d.format r.cls)) 16 ph sg.2.2.1 ((g.drop sg.2.2.1).take sg.2.2.2)
    if atHub then
      let s2 := cs.foldl (fun s c => s.hubInsert c) s1
      (if j = 0 then s2.bump fJeRakeStat_HUB_MERGED else s2, f, true)
    else
      let n := s1.sliceOf ph
      if s1.isBoard ph ∨ !(s1.sliceServes n (some x.serial)) then (s1, { f with out := f.out ++ cs }, true)
      else if cs.length ≤ f.room.getD n.val 0 then
        (s1, ⟨f.out ++ cs, f.room.set n.val (f.room.getD n.val 0 - cs.length)⟩, true)
      else (s1.xnote x.part (.cmd x.id) a, f, false)

/-- Forms what can be formed of a row reference with a gradient: the reference with the segments that have their contributions. -/
def State.formRef (s : State) (x : Tracker) (alpha : W32) (grad : List (W32 × Bool)) (r : ScatRef) (f : Forming) :
    State × Forming × ScatRef :=
  match x.descOf r.table with
  | none => (s, f, { r with formed := true })
  | some d =>
    let a := fmul alpha r.w
    let g := (grad.drop (s.ownStart x)).map fun y => (fmul a y.1, y.2)
    let segs := d.segs r.cls
    let hub := s.hubRow x d r
    let y := (segs.zipIdx).foldl (fun (y : State × Forming × List Nat) sg =>
      if sg.2 ∈ y.2.2 then y
      else
        let z := y.1.formSeg x d g hub.2 r sg.2 sg.1 y.2.1
        (z.1, z.2.1, if z.2.2 then y.2.2 ++ [sg.2] else y.2.2)) (hub.1, f, r.segs)
    (y.1, y.2.1, { r with segs := y.2.2, formed := decide (segs.length ≤ y.2.2.length) })

/-- Forms what can be formed of the references of one bag, in order; the others stay as they are. -/
def State.formRefs (s : State) (x : Tracker) (alpha : W32) (grad : List (W32 × Bool)) (b : Nat) :
    List ScatRef → Forming → State × Forming × List ScatRef
  | [], f => (s, f, [])
  | r :: rest, f =>
    if r.bag ≠ b ∨ r.formed then
      let y := s.formRefs x alpha grad b rest f
      (y.1, y.2.1, r :: y.2.2)
    else
      let z := s.formRef x alpha grad r f
      let y := z.1.formRefs x alpha grad b rest z.2.1
      (y.1, y.2.1, z.2.2 :: y.2.2)

/-- Sends a bag's entries, with its gradient's columns, to the remote shards (R325, R331). -/
def State.sendAdds (s : State) (x : Tracker) (d : Desc) (b : Nat) (fwd : List (W64 × W32)) (grad : List (W32 × Bool)) : State :=
  if fwd = [] then s
  else
    ((s.remoteShards x).foldl (fun (s : State) h =>
      let vals := ((grad.drop h.start).take h.cols).map fun y => if y.2 then 0#32 else y.1
      (packBags (4 * h.cols) [(b, fwd)] [] 0).foldl (fun (s : State) m =>
        let bags := m.1
        let entries := sumBy (fun (y : Nat × List (W64 × W32)) => y.2.length) bags
        let flags := 2 * m.2.1.toNat + 4 * d.intAcc.toNat + 16 * (cBit28 x.cmd).toNat + 32
        s.queueReq h.qp ⟨0, 3, x.id, b, bags.map (·.2.length), 0, h.start, h.cols, m.2.2⟩ fun id =>
          mkMsg 3 0 flags id h.table 0 d.ofrac h.cols bags.length b entries (cAlpha x.cmd) 0
            (reqBody bags ++ (bags.flatMap fun _ => vals.flatMap fun v => leBytes 4 v.toNat))) s) s).pumpNet

/-! The end of a SCATTER_ADD (R176, R177, R181, R188) -/

/-- Every contribution of a command is formed: intake has ended, and the gradient of every bag with an accepted entry has been
used; an aborted command forms no more (R186). -/
def State.scatterFormed (s : State) (x : Tracker) (bt : Batch) (c : Scatter) : Bool :=
  s.intakeEnded bt && (x.marks.aborted || s.bags.all fun g =>
    decide (g.t ≠ x.id) || decide (g.bag ∈ c.gradsDone) || (decide (g.fwd = []) && !(c.refs.any fun r => decide (r.bag = g.bag))))

/-- At the end of a command the hub sends its merge-store entries, then an end token to each slice in service (R177). -/
def State.endScatter (s : State) (x : Tracker) : State :=
  match s.batch x.id, s.scatterOf x.id with
  | some bt, some c =>
    if c.tokensSent ∨ !(s.scatterFormed x bt c) then s
    else
      let mine := (s.mergeStore.filter fun (e : PreAgg) => decide (e.c.t = x.id)).map (·.c)
      let s1 := ({ s with mergeStore := s.mergeStore.filter fun (e : PreAgg) => decide (e.c.t ≠ x.id) } : State).sendContribs x mine
      let dst := (List.finRange 8).filter fun n => s1.sliceServes n (some x.serial)
      let mask := dst.foldl (fun (m : Byte) n => m ||| BitVec.ofNat 8 (2 ^ n.val)) 0
      let s2 : State := { s1 with endTokens := s1.endTokens ++ dst.map fun n => (n, x.id) }
      s2.modScatter x.id fun c => { c with tokensSent := true, toMask := mask, hub := [] }
  | _, _ => s

/-- Goes on with a SCATTER_ADD: its end, and its finish once every slice has reported (R188). -/
def State.settleScatter (s : State) (t : TrackerId) : State :=
  match s.trk t with
  | none => s
  | some x =>
    let s1 := s.endScatter x
    match s1.scatterOf t with
    | some c => if x.phase = .running ∧ c.tokensSent ∧ c.toMask &&& ~~~c.reported = 0 then s1.finish t else s1
    | none => s1

/-- SCATTER_ADD (R66, R169, R328): its entries go through the Sieve as a gather's. -/
def execScatterAdd (t : TrackerId) (s : State) : Host.Outcome State Fault Refusal :=
  stepTo (match s.startable t 0x20 with
    | none => s
    | some x =>
      let sv := s.servedOf t
      let s1 : State := { s.run t with batches := s.batches ++ [newBatch t x.cmd .scatter sv.isSome] }
      match sv with
      | some y => s1.pushGiven t (servedBags y.msg)
      | none => s1.deal t)

/-- The gradient columns of a bag of a served request (R331). -/
def servedGrad (msg : List Byte) (b : Nat) : List (W32 × Bool) :=
  let at0 := 32 + 4 * mBags msg + 12 * mEntries msg + 4 * mCols msg * b
  (List.range (mCols msg)).map fun c => (BitVec.ofNat 32 (bytesAt msg (at0 + 4 * c) 4), false)

/-- Forms a bag's contributions from its gradient: those that translate and find room on their links (R174, R278). Once all are formed
the bag is done, and its entries go to the remote shards; until then its gradient is kept. -/
def State.formBag (s : State) (x : Tracker) (d : Desc) (c : Scatter) (g : Bag) (grad : List (W32 × Bool)) : State :=
  let y := s.formRefs x (cAlpha x.cmd) grad g.bag c.refs ⟨[], s.links.toList.map (·.room)⟩
  let s1 := y.1.sendContribs x y.2.1.out
  if y.2.2.all (fun r => decide (r.bag ≠ g.bag) || r.formed) then
    let done (c : Scatter) : Scatter := { c with
      refs := y.2.2, gradsDone := c.gradsDone ++ [g.bag], grads := c.grads.filter fun z => decide (z.1 ≠ g.bag) }
    ((s1.sendAdds x d g.bag g.fwd grad).modScatter x.id done).settleScatter x.id
  else s1.modScatter x.id fun c => { c with refs := y.2.2, grads := putAssoc c.grads g.bag grad }

/-- The gradient of a SCATTER_ADD's bag returns, once (R172); given again, the forming of a bag that waits goes on. -/
def State.scatterGrad (s : State) (x : Tracker) (b : Nat) : State :=
  match s.scatterOf x.id, s.bag x.id b, x.desc with
  | some c, some g, some d =>
    if !g.token ∨ g.bag ∈ c.gradsDone ∨ x.marks.aborted ∨ x.phase ≠ .running then s
    else match c.grads.find? (fun z => decide (z.1 = b)), s.servedOf x.id with
      | some z, _ => s.formBag x d c g z.2
      | none, some y => s.formBag x d c g (servedGrad y.msg b)
      | none, none =>
        let n := if x.shards = [] then d.dim else x.total
        let S := if cStride x.cmd = 0 then 4 * n else cStride x.cmd
        match s.readCols x.part x.id ((cW5 x.cmd).toNat + b * S) n with
        | (s1, none) => s1
        | (s1, some grad) => (if grad.any (·.2) then s1.poisonCmd x.id else s1).formBag x d c g grad
  | _, _, _ => s

/-! SCATTER_APPLY (R182 to R185) -/

/-- SCATTER_APPLY (R173, R182): with its PARAMS as admission read them, its rows go through the Sieve. -/
def execScatterApply (t : TrackerId) (s : State) : Host.Outcome State Fault Refusal :=
  stepTo (match s.startable t 0x21 with
    | none => s
    | some x =>
      let w (k : Nat) : W32 := BitVec.ofNat 32 (bitsOf x.body (32 * k) 32)
      let a : Apply := ⟨t, cRule x.cmd, w 0, w 1, w 2, w 3, [], false⟩
      let s1 := s.run t
      ({ s1 with batches := s1.batches ++ [newBatch t x.cmd .apply false], applies := s1.applies ++ [a] } : State).deal t)

/-- The SCATTER_APPLY of a command. -/
def State.applyOf (s : State) (t : TrackerId) : Option Apply := s.applies.find? fun a => decide (a.t = t)

/-- Changes the rows of a SCATTER_APPLY. -/
def State.modRows (s : State) (t : TrackerId) (f : List ApplyRow → List ApplyRow) : State :=
  { s with applies := updFirst (fun a => decide (a.t = t)) (fun a => { a with rows := f a.rows }) s.applies }

/-- A listed row is done with. -/
def State.dropRow (s : State) (t : TrackerId) (i : Nat) : State := s.modRows t fun l => l.filter fun r => decide (r.i ≠ i)

/-- A SCATTER_APPLY finishes once its intake has ended and no row is left. -/
def State.settleApply (s : State) (t : TrackerId) : State :=
  match s.trk t, s.batch t, s.applyOf t with
  | some x, some bt, some a => if x.phase = .running ∧ a.rows = [] ∧ s.intakeEnded bt then s.finish t else s
  | _, _, _ => s

/-- Queues adder operations of a command, at the slices or at the board; one for a slice out of service is lost (R260). -/
def State.queueOps (s : State) (x : Tracker) (l : List AddOp) : State :=
  l.foldl (fun (s : State) o =>
    if s.isBoard o.addr ∨ s.sliceServes o.n (some x.serial) then { s with addQ := s.addQ ++ [o] }
    else s.loseAdd o) s

/-- The parameter update of a listed row: one operation for each stored granule (R183). -/
def State.applyParams (s : State) (x : Tracker) (d : Desc) (r : ApplyRow) (fac : W32) : State :=
  match s.addPlaces x d r.cls r.slot, r.grad with
  | (s1, some l), some g =>
    let pcs := l.flatMap fun y =>
      cutSeg x.id y.2.1 0 r.cls (fmtBits (d.format r.cls)) (2 ^ 20) y.1 y.2.2.1 (((g.drop y.2.2.1).take y.2.2.2).map fun v => (v, false))
    let ops := pcs.map fun (c : Contrib) =>
      (⟨s1.sliceOf c.addr, x.part, some x.id, c.obj, c.addr, .applyParam c.col r.cls fac (c.vals.filterMap id), false, false, false⟩ : AddOp)
    ((s1.dropRow x.id r.i).queueOps x ops).settleApply x.id
  | y, _ => y.1

/-- m of R183: the mean square of a gradient, in ascending columns. -/
def meanSquare (g : List W32) : W32 :=
  fdiv (g.foldl (fun m v => fadd m (fmul v v)) 0#32) (ofInt32 g.length)

/-- The gradient of a listed row returns. A poisoned one drops the row whole (R182). -/
def State.applyGrad (s : State) (x : Tracker) (i : Nat) : State :=
  match s.applyOf x.id, x.desc with
  | some a, some d => match a.rows.find? (fun r => decide (r.i = i) && decide (r.grad = none)) with
    | none => s
    | some r =>
      if !(s.localShard x) then (s.dropRow x.id i).settleApply x.id
      else match s.readCols x.part x.id ((cW3 x.cmd).toNat + 4 * d.dim * i) d.dim with
      | (s1, none) => s1
      | (s1, some g) =>
        if g.any (·.2) then
          (((s1.modTrk x.id fun y => { y with detail := y.detail + 1 }).poisonCmd x.id).dropRow x.id i).settleApply x.id
        else
          let vals := g.map (·.1)
          let r1 : ApplyRow := { r with grad := some vals }
          if a.rule = 0 then s1.applyParams x d r1 a.lr
          else match x.desc2 with
            | none => s1
            | some st => match s1.look x.part (.cmd x.id) (st.rowBase 0 + r.x / 16 * st.stride 0 + 4 * (r.x % 16)) .add with
              | (s2, none) => s2
              | (s2, some (ph, h)) =>
                let o : AddOp := ⟨s2.sliceOf ph, x.part, some x.id, h, ph, .applyState i (meanSquare vals), false, false, false⟩
                ((s2.modRows x.id fun l => updFirst (fun q => decide (q.i = i)) (fun _ => r1) l).queueOps x [o]).settleApply x.id
  | _, _ => s

/-- An entry of the pre-aggregation buffer or of the hub merge store fails its ECC where it is read (R186): corrected, or discarded and
reported lost. -/
def State.bufErr (s : State) (e : PreAgg) : EccErr → State
  | .clean => s
  | .corrected => s.bump fJsRakeStat_BUF_CORR e.n.val
  | .uncorrectable =>
    let s1 : State := { s with
      preagg := s.preagg.filter fun y => decide (y ≠ e)
      mergeStore := s.mergeStore.filter fun y => decide (y ≠ e) }
    (s1.bump fJsRakeStat_BUF_UNCORR e.n.val).loseWrite (((s.trk e.c.t).map (·.part)).getD 0) (some e.c.t) e.c.obj

/-- The error, if any, strikes the first of some entries. -/
def State.bufErrFirst (s : State) (l : List PreAgg) (err : EccErr) : State :=
  match l with
  | [] => s
  | e :: _ => s.bufErr e err

/-- GRADIENT_READ_RETURN (R169, R170, R172, R182, R186, R386): the gradient of a bag of a SCATTER_ADD, or of a listed row of a
SCATTER_APPLY, returns to the Rake. An error of the hub merge store strikes the first entry that the command has there. -/
def execGradientReadReturn (t : TrackerId) (bag : BitVec 21) (s : State) (err : EccErr := .clean) : Host.Outcome State Fault Refusal :=
  stepTo (match s.trk t with
    | none => s
    | some x =>
      if x.op = 0x20 then (s.bufErrFirst (s.mergeStore.filter fun e => decide (e.c.t = t)) err).scatterGrad x bag.toNat
      else if x.op = 0x21 then s.applyGrad x bag.toNat else s)

/-- The factor f of R183. -/
def applyFactor (a : Apply) (v : W32) : W32 := fdiv a.lr (fadd (fsqrt v) a.eps)

/-- APPLY_STATE_RETURN (R183, R185): a listed row's new state value returns to the hub, and its parameter updates are issued. -/
def execApplyStateReturn (t : TrackerId) (s : State) : Host.Outcome State Fault Refusal :=
  stepTo (match s.trk t, s.applyOf t with
    | some x, some a => match a.rows.find? (fun r => r.state.isSome), x.desc with
      | some r, some d => s.applyParams x d r (applyFactor a (r.state.getD 0))
      | _, _ => s
    | _, _ => s)

/-! The slice's side of the link (R174 to R176) -/

/-- Entries of a slice's pre-aggregation buffer. -/
def State.preaggOf (s : State) (n : SliceId) : List PreAgg := s.preagg.filter fun (e : PreAgg) => decide (e.n = n)

/-- The set of an entry (R175): of the 4,096, one that the command's number, the stored granule and the column group choose. -/
def State.preSet (s : State) (c : Contrib) : Nat := Config.preaggSet ((s.serialOf c.t).getD 0) (c.addr / 64) (c.col / 16) % 4096

/-- The entry with the oldest last merge. -/
def oldestMerge : List PreAgg → Option PreAgg
  | [] => none
  | e :: r => some (r.foldl (fun (b : PreAgg) x => if x.lastMerge < b.lastMerge then x else b) e)

/-- Flushes an entry to the adders, with the others of its command that target the same stored granule (R176). -/
def State.flushEntry (s : State) (e : PreAgg) : State :=
  let p := ((s.trk e.c.t).map (·.part)).getD 0
  let mate (y : PreAgg) : Bool := decide (y.n = e.n) && decide (y.c.t = e.c.t) && decide (y.c.addr / 64 = e.c.addr / 64)
  { s with
    preagg := s.preagg.filter fun y => !(mate y)
    addQ := s.addQ ++ (flushOp e.n p ((s.preagg.filter mate).map (·.c))).toList }

/-- Merges one contribution into the buffer of its slice (R175); a full set flushes its oldest way (R176). -/
def State.mergeContrib (s : State) (n : SliceId) (c : Contrib) : State :=
  let here (e : PreAgg) : Bool := decide (e.n = n) && e.c.same c
  let s1 : State := { s with clock := s.clock + 1 }
  if s1.preagg.any here then { s1 with preagg := updFirst here (fun e => e.add c s.clock) s1.preagg }
  else
    let ways := (s1.preaggOf n).filter fun e => decide (s1.preSet e.c = s1.preSet c)
    let s2 := if ways.length < 16 then s1 else match oldestMerge ways with
      | some e => (s1.flushEntry e).bump fJsRakeStat_EARLY_FLUSH n.val
      | none => s1
    let s3 : State := { s2 with preagg := s2.preagg ++ [(⟨n, c, s.clock⟩ : PreAgg)] }
    s3.peak fJsRakeUse_PEAK (s3.preaggOf n).length n.val

/-- Sets a link. -/
def State.setLink (s : State) (n : SliceId) (l : RakeLink) : State := { s with links := s.links.set n l }

/-- The consecutive poisoned arrivals of a message (R174). -/
def RakeLink.failsOf (l : RakeLink) (q : BitVec 12) : Nat := getAssoc l.fails q 0

/-- RAKE_MESSAGE_ARRIVE (R174 to R176, R186, R386, R401): the next message on a slice's link arrives. In sequence it is merged and
acknowledged, poisoned it is discarded and asked for again, a duplicate is discarded and acknowledged again, and one ahead of its turn
is discarded. An error of the buffer strikes the first entry that the message meets. -/
def execRakeMessageArrive (n : SliceId) (poisoned : Bool) (s : State) (err : EccErr := .clean) (word : EccErr := .clean) : Host.Outcome State Fault Refusal :=
  stepTo (match s.links[n].flight with
    | [] => s
    | m :: rest =>
      let part := ((m.items.head?.bind fun c => s.trk c.t).map (·.part)).getD 0
      let inj := s.fifoWord 5 part word
      let l := { inj.1.links[n] with flight := rest }
      if poisoned ∨ inj.2 then
        inj.1.setLink n { l with resend := l.resend ++ [m.seq], fails := putAssoc l.fails m.seq (l.failsOf m.seq + 1) }
      else
        let l0 : RakeLink := { l with fails := l.fails.filter fun y => decide (y.1 ≠ m.seq) }
        if m.seq = l.expect then
          let s1 := inj.1.setLink n { l0 with expect := l.expect + 1, acks := l.acks ++ [m.seq] }
          let met := (s1.preaggOf n).filter fun e => m.items.any fun c => e.c.same c
          m.items.foldl (fun s c => s.mergeContrib n c) (s1.bufErrFirst met err)
        else if 2048 ≤ (m.seq - l.expect).toNat then inj.1.setLink n { l0 with acks := l.acks ++ [m.seq] }
        else inj.1.setLink n l0)

/-- RAKE_ACK (R174, R186): an acknowledgement reaches the hub; the message leaves the replay store and forming goes on. One that is lost
on its way has its message sent again. -/
def execRakeAck (n : SliceId) (s : State) (lost : Bool := false) : Host.Outcome State Fault Refusal :=
  stepTo (match s.links[n].acks with
    | [] => s
    | q :: rest =>
      let l := s.links[n]
      if lost then s.setLink n { l with acks := rest, flight := l.flight ++ l.replay.filter fun m => decide (m.seq = q) }
      else (s.setLink n { l with acks := rest, replay := l.replay.filter fun m => decide (m.seq ≠ q) }).pumpLink n)

/-- RESEND, 0 acting as 1 (R190). -/
def State.resendLimit (s : State) : Nat := max 1 (s.fld fJeRakeCtl_RESEND)

/-- RAKE_RESEND_REQUEST (R174, R188, R400): the hub sends the message that a slice asks for again from the replay store, counted in
RESENT, and behind it those that the slice has discarded ahead of their turn; after RESEND poisoned arrivals of the message the slice
is declared failed. -/
def execRakeResendRequest (n : SliceId) (s : State) : Host.Outcome State Fault Refusal :=
  stepTo (match s.links[n].resend with
    | [] => s
    | q :: rest =>
      let l := s.links[n]
      if s.resendLimit ≤ l.failsOf q then (s.eventE 0x20 n.val q.toNat).failSlice n 2
      else
        let again := l.replay.filter fun m => decide ((m.seq - q).toNat < 2048)
        let s1 := s.setLink n { l with resend := rest, flight := l.flight ++ again }
        if again.any (fun m => decide (m.seq = q)) then s1.bump fJsRakeStat_RESENT n.val else s1)

/-- Contributions of a command that the slice has not merged yet. -/
def RakeLink.owes (l : RakeLink) (t : TrackerId) : Bool :=
  l.todo.any (fun m => m.any fun c => decide (c.t = t)) ||
    l.replay.any fun m => decide ((m.seq - l.expect).toNat < 2048) && m.items.any fun c => decide (c.t = t)

/-- Flushes every entry of a slice that a test picks (R176). -/
def State.flushPre (s : State) (n : SliceId) (f : PreAgg → Bool) : State :=
  ((s.preaggOf n).filter f).foldl (fun s e => s.flushEntry e) s

/-- Contributions that the Rake holds in some spans of physical bytes go on to their adders, as at an early flush, so that an invalidation
or the move of a chunk does not wait for the end of their command (DESIGN CHOICE, log 81; R224, R282). -/
def State.flushHeld (s : State) (p : Part) (f : Contrib → Bool) : State :=
  let mine (c : Contrib) : Bool := f c && (s.trk c.t).any fun x => decide (x.part = p)
  let held := (s.mergeStore.filter fun (e : PreAgg) => mine e.c).map (·.c)
  let s1 : State := { s with mergeStore := s.mergeStore.filter fun (e : PreAgg) => !(mine e.c) }
  let s2 := (held.map (·.t)).eraseDups.foldl (fun (s : State) t => match s.trk t with
    | some x => s.sendContribs x (held.filter fun c => decide (c.t = t))
    | none => s) s1
  (List.finRange 8).foldl (fun (s : State) n => s.flushPre n fun e => mine e.c) s2

/-- A contribution lies in one of some spans. -/
def Contrib.within (spans : List (Nat × Nat)) (c : Contrib) : Bool := spans.any fun z => decide (z.1 ≤ c.addr) && decide (c.addr < z.1 + z.2)

/-- XLAT_INVAL_DONE (R282, R284): what the Rake still holds under the old mapping goes on to memory, and the invalidation ends once nothing
of it is left. -/
def execXlatInvalDone (p : Part) (s : State) : Host.Outcome State Fault Refusal :=
  stepTo (match (s.part p).inval with
    | none => s
    | some v => (s.flushHeld p fun c => if v.range = none then c.old else c.within v.old).invalDone p)

/-- RAKE_END_TOKEN (R176, R177, R186): a command's end token arrives at a slice, behind its contributions, and its entries are
flushed. An error of the buffer strikes the first of them. -/
def execRakeEndToken (n : SliceId) (s : State) (err : EccErr := .clean) : Host.Outcome State Fault Refusal :=
  stepTo (match s.endTokens.find? (fun y => decide (y.1 = n) && !(s.links[n].owes y.2)) with
    | none => s
    | some y =>
      let s1 : State := { s with endTokens := eraseFirst (fun z => decide (z = y)) s.endTokens }
      let s2 := s1.bufErrFirst ((s1.preaggOf n).filter fun e => decide (e.c.t = y.2)) err
      (s2.flushPre n fun e => decide (e.c.t = y.2)).modScatter y.2 fun c => { c with ended := c.ended ||| BitVec.ofNat 8 (2 ^ n.val) })

/-! The adders' turn (R178, R295, R304, R306) -/

/-- An adder operation on a line that agents may hold goes through its home. -/
def State.addHome (s : State) (n : SliceId) (o : AddOp) : State :=
  let line := hbmLine o.addr
  let q : CoreReq := ⟨none, line, .jAdd o⟩
  let s0 : State := { s with addQ := eraseFirst (fun y => decide (y = o)) s.addQ }
  let wait : State := if s.homeLoad n < 512 then { s0 with coreReqs := s0.coreReqs ++ [q] } else s
  if (s.txnOn line).isSome ∨ s.coreReqs.any (fun y => decide (y.line = line)) then wait
  else match s0.serveReq q with
    | (s1, .done) => s1.settleHome
    | _ => wait

/-- One operation of a slice's adders: none of it happens while the write-combining buffer has no entry (R245). -/
def State.addStep (s : State) (n : SliceId) (o : AddOp) : State :=
  if s.tracked o.addr then s.addHome n o
  else match ({ s with addQ := eraseFirst (fun y => decide (y = o)) s.addQ } : State).addHbm (sliceGens n) o with
    | some s1 => s1
    | none =>
      if o.waited then s
      else ({ s with addQ := updFirst (fun y => decide (y = o)) (fun y => { y with waited := true }) s.addQ } : State).bump fJsWcbStat_FULL_WAITS n.val

/-- ADDER_READ_RETURN (R55, R105, R178 to R181, R183, R236, R306): the read of the oldest operation of a slice that is not held by a
flip returns. R55 fixes no order: the adds of a slice act in their order of arrival (DESIGN CHOICE, log 83). -/
def execAdderReadReturn (n : SliceId) (s : State) : Host.Outcome State Fault Refusal :=
  stepTo (match s.addQ.find? (fun o => decide (o.n = n) && !(s.isBoard o.addr) && (o.issued || !(s.flipping o.addr)) && !(s.bankWaits (o.addr / 64))) with
    | none => s
    | some o => (s.addStep n o).settleWcb)

/-! Landing reports (R181, R188) -/

/-- Adds of a command at a slice, or of its scale-gradient record, have not landed. -/
def State.adding (s : State) (n : SliceId) (t : TrackerId) : Bool :=
  let mine (o : AddOp) : Bool := decide (o.owner = some t) &&
    (decide (o.n = n) || (match o.kind with | .fp32 _ => true | _ => false))
  s.addQ.any mine || (s.txns.map (·.req) ++ s.coreReqs.map (·.req)).any fun r => match r with
    | .jAdd o => mine o
    | _ => false

/-- Translates the places of the scale-gradient records, each of its own table's (R108). -/
def State.sgradOps (s : State) (x : Tracker) : List ScalePlace → State × Option (List AddOp)
  | [] => (s, some [])
  | y :: r =>
    let base := ((x.descOf y.table).map fun d => fbSgrad (s.blockOf x.part d)).getD 0
    match s.look x.part (.cmd x.id) ((base + 4 * y.col) % 2 ^ 64) .add with
    | (s1, none) => (s1, none)
    | (s1, some (ph, h)) => match s1.sgradOps x r with
      | (s2, none) => (s2.xnote x.part (.cmd x.id) ((base + 4 * y.col) % 2 ^ 64), none)
      | (s2, some l) => (s2, some ((⟨s2.sliceOf ph, x.part, some x.id, h, ph, .fp32 y.sum, false, false, false⟩ : AddOp) :: l))

/-- LANDING_REPORT (R181, R188): a slice where every add of a command has landed adds its scale-gradient place into the record,
and reports once that has landed too. -/
def execLandingReport (n : SliceId) (t : TrackerId) (s : State) : Host.Outcome State Fault Refusal :=
  stepTo (match s.trk t, s.scatterOf t with
    | some x, some c =>
      if !(c.ended.getLsbD n.val) ∨ c.reported.getLsbD n.val ∨ s.adding n t then s
      else
        let mine := c.places.filter fun y => decide (y.n = n)
        if mine = [] then
          (s.modScatter t fun c => { c with reported := c.reported ||| BitVec.ofNat 8 (2 ^ n.val) }).settleScatter t
        else match s.sgradOps x mine with
          | (s1, none) => s1
          | (s1, some l) => (s1.modScatter t fun c => { c with places := c.places.filter fun y => decide (y.n ≠ n) }).queueOps x l
    | _, _ => s)

end Sys2Proof.Machine
end

