-- ==== Sys2Proof/Machine/Complete.lean ====
section
/-! DEFINITION. Marks, waits and completion (R36 to R45, R65, R72, R187, R388): the control opcodes, the completion writer
and interrupt moderation. -/
namespace Sys2Proof.Machine

/-! What a command still has outstanding -/

/-- Writes, adds, tiles, table updates or remote requests of a command have not reached their points of visibility
(R36); for an OBJECT_MOVE, the record of its object neither (R216). -/
def State.outstanding (s : State) (t : TrackerId) : Bool :=
  (s.trk t).any (fun x => decide (x.op = 0x41) && (s.obj x.part (cObject x.cmd)).any (·.due)) ||
  s.wrQ.any (fun w => decide (w.owner = some t)) || s.boardWrs.any (fun w => decide (w.owner = some t)) ||
  s.addQ.any (fun w => decide (w.owner = some t)) || s.txns.any (fun x => decide (x.req.owner = some t)) ||
  s.coreReqs.any (fun x => decide (x.req.owner = some t)) || s.tiles.any (fun x => decide (x.t = t)) ||
  s.netQ.any (fun o => decide (o.req.t = t)) || s.qps.any fun q => q.out.any fun r => decide (r.t = t)

/-! Intake statistics (R72) -/

/-- The eight counts of an intake statistics record, in its order. -/
def SieveCounts.list (c : SieveCounts) : List Nat :=
  [c.accepted, c.padded, c.outOfRange, c.badWeight, c.poisoned, c.fetches, c.refetch, c.windows]

/-- Updates the statistics record of a command's table by eight wrapping adds. The flag says whether nothing is left to do:
a walk, or a full parking store (R278), holds it back; memory outside device HBM or a fault skips it. -/
def State.statsStep (s : State) (x : Tracker) : State × Bool :=
  match s.batch x.id, x.desc with
  | some b, some d =>
    if b.statsDone ∨ !d.statsOn then (s, true)
    else
      let done (s : State) : State := s.modBatch x.id fun b => { b with statsDone := true }
      let skip (s : State) : State := done (s.eventP x.part 0x0A (cTable x.cmd) x.tag)
      if !(s.mayTranslate x.part) then (s, false) else
      match s.xlat x.part (.cmd x.id) d.stats .add with
      | (s1, .wait) => (s1, false)
      | (s1, .fault _ _ _) => (skip s1, true)
      | (s1, .hit a h) =>
        if !(s1.isHbm a) then (skip s1, true)
        else
          let ops := b.counts.list.mapIdx fun k v =>
            (⟨s1.sliceOf a, x.part, some x.id, h, a + 8 * k, .int64 (BitVec.ofNat 64 v), false, false, false⟩ : AddOp)
          (done { s1 with addQ := s1.addQ ++ ops }, true)
  | _, _ => (s, true)

/-! The completion record (R36 to R38, R65) -/

/-- The oldest command of a source. -/
def State.oldest (s : State) (src : Src) : Option Tracker := s.trackers.find? fun x => decide (x.src = src)

/-- The command touches an object that is marked torn (R237). -/
def State.touchesTorn (s : State) (x : Tracker) : Bool :=
  (x.touched ++ (x.pins.map fun q => Desc.object q.desc) ++ if x.op = 0x41 ∧ x.admitted then [cObject x.cmd] else []).any fun h =>
    (s.obj x.part h).any (·.torn)

/-- An aborted scatter command some of whose contributions have landed tears its objects (R187). -/
def State.tearAborted (s : State) (x : Tracker) : State :=
  let landed := s.scatters.any (fun c => decide (c.t = x.id) && c.landedAny) || s.applies.any fun a => decide (a.t = x.id) && a.landedAny
  if x.marks.status = stFaultAborted ∧ landed then
    (x.pins.map fun q => Desc.object q.desc).foldl (fun s h => s.tear x.part h (some x.id)) s
  else s

/-- Replaced versions that no command pins any longer: their switches have drained (R52). -/
def State.settleSwitches (s : State) : State :=
  s.switches.foldl (fun s w =>
    let pinned := s.trackers.any fun x => x.pins.any fun q => decide (q.part = w.part) && decide (q.table = w.table) && decide (q.desc = w.old)
    match s.trk w.t with
    | some x => if x.phase = .running ∧ !pinned then s.finish w.t else s
    | none => s) s

/-- Everything a command holds is given back (R32, R51, R80, R83, R123, R195). -/
def State.release (s : State) (x : Tracker) : State :=
  let s1 := s.freeHash x.id
  let s2 : State := { s1 with
    trackers := s1.trackers.filter fun y => decide (y.id ≠ x.id)
    batches := s1.batches.filter fun b => decide (b.t ≠ x.id)
    bags := s1.bags.filter fun g => decide (g.t ≠ x.id)
    accs := s1.accs.filter fun a => decide (a.t ≠ x.id)
    deliveries := s1.deliveries.filter fun d => decide (d.t ≠ x.id)
    keyed := s1.keyed.filter fun k => decide (k.t ≠ x.id)
    scatters := s1.scatters.filter fun c => decide (c.t ≠ x.id)
    applies := s1.applies.filter fun a => decide (a.t ≠ x.id)
    streams := s1.streams.filter fun c => decide (c.t ≠ some x.id)
    switches := s1.switches.filter fun w => decide (w.t ≠ x.id)
    objMoves := s1.objMoves.filter fun m => decide (m.t ≠ x.id)
    nvme := s1.nvme.map fun (v : NvmeSlot) => { v with reads := v.reads.filter fun r => decide (r.t ≠ x.id) }
    jreads := s1.jreads.filter fun j => decide (j.2 ≠ .cmd x.id) && decide (j.2 ≠ .record x.src) }
  (s2.releaseCtx).settleSwitches

/-- Counters of a completed command's status (R168, R387). -/
def State.countStatus (s : State) (p : Part) (st : Byte) : State :=
  if st = stWritesLost then s.bump fJpRakeStat_LOST_CMDS p.val
  else if st = stWinnowBypassed then s.bump fJpKeyedStat_BYPASSED p.val
  else if st = stRemoteFailed then s.bump fJpNetStat_REMOTE_FAILED_CMDS p.val
  else if st = stPoisoned then s.bump fJpErrStat_POISON_CMDS p.val
  else s

/-- A command has its record: it is released, counted, and halts its source where R45 says so. -/
def State.completed (s : State) (x : Tracker) : State :=
  let st := x.marks.status
  let s1 := (s.release x).countStatus x.part st
  if st ≠ stOk ∧ (x.op = 0x02 ∨ cHaltOnError x.cmd) then s1.haltSrc x.src st else s1

/-- The PHASE of a record in a ring (table after R35). -/
def RingCtx.phase (c : RingCtx) (count : W32) : Nat := 1 - natBits count.toNat c.sizeLog2 1

/-- An issued record write of a ring that still waits takes a record of the same granule that follows it there (R38). -/
def WrReq.takes (w v : WrReq) : Bool :=
  w.record.any (fun x => v.record.any fun y => decide (x.1 = y.1)) && decide (w.addr / 64 = v.addr / 64) && decide (w.addr + w.bytes.length = v.addr)

/-- The joined write of two records. -/
def WrReq.join (w v : WrReq) : WrReq := { w with bytes := w.bytes ++ v.bytes, irq := w.irq ++ v.irq }

/-- A record joins the record write of its ring and granule that waits in the slice's queue or at the line's home, or that the
fabric agent still holds; none where there is no such write. -/
def State.joinRecord (s : State) (v : WrReq) : Option State :=
  let at_ (k : ReqKind) : Bool := match k with
    | .jWrite w => w.takes v
    | _ => false
  let put (k : ReqKind) : ReqKind := match k with
    | .jWrite w => .jWrite (w.join v)
    | q => q
  let onBoard (w : BoardWr) : Bool :=
    !w.sent && w.record.any (fun x => v.record.any fun y => decide (x.1 = y.1)) && decide (w.addr / 64 = v.addr / 64) &&
      decide (w.addr + w.bytes.length = v.addr)
  if s.wrQ.any (·.takes v) then some { s with wrQ := updFirst (·.takes v) (·.join v) s.wrQ }
  else if s.coreReqs.any (fun q => at_ q.req) then
    some { s with coreReqs := updFirst (fun q => at_ q.req) (fun q => { q with req := put q.req }) s.coreReqs }
  else if s.txns.any (fun q => at_ q.req) then
    some { s with txns := updFirst (fun q => at_ q.req) (fun q => { q with req := put q.req }) s.txns }
  else if s.boardWrs.any onBoard then
    some { s with boardWrs := updFirst onBoard (fun w => { w with bytes := w.bytes ++ v.bytes, irq := w.irq ++ v.irq }) s.boardWrs }
  else none

/-- Writes the record of a command of a ring (R36 to R38). The flag says whether it went out: it joins a write of its granule that
has not gone to memory, and otherwise waits for the records before it. -/
def State.recordRing (s : State) (x : Tracker) (r : RingNo) : State × Bool :=
  match s.ring r with
  | none => (s.release x, true)
  | some y =>
    if y.mute then (s.release x, true)
    else match s.needCtx r with
    | (s, false) => (s, false)
    | (s, true) =>
      match s.look x.part (.record x.src) ((y.ctx.cplBase.toNat + x.count.toNat % y.ctx.size * 16) % 2 ^ 64) .write with
      | (s1, none) => (s1, false)
      | (s1, some (ph, h)) =>
        let v := recordNat x x.version (y.ctx.phase x.count)
        let w : WrReq := ⟨ph, leBytes 16 v, false, x.part, none, h, false, true, false, some (r, x.count),
          if cIrq x.cmd then [y.ctx.irqGroup] else [], false, false, false, false⟩
        let done (s : State) : State :=
          (s.completed x).modRing r fun z => { z with ctx := { z.ctx with completed := z.ctx.completed + 1 } }
        match s1.joinRecord w with
        | some s2 => (done s2, true)
        | none => if s1.recordOut r then (s1, false) else ((done s1).writeNow w, true)

/-- Writes the record of a direct command into the completion FIFO (R65); group 0 serves the path. -/
def State.recordDirect (s : State) (x : Tracker) (p : Part) : State :=
  let v := recordNat x x.version 0
  let s1 := (s.completed x).modPart p fun ps => { ps with dcpl := ps.dcpl ++ [BitVec.ofNat 128 v], dcmdDone := ps.dcmdDone + 1 }
  if cIrq x.cmd then s1.irqRaise p 0 else s1

/-- REPLY status of a served command (R332). -/
def replyStatus (st : Byte) : Nat :=
  if st = stOk then 0x00
  else if st = stWritesLost then 0x06
  else if st = stFaultAborted then 0x05
  else if st = stPoisoned then 0x01
  else 0x02

/-- Packs the bags of a reply into messages: lists of consecutive bags (R330, R331). -/
def packReply (per : Nat) : List Bag → List Bag → List (List Bag)
  | [], cur => if cur = [] then [] else [cur]
  | g :: r, cur =>
    if cur ≠ [] ∧ maxBody < per * (cur.length + 1) then cur :: packReply per r [g] else packReply per r (cur ++ [g])

/-- The bags of a command in bag order. -/
def State.bagsInOrder (s : State) (t : TrackerId) : List Bag := (List.range s.bags.length).filterMap fun b => s.bag t b

/-- One bag of a GATHER_REPLY: accepted count, poison flag, values (R331). -/
def State.replyBag (s : State) (x : Tracker) (d : Desc) (mode : Nat) (g : Bag) : List Byte :=
  leBytes 4 g.accepted ++ leBytes 4 g.poison.toNat ++ (s.vector x d mode g).flatMap fun v => leBytes 4 v.toNat

/-- The reply to a served request whose command is done (R328, R331, R332). -/
def State.answerDone (s : State) (x : Tracker) : State :=
  let fin (s : State) : State := (((s.release x).countStatus x.part x.marks.status).bump fJpNetStat_REQS_SERVED x.part.val)
  match s.servedOf x.id, s.batch x.id, x.desc with
  | some y, some bt, some d =>
    let st := replyStatus x.marks.status
    let fl := 4 * d.intAcc.toNat + 8 * x.torn.toNat
    if x.op ≠ 0x10 ∨ 2 ≤ st then fin (s.answer y st fl x.detail)
    else
      let msgs := packReply (8 + 4 * x.total) (s.bagsInOrder x.id) []
      let s1 := (msgs.zipIdx).foldl (fun (s : State) m =>
        let first := mBagFirst y.msg + (m.1.head?.map (·.bag)).getD 0
        s.sendMsg y.qp (replyMsg y.msg st (fl + (decide (m.2 + 1 = msgs.length)).toNat) x.detail m.1.length first
          (m.1.flatMap (s.replyBag x d bt.mode)))) s
      let s2 : State := { s1 with served := eraseFirst (fun z => decide (z = y)) s1.served }
      fin (if msgs = [] then s.answer y st fl x.detail else s2)
  | some y, _, _ => fin (s.answer y (replyStatus x.marks.status) 0 x.detail)
  | none, _, _ => s.release x

/-- One attempt to complete the oldest command of a source (R36). -/
def State.completeNow (s : State) (x : Tracker) : State × Bool :=
  if x.phase ≠ .done then (s, false)
  else
    match s.statsStep x with
    | (s1, false) => (s1, false)
    | (s1, true) =>
      if s1.outstanding x.id then (s1, false)
      else
        let s2 := s1.tearAborted x
        match s2.trk x.id with
        | none => (s2, false)
        | some y0 =>
          let y := { y0 with torn := y0.torn || s2.touchesTorn y0 }
          match y.src with
          | .ring r => s2.recordRing y r
          | .direct p => (s2.recordDirect y p, true)
          | .remote _ => (s2.answerDone y, true)

/-- COMPLETION_RECORD_WRITE (R36 to R38): the record of the oldest command of a source, once its effects are visible. A
MARK's record is written by its publication. -/
def execCompletionRecordWrite (src : Src) (s : State) : Host.Outcome State Fault Refusal :=
  stepTo (match s.oldest src with
    | none => s
    | some x =>
      let s1 := ((s.drainAborted.settlePool x.id).settleScatter x.id).settleApply x.id
      match s1.trk x.id with
      | none => s1
      | some y => (s1.completeNow y).1)

/-- IRQ_HOLDOFF_EXPIRY (R39): HOLDOFF elapses since the last message of a group, and again since its first completion. -/
def execIrqHoldoffExpiry (p : Part) (g : Fin 64) (s : State) : Host.Outcome State Fault Refusal :=
  stepTo (
    let ig := (s.part p).irq.getD g.val ⟨0, true, false⟩
    let ig' : IrqGroup := { ig with elapsed := true, firstElapsed := ig.firstElapsed || (ig.elapsed && decide (0 < ig.count)) }
    (s.modPart p fun ps => { ps with irq := ps.irq.set g.val ig' }).irqTry p g.val)

/-! Control opcodes -/

/-- NOP (R35). -/
def execNop (t : TrackerId) (s : State) : Host.Outcome State Fault Refusal :=
  stepTo (match s.startable t 0x00 with
    | none => s
    | some _ => s.finish t)

/-- MARK (R40): it waits for every earlier command of its source; admission stays barred. -/
def execMark (t : TrackerId) (s : State) : Host.Outcome State Fault Refusal :=
  stepTo (match s.startable t 0x01 with
    | none => s
    | some _ => s.run t)

/-- Sets an external mark, and wakes the waits it satisfies (R41). -/
def State.setXmark (s : State) (p : Part) (i : Nat) (v : W64) : State := (s.setReg .jpXmark v p.val i).wake

/-- Publishes the VALUE of a MARK, where it advances its mark; MARK_REGRESS otherwise (R40, R41). -/
def State.publish (s : State) (x : Tracker) : State :=
  let v := cW2 x.cmd
  if cExternal x.cmd then
    if s.reg .jpXmark x.part.val (cXmark x.cmd) < v then (s.finish x.id).setXmark x.part (cXmark x.cmd) v
    else s.only x.id stMarkRegress
  else match x.src with
    | .ring r => match s.ring r with
      | some y =>
        if y.ctx.mark < v then ((s.finish x.id).modRing r fun z => { z with ctx := { z.ctx with mark := v } }).wake
        else s.only x.id stMarkRegress
      | none => s.only x.id stMarkRegress
    | _ => s.only x.id stMarkRegress

/-- MARK_PUBLISH (R40, R41): with every earlier command complete, the mark is published and its record written in the same
step; while the record cannot be written the mark is not published either. -/
def execMarkPublish (t : TrackerId) (s : State) : Host.Outcome State Fault Refusal :=
  stepTo (match s.trk t with
    | none => s
    | some x =>
      if x.op = 0x01 ∧ x.phase = .running ∧ (s.oldest x.src).any (fun y => decide (y.id = t)) then
        let s1 := s.publish x
        match s1.trk t with
        | none => s
        | some y => match s1.completeNow y with
          | (s2, true) => s2
          | (_, false) => (s.completeNow { x with phase := .done }).1
      else s)

/-- The source of a WAIT may be named (R42). -/
def State.waitAllowed (s : State) (p : Part) (c : Cmd) : Bool :=
  (decide (cSrcPart c = p.val) || decide (natBits (s.fld fJpWaitSrc_ALLOW p) (cSrcPart c) 1 = 1)) &&
    (decide (cSource c = 1) || s.ringIn (cSrcPart c) (cSrcIndex c))

/-- A blocked WAIT whose partition stops is aborted (R61). -/
def State.stopWait (s : State) (p : Part) (t : TrackerId) : State :=
  if s.partQuiescing p ∧ s.fld fJpStatus_STOP_MODE p = 1 ∧ (s.trk t).any (fun x => decide (x.phase ≠ .done)) then s.abortCmd t else s

/-- WAIT (R42, R44): denied, satisfied, or blocked; a WAIT on a ring that is not enabled first reads the ring's mark. -/
def execWait (t : TrackerId) (s : State) : Host.Outcome State Fault Refusal :=
  stepTo (match s.startable t 0x02 with
    | none => s
    | some x =>
      if !(s.waitAllowed x.part x.cmd) then s.only t stWaitDenied
      else if cSource x.cmd = 0 ∧ s.ring (BitVec.ofNat 18 (cSrcIndex x.cmd)) = none then
        (s.modTrk t fun y => { y with phase := .reading }).stopWait x.part t
      else ((s.run t).wake).stopWait x.part t)

/-- WAIT_MARK_READ_RETURN (R44): the mark of a ring that is not enabled returns from its context. A poisoned read leaves the
held value, and the WAIT reports it (R54). -/
def execWaitMarkReadReturn (t : TrackerId) (s : State) : Host.Outcome State Fault Refusal :=
  stepTo (match s.trk t with
    | none => s
    | some x =>
      if x.op = 0x02 ∧ x.phase = .reading then
        let r := BitVec.ofNat 18 (cSrcIndex x.cmd)
        let a := s.ctxAddr r
        match s.ring r with
        | some _ => (s.run t).wake
        | none =>
          let g := s.jReadOk (.cmd t) a
          if !g.2 then g.1
          else if g.1.rdPoison a 64 then ((g.1.poisonCmd t).run t).wake
          else
            let m := (g.1.readCtx r).mark
            (({ g.1 with heldMarks := (r, m) :: g.1.heldMarks.filter fun e => decide (e.1 ≠ r) } : State).run t).wake
      else s)

/-- Ends a blocked WAIT whose count has reached a non-zero LIMIT (R43). -/
def State.waitLimit (s : State) (t : TrackerId) : State :=
  match s.trk t with
  | none => s
  | some x =>
    let lim := s.fld fJpWaitLimit_LIMIT x.part.val
    if x.op = 0x02 ∧ (x.phase = .running ∨ x.phase = .reading) ∧ lim ≠ 0 ∧ lim ≤ x.waitCount then s.only t stWaitTimeout else s

/-- WAIT_LIMIT_TICK (R43): the count of a blocked WAIT advances; the source is checked before the limit. The count pauses
while the hub sleeps. -/
def execWaitLimitTick (t : TrackerId) (s : State) : Host.Outcome State Fault Refusal :=
  stepTo (match s.trk t with
    | none => s
    | some x =>
      if x.op = 0x02 ∧ x.admitted ∧ x.phase ≠ .done ∧ s.fld fJePwrStatus_STATE < 2 then
        ((s.modTrk t fun y => { y with waitCount := y.waitCount + 1 }).wake).waitLimit t
      else s)

/-- A write of LIMIT is compared at once with every blocked WAIT of the partition (R43). -/
def State.limitWritten (s : State) (p : Part) : State :=
  let s1 := s.wake
  (s1.trackers.filter fun x => decide (x.part = p) && decide (x.op = 0x02)).foldl (fun s x => s.waitLimit x.id) s1

/-- A core's write of an external mark (R41): one that does not advance is ignored, with its event. -/
def State.xmarkWritten (s : State) (p : Part) (i : Nat) (v : W64) : State :=
  if s.reg .jpXmark p.val i < v then s.setXmark p i v else s.eventP p 0x08 i v.toNat

/-- ARR_XMARK_WR (R41, R144): the matrix array writes an external mark; ignored for a partition that is not ENABLED. -/
def execArrXmarkWr (p : Part) (i : BitVec 8) (v : W64) (s : State) : Host.Outcome State Fault Refusal :=
  stepTo (if s.partEnabled p.val then s.xmarkWritten p i.toNat v else s)

end Sys2Proof.Machine
end

