-- ==== Sys2Proof/Machine/Winnow.lean ====
section
/-! DEFINITION. The Winnow (R149 to R168): binding, queries, scoring and selection, softmax weights, hand-over to the Sieve,
the sub-key banks and their fills, bypass. -/
namespace Sys2Proof.Machine

/-! Scores (R153 to R157) -/

/-- Minus infinity, where a NaN or a barred key ranks (R155). -/
def negInf : W32 := 0xFF800000#32

/-- The sum of one chunk's products in the fixed tree. -/
def treeSum (tree : List (Nat × Nat)) (v : List W32) : W32 :=
  (tree.foldl (fun (l : List W32) s => l.set s.1 (fadd (l.getD s.1 0) (l.getD s.2 0))) v).getD 0 0

/-- Chunks of 32 elements. -/
def chunk32 (q k : List (BitVec 16)) (n : Nat) : List (List W32) :=
  (List.range n).map fun i => (List.range 32).map fun j =>
    fmul (ofBf16 (q.getD (32 * i + j) 0).toNat) (ofBf16 (k.getD (32 * i + j) 0).toNat)

/-- The dot product of a query half and a key (R153). -/
def score (q k : List (BitVec 16)) : W32 :=
  match (chunk32 q k (ceilDiv k.length 32)).map (treeSum Config.sumTree) with
  | [] => 0
  | a :: r => r.foldl fadd a

/-- A score as it ranks: NaN ranks as minus infinity. -/
def ranked (v : W32) : W32 := if isNan32 v then negInf else v

/-- Inserts an item behind the greater ones; equal scores stand in ascending order of their numbers. -/
def insRank (x : Nat × W32) : List (Nat × W32) → List (Nat × W32)
  | [] => [x]
  | y :: r => if flt y.2 x.2 || (!(flt x.2 y.2) && decide (x.1 < y.1)) then x :: y :: r else y :: insRank x r

/-- The K greatest scores, ties to the lower number (R155, R156). -/
def topK (k : Nat) (l : List (Nat × W32)) : List (Nat × W32) := l.foldl (fun acc x => (insRank x acc).take k) []

/-- A BF16 value is NaN or infinite. -/
def badBf16 (h : BitVec 16) : Bool := notFinite32 (ofBf16 h.toNat)

/-- The scores of one sub-key set against a query half: `first` is the set's first key in the image. -/
def Bank.scores (b : Bank) (q : List (BitVec 16)) (dk first n : Nat) : List (Nat × W32) :=
  (List.range n).map fun i =>
    (i, if first + i ∈ b.barred then negInf else ranked (score q ((b.keys.drop (dk * (first + i))).take dk)))

/-- The pairs of two top-K lists with their value indices and scores (R156). -/
def pairsOf (nb : Nat) (a b : List (Nat × W32)) : List (Nat × W32) :=
  a.flatMap fun x => b.map fun y => (x.1 * nb + y.1, ranked (fadd x.2 y.2))

/-! Exponentials and softmax (R157). Bounds of exp(-y) are integers in units of 2^-200. -/

/-- Bounds of the terms z^k / k! for the z that lie between two, from term k on. -/
def expTerms (zlo zhi : Nat) : Nat → Nat → Nat × Nat → List (Nat × Nat)
  | 0, _, _ => []
  | n + 1, k, t => t :: expTerms zlo zhi n (k + 1) (t.1 * zlo / 2 ^ 200 / (k + 1), ceilDiv (ceilDiv (t.2 * zhi) (2 ^ 200)) (k + 1))

/-- Sums of the terms of even and of odd number. -/
def evenOdd : List Nat → Nat × Nat
  | [] => (0, 0)
  | a :: r => let y := evenOdd r; (a + y.2, y.1)

/-- Squares a pair of bounds n times. -/
def squareBounds : Nat → Nat × Nat → Nat × Nat
  | 0, b => b
  | n + 1, b => squareBounds n (b.1 * b.1 / 2 ^ 200, ceilDiv (b.2 * b.2) (2 ^ 200))

/-- Bounds of exp(-y) for a finite y = m * 2^e ≥ 0: the alternating series at y / 256, whose partial sums stand on either side of its
limit, squared eight times. From 128 on the lower bound is 0. -/
def expBounds (m : Nat) (e : Int) : Nat × Nat :=
  let at_ (up : Bool) : Nat :=
    let k := e + 200
    if 0 ≤ k then m <<< k.toNat else if up then ceilDiv m (2 ^ (-k).toNat) else m >>> (-k).toNat
  if 128 * 2 ^ 200 ≤ at_ false then (0, 2 ^ 16)
  else
    let terms (n : Nat) : Nat × Nat :=
      let l := expTerms (at_ false / 256) (ceilDiv (at_ true) 256) n 0 (2 ^ 200, 2 ^ 200)
      ((evenOdd (l.map (·.1))).1 - (evenOdd (l.map (·.2))).2, (evenOdd (l.map (·.2))).1 - (evenOdd (l.map (·.1))).2)
    squareBounds 8 ((terms 26).1, (terms 27).2)

/-- Bounds of exp(TEMP * (s - s_max)) for finite scores s ≤ s_max. The argument is taken exactly (DEDUCED, log 10: rounded to FP32 it
would break the rule's bound on the weights). -/
def expOfPair (temp smax v : W32) : Nat × Nat :=
  match (val32 temp).mul ((val32 smax).add (val32 v).neg) with
  | .fin _ m e => expBounds m e
  | _ => (0, 0)

/-- A value in units of 2^-200; 0 for what is no finite value of at least 2^-200. -/
def unit200 (w : W32) : Nat :=
  match val32 w with
  | .fin false m e => m <<< (e + 200).toNat
  | _ => 0

/-- The least normal FP32 value in units of 2^-200. No FP32 value below it keeps a relative bound. -/
def leastNormal200 : Nat := 2 ^ 74

/-- An FP32 word lies within a relative 2^-k of everything between two bounds; where those lie below the normal values, it is one of them
or the least normal value. -/
def nearBounds (k : Nat) (b : Nat × Nat) (w : W32) : Bool :=
  !(notFinite32 w) && !(w.getLsbD 31) &&
    (if b.2 < leastNormal200 then decide (unit200 w ≤ leastNormal200)
     else decide (unit200 w * 2 ^ k < b.1 * (2 ^ k + 1)) && decide (b.2 * (2 ^ k - 1) < unit200 w * 2 ^ k))

/-- The value nearest to exp(TEMP * (s - s_max)). -/
def expNearest (temp smax v : W32) : W32 := enc32 (.fin false (expOfPair temp smax v).1 (-200))

/-- e of R157 as the Winnow computes it: a value that the spec leaves open within a relative error of 2^-22 (log 10). -/
def expValue (temp smax v : W32) : W32 :=
  let f := Config.expApprox temp smax v
  if nearBounds 22 (expOfPair temp smax v) f then f else expNearest temp smax v

/-- The weights that a choice of exponentials gives to pairs (R157). -/
def weightsBy (f : W32 → W32) (l : List (Nat × W32)) : List (Nat × W32) :=
  let e := l.map fun x => (x.1, if x.2 = negInf then 0#32 else f x.2)
  let total := match e.map (·.2) with
    | [] => 0#32
    | a :: r => r.foldl fadd a
  e.map fun x => (x.1, fdiv x.2 total)

/-- Every weight lies within a relative 2^-19 of the exact softmax of the pair scores (R157). -/
def weightsNear (temp smax : W32) (l ws : List (Nat × W32)) : Bool :=
  let b := l.map fun x => if x.2 = negInf then (0, 0) else expOfPair temp smax x.2
  let lo := (b.map (·.1)).foldl (· + ·) 0
  let hi := (b.map (·.2)).foldl (· + ·) 0
  (b.zip ws).all fun y => decide (y.1.2 = 0) ||
    nearBounds 19 (y.1.1 * 2 ^ 200 / hi, ceilDiv (y.1.2 * 2 ^ 200) lo) y.2.2

/-- The weights of the selected pairs (R157): none where the greatest score is not finite. The open exponentials are used where the
weights they give keep the rule's second bound too, and the nearest values elsewhere. -/
def softmax (temp : W32) (l : List (Nat × W32)) : Option (List (Nat × W32)) :=
  match l with
  | [] => none
  | m :: _ =>
    if notFinite32 m.2 then none
    else
      let ws := weightsBy (expValue temp m.2) l
      some (if weightsNear temp m.2 l ws then ws else weightsBy (expNearest temp m.2) l)

/-! Commands in the Winnow -/

/-- The keyed command of a tracker. -/
def State.keyedOf (s : State) (t : TrackerId) : Option KeyedCmd := s.keyed.find? fun k => decide (k.t = t)

/-- Changes a keyed command. -/
def State.modKeyed (s : State) (t : TrackerId) (f : KeyedCmd → KeyedCmd) : State :=
  { s with keyed := updFirst (fun k => decide (k.t = t)) f s.keyed }

/-- Heads that pool into one bag. -/
def KeyedCmd.perBag (k : KeyedCmd) : Nat := if kHeadSum k.desc then kHeads k.desc else 1
/-- The bag of the head in hand. -/
def KeyedCmd.bag (k : KeyedCmd) : Nat := k.head / k.perBag
/-- Entries of a bag in the selection arrays (R160). -/
def KeyedCmd.bagEntries (k : KeyedCmd) : Nat := k.perBag * k.k

/-- The bound commands with heads left to score in a bank (R161). -/
def State.bankUsers (s : State) (b : Fin 2) : Nat :=
  (s.keyed.filter fun k => decide (k.bank = some b) && decide (k.head < k.count)).length

/-- A bank holds a layer. -/
def Bank.holds (b : Bank) (p : Part) (layer : Nat) (base : W64) : Bool :=
  decide (b.state ≠ .empty) && decide (b.part = p) && decide (b.layer = layer) && decide (b.base = base)

/-- A fill is for a layer. -/
def Fill.isFor (f : Fill) (p : Part) (layer : Nat) (base : W64) : Bool :=
  decide (f.part = p) && decide (f.layer = layer) && decide (f.base = base)

/-- The Winnow is gated in Rest (R369). -/
def State.winnowGated (s : State) : Bool := decide (s.fld fJePwrStatus_WINNOW_GATED = 1)

/-- A BYPASSED Winnow is clock-gated, but for its self-test and its reinitialisation (R167, R397). -/
def State.winnowOff (s : State) : Bool :=
  decide (s.fld fJeWinnowCtl_STATE = 2) && !s.winnowInit && decide (s.fld fJeUnitTest_BUSY = 0)

/-! The power state that JE_PWR_STATUS reports (R369, R379) -/

/-- The always-on cycles since the last change of the state, a free amount, are counted for it (R379). -/
def State.accrue (s : State) : State :=
  let v := s.draw
  let st := v.2.fld fJePwrStatus_STATE
  v.2.setReg .jePwrResid (v.2.reg .jePwrResid st + v.1) st

/-- The energy of a sleep so far, a free amount, is counted: the always-on controller adds it cycle by cycle (R378). -/
def State.sleepEnergy (s : State) : State := let v := s.draw; v.2.setReg .jeEnergy (v.2.reg .jeEnergy + v.1)

/-- Sets the state of JE_PWR_STATUS, and tells the power manager. -/
def State.setPower (s : State) (st : Nat) : State :=
  if s.fld fJePwrStatus_STATE = st then s else (s.accrue.setFld fJePwrStatus_STATE st).emit (.pwrState st)

/-- The engine is in Rest while the lanes of every slice and the Winnow are gated, else Awake; a sleeping engine stays as it is. -/
def State.restSync (s : State) : State :=
  if 2 ≤ s.fld fJePwrStatus_STATE then s
  else s.setPower (if s.fld fJePwrStatus_LANES_GATED = 255 ∧ (s.winnowGated ∨ s.winnowOff) then 1 else 0)

/-! Hand-over (R159, R160) -/

/-- Adds a head's entries to its bag; the first head of a bag brings it into its pipeline. -/
def State.giveEntries (s : State) (k : KeyedCmd) (l : List (W64 × W32)) : State :=
  let b := k.bag
  let last := decide ((k.head + 1) % k.perBag = 0)
  match s.bag k.t b with
  | some _ =>
    s.modBag k.t b fun g => { g with entries := g.entries ++ l, stop := g.stop + l.length, whole := last }
  | none => (s.pushBag (newBag k.t b 0 l.length l last)).modBatch k.t fun bt => { bt with nextBag := b + 1 }

/-- Queries that the Winnow holds ahead of their turn; those of a command with a parked request keep no other waiting. -/
def State.queriesAhead (s : State) : Nat :=
  sumBy (fun (k : KeyedCmd) => if (s.trk k.t).any (fun x => s.cmdParked x.part x.id) then 0 else k.ahead.length) s.keyed

/-- Writes the selection arrays of a bag (R160). The flag says whether the writes went out. -/
def State.writeSel (s : State) (x : Tracker) (k : KeyedCmd) (sel : List (W32 × W32)) : State × Bool :=
  let at_ := 4 * k.bag * k.bagEntries
  let put (s : State) (base : Nat) (vs : List W32) : State × Bool :=
    if base = 0 then (s, true)
    else s.writePart x.part (.cmd x.id) ((base + at_) % 2 ^ 64) (vs.flatMap fun v => leBytes 4 v.toNat) false (some x.id)
  let both := (if kSelIdx k.desc = 0 then [] else granAddrs (kSelIdx k.desc + at_) (4 * sel.length)) ++
    (if kSelWgt k.desc = 0 then [] else granAddrs (kSelWgt k.desc + at_) (4 * sel.length))
  match s.lookAll x.part (.cmd x.id) .write both with
  | (s1, none) => (s1, false)
  | (s1, some _) =>
    let r := put s1 (kSelIdx k.desc) (sel.map (·.1))
    put r.1 (kSelWgt k.desc) (sel.map (·.2))

/-- A head ends: with its handed entries and selections, as rejected, or as poisoned. The bag's selections are written with its
last head. The flag says whether it went. -/
def State.endHead (s : State) (x : Tracker) (k : KeyedCmd) (entries : List (W64 × W32)) (sel : List (W32 × W32)) (poison : Bool) :
    State × Bool :=
  let bad := k.bad || poison
  let all := k.sel ++ sel
  let last := decide ((k.head + 1) % k.perBag = 0)
  let out := if bad then List.replicate k.bagEntries noSel else all
  let w := if last then s.writeSel x k out else (s, true)
  if !w.2 then (w.1, false)
  else
    let s1 := w.1.giveEntries k entries
    let s2 := if poison then s1.poisonBag k.t k.bag else s1
    let next (k : KeyedCmd) : KeyedCmd := { k with
      head := k.head + 1, stage := .idle, q := [], topA := [], topB := [], pairs := []
      sel := if last then [] else all, bad := if last then false else bad }
    let s3 := s2.modKeyed k.t next
    (if k.count ≤ k.head + 1 then ({ s3 with keyed := s3.keyed.filter fun y => decide (y.t ≠ k.t) } : State).settlePool k.t else s3, true)

/-- A rejected head (R154, R157). The flag says whether it went. -/
def State.rejectHead (s : State) (x : Tracker) (k : KeyedCmd) : State × Bool :=
  match s.endHead x k [] (List.replicate k.k noSel) false with
  | (s1, false) => (s1, false)
  | (s1, true) => ((s1.bump fJpKeyedStat_REJECTED x.part.val).modTrk x.id fun y => { y with detailHi := y.detailHi + 1 }, true)

/-! The rows of chapter 6 -/

/-- KEYED_LOOKUP (R150, R152, R162): it waits in the Winnow's queue; its bags will come with their entries. -/
def execKeyedLookup (t : TrackerId) (s : State) : Host.Outcome State Fault Refusal :=
  stepTo (match s.startable t 0x18 with
    | none => s
    | some x =>
      let b : Batch := { newBatch t x.cmd .keyed true with bagCount := x.bags }
      { s.run t with
        batches := s.batches ++ [b]
        deliveries := s.deliveries ++ [deliveryOf t x.cmd false (cW3 x.cmd) (cKeyedStride x.cmd)] })

/-- Counts a command's first wait for a fill. -/
def State.fillWait (s : State) (k : KeyedCmd) : State :=
  if k.waited then s else (s.bump fJeWinnowStat_FILL_WAITS).modKeyed k.t fun k => { k with waited := true }

/-- Every head of a command bound to a POISONED bank ends poisoned (R163); fuel bounds the heads. -/
def State.poisonHeads (s : State) (x : Tracker) : Nat → State
  | 0 => s
  | n + 1 =>
    match s.keyedOf x.id with
    | none => s
    | some k => match s.endHead x k [] (List.replicate k.k noSel) true with
      | (s1, false) => s1
      | (s1, true) => s1.poisonHeads x n

/-- The bank a fill goes to, as it is chosen when the fill is asked for: the one that holds its layer in any state, else the one not
bound to last (R161). -/
def State.fillTarget (s : State) (p : Part) (layer : Nat) (base : W64) : Fin 2 :=
  match (List.finRange 2).find? (fun b => s.banks[b].holds p layer base) with
  | some b => b
  | none => if s.lastBound = 0 then 1 else 0

/-- The demand fill that a command has asked for. -/
def State.demandOf (s : State) (t : TrackerId) : Option Fill := s.fills.find? fun f => f.demand && decide (f.t = t)

/-- A queued command binds to a bank; a demand fill of its own that has not started is not needed any more (DESIGN CHOICE, log 42). -/
def State.bindTo (s : State) (t : TrackerId) (b : Fin 2) : State :=
  ({ s.modKeyed t (fun k => { k with bank := some b }) with
    lastBound := b
    fills := s.fills.filter fun f => !(f.demand && decide (f.t = t))
    streams := if (s.demandOf t).isSome then s.streams.filter fun c => decide (c.t ≠ some t) else s.streams } : State).releaseCtx

/-- WINNOW_BIND (R161 to R163): a queued command binds to the bank of its layer, asks for a demand fill, or completes with
SUBKEYS_ABSENT. A bank has at most 64 users (R168), and a further command stays in the queue (DESIGN CHOICE, log 42). -/
def execWinnowBind (t : TrackerId) (s : State) : Host.Outcome State Fault Refusal :=
  stepTo (match s.keyedOf t, s.trk t with
    | some k, some x =>
      let base := BitVec.ofNat 64 (kBase k.desc)
      let here (b : Fin 2) (st : BankState) : Bool := s.banks[b].holds x.part k.layer base && decide (s.banks[b].state = st)
      if s.winnowGated ∨ x.phase ≠ .running ∨ k.stage = .aborted then s
      else match k.bank with
      | some b => if s.banks[b].state = .poisoned then s.poisonHeads x k.count else s
      | none =>
        match (List.finRange 2).find? (fun b => here b .resident || here b .poisoned) with
        | some b =>
          if 64 ≤ s.bankUsers b then s
          else if here b .poisoned then (s.bindTo t b).poisonHeads x k.count
          else s.bindTo t b
        | none =>
          if (s.demandOf t).isSome then s
          else if (List.finRange 2).any (fun b => here b .filling) then s.fillWait k
          else if s.fld fJeWinnowCtl_DEMAND = 1 ∧ 16 ≤ s.streamMax x.part then
            let f : Fill := ⟨x.part, k.layer, base, kImageLen k.desc, kNA k.desc, kDim k.desc, t, true, s.fillTarget x.part k.layer base, none⟩
            (({ s with fills := s.fills ++ [f] } : State).bump fJeWinnowStat_DEMAND_FILLS).fillWait k
          else
            (({ s with keyed := s.keyed.filter fun y => decide (y.t ≠ t) } : State).bump fJpKeyedStat_ABSENT x.part.val).only t stSubkeysAbsent
    | _, _ => s)

/-! Queries (R150, R154, R164) -/

/-- Heads of a query group. -/
def KeyedCmd.group (k : KeyedCmd) : Nat := kHeads k.desc

/-- Heads of a command whose queries have been read. -/
def KeyedCmd.taken (k : KeyedCmd) : Nat := k.head + (if k.stage = .idle then 0 else 1) + k.ahead.length

/-- A bound command has queries left to read: it is not bound to a POISONED bank, and no request of it is parked. -/
def State.takes (s : State) (k : KeyedCmd) : Bool :=
  k.bank.any (fun b => decide (s.banks[b].state ≠ .poisoned)) && decide (k.stage ≠ .aborted) && decide (k.taken < k.count) &&
    (s.trk k.t).any fun x => !(s.cmdParked x.part x.id)

/-- The oldest bound command of a partition that has queries left to read (R164). -/
def State.firstTaker (s : State) (p : Part) : Option TrackerId :=
  (s.keyed.find? fun k => s.takes k && (s.trk k.t).any fun x => decide (x.part = p)).map (·.t)

/-- A command may read its next query (R164): it goes on with its query group; else no other group is open and its partition is the next
in rotation. Up to 8 heads are read ahead. -/
def State.headTurn (s : State) (k : KeyedCmd) (p : Part) : Bool :=
  let inGroup (y : KeyedCmd) : Bool := s.takes y && decide (y.taken % y.group ≠ 0)
  let next := ((List.range 16).map fun i => (Fin.ofNat 16 (s.queryTurn.val + 1 + i) : Part)).find? fun q => (s.firstTaker q).isSome
  s.takes k && (decide (k.stage = .idle) || decide (s.queriesAhead < 8)) &&
    (inGroup k || (!(s.keyed.any inGroup) && decide (next = some p) && decide (s.firstTaker p = some k.t)))

/-- Goes on with the queries of a command that have been read: a poisoned or rejected head ends, and the next one goes to the array
(R154). The number bounds the heads. -/
def State.nextHeads (s : State) (x : Tracker) : Nat → State
  | 0 => s
  | n + 1 =>
    match s.keyedOf x.id with
    | none => s
    | some k =>
      let pop (s : State) : State := s.modKeyed x.id fun y => { y with ahead := y.ahead.drop 1 }
      match k.stage, k.ahead with
      | .idle, q :: _ =>
        if q.poison then
          match s.endHead x k [] (List.replicate k.k noSel) true with
          | (s1, false) => s1
          | (s1, true) => (pop s1).nextHeads x n
        else if q.reject then
          match s.rejectHead x k with
          | (s1, false) => s1
          | (s1, true) => (pop s1).nextHeads x n
        else (pop s).modKeyed x.id fun y => { y with stage := .query, q := q.q }
      | _, _ => s

/-- WINNOW_QUERY_RETURN (R150, R154, R164, R386): the next query of a command returns and is checked. -/
def execWinnowQueryReturn (t : TrackerId) (s : State) : Host.Outcome State Fault Refusal :=
  stepTo (match s.trk t with
    | none => s
    | some x =>
      let s0 := if s.winnowGated then s else s.nextHeads x 9
      match s0.keyedOf t with
      | none => s0
      | some k =>
        if s0.winnowGated ∨ !(s0.headTurn k x.part) then s0
        else
          let n := 2 * kDim k.desc
          match s0.readPart x.part (.cmd t) ((k.query.toNat + 2 * n * k.taken) % 2 ^ 64) (2 * n) with
          | (s1, none) => s1
          | (s1, some (bs, poison)) =>
            let q := (List.range n).map fun i => BitVec.ofNat 16 (bytesAt bs (2 * i) 2)
            let s2 : State := if k.taken % k.group = 0 then { s1 with queryTurn := x.part } else s1
            (s2.modKeyed t fun k => { k with ahead := k.ahead ++ [⟨q, poison, q.any badBf16⟩] }).nextHeads x 9)

/-- WINNOW_SET_SCORED (R153, R155): set A, then set B, has been scored and its list settles. -/
def execWinnowSetScored (t : TrackerId) (s : State) : Host.Outcome State Fault Refusal :=
  stepTo (match s.keyedOf t with
    | none => s
    | some k =>
      match k.bank with
      | none => s
      | some b =>
        let dk := kDim k.desc
        if s.winnowGated then s
        else if k.stage = .query then
          let l := topK k.k (s.banks[b].scores (k.q.take dk) dk 0 (kNA k.desc))
          s.modKeyed t fun k => { k with stage := .setA, topA := l }
        else if k.stage = .setA then
          let l := topK k.k (s.banks[b].scores (k.q.drop dk) dk (kNA k.desc) (kNB k.desc))
          (s.modKeyed t fun k => { k with stage := .setB, topB := l }).bump fJeWinnowStat_HEADS
        else s)

/-- WINNOW_PAIRS_SELECTED (R156). -/
def execWinnowPairsSelected (t : TrackerId) (s : State) : Host.Outcome State Fault Refusal :=
  stepTo (match s.keyedOf t with
    | none => s
    | some k =>
      if k.stage = .setB ∧ !s.winnowGated then
        s.modKeyed t fun k => { k with stage := .pairs, pairs := topK k.k (pairsOf (kNB k.desc) k.topA k.topB) }
      else s)

/-- WINNOW_WEIGHTS_DONE (R157, R159, R160): the weights of a head; its entries go to the Sieve in rank order, and the head whose query is
read already follows. -/
def execWinnowWeightsDone (t : TrackerId) (s : State) : Host.Outcome State Fault Refusal :=
  stepTo (match s.keyedOf t, s.trk t with
    | some k, some x =>
      if k.stage ≠ .pairs ∨ s.winnowGated then s
      else match softmax (kTemp k.desc) k.pairs with
        | none => (s.rejectHead x k).1.nextHeads x 9
        | some ws =>
          let given := ws.filter fun y => decide (y.2 ≠ 0#32)
          let sel := ws.map fun y => if y.2 = 0#32 then noSel else (BitVec.ofNat 32 y.1, y.2)
          (s.endHead x k (given.map fun y => (BitVec.ofNat 64 y.1, y.2)) (sel ++ List.replicate (k.k - sel.length) noSel) false).1.nextHeads x 9
    | _, _ => s)

/-! Fills (R161, R203) -/

/-- Number of the context that the demand fill of a command takes: past every stream number (R203). -/
def demandId (t : TrackerId) : Nat := 4096 + t.toNat

/-- The descriptor that a demand fill acts under (R203): DIMS 1, SLOTS 4, SLOT_LOG2 18, one receiver. -/
def demandDesc (f : Fill) : BitVec 1024 := BitVec.ofNat 1024 (f.base.toNat + f.bytes * 2 ^ 64 + (1 + 4 * 2 ^ 4 + 18 * 2 ^ 12) * 2 ^ 96)

/-- The stream of a demand fill: once a context and 16 units are there, out of early work where need be (R203, R209). -/
def State.fillStream (s : State) (f : Fill) : State × Bool :=
  if !f.demand ∨ s.streams.any (fun c => decide (c.t = some f.t)) then (s, true)
  else
    let s1 := s.makeRoom f.part 16 s.streams.length
    if s1.streamRoom f.part 16 then
      let rcv := { rcvStart 0 with kind := 2, layer := f.layer }
      ({ s1 with
        streams := s1.streams ++ [⟨some f.t, none, f.part, demandId f.t, demandDesc f, [rcv], [], 0, 0, false, false, none, false, []⟩]
        sctx := s1.sctx ++ [⟨f.part, demandId f.t, 4, 18, 16⟩] }, true)
    else (s1, false)

/-- A fill starts: its target becomes FILLING, and the other bank, where it holds the layer, STALE (R161). -/
def State.beginFill (s : State) (f : Fill) : State :=
  let b := f.target
  let other : Fin 2 := if b = 0 then 1 else 0
  let old := s.banks[other]
  let bk : Bank := ⟨.filling, f.part, f.layer, f.base, [], [], false⟩
  { s with
    banks := (s.banks.set b bk).set other (if old.holds f.part f.layer f.base then { old with state := .stale } else old)
    fills := updFirst (fun g => decide (g = f)) (fun g => { g with bank := some b }) s.fills }

/-- The first of some fills that may start does: its stream runs, and its target has no users and is not being filled. -/
def State.startFills (s : State) : List Fill → State
  | [] => s
  | f :: rest =>
    match s.fillStream f with
    | (s1, false) => s1.startFills rest
    | (s1, true) =>
      if 0 < s1.bankUsers f.target ∨ s1.banks[f.target].state = .filling then s1.startFills rest else s1.beginFill f

/-- SUBKEY_FILL_START (R161, R203): the oldest waiting fill that may start does. -/
def execSubkeyFillStart (s : State) : Host.Outcome State Fault Refusal :=
  stepTo (if s.fld fJeWinnowCtl_STATE ≠ 0 then s else s.startFills (s.fills.filter fun f => decide (f.bank = none)))

/-- The keys with a NaN or infinite value (R155). -/
def barredOf (keys : List (BitVec 16)) (dk : Nat) : List Nat :=
  (List.range (keys.length / dk)).filter fun i => ((keys.drop (dk * i)).take dk).any badBf16

/-- The end of a fill with a complete image; the stream of a demand fill ends with it. -/
def State.fillDone (s : State) (b : Fin 2) (f : Fill) : State :=
  let old := s.banks[b]
  let bk : Bank := ⟨if old.poison then .poisoned else .resident, f.part, f.layer, f.base, old.keys, barredOf old.keys f.dk, old.poison⟩
  ({ s with
    banks := s.banks.set b bk
    fills := s.fills.filter fun g => decide (g ≠ f)
    streams := if f.demand then s.streams.filter fun c => decide (c.t ≠ some f.t) else s.streams } : State).releaseCtx

/-- A stream command ends once every receiver is complete (R199), with its poison in its status. -/
def State.settleStream (s : State) (t : TrackerId) : State :=
  match s.trk t, s.streams.find? (fun c => decide (c.t = some t)) with
  | some x, some c =>
    if x.op = 0x30 ∧ x.phase = .running ∧ c.rcvs.all (·.done) then
      let s1 := s.finish t
      if c.poison then s1.poisonCmd t else s1
    else s
  | _, _ => s

/-- SUBKEY_FILL_END (R161, R203): the last line of an image is in its bank. -/
def execSubkeyFillEnd (b : Fin 2) (s : State) : Host.Outcome State Fault Refusal :=
  stepTo (match s.fills.find? (fun f => decide (f.bank = some b)) with
    | none => s
    | some f =>
      if 2 * s.banks[b].keys.length < f.bytes then s
      else
        let s1 := s.fillDone b f
        let done (c : StreamCmd) : StreamCmd :=
          { c with rcvs := c.rcvs.map fun (r : Receiver) => if r.kind = 2 then { r with done := true } else r }
        ({ s1 with streams := updFirst (fun c => decide (c.t = some f.t)) done s1.streams } : State).settleStream f.t)

/-! Bypass (R167) -/

/-- Both banks EMPTY. -/
def State.emptyBanks (s : State) : State := { s with banks := Vector.replicate 2 Bank.reset }

/-- REQ 10 of JE_WINNOW_CTL. -/
def State.winnowBypass (s : State) : State :=
  match s.fld fJeWinnowCtl_STATE with
  | 0 =>
    let queued := s.keyed.filter fun k => decide (k.bank = none) && decide (k.stage ≠ .aborted)
    let s1 := queued.foldl (fun (s : State) k => s.only k.t stWinnowBypassed) s
    let s2 := (s.fills.filter fun f => !f.demand).foldl (fun (s : State) f => s.only f.t stWinnowBypassed) s1
    let filling (b : Bank) : Bank := if b.state = .filling then Bank.reset else b
    (({ s2 with
      keyed := s2.keyed.filter fun k => decide (k.bank ≠ none) || decide (k.stage = .aborted)
      banks := s2.banks.map filling, fills := []
      streams := s2.streams.filter fun c => !(s.fills.any fun f => f.demand && decide (c.t = some f.t)) } : State).releaseCtx).setFld
      fJeWinnowCtl_STATE 1
  | 1 => s.setFld fJeWinnowCtl_ENABLE_PENDING 0
  | _ => s

/-- REQ 01 of JE_WINNOW_CTL. -/
def State.winnowReturn (s : State) : State :=
  match s.fld fJeWinnowCtl_STATE with
  | 1 => s.setFld fJeWinnowCtl_ENABLE_PENDING 1
  | 2 => ({ s with winnowInit := true } : State).restSync
  | _ => s

/-- WINNOW_DRAIN_DONE (R167): no bound command remains. A BYPASSED Winnow reads as gated (JE_PWR_STATUS). -/
def execWinnowDrainDone (s : State) : Host.Outcome State Fault Refusal :=
  stepTo (if s.fld fJeWinnowCtl_STATE = 1 ∧ s.keyed.all (fun k => decide (k.bank = none)) then
    let s1 := s.emptyBanks.setFld fJeWinnowCtl_STATE 2
    if s1.fld fJeWinnowCtl_ENABLE_PENDING = 1 then (s1.setFld fJeWinnowCtl_ENABLE_PENDING 0).winnowReturn else s1.restSync
  else s)

/-- WINNOW_REINIT_DONE (R167, R397): reinitialisation ends; it begins after a self-test that is running. -/
def execWinnowReinitDone (s : State) : Host.Outcome State Fault Refusal :=
  stepTo (if s.winnowInit ∧ s.fld fJeUnitTest_BUSY = 0 then
    ({ s.emptyBanks with winnowInit := false } : State).setFld fJeWinnowCtl_STATE 0
  else s)

end Sys2Proof.Machine
end

