-- ==== Sys2Proof/Machine/Streams.lean ====
section
/-! DEFINITION. Streams (R191 to R213): the walk of a source into the staging ring, reads of remote storage (R336), the
Sprinkler with its drops and catch-up, the bank-free tokens, and early work with its squashes. -/
namespace Sys2Proof.Machine

/-! The ring of a stream (R197) -/

/-- Slot size of a stream. -/
def sSlotBytes (d : BitVec 1024) : Nat := 2 ^ sSlotLog2 d

/-- Granules of slot k of a command: the last one may be partly filled. -/
def sSlotGrans (d : BitVec 1024) (k : Nat) : Nat := min (sSlotBytes d) (sLen d - k * sSlotBytes d) / 64

/-- A slot is wholly filled. -/
def SSlot.full (sl : SSlot) (d : BitVec 1024) : Bool := decide (sSlotGrans d sl.k ≤ sl.data.length)

/-- Number of the slot a command fills next: the first one not full, or a new one at the tail; none once all are filled. -/
def StreamCmd.fillSlot (c : StreamCmd) : Option Nat :=
  match c.slots.find? (fun sl => !(sl.full c.desc)) with
  | some sl => some sl.k
  | none => if c.freed + c.slots.length < sSlotCount c.desc then some (c.freed + c.slots.length) else none

/-- Commands of one stream. -/
def StreamCmd.same (c d : StreamCmd) : Bool := decide (c.part = d.part) && decide (c.id = d.id)

/-- Slots of the ring that a stream's commands hold. -/
def State.slotsHeld (s : State) (c : StreamCmd) : Nat := sumBy (fun (d : StreamCmd) => if d.same c then d.slots.length else 0) s.streams

/-- A command may fill slot k: the commands that started earlier on its stream have filled theirs, and a slot is there or the
ring is not full. -/
def State.mayFill (s : State) (c : StreamCmd) (k : Nat) : Bool :=
  let before := s.streams.takeWhile fun d => decide (d ≠ c)
  (before.all fun d => !(d.same c) || decide (d.fillSlot = none)) &&
    (c.slots.any (fun sl => decide (sl.k = k)) || decide (s.slotsHeld c < sSlots c.desc))

/-- Changes a stream command. -/
def State.modStream (s : State) (f : StreamCmd → Bool) (g : StreamCmd → StreamCmd) : State :=
  { s with streams := updFirst f g s.streams }

/-- The stream command of a tracker. -/
def State.streamOf (s : State) (t : TrackerId) : Option StreamCmd := s.streams.find? fun c => decide (c.t = some t)

/-- Granules enter a slot in stream order, with their poison (R200). -/
def StreamCmd.append (c : StreamCmd) (k : Nat) (gs : List (BitVec 512 × Bool)) (blocks : List Nat) : StreamCmd :=
  let add (sl : SSlot) : SSlot := { sl with
    data := sl.data ++ gs.map (·.1), poison := sl.poison ++ gs.map (·.2), blocks := (sl.blocks ++ blocks).eraseDups }
  let bad := c.poison || gs.any (·.2)
  if c.slots.any (fun sl => decide (sl.k = k)) then
    { c with slots := updFirst (fun sl => decide (sl.k = k)) add c.slots, poison := bad }
  else { c with slots := c.slots ++ [add ⟨k, [], [], false, []⟩], poison := bad }

/-- Granules that slot k of a command holds. -/
def StreamCmd.filledIn (c : StreamCmd) (k : Nat) : Nat :=
  match c.slots.find? (fun sl => decide (sl.k = k)) with
  | some sl => sl.data.length
  | none => 0

/-- Bytes from a stream offset on that lie in one run and in slot k. -/
def sPiece (d : BitVec 1024) (k o : Nat) : Nat := min (sRun d - o % sRun d) (k * sSlotBytes d + 64 * sSlotGrans d k - o)

/-! Tokens and claims (R201, R202) -/

/-- A receiver holds a token it has claimed. -/
def Receiver.holds (r : Receiver) (b : Fin 64) (k : Fin 2) : Bool :=
  decide (r.kind = 1) && decide (r.buffer = b) && decide (r.claim = some k) && !r.readySent

/-- Tokens of a buffer that no receiver has claimed. -/
def State.freeTokens (s : State) (b : Fin 64) : List (Fin 2) :=
  (List.finRange 2).filter fun k => (b, k) ∈ s.tokens && !(s.streams.any fun c => c.rcvs.any fun r => r.holds b k)

/-- The bank a claim takes: with both tokens free, the one not readied last. -/
def State.tokenFor (s : State) (b : Fin 64) : Option (Fin 2) :=
  match s.freeTokens b with
  | [] => none
  | [k] => some k
  | k :: l => some (((k :: l).find? fun j => decide (s.lastReady[b] ≠ some j)).getD k)

/-- A receiver that needs a claim. -/
def Receiver.wants (r : Receiver) (b : Fin 64) : Bool := decide (r.kind = 1) && decide (r.buffer = b) && decide (r.claim = none)

/-- The earliest admitted of the stream commands that need a claim on a buffer. -/
def State.nextClaim (s : State) (b : Fin 64) : Option TrackerId :=
  let need (x : Tracker) : Bool := decide (x.phase ≠ .done) && (s.streamOf x.id).any fun c => c.rcvs.any (·.wants b)
  match s.trackers.filter need with
  | [] => none
  | x :: l => some (l.foldl (fun (m : Tracker) y => if y.serial < m.serial then y else m) x).id

/-- Grants one claim on a buffer, to the earliest command admitted that needs it. -/
def State.grantOne (s : State) (b : Fin 64) : State :=
  match s.tokenFor b, s.nextClaim b with
  | some k, some t => s.modStream (fun c => decide (c.t = some t)) fun c =>
      { c with rcvs := updFirst (·.wants b) (fun r => { r with claim := some k }) c.rcvs }
  | _, _ => s

/-- Grants what both tokens of a buffer allow. -/
def State.grantTokens (s : State) (b : Fin 64) : State := (s.grantOne b).grantOne b

/-- The first claims of a command: each receiver that has to wait counts once (R202). -/
def State.firstClaims (s : State) (x : Tracker) (c : StreamCmd) : State :=
  let bufs := (c.rcvs.filter fun r => decide (r.kind = 1)).map (·.buffer)
  let s1 := bufs.foldl (fun s b => s.grantTokens b) s
  match s1.streamOf x.id with
  | none => s1
  | some d =>
    let n := (d.rcvs.filter fun r => decide (r.kind = 1) && decide (r.claim = none)).length
    let wait (r : Receiver) : Receiver := if r.kind = 1 ∧ r.claim = none then { r with waited := true } else r
    (s1.modStream (fun y => decide (y.t = some x.id)) fun y => { y with rcvs := y.rcvs.map wait }).bump fJpStreamStat_TOKEN_WAITS
      x.part.val n

/-! The row of STREAM -/

/-- The fill that a KIND 2 receiver asks for (R203), with the layer's image shape. -/
def State.fillFor (s : State) (x : Tracker) (c : StreamCmd) (r : Receiver) (kd : BitVec 512) : Fill :=
  ⟨x.part, r.layer, BitVec.ofNat 64 (sSrc c.desc), sRun c.desc, kNA kd, kDim kd, x.id, false,
    s.fillTarget x.part r.layer (BitVec.ofNat 64 (sSrc c.desc)), none⟩

/-- STREAM (R192, R201, R203): the command runs: it claims its banks, and asks for the bank of a sub-key image. A Winnow that has
left service since the admission completes it with WINNOW_BYPASSED (R167). -/
def execStream (t : TrackerId) (s : State) : Host.Outcome State Fault Refusal :=
  stepTo (match s.startable t 0x30, s.streamOf t with
    | some x, some c =>
      match c.rcvs.find? (fun r => decide (r.kind = 2)) with
      | none => (s.run t).firstClaims x c
      | some r =>
        if s.fld fJeWinnowCtl_STATE ≠ 0 then s.only t stWinnowBypassed
        else match s.readPart x.part (.cmd t) (s.fld fJpKeyedDir_BASE x.part * 4096 + 64 * r.layer) 64 with
          | (s1, none) => s1
          | (s1, some (bs, _)) =>
            let f := s1.fillFor x c r (BitVec.ofNat 512 (leNat bs))
            ({ s1 with fills := s1.fills ++ [f] } : State).run t |>.firstClaims x c
    | _, _ => s)

/-! Source reads (R192, R199, R200, R336) -/

/-- A namespace slot. -/
def State.nvmeOf (s : State) (n : Nat) : Option NvmeSlot := s.nvme.find? fun v => decide (v.slot.toNat = n)

/-- NS_BYTES of a namespace record. -/
def NvmeSlot.nsBytes (v : NvmeSlot) : Nat := bitsOf v.rec_ 128 44
/-- LBA size. -/
def NvmeSlot.lba (v : NvmeSlot) : Nat := 2 ^ bitsOf v.rec_ 0 4
/-- VALID. -/
def NvmeSlot.valid (v : NvmeSlot) : Bool := v.rec_.getLsbD 63

/-- n poisoned granules whose bytes never arrived: free values. -/
def State.lostGrans (s : State) (n : Nat) : State × List (BitVec 512 × Bool) :=
  let r := s.drawN n
  (r.2, r.1.map fun v => (BitVec.ofNat 512 v.toNat, true))

/-- Changes receiver i of a stream command. -/
def State.modRcv (s : State) (t : TrackerId) (i : Nat) (f : Receiver → Receiver) : State :=
  s.modStream (fun c => decide (c.t = some t)) fun c => { c with rcvs := c.rcvs.modify i f }

/-- Granules that were read for a stream command enter the slot in fill, or what is read for one receiver alone. -/
def State.putGrans (s : State) (t : TrackerId) (rcv : Option (Fin 64)) (k : Nat) (gs : List (BitVec 512 × Bool)) : State :=
  match rcv with
  | none => s.modStream (fun y => decide (y.t = some t)) fun y => y.append k gs []
  | some i => s.modRcv t i.val fun r => { r with buf := r.buf ++ gs }

/-- A source read of n bytes in remote storage (R336): past NS_BYTES, or in a slot that is not VALID and connected, its granules are
poisoned; otherwise it becomes one Read command of up to 128 KiB, rounded out to whole LBAs. -/
def State.remoteRead (s : State) (t : TrackerId) (rcv : Option (Fin 64)) (k n a : Nat) : State :=
  let off := a % 2 ^ 44
  let lost (m : Nat) : State :=
    let r := s.lostGrans m
    r.1.putGrans t rcv k r.2
  match s.nvmeOf (natBits a 44 8) with
  | none => lost (min 4 (n / 64))
  | some v =>
    if !v.valid ∨ v.state ≠ 1 then lost (min 4 (n / 64))
    else if v.nsBytes < off + 64 then lost (min 4 (n / 64))
    else if 128 ≤ v.reads.length ∨ s.nvme.any (fun w => w.reads.any fun r => decide (r.t = t) && decide (r.rcv = rcv)) then s
    else
      let lo := off / v.lba * v.lba
      let want := min (min n (131072 - (off - lo))) ((v.nsBytes - off) / 64 * 64)
      let len := ceilDiv (off - lo + want) v.lba * v.lba
      let r := s.drawN (len / 8)
      let rd : NvmeRead := ⟨v.nextKey, t, off - lo, want, r.1.flatMap fun w => leBytes 8 w.toNat, a, false, rcv⟩
      let add (w : NvmeSlot) : NvmeSlot := { w with reads := w.reads ++ [rd], nextKey := w.nextKey + 1 }
      ({ r.2 with nvme := updFirst (fun w => decide (w.slot = v.slot)) add r.2.nvme } : State).emit (.nvmeRead v.slot v.nextKey lo len)

/-- The data of a Read command reach what they were read for, or as many poisoned granules. -/
def State.remoteData (s : State) (r : NvmeRead) (good : Bool) : State :=
  match s.streamOf r.t with
  | none => s
  | some c =>
    let bs := r.data.drop r.skip
    let gs := (List.range (r.want / 64)).map fun i => (BitVec.ofNat 512 (leNat ((bs.drop (64 * i)).take 64)), !good)
    match r.rcv, c.fillSlot with
    | some _, _ => s.putGrans r.t r.rcv 0 gs
    | none, some k => s.putGrans r.t none k gs
    | none, none => s

/-- A source read of a stream is translated (R273): by the range it has entered, or by a lookup that enters another. The flag of the
result is the range that the stream then stands in. -/
def State.streamLook (s : State) (x : Tracker) (held : Option RangeEnt) (acc : XAcc) (a : Nat) :
    State × Option (Nat × Option RangeEnt) :=
  let again : State × Option (Nat × Option RangeEnt) :=
    match s.look x.part (.cmd x.id) a acc with
    | (s1, none) => (s1, none)
    | (s1, some y) => (s1, some (y.1, s1.rcache.find? fun e => e.covers x.part a))
  match held.filter (fun e => e.covers x.part a) with
  | none => again
  | some e => match s.hitRes x.part a acc e with
    | .wait => (s, none)
    | .fault _ _ _ => again
    | .hit ph h =>
      let g := (s.touch (.cmd x.id) h).jReadOk (.cmd x.id) ph
      (g.1, if g.2 then some (ph, some e) else none)

/-- The access that a stream's source reads are (R266): a demand fill reads sub-keys. -/
def srcAccess (x : Tracker) : XAcc := if x.op = 0x30 then .stream else .read

/-- STREAM_SOURCE_RETURN (R192, R197, R199, R200, R203, R380, R401): the next source line of a stream, or of the demand fill of a
KEYED_LOOKUP, enters the slot in fill. A parity error on the way, or an injection of class 6, poisons its granules. -/
def execStreamSourceReturn (t : TrackerId) (parityError : Bool) (s : State) (word : EccErr := .clean) : Host.Outcome State Fault Refusal :=
  stepTo (match s.trk t, s.streamOf t with
    | some x, some c =>
      match c.fillSlot with
      | none => s
      | some k =>
        if x.phase ≠ .running ∨ !(s.mayFill c k) then s
        else
          let o := k * sSlotBytes c.desc + 64 * c.filledIn k
          let pa := sAddr c.desc o
          match s.streamLook x c.range (srcAccess x) pa with
          | (s1, none) => s1
          | (s1, some (a, e)) =>
            let s2 := s1.modStream (fun y => decide (y.t = some t)) fun y => { y with range := e }
            if physSpace a = 2 then s2.remoteRead t none k (sPiece c.desc k o) a
            else
              let n := min (4 - pa / 64 % 4) (sPiece c.desc k o / 64)
              let s3 := ((if parityError then s2.bump fJePathStat_PARITY else s2).bwRead x.part (some t) a (64 * n)).jReadDone (.cmd t)
              let inj := s3.fifoWord 6 x.part word
              let bad := parityError || inj.2
              inj.1.putGrans t none k ((List.range n).map fun i =>
                (BitVec.ofNat 512 (inj.1.rdNat (a + 64 * i) 64), bad || inj.1.granPoison (a / 64 + i) (some x.serial)))
    | _, _ => s)

/-! The Sprinkler (R199, R201 to R206) -/

/-- The claims of a command are complete: its first delivery may start (R202, R203). -/
def State.claimsHeld (s : State) (t : TrackerId) (c : StreamCmd) : Bool :=
  c.rcvs.all fun r => (decide (r.kind ≠ 1) || decide (r.claim ≠ none)) &&
    (decide (r.kind ≠ 2) || s.fills.any (fun f => decide (f.t = t) && decide (f.bank ≠ none)) || r.done)

/-- Catch-up readers in use, of 16 (R206). -/
def State.readersBusy (s : State) : Nat :=
  sumBy (fun (c : StreamCmd) => (c.rcvs.filter fun r => r.reader && !r.done).length) s.streams

/-- Reads for receiver i alone the granules of slot k of a stream from number `first` on, up to n of them in its `buf`, as far as they come
at once: for its catch-up reader, through translations of its own, or for a line that is read again (R200, R206). -/
def State.fetchFor (s : State) (x : Tracker) (i : Fin 64) (k first n : Nat) : Nat → State
  | 0 => s
  | fuel + 1 =>
    match s.streamOf x.id with
    | none => s
    | some c =>
      match c.rcvs[i.val]? with
      | none => s
      | some r =>
        let m := r.buf.length
        if n ≤ m then s
        else
          let o := k * sSlotBytes c.desc + 64 * (first + m)
          match s.streamLook x r.range (srcAccess x) (sAddr c.desc o) with
          | (s1, none) => s1
          | (s1, some (a, e)) =>
            let s2 := s1.modRcv x.id i.val fun y => { y with range := e }
            if physSpace a = 2 then
              let s3 := s2.remoteRead x.id (some i) k (min (sPiece c.desc k o) (64 * (n - m))) a
              if s3.nvme.any (fun w => w.reads.any fun y => decide (y.t = x.id) && decide (y.rcv = some i)) then s3
              else s3.fetchFor x i k first n fuel
            else
              let s2 := (s2.bwRead x.part (some x.id) a 64).jReadDone (.cmd x.id)
              (s2.putGrans x.id (some i) k
                [(BitVec.ofNat 512 (s2.rdNat (a / 64 * 64) 64), s2.granPoison (a / 64) (some x.serial))]).fetchFor x i k first n fuel

/-- What has been read for a receiver alone. -/
def State.bufOf (s : State) (t : TrackerId) (i : Fin 64) : List (BitVec 512 × Bool) :=
  ((s.streamOf t).bind fun c => c.rcvs[i.val]?).elim [] (·.buf)

/-- First partition addresses of the runs of a stream (R192). -/
def sRuns (d : BitVec 1024) : List Nat := (List.range (sLen d / sRun d)).map fun r => sAddr d (r * sRun d)

/-- A granule of partition memory is part of a stream's source. -/
def inSource (d : BitVec 1024) (a : Nat) : Bool :=
  (sRuns d).any fun b => decide ((a + 2 ^ 64 - b) % 2 ^ 64 < sRun d)

/-- Where a destination overlaps the stream's source, the bytes there are undefined (R204): free values. -/
def State.overlapped (s : State) (d : BitVec 1024) (a : Nat) (g : BitVec 512 × Bool) : State × BitVec 512 × Bool :=
  if inSource d a then
    let r := s.drawN 8
    (r.2, BitVec.ofNat 512 (leNat (r.1.flatMap fun w => leBytes 8 w.toNat)), g.2)
  else (s, g)

/-- A slot's granules are delivered to a receiver at stream offset o. The flag says whether they went. -/
def State.deliverSlot (s : State) (x : Tracker) (d : BitVec 1024) (r : Receiver) (o : Nat) (gs : List (BitVec 512 × Bool)) :
    State × Bool :=
  match r.kind with
  | 0 =>
    let addrs := (List.range gs.length).map fun i => (r.addr.toNat + o + 64 * i) % 2 ^ 64
    match s.lookAll x.part (.cmd x.id) .write addrs with
    | (s1, none) => (s1, false)
    | (s1, some phs) =>
      (((gs.zip addrs).zip phs).foldl (fun (s : State) y =>
        let v := s.overlapped d y.1.2 y.1.1
        v.1.issueWrite y.2.1 (leBytes 64 v.2.1.toNat) v.2.2 x.part (some x.id) y.2.2) s1, true)
  | 1 => (s.emit (.statWrite r.buffer (r.claim.getD 0) o (gs.map (·.1))), true)
  | _ =>
    match s.fills.find? (fun f => decide (f.t = x.id)) with
    | some f =>
      match f.bank with
      | some b =>
        let bk := s.banks[b]
        let keys := gs.flatMap fun g => (List.range 32).map fun i => BitVec.ofNat 16 (g.1.toNat >>> (16 * i))
        let s1 : State := { s with banks := s.banks.set b { bk with keys := bk.keys ++ keys, poison := bk.poison || gs.any (·.2) } }
        (s1, true)
      | none => (s, false)
    | none => (s, false)

/-- The largest position of a group (R205). -/
def StreamCmd.lead (c : StreamCmd) : Nat := (c.rcvs.filter fun r => !r.dropped).foldl (fun n r => max n r.slots) 0

/-- Drops the receivers more than 4 slots behind the lead, with their events, and counts them in DETAIL (R199, R205). -/
def State.dropLagging (s : State) (x : Tracker) (c : StreamCmd) : State :=
  let out := (List.range c.rcvs.length).filter fun i => (c.rcvs[i]?).any fun r => !r.dropped && decide (r.slots + 4 < c.lead)
  out.foldl (fun (s : State) i =>
    let s1 := (s.modRcv x.id i fun r => { r with dropped := true, again := none, buf := [] }).modTrk x.id fun y =>
      { y with detailHi := y.detailHi + 1 }
    (s1.bump fJpStreamStat_DROPS x.part.val).eventP x.part 0x0D (c.id + i * 65536) x.tag) s

/-- Frees the slots that every receiver of the group has accepted (R197). -/
def StreamCmd.freeSlots (c : StreamCmd) : StreamCmd :=
  let low := (c.rcvs.filter fun r => !r.dropped).foldl (fun n r => min n r.slots) (sSlotCount c.desc)
  { c with slots := c.slots.filter fun sl => decide (low ≤ sl.k), freed := max c.freed low }

/-- Frees slots of a stream's ring in ring order (R197): those of a command once each command that started before it on the stream has
freed all of its own. -/
def freeRing (p : Part) (id : Nat) : List StreamCmd → List StreamCmd
  | [] => []
  | c :: r =>
    if c.part ≠ p ∨ c.id ≠ id then c :: freeRing p id r
    else
      let d := c.freeSlots
      if sSlotCount d.desc ≤ d.freed then d :: freeRing p id r else d :: r

/-- A receiver has accepted its last line: memory is complete; a stationary buffer's bank is readied and its token given up. -/
def State.endReceiver (s : State) (x : Tracker) (i : Nat) (r : Receiver) : State :=
  match r.kind with
  | 0 => s.modRcv x.id i fun r => { r with done := true, reader := false }
  | 1 =>
    let k := r.claim.getD 0
    let s1 := s.modRcv x.id i fun r => { r with readySent := true, reader := false }
    let s2 : State := { s1 with tokens := s1.tokens.filter fun y => decide (y ≠ (r.buffer, k)), lastReady := s1.lastReady.set r.buffer (some k) }
    s2.emit (.statReady r.buffer k r.poison)
  | _ => s.modRcv x.id i fun r => { r with reader := false }

/-- A receiver has accepted slot `r.slots` (R197, R199, R205). -/
def State.accepted (s : State) (x : Tracker) (i : Nat) (r : Receiver) (gs : List (BitVec 512 × Bool)) : State :=
  let bad := gs.any (·.2)
  let s1 := s.modRcv x.id i fun y => { y with
    slots := y.slots + 1, poison := y.poison || bad, atBound := y.dropped, again := none, buf := [] }
  let s2 := s1.modStream (fun y => decide (y.t = some x.id)) fun y => { y with poison := y.poison || bad }
  match s2.streamOf x.id with
  | none => s2
  | some c =>
    let s2a := s2.dropLagging x c
    let s3 : State := { s2a with streams := freeRing c.part c.id s2a.streams }
    let s4 := if sSlotCount c.desc ≤ r.slots + 1 then s3.endReceiver x i { r with poison := r.poison || bad } else s3
    s4.settleStream x.id

/-- A staging read for a receiver (R200): the slot's granules, with the line in parity error replaced by what its source gives a second
time. None while that read is on its way; `fails` says that it fails as well. -/
def State.stagingRead (s : State) (x : Tracker) (c : StreamCmd) (i : Fin 64) (v : Receiver) (sl : SSlot) (parity : Option (Fin 4096))
    (fails : Bool) : State × Option (List (BitVec 512 × Bool)) :=
  let gs := sl.data.zip sl.poison
  let found := match v.again, parity with
    | none, some j => if 4 * j.val < gs.length then some j.val else none
    | _, _ => none
  let s0 := if found.isSome then (s.modRcv x.id i.val fun r => { r with again := found }).bump fJePathStat_PARITY else s
  match v.again.or found with
  | none => (s0, some gs)
  | some j =>
    let n := min 4 (sSlotGrans c.desc sl.k - 4 * j)
    let s1 := s0.fetchFor x i sl.k (4 * j) n 4
    let line := s1.bufOf x.id i
    if line.length < n then (s1, none)
    else
      let s2 := if fails then s1.bump fJePathStat_PARITY else s1
      (s2, some (gs.take (4 * j) ++ line.map (fun g => (g.1, g.2 || fails)) ++ gs.drop (4 * j + n)))

/-- STREAM_RECEIVER_ACCEPT (R197, R199, R200, R205, R206): receiver r takes its next slot, from staging or, once dropped, from a
catch-up reader. `parity` is a line of the slot that the staging read finds in error; it is read from its source once more, and
delivered poisoned where that read fails too. -/
def execStreamReceiverAccept (t : TrackerId) (r : Fin 64) (s : State) (parity : Option (Fin 4096) := none) (rereadError : Bool := false) :
    Host.Outcome State Fault Refusal :=
  stepTo (match s.trk t, s.streamOf t with
    | some x, some c0 =>
      let s := if (c0.rcvs[r.val]?).any (fun v => decide (v.kind = 1) && decide (v.claim = none)) then
          s.grantTokens (((c0.rcvs[r.val]?).map (·.buffer)).getD 0) else s
      let c := (s.streamOf t).getD c0
      match c.rcvs[r.val]? with
      | none => s
      | some v =>
        let o := v.slots * sSlotBytes c.desc
        let give (y : State × Option (List (BitVec 512 × Bool))) : State :=
          match y with
          | (s1, none) => s1
          | (s1, some gs) =>
            match s1.deliverSlot x c.desc v o gs with
            | (s2, false) => s2
            | (s2, true) => s2.accepted x r.val v gs
        if x.phase ≠ .running ∨ !(s.claimsHeld t c) ∨ v.done ∨ v.readySent ∨ sSlotCount c.desc ≤ v.slots ∨ v.atBound then s
        else if v.dropped then
          if !v.reader ∧ 16 ≤ s.readersBusy then s
          else
            let n := sSlotGrans c.desc v.slots
            let s1 := (s.modRcv t r.val fun y => { y with reader := true }).fetchFor x r v.slots 0 n n
            give (s1, if (s1.bufOf t r).length < n then none else some (s1.bufOf t r))
        else match c.slots.find? (fun sl => decide (sl.k = v.slots) && sl.full c.desc) with
          | none => s
          | some sl => give (s.stagingRead x c r v sl parity rereadError)
    | _, _ => s)

/-- CATCHUP_SLOT_BOUNDARY (R206): a catch-up reader has ended a slot; if the command's next slot is still held, filled or being
filled, its receiver rejoins the group and releases the reader. -/
def execCatchupSlotBoundary (t : TrackerId) (r : Fin 64) (s : State) : Host.Outcome State Fault Refusal :=
  stepTo (match s.trk t, s.streamOf t with
    | some x, some c =>
      match c.rcvs[r.val]? with
      | none => s
      | some v =>
        if !v.dropped ∨ !v.atBound then s
        else if c.slots.any (fun sl => decide (sl.k = v.slots)) then
          (s.modRcv t r.val fun y => { y with dropped := false, reader := false, atBound := false }).bump fJpStreamStat_REJOINS x.part.val
        else s.modRcv t r.val fun y => { y with atBound := false }
    | _, _ => s)

/-- STAT_BANK_FREE (R201): the token of a bank returns, and waiting claims are granted. -/
def execStatBankFree (b : Fin 64) (k : Fin 2) (s : State) : Host.Outcome State Fault Refusal :=
  stepTo (({ s with tokens := if (b, k) ∈ s.tokens then s.tokens else s.tokens ++ [(b, k)] } : State).grantTokens b)

/-- STAT_BANK_READY_ACK (R201): the array has taken the bank, and the receiver is complete. -/
def execStatBankReadyAck (b : Fin 64) (k : Fin 2) (s : State) : Host.Outcome State Fault Refusal :=
  stepTo (
    let mine (r : Receiver) : Bool :=
      decide (r.kind = 1) && decide (r.buffer = b) && decide (r.claim = some k) && r.readySent && !r.done
    match s.streams.find? (fun c => c.rcvs.any mine) with
    | none => s
    | some c =>
      match c.t with
      | none => s
      | some t =>
        (s.modStream (fun y => decide (y.t = some t)) fun y =>
          { y with rcvs := updFirst mine (fun r => { r with done := true }) y.rcvs }).settleStream t)

/-- TOKEN_WAIT_EXPIRY (R202): a token wait has exceeded TOKEN_EVENT; the event is raised once for the wait. -/
def execTokenWaitExpiry (t : TrackerId) (r : Fin 64) (s : State) : Host.Outcome State Fault Refusal :=
  stepTo (match s.trk t, s.streamOf t with
    | some x, some c =>
      match c.rcvs[r.val]? with
      | none => s
      | some v =>
        if v.waited ∧ !v.longWait ∧ v.claim = none ∧ s.fld fJeStreamCtl_TOKEN_EVENT ≠ 0 then
          (s.modRcv t r.val fun y => { y with longWait := true }).eventP x.part 0x0C v.buffer.val x.tag
        else s
    | _, _ => s)

/-! Early work (R46, R208 to R212) -/

/-- What becomes of an early read: it goes to HBM, under a range; it waits; or it pauses the work (R210). -/
inductive EarlyRes where
  | read (phys : Nat) (range : RangeEnt)
  | wait
  | pause
deriving DecidableEq, Repr

/-- The translation of an early read (R208, R210): under the range its reads have entered, a cached one, or one that a walk finds;
only device HBM in a device-owned page is read. Nothing is counted, and a fault makes no record. -/
def State.earlyAddr (s : State) (p : Part) (held : Option RangeEnt) (a : Nat) : State × EarlyRes :=
  match (held.filter fun e => e.covers p a).or (s.rcache.find? fun e => e.covers p a) with
  | some e => (s, match s.hitRes p a .stream e with
    | .hit ph _ => if s.isHbm ph ∧ !(s.tracked ph) ∧ !(s.flipping ph) then .read ph e else .pause
    | .wait => .wait
    | .fault _ _ _ => .pause)
  | none =>
    if s.walkFaults.any (fun f => decide (f.part = p) && decide (a ∈ f.addrs)) then
      let drop (f : WalkFault) : WalkFault := if f.part = p then { f with addrs := f.addrs.filter fun y => decide (y ≠ a) } else f
      ({ s with walkFaults := (s.walkFaults.map drop).filter fun f => decide (f.addrs ≠ []) }, .pause)
    else if s.mayTranslate p then (s.missWalk p a true, .wait)
    else (s, .wait)

/-- n bytes that early work reads of a descriptor: none while it waits; inner none where it may not read them, or they are poisoned. -/
def State.earlyRead (s : State) (p : Part) (a n : Nat) : State × Option (Option (List Byte)) :=
  let r := (granAddrs a n).foldl (fun (y : State × List EarlyRes) g =>
    let z := y.1.earlyAddr p none g
    (z.1, y.2 ++ [z.2])) (s, [])
  let ph (e : EarlyRes) : Nat := match e with
    | .read ph _ => ph
    | _ => 0
  if r.2.any (fun e => decide (e = .pause)) then (r.1, some none)
  else if r.2.any (fun e => decide (e = .wait)) then (r.1, none)
  else if r.2.any (fun e => r.1.granPoison (ph e / 64)) then (r.1, some none)
  else (r.1, some (some ((List.range n).map fun k => r.1.rdByte (ph (r.2.getD ((a + k) / 64 - a / 64) .wait) / 64 * 64 + (a + k) % 64))))

/-- Records of the speculation filter in use, of 16,384 (R211). -/
def State.filterUse (s : State) : Nat :=
  (((s.streams.filter fun c => decide (c.t = none)).flatMap fun c => c.slots.flatMap (·.blocks)).eraseDups).length

/-- A soft boundary of the ring is not satisfied: early work past it is speculative (R208). -/
def softOpen (s : State) (c : Cmd) : Bool :=
  (decide (cOp c = 0x01) && !(cHard c)) || (decide (cOp c = 0x02) && !(cHard c) && !((s.waitValue c).any fun v => decide (cW2 c ≤ v)))

/-- A boundary that run-ahead does not pass: a hard MARK or WAIT not satisfied, or FENCE (R46). -/
def hardStop (s : State) (c : Cmd) : Bool :=
  cFence c || (decide (cOp c = 0x01) && cHard c) ||
    (decide (cOp c = 0x02) && cHard c && !((s.waitValue c).any fun v => decide (cW2 c ≤ v)))

/-- The commands that run-ahead of a ring may look at: the fetched ones within RUNAHEAD up to a boundary it does not pass,
with their counts and whether a soft boundary lies before them. -/
def lookAhead (s : State) : Nat → W32 → Bool → List Cmd → List (W32 × Cmd × Bool)
  | 0, _, _, _ => []
  | _, _, _, [] => []
  | n + 1, k, soft, c :: r => if hardStop s c then [] else (k, c, soft) :: lookAhead s n (k + 1) (soft || softOpen s c) r

/-- An admitted hard MARK or hard WAIT of a ring that is not satisfied yet. -/
def State.hardPending (s : State) (r : RingNo) : Bool :=
  s.trackers.any fun x => decide (x.src = .ring r) && decide (x.phase ≠ .done) && (decide (x.op = 0x01) || decide (x.op = 0x02)) && cHard x.cmd

/-- An admitted soft MARK or soft WAIT of a ring that is not satisfied yet. -/
def State.softPending (s : State) (r : RingNo) : Bool :=
  s.trackers.any fun x => decide (x.src = .ring r) && decide (x.phase ≠ .done) && (decide (x.op = 0x01) || decide (x.op = 0x02)) && !(cHard x.cmd)

/-- Starts a STREAM early: its descriptor is read, and it takes a context and units out of its partition's MAX (R208, R209). Where the
read pauses, or the descriptor says NOSPEC or would not be admitted, the command is left to its admission (R210). The flag says whether
the work has started. -/
def State.earlyStart (s : State) (p : Part) (r : RingNo) (k : W32) (c : Cmd) (soft : Bool) : State × Bool :=
  let leave (s : State) : State := s.modRing r fun x => { x with noEarly := x.noEarly ++ [k] }
  match s.earlyRead p (cW2 c).toNat 128 with
  | (s1, none) => (s1, false)
  | (s1, some none) => (leave s1, false)
  | (s1, some (some hd)) =>
    let d : BitVec 1024 := BitVec.ofNat 1024 (leNat hd)
    match s1.earlyRead p (cW2 c).toNat (128 + 16 * (sRcvM1 d + 1)) with
    | (s2, none) => (s2, false)
    | (s2, some none) => (leave s2, false)
    | (s2, some (some bs)) =>
      let rc := rcvRecords bs (sRcvM1 d + 1)
      if sNoSpec d ∨ !(cmdFieldsOk c false) ∨ !(sHeaderOk d) ∨ !(rcvListOk rc (sLen d)) ∨ s2.streamMax p < sUnits d then (leave s2, false)
      else
        let x : StreamCmd := ⟨none, some (r, k), p, cStreamId c, d, rc.map rcvStart, [], 0, 0, soft, false, none, false, []⟩
        let s3 : State := { s2 with streams := s2.streams ++ [x] }
        match s2.ctxOf p (cStreamId c) with
        | some y => if y.slots = sSlots d ∧ y.slotLog2 = sSlotLog2 d then (s3, true) else (s2, false)
        | none =>
          if s2.streamRoom p (sUnits d) then
            ({ s3 with sctx := s3.sctx ++ [⟨p, cStreamId c, sSlots d, sSlotLog2 d, sUnits d⟩] }, true)
          else (s2, false)

/-- Reads the next line of a command's early work, or pauses it (R208, R210, R211). -/
def State.earlyLine (s : State) (c : StreamCmd) : State :=
  match c.fillSlot with
  | none => s
  | some k =>
    let o := k * sSlotBytes c.desc + 64 * c.filledIn k
    let pa := sAddr c.desc o
    let n := min (4 - pa / 64 % 4) (sPiece c.desc k o / 64)
    let put (s : State) (f : StreamCmd → StreamCmd) : State := s.modStream (fun y => decide (y = c)) f
    if !(s.mayFill c k) then s
    else match s.earlyAddr c.part c.range pa with
      | (s1, .wait) => s1
      | (s1, .pause) => put s1 fun y => { y with paused := true }
      | (s1, .read a e) =>
        if 16384 ≤ s1.filterUse ∧ !(s1.streams.any fun d => decide (d.t = none) && d.slots.any fun sl => decide (a / 4096 ∈ sl.blocks)) then
          put s1 fun y => { y with paused := true }
        else
          let gs := (List.range n).map fun i => (BitVec.ofNat 512 (s1.rdNat (a / 64 * 64 + 64 * i) 64), s1.granPoison (a / 64 + i))
          put s1 fun y => { y.append k gs [a / 4096] with range := some e, touched := (y.touched ++ [e.obj]).eraseDups }

/-- EARLY_WORK_START (R46, R208): the stream unit goes ahead on a ring: it starts the next STREAM that run-ahead reaches, or reads a
line for one that has started and has not paused. -/
def execEarlyWorkStart (ring : RingNo) (s : State) : Host.Outcome State Fault Refusal :=
  stepTo (match s.ring ring with
    | none => s
    | some x =>
      if s.fld fJeStreamCtl_EARLY = 0 ∨ x.ctx.halted ∨ x.phase = .disabling ∨ !(s.partEnabled x.part) ∨ s.hardPending ring then s
      else
        let cand := (lookAhead s x.ctx.runahead x.admitAt (s.softPending ring) x.fetched).filter fun y => decide (cOp y.2.1 = 0x30)
        let r := match cand.find? (fun y => (s.earlyOf (.ring ring) y.1).isNone && !(y.1 ∈ x.noEarly)) with
          | some y => s.earlyStart x.part ring y.1 y.2.1 y.2.2
          | none => (s, false)
        if r.2 then r.1
        else match (cand.filterMap fun y => r.1.earlyOf (.ring ring) y.1).find? (fun c => decide (c.fillSlot ≠ none) && !c.paused) with
          | some c => r.1.earlyLine c
          | none => r.1)

end Sys2Proof.Machine
end

