-- ==== Sys2Proof/Machine/Popularity.lean ====
section
/-! DEFINITION. Mixed-width tables (R106, R110 to R115, R228, R229): what the engine does in memory on its own account, the
free-slot rings, promotions, the epoch scan with its demotions and load moves, the class moves and the slots they vacate. -/
namespace Sys2Proof.Machine

/-- Reads bytes granule by granule: each granule's bytes with its poison. -/
def State.engReadGrans (s : State) (p : Part) (l : List (Nat × Nat)) (quiet : Bool := false) :
    Except EngErr (State × List (List Byte × Bool)) :=
  match l with
  | [] => .ok (s, [])
  | (a, n) :: r =>
    match s.engRead p a n .read quiet with
    | .error e => .error e
    | .ok y => match y.1.engReadGrans p r quiet with
      | .error e => .error e
      | .ok z => .ok (z.1, (leBytes n y.2.1, y.2.2) :: z.2)

/-- Writes pieces that each lie in one granule. -/
def State.engPutAll (s : State) (p : Part) : List (Nat × List Byte × Bool) → Except EngErr State
  | [] => .ok s
  | (a, bs, bad) :: r =>
    match s.engPut p a bs .write bad with
    | .error e => .error e
    | .ok s1 => s1.engPutAll p r

/-- The pieces of n bytes from an address that each lie in one granule. -/
def granPieces (a n : Nat) : List (Nat × Nat) :=
  (List.range ((a + n + 63) / 64 - a / 64)).map fun k =>
    let lo := max a ((a / 64 + k) * 64)
    (lo, min (a + n) ((a / 64 + k + 1) * 64) - lo)

/-! Free-slot rings (R110) -/

/-- A free-slot ring record. -/
structure FreeRing where
  rec_ : Nat
  base : Nat
  size : Nat
  head : W32
  tail : W32
  bad : Bool
deriving DecidableEq, Repr

/-- Free slots in a ring. -/
def FreeRing.count (f : FreeRing) : Nat := (f.tail - f.head).toNat

/-- The address of the slot number at a count. -/
def FreeRing.at_ (f : FreeRing) (n : W32) : Nat := f.base + 4 * (n.toNat % 2 ^ f.size)

/-- Reads the ring record of a class. SIZE_LOG2 above 30 acts as 30 (DESIGN CHOICE, log 79). -/
def State.ringRec (s : State) (p : Part) (d : Desc) (k : Nat) : Except EngErr (State × FreeRing) :=
  let a := d.popBase + 64 * k
  match s.engRead p a 24 with
  | .error e => .error e
  | .ok y => .ok (y.1, ⟨a, natBits y.2.1 0 64, min 30 (natBits y.2.1 64 8), BitVec.ofNat 32 (natBits y.2.1 128 32),
      BitVec.ofNat 32 (natBits y.2.1 160 32), y.2.2⟩)

/-- Reads n slot numbers from the head of a ring. -/
def State.ringSlots (s : State) (p : Part) (f : FreeRing) : Nat → W32 → Except EngErr (State × List Nat)
  | 0, _ => .ok (s, [])
  | n + 1, h =>
    match s.engRead p (f.at_ h) 4 with
    | .error e => .error e
    | .ok y => match y.1.ringSlots p f n (h + 1) with
      | .error e => .error e
      | .ok z => .ok (z.1, y.2.1 :: z.2)

/-- Writes HEAD of a ring. -/
def State.ringHead (s : State) (p : Part) (f : FreeRing) (h : W32) : Except EngErr State := s.engPut p (f.rec_ + 16) (leBytes 4 h.toNat)

/-- Appends slots at the tail of a ring. -/
def State.ringAppend (s : State) (p : Part) (f : FreeRing) (l : List Nat) : Except EngErr State :=
  match s.engPutAll p (l.mapIdx fun i x => (f.at_ (f.tail + BitVec.ofNat 32 i), leBytes 4 x, false)) with
  | .error e => .error e
  | .ok s1 => if l = [] then .ok s1 else s1.engPut p (f.rec_ + 20) (leBytes 4 (f.tail + BitVec.ofNat 32 l.length).toNat)

/-! Starting a move (R111, R114) -/

/-- MOVES, from 1 to 64. -/
def State.moveLimit (s : State) : Nat := max 1 (min 64 (s.fld fJePopCtl_MOVES))

/-- The engine may start a move of x (R112, R114, R116): ENABLE is set, the partition is ENABLED, the version is current, no
scatter command that pinned the table is in flight, and x is not on its way already. A table that the Graft lists no change of is
current in its directory slot (R230). -/
def State.mayMove (s : State) (p : Part) (table : Nat) (d : Desc) (x : Nat) : Bool :=
  decide (s.fld fJePopCtl_ENABLE = 1) && s.partEnabled p &&
  s.graft.all (fun g => decide (g.part ≠ p) || decide (g.table ≠ table) || decide (g.desc = d)) &&
  !(s.trackers.any fun y => decide (y.part = p) && y.admitted && (decide (y.op = 0x20) || decide (y.op = 0x21)) &&
    y.pins.any fun q => decide (q.table = table)) &&
  !(s.moves.any fun m => decide (m.part = p) && decide (m.table = table) && decide (m.x = x))

/-- A move enters the list of moves in flight. -/
def State.addMove (s : State) (p : Part) (table : Nat) (d : Desc) (x : Nat) (a b : Nat × Nat) (load : Bool) : State :=
  let id := firstFree (s.moves.map (·.id.val)) 64 0
  { s with moves := s.moves ++ [⟨Fin.ofNat 64 id, p, table, x, a.1, a.2, b.1, b.2, load, d⟩] }

/-- Starts a class move of x to class j, where its ring has a free slot (R111, R112, R113 step 1). -/
def State.startMove (s : State) (p : Part) (table : Nat) (d : Desc) (x : Nat) (a : Nat × Nat) (j : Nat) : Except EngErr State :=
  if !(s.mayMove p table d x) then .ok s
  else if s.moveLimit ≤ s.moves.length then .error .full
  else match s.ringRec p d j with
    | .error e => .error e
    | .ok (s1, f) =>
      if f.bad then .ok s1
      else if f.count = 0 then .ok (s1.bump fJpPopStat_NO_SLOT p)
      else match s1.ringSlots p f 1 f.head with
        | .error e => .error e
        | .ok (s2, l) => match s2.ringHead p f (f.head + 1) with
          | .error e => .error e
          | .ok s3 => .ok (s3.addMove p table d x a (j, l.headD 0) false)

/-- The count of a logical index, and whether its granule reads poisoned. -/
def State.popCount (s : State) (p : Part) (d : Desc) (x : Nat) : Except EngErr (State × Nat × Bool) :=
  s.engRead p (d.popBase + 0x100 + 4 * x) 4 .add

/-- The remap entry of a logical index: the class and slot it maps to, and whether it reads poisoned. -/
def State.popSlot (s : State) (p : Part) (d : Desc) (x : Nat) : Except EngErr (State × Option (Nat × Nat) × Bool) :=
  match s.engRead p (d.remapBase + 4 * x) 4 with
  | .error e => .error e
  | .ok (s1, e, bad) => .ok (s1, d.remapSlot e, bad)

/-- A count's 32-bit word is written back, its granule's poison kept. -/
def State.putCount (s : State) (p : Part) (d : Desc) (x v : Nat) : Except EngErr State :=
  s.engPut p (d.popBase + 0x100 + 4 * x) (leBytes 4 v) .add false false

/-- The promotion of a sampled index (R111): x goes to the next present class below its own. It goes from where its remap entry has it
by now; one that reads poisoned leaves the class and slot it was sampled in. -/
def State.promote (s : State) (q : PopAdd) : Except EngErr State :=
  match ((Desc.classes q.desc).filter fun j => decide (j < q.cls)).getLast? with
  | none => .ok s
  | some j => match s.popSlot q.part q.desc q.x with
    | .error e => .error e
    | .ok (s1, at_, bad) =>
      let a := if bad then some (q.cls, q.slot) else at_
      if a.any fun y => decide (y.1 = q.cls) then s1.startMove q.part q.table q.desc q.x (a.getD (q.cls, q.slot)) j else .ok s1

/-- A popularity add and the promotion it triggers (R111, R179, R180): the count before the add is compared. A promotion that the
limit of moves or a fault holds back is not made. -/
def State.popTake (s : State) (q : PopAdd) : Except EngErr State :=
  match s.popCount q.part q.desc q.x with
  | .error e => .error e
  | .ok (s1, c, bad) =>
    let old : W32 := BitVec.ofNat 32 c
    match s1.putCount q.part q.desc q.x (ofIntW 32 (satInt 32 (toI32 old + 1)).1).toNat with
    | .error e => .error e
    | .ok s2 =>
      if bad then .ok (s2.bump fJpRakeStat_POISON_ADDS q.part.val)
      else if toI32 old < (Desc.upThresh q.desc q.cls : Int) then .ok s2
      else match s2.promote q with
        | .ok s3 => .ok s3
        | .error (.wait a acc) => .error (.wait a acc)
        | .error e => .ok (s2.engWait q.part e)

/-! The epoch scan (R112, R228, R229) -/

/-- The sum of LAST_EPOCH over the slices in service, and their number. -/
def State.loadSum (s : State) : Nat × Nat := (sumBy (fun (n : SliceId) => s.fld fJsShardLoad_LAST_EPOCH n) s.slicesIn, s.slicesIn.length)

/-- A slice is hot (R228). -/
def State.hotSlice (s : State) (n : SliceId) : Bool :=
  let y := s.loadSum
  decide (y.1 * (64 + s.fld fJeBalanceCtl_THRESH) < s.fld fJsShardLoad_LAST_EPOCH n * y.2 * 64)

/-- A slice is cool (R228). -/
def State.coolSlice (s : State) (n : SliceId) : Bool :=
  let y := s.loadSum
  decide (s.sliceState n = 0) && decide (s.fld fJsShardLoad_LAST_EPOCH n * y.2 < y.1)

/-- The slice of line 0 of a slot, where it lies in HBM. -/
def State.slotSlice (s : State) (p : Part) (d : Desc) (k slot : Nat) : Except EngErr (State × Option SliceId) :=
  match s.engAt p ((d.rowBase k + slot * d.stride k) % 2 ^ 64) .read with
  | .error e => .error e
  | .ok (s1, ph, _) => .ok (s1, if s1.isHbm ph then some (s1.sliceOf ph) else none)

/-- The first slot of a list whose line 0 lies in a cool slice. -/
def State.firstCool (s : State) (p : Part) (d : Desc) (k : Nat) : List Nat → Except EngErr (State × Option Nat)
  | [] => .ok (s, none)
  | b :: r => match s.slotSlice p d k b with
    | .error e => .error e
    | .ok (s1, y) => if y.any s1.coolSlice then .ok (s1, some b) else s1.firstCool p d k r

/-- A load move of x within its class (R229). The flag says whether one was started. -/
def State.loadMove (s : State) (p : Part) (table : Nat) (d : Desc) (x : Nat) (a : Nat × Nat) : Except EngErr (State × Bool) :=
  if !(s.mayMove p table d x) then .ok (s, false)
  else match s.slotSlice p d a.1 a.2 with
  | .error e => .error e
  | .ok (s1, y) =>
    if !(y.any s1.hotSlice) then .ok (s1, false)
    else if s1.moveLimit ≤ s1.moves.length then .error .full
    else match s1.ringRec p d a.1 with
    | .error e => .error e
    | .ok (s2, f) =>
      if f.bad then .ok (s2, false)
      else
        let n := min 8 f.count
        match s2.ringSlots p f n f.head with
        | .error e => .error e
        | .ok (s3, l) => match s3.firstCool p d a.1 l with
          | .error e => .error e
          | .ok (s4, got) =>
            let back := match got with
              | some b => eraseFirst (fun z => decide (z = b)) l
              | none => l
            match s4.ringHead p f (f.head + BitVec.ofNat 32 n) with
            | .error e => .error e
            | .ok s5 => match s5.ringAppend p f back with
              | .error e => .error e
              | .ok s6 => match got with
                | some b => .ok (s6.addMove p table d x a (a.1, b) true, true)
                | none => .ok (s6.bump fJpBalanceStat_SKIPPED p, false)

/-- The move that the scan of an index calls for (R112, R229): a demotion, or else a load move. -/
def State.scanMove (s : State) (p : Part) (table : Nat) (d : Desc) (x loads : Nat) (old : Int) (a : Nat × Nat) : Except EngErr (State × Nat) :=
  let down : Except EngErr State := match (d.classes).find? fun j => decide (a.1 < j) with
    | some j => if old / 2 < (d.downThresh a.1 : Int) then s.startMove p table d x a j else .ok s
    | none => .ok s
  match down with
  | .error e => .error e
  | .ok s1 =>
    if s.moves.length = s1.moves.length ∧ s1.fld fJeBalanceCtl_ENABLE = 1 ∧ (s1.fld fJeBalanceCtl_BAL_COUNT : Int) ≤ old ∧
        loads < s1.fld fJeBalanceCtl_BUDGET then
      match s1.loadMove p table d x a with
      | .error e => .error e
      | .ok (s2, m) => .ok (s2, if m then loads + 1 else loads)
    else .ok (s1, loads)

/-- The scan of one logical index (R112, R229): its count is halved, and the move it calls for is started. No move rests on a count or
a remap entry that reads poisoned. -/
def State.scanRow (s : State) (p : Part) (table : Nat) (d : Desc) (x loads : Nat) : Except EngErr (State × Nat) :=
  match s.popCount p d x with
  | .error e => .error e
  | .ok (s1, c, bad) =>
    let old := toI32 (BitVec.ofNat 32 c)
    match s1.putCount p d x (ofIntW 32 (old / 2)).toNat with
    | .error e => .error e
    | .ok s2 =>
      if bad then .ok (s2, loads)
      else match s2.popSlot p d x with
        | .error (.fault a acc) => .ok (s2.engWait p (.fault a acc), loads)
        | .error e => .error e
        | .ok (s3, some a, false) => match s3.scanMove p table d x loads old a with
          | .error (.fault a acc) => .ok (s3.engWait p (.fault a acc), loads)
          | r => r
        | .ok (s3, _, _) => .ok (s3, loads)

/-- The rows of a table from x on. The result says where the scan waits; an index whose lines do not translate is passed by. -/
def State.scanRows (p : Part) (table : Nat) (d : Desc) : Nat → State → Nat → Nat → State × Option (Nat × Nat)
  | 0, s, _, _ => (s, none)
  | n + 1, s, x, loads =>
    match s.scanRow p table d x loads with
    | .ok y => State.scanRows p table d n y.1 (x + 1) y.2
    | .error (.fault a acc) => State.scanRows p table d n (s.engWait p (.fault a acc)) (x + 1) loads
    | .error e => (s.engWait p e, some (x, loads))

/-- The current descriptor of a table: the Graft's, or its directory slot's (R230, R374). -/
def State.currentDesc (s : State) (p : Part) (table : Nat) (quiet : Bool := false) : Except EngErr (State × Option Desc) :=
  match s.graft.find? (fun g => decide (g.part = p) && decide (g.table = table)) with
  | some g => .ok (s, some g.desc)
  | none =>
    let a := s.fld fJpTableDir_BASE p * 4096 + 128 * table
    match s.engReadGrans p [(a, 64), (a + 64, 64)] quiet with
    | .error e => .error e
    | .ok (s1, l) => .ok (s1, if l.any (·.2) then none else some (BitVec.ofNat 1024 (leNat (l.flatMap (·.1)))))

/-- The tables of a partition from one on. -/
def State.scanTables (p : Part) : Nat → State → Nat → Nat → Nat → State × Option (Nat × Nat × Nat)
  | 0, s, _, _, _ => (s, none)
  | n + 1, s, table, x, loads =>
    match s.currentDesc p table with
    | .error (.fault a acc) => State.scanTables p n (s.engWait p (.fault a acc)) (table + 1) 0 0
    | .error e => (s.engWait p e, some (table, x, loads))
    | .ok (s1, none) => State.scanTables p n s1 (table + 1) 0 0
    | .ok (s1, some d) =>
      if d.valid ∧ d.ok ∧ d.migrate then
        match State.scanRows p table d (d.rows - x) s1 x loads with
        | (s2, none) => State.scanTables p n s2 (table + 1) 0 0
        | (s2, some y) => (s2, some (table, y.1, y.2))
      else State.scanTables p n s1 (table + 1) 0 0

/-- The partitions from one on: only those that are ENABLED (R112). -/
def State.scanParts : Nat → State → Scan → State
  | 0, s, _ => { s with scan := none }
  | n + 1, s, c =>
    let next : Scan := { c with p := c.p + 1, table := 0, x := 0, loads := 0 }
    if 16 ≤ c.p then { s with scan := none }
    else if !(s.partEnabled c.p) then State.scanParts n s next
    else
      match State.scanTables (partOf c.p) (dirBound (s.fld fJpTableDir_SIZE_LOG2 c.p) 20 - c.table) s c.table c.x c.loads with
      | (s1, none) => State.scanParts n s1 next
      | (s1, some y) => { s1 with scan := some { c with table := y.1, x := y.2.1, loads := y.2.2 } }

/-- An epoch ends (R228): each slice's count is latched and starts anew. -/
def State.latchLoads (s : State) : State :=
  let s1 := (List.finRange 8).foldl (fun (s : State) (n : SliceId) =>
    s.setFld fJsShardLoad_LAST_EPOCH (min (2 ^ 32 - 1) (s.lineReads[n] / 16)) n) s
  { s1 with lineReads := Vector.replicate 8 0 }

/-- Begins a scan. -/
def State.beginScan (s : State) : State := State.scanParts 17 s.latchLoads ⟨0, 0, 0, 0, false⟩

/-- A scan in progress goes on as far as it can. When it finishes, an epoch that has fallen due meanwhile begins (R112). With ENABLE
clear no scan runs (R116). -/
def State.scanGo (s : State) : State :=
  match s.scan with
  | none => s
  | some c =>
    if s.fld fJePopCtl_ENABLE = 0 then { s with scan := none }
    else
      let s1 := State.scanParts 17 s c
      if s1.scan = none ∧ c.due then s1.beginScan else s1

/-- EPOCH_SCAN (R112, R228): an epoch has passed. A scan that has not finished delays it; EPOCHS_LATE of the partition where that scan
stands counts the delay, and epochs that fall due during one scan are one (DESIGN CHOICE, log 78). -/
def execEpochScan (s : State) : Host.Outcome State Fault Refusal :=
  stepTo (if s.fld fJePopCtl_ENABLE = 0 ∨ s.fld fJePopCtl_EPOCH = 0 then s.scanGo
    else match s.scan with
      | none => s.beginScan
      | some c => (({ s with scan := some { c with due := true } } : State).bump fJpPopStat_EPOCHS_LATE c.p).scanGo)

/-- POP_COUNT_RETURN (R111): the oldest fetch-and-add returns. -/
def execPopCountReturn (s : State) : Host.Outcome State Fault Refusal :=
  stepTo (match s.popAdds with
    | [] => s
    | q :: r =>
      match ({ s with popAdds := r } : State).popTake q with
      | .ok s1 => s1.scanGo
      | .error (.fault a acc) => ({ s with popAdds := r } : State).engWait q.part (.fault a acc)
      | .error e => s.engWait q.part e)

/-! The moves (R113) -/

/-- The canonical NaN for a NaN, and any other value itself (R412). -/
def canon32 (v : W32) : W32 := if isNan32 v then 0x7FC00000#32 else v

/-- The decoded value of a column as FP32, with a weight of 1.0 (R94, R99, R113, R412). -/
def Desc.moveVals (d : Desc) (b : List Byte) (k : Nat) (bytes : List Byte) (col cols : Nat) : List W32 × Bool :=
  let r := d.decodeSeg k bytes cols
  (r.1.mapIdx fun i v => canon32 (d.colValue k b (col + i) v), r.2)

/-- The distance of two FP32 values, exactly: infinite where just one is infinite or their signs differ. -/
def distance (a b : W32) : FV :=
  if val32 a = val32 b then .fin false 0 0
  else match (val32 a).add (val32 b).neg with
    | .fin _ m e => .fin false m e
    | .inf _ => .inf false
    | .nan => .nan

/-- The codes that a codebook class may use for a value: every entry but the escape code. -/
def Desc.codesOf (d : Desc) (k : Nat) : List Nat :=
  (List.range (2 ^ fmtBits (d.format k))).filter fun i => decide (d.escCode k ≠ some i)

/-- The code whose entry is nearest to a value, ties going to the lower code. -/
def Desc.nearest (d : Desc) (k : Nat) (b : List Byte) (c : Nat) (q : W32) : Nat :=
  let l := d.codesOf k
  if notFinite32 q then l.getD (Config.nearestOfNan k c % l.length) 0
  else (l.foldl (fun (best : Option (Nat × FV)) i =>
    let dist := distance q (d.rawVal k b i)
    match best with
    | none => some (i, dist)
    | some y => if dist.lt y.2 then some (i, dist) else some y) none).elim 0 (·.1)

/-- The code of a value in class j (R113). -/
def Desc.encodeVal (d : Desc) (j : Nat) (b : List Byte) (c : Nat) (v : W32) : Nat :=
  let f := d.format j
  match rowFmt f with
  | some ff =>
    if f = 0 then v.toNat
    else match val32 (if fmtScaled f then fdiv v (fbScale b d.dim c) else v) with
      | .inf neg => ff.sign neg + ff.maxFin
      | q => ff.encode true q
  | none =>
    let q := fdiv v (fbScale b d.dim c)
    if f = 5 then (ofIntW 8 (satRne 8 (val32 q)).1).toNat else d.nearest j b c q

/-- An encoding error: the columns with the largest are escaped first. -/
structure EncErr where
  i : Nat
  e : FV
  nan : Bool
deriving DecidableEq, Repr

/-- One error goes before another: larger first, ties to the lower column. -/
def EncErr.before (a b : EncErr) : Bool :=
  if a.nan ≠ b.nan then a.nan else if !a.nan && b.e.lt a.e then true else if !a.nan && a.e.lt b.e then false else decide (a.i < b.i)

/-- The first n of a list under `before`. -/
def takeErrs : Nat → List EncErr → List EncErr
  | 0, _ => []
  | _, [] => []
  | n + 1, x :: r =>
    let m := r.foldl (fun (m : EncErr) y => if y.before m then y else m) x
    m :: takeErrs n (eraseFirst (fun y => decide (y = m)) (x :: r))

/-- The columns of a segment that are escaped (R113). Whether a NaN counts among the largest errors is a free value. -/
def Desc.escaped (d : Desc) (j : Nat) (b : List Byte) (col : Nat) (vs : List W32) (codes : List Nat) : List Nat :=
  if (d.escCode j).isNone then []
  else
    let errs := (vs.zip codes).zipIdx.filterMap fun y =>
      let dec := d.colValue j b (col + y.2) (.code y.1.2)
      if isNan32 y.1.1 ∨ isNan32 dec then
        (if Config.nanEscapes j (col + y.2) then some ⟨y.2, .fin false 0 0, true⟩ else none)
      else
        let e := distance y.1.1 dec
        if (FV.fin false 0 0).lt e then some (⟨y.2, e, false⟩ : EncErr) else none
    (takeErrs d.escSlots errs).map (·.i)

/-- Codes as the bytes of a segment (R91). -/
def packCodes (bits : Nat) : List Nat → List Byte
  | [] => []
  | [a] => if bits = 4 then leBytes 1 a else leBytes (bits / 8) a
  | a :: b :: r => if bits = 4 then leBytes 1 (a + 16 * b) ++ packCodes bits r else leBytes (bits / 8) a ++ packCodes bits (b :: r)

/-- A list of bytes padded with zeros. -/
def padTo (n : Nat) (l : List Byte) : List Byte := (l ++ List.replicate (n - l.length) 0).take n

/-- A segment of class j with the given columns (R91, R93, R113). -/
def Desc.encodeSeg (d : Desc) (j : Nat) (b : List Byte) (bytes col : Nat) (vs : List W32) : List Byte :=
  let codes := vs.mapIdx fun i v => d.encodeVal j b (col + i) v
  let esc := d.escaped j b col vs codes
  let ec := (d.escCode j).getD 0
  let final := codes.mapIdx fun i c => if i ∈ esc then ec else c
  let body := padTo (d.codeBytes j bytes) (packCodes (fmtBits (d.format j)) final)
  let tail := (vs.zipIdx.filter fun y => decide (y.2 ∈ esc)).flatMap fun y => leBytes 4 y.1.toNat
  if d.codeBytes j bytes = bytes then body else body ++ padTo (bytes - d.codeBytes j bytes) (leBytes 4 esc.length ++ tail)

/-- The bytes of a format block in memory, for a table whose block no command holds. -/
def State.moveBlock (s : State) (p : Part) (d : Desc) : Except EngErr (State × List Byte) :=
  if !d.needsBlock then .ok (s, [])
  else match s.block p d with
    | some b => .ok (s, b)
    | none => match s.engReadGrans p (granPieces d.fmtBase (fmtBlockSize d.dim)) with
      | .error e => .error e
      | .ok (s1, l) => .ok (s1, l.flatMap (·.1))

/-- The granules of a row, by its segments. -/
def Desc.rowPieces (d : Desc) (k slot : Nat) : List (Nat × Nat) :=
  (d.segs k).flatMap fun g => granPieces (d.rowBase k + slot * d.stride k + g.1) g.2.1

/-- The copies of a slot's lines in a replicated table (R92): the addresses of each granule piece, from the first copy's place. -/
def State.copyPieces (s : State) (d : Desc) (k slot : Nat) : List (Nat × Nat × Nat) :=
  if !d.replicated then (d.rowPieces k slot).map fun y => (y.1, y.2, y.1 - (d.rowBase k + slot * d.stride k))
  else
    let n := s.mappedList.length
    (d.rowPieces k slot).flatMap fun y =>
      let off := y.1 - d.rowBase k
      (List.range n).map fun j => (d.rowBase k + 256 * (off / 256 * n + j) + off % 256, y.2, y.1 - (d.rowBase k + slot * d.stride k))

/-- The bytes of a row with each byte's poison, from slot a. A replicated row is read in its first copy. -/
def State.readRow (s : State) (p : Part) (d : Desc) (k slot : Nat) : Except EngErr (State × List (List Byte × Bool)) :=
  let n := if d.replicated then max 1 s.mappedList.length else 1
  let at_ (y : Nat × Nat) : Nat × Nat :=
    let off := y.1 - d.rowBase k
    if d.replicated then (d.rowBase k + 256 * (off / 256 * n) + off % 256, y.2) else y
  s.engReadGrans p ((d.rowPieces k slot).map at_)

/-- The row of a move as it is written to slot b, and the segments of the source that are malformed. -/
def RowMove.encode (m : RowMove) (b : List Byte) (row : List Byte) : List Byte × Nat :=
  let d : Desc := m.desc
  if m.load then (row, 0)
  else
    let src := (d.segs m.fromCls).map fun g => d.moveVals b m.fromCls ((row.drop g.1).take g.2.1) g.2.2.1 g.2.2.2
    let vs := src.flatMap (·.1)
    ((d.segs m.toCls).flatMap fun g => d.encodeSeg m.toCls b g.2.1 g.2.2.1 ((vs.drop g.2.2.1).take g.2.2.2), (src.filter (·.2)).length)

/-- Steps 2 to 5 of a move (R113): the row is read, encoded and written to its new slot, and the remap entry is written. A source
granule that reads poisoned poisons what is formed from it. -/
def State.doMove (s : State) (m : RowMove) : Except EngErr State :=
  let d : Desc := m.desc
  match s.moveBlock m.part d with
  | .error e => .error e
  | .ok (s1, b) => match s1.readRow m.part d m.fromCls m.fromSlot with
    | .error e => .error e
    | .ok (s2, src) =>
      let r := m.encode b (src.flatMap (·.1))
      let bad (off : Nat) : Bool := if m.load then (src.getD (off / 64) ([], false)).2 else src.any (·.2)
      let pieces := (s2.copyPieces d m.toCls m.toSlot).map fun y => (y.1, (r.1.drop y.2.2).take y.2.1, bad y.2.2)
      match s2.engPutAll m.part pieces with
      | .error e => .error e
      | .ok s3 => match s3.engPut m.part (d.remapBase + 4 * m.x) (leBytes 4 (m.toCls * 2 ^ 30 + m.toSlot)) with
        | .error e => .error e
        | .ok s4 => .ok (s4.bump fJpWidenStat_BAD_ESC m.part r.2)

/-- A vacated slot waits for the commands admitted before now (R76). -/
def State.slotBack (s : State) (m : RowMove) (cls slot before : Nat) : State :=
  { s with slotBacks := s.slotBacks ++ [⟨m.part, m.table, cls, slot, before, m.desc⟩] }

/-- A move is over. -/
def State.dropMove (s : State) (m : RowMove) : State := { s with moves := eraseFirst (fun y => decide (y.id = m.id)) s.moves }

/-- CLASS_MOVE_DONE (R113, R229): move k has written its row and its remap entry; the scan goes on. A move whose addresses do not
translate is given up, and its new slot goes back to the ring. -/
def execClassMoveDone (k : Fin 64) (s : State) : Host.Outcome State Fault Refusal :=
  stepTo (match s.moves.find? (fun m => decide (m.id = k)) with
    | none => s
    | some m =>
      match s.doMove m with
      | .ok s1 =>
        let s2 := (s1.dropMove m).slotBack m m.fromCls m.fromSlot s1.admitted
        (if m.load then s2.bump fJpBalanceStat_BALANCED m.part
          else if m.toCls < m.fromCls then s2.bump fJpPopStat_PROMOTED m.part
          else s2.bump fJpPopStat_DEMOTED m.part).scanGo
      | .error (.fault a acc) => (((s.engWait m.part (.fault a acc)).dropMove m).slotBack m m.toCls m.toSlot 0).scanGo
      | .error e => s.engWait m.part e)

/-- SLOT_RETURN (R76, R113 step 6): the first vacated slot that no command in flight may still read goes to the tail of its
ring. -/
def execSlotReturn (s : State) : Host.Outcome State Fault Refusal :=
  stepTo (
    let free (b : SlotBack) : Bool := s.trackers.all fun x => !x.admitted || decide (b.before ≤ x.serial)
    match s.slotBacks.find? free with
    | none => s
    | some b =>
      match s.ringRec b.part b.desc b.cls with
      | .error e => s.engWait b.part e
      | .ok (s1, f) => match s1.ringAppend b.part f [b.slot] with
        | .error e => s.engWait b.part e
        | .ok s2 => { s2 with slotBacks := eraseFirst (fun y => decide (y = b)) s2.slotBacks })

end Sys2Proof.Machine
end

