-- ==== Sys2Proof/Machine/Pairs.lean ====
section
/-! DEFINITION. Queue pairs (R320 to R322): contexts, enables and resets, and what the failure of a pair does to the requests that
are not answered. -/
namespace Sys2Proof.Machine

/-! Contexts (table after R321) -/

/-- ROLE: 0 column slice, 1 NVMe admin, 2 NVMe I/O. -/
def qcRole (c : BitVec 1024) : Nat := bitsOf c 61 2
/-- PARTITION. -/
def qcPart (c : BitVec 1024) : Part := partOf (bitsOf c 56 4)
/-- Port e lies in PORT_SET. -/
def qcMayUse (c : BitVec 1024) (e : Nat) : Bool := bitOf c (32 + e)
/-- HOME_PORT. -/
def qcHome (c : BitVec 1024) : Fin 8 := Fin.ofNat 8 (bitsOf c 29 3)
/-- RETRY_CNT. -/
def qcRetries (c : BitVec 1024) : Nat := bitsOf c 285 3
/-- RX_BASE. -/
def qcRxBase (c : BitVec 1024) : Nat := bitsOf c 320 64

/-- The reserved bits of a context: low bit and number. -/
def qcReserved : List (Nat × Nat) :=
  [(60, 1), (54, 2), (51, 1), (28, 1), (24, 2), (88, 8), (120, 8), (262, 18), (297, 23), (480, 544)]

/-- Every field of a context lies in its range, and HOME_PORT in PORT_SET (R321, R322). -/
def qcOk (c : BitVec 1024) : Bool :=
  bitOf c 63 && qcReserved.all (fun r => decide (bitsOf c r.1 r.2 = 0)) && decide (qcRole c ≠ 3) && decide (bitsOf c 26 2 ≠ 3) &&
  decide (1 ≤ qcRetries c) && decide (1 ≤ bitsOf c 288 9) && decide (bitsOf c 288 9 ≤ 256) && decide (qcRxBase c % 4096 = 0) &&
  decide (bitsOf c 448 32 % 4 = 0) && qcMayUse c (qcHome c)

/-- Line rate, in the units the model keeps a pair's send rate in (R320). -/
def lineRate : Nat := 2 ^ 64

/-- A pair as an enable leaves it: RTS on its HOME_PORT. -/
def QP.fresh (i : BitVec 12) (c : BitVec 1024) : QP :=
  { i := i, ctx := c, state := .rts, port := qcHome c, sendPsn := BitVec.ofNat 24 (bitsOf c 96 24)
    ackPsn := BitVec.ofNat 24 (bitsOf c 96 24), recvPsn := BitVec.ofNat 24 (bitsOf c 64 24), retries := 0, rate := lineRate, out := [] }

/-! Enables (R322) -/

/-- An action of JE_QP_CMD ends with a RESULT. -/
def State.qpEnd (s : State) (res : Nat) : State :=
  (({ s with qpAct := none } : State).setFld fJeQpCmd_BUSY 0).setFld fJeQpCmd_RESULT res

/-- Whether every address of a list lies in this engine's HBM: none while a walk is out. -/
def State.allInHbm (s : State) (p : Part) : List Nat → State × Option Bool
  | [] => (s, some true)
  | a :: r => match s.xlat p .engine a .write with
    | (s1, .hit ph _) => if s1.isHbm ph then s1.allInHbm p r else (s1, some false)
    | (s1, .wait) => (s1, none)
    | (s1, .fault _ _ _) => (s1, some false)

/-- The addresses of a context's receive area that an enable translates: one of each 2 MiB, and the last byte. -/
def rxPages (c : BitVec 1024) : List Nat :=
  let n := bitsOf c 288 9 * 131072
  ((List.range (ceilDiv n (2 ^ 21))).map fun k => qcRxBase c + k * 2 ^ 21) ++ [qcRxBase c + n - 1]

/-- An enable goes on: the context is read and checked, and the pair moves to RTS. A pair that is not in RESET stays as it is. It
waits while the translation of the receive area is walked. -/
def State.qpGo (s : State) : State :=
  match s.qpAct with
  | none => s
  | some i =>
    let a := s.fld fJeQpBase_BASE * 2 ^ 19 + 128 * i.toNat
    let c : BitVec 1024 := BitVec.ofNat 1024 (s.rdNat a 128)
    if s.rdPoison a 128 ∨ !(qcOk c) then s.qpEnd 1
    else if !(s.partEnabled (qcPart c)) then s.qpEnd 3
    else
      match s.allInHbm (qcPart c) (rxPages c) with
      | (s1, none) => s1
      | (s1, some false) => s1.qpEnd 1
      | (s1, some true) =>
        match s1.qp i with
        | some q =>
          (if q.state = .reset then { s1 with qps := updFirst (fun (y : QP) => decide (y.i = i)) (fun _ => QP.fresh i c) s1.qps } else s1).qpEnd 0
        | none => ({ s1 with qps := s1.qps ++ [QP.fresh i c] } : State).qpEnd 0

/-- QP_ENABLE's action. -/
def State.qpEnable (s : State) (i : BitVec 12) : State :=
  (({ s with qpAct := some i } : State).setFld fJeQpCmd_BUSY 1).qpGo

/-! A pair that fails (R322, R333) -/

/-- Every request of a pair that is not answered has failed, and those that wait for it fail with it. -/
def State.failPair (s : State) (i : BitVec 12) : State :=
  match s.qp i with
  | none => s
  | some q =>
    let s1 := q.out.foldl (fun s r => s.remoteFail r) (s.modQp i fun q => { q with out := [] })
    let ts := (q.out ++ (s.netQ.filter fun o => decide (o.qp = i)).map (·.req)).map (·.t)
    ts.eraseDups.foldl (fun s t => s.settlePool t) s1.pumpNet

/-- A pair enters ERROR. -/
def State.qpError (s : State) (i : BitVec 12) : State :=
  match s.qp i with
  | some q =>
    if q.state = .rts then ((s.modQp i fun q => { q with state := .error }).bump fJeNetStat_QP_ERRORS).failPair i else s
  | none => s

/-- QP_RESET's action: the pair moves to RESET. Requests of the peer that are not admitted go with it. -/
def State.qpReset (s : State) (i : BitVec 12) : State :=
  let s1 : State := { s with served := s.served.filter fun (x : Served) => decide (x.qp ≠ i) || x.t.isSome }
  ((s1.modQp i fun q => { q with state := .reset }).failPair i).qpEnd 0

/-- The pairs of a partition enter ERROR. -/
def State.qpErrors (s : State) (p : Part) : State :=
  (s.qps.filter fun q => decide (qcPart q.ctx = p)).foldl (fun (s : State) q => s.qpError q.i) s

end Sys2Proof.Machine
end

