-- ==== Sys2Proof/Machine/Objects.lean ====
section
/-! DEFINITION. Objects and versions (R214 to R238): registering and retiring objects, clearing TORN, OBJECT_MOVE chunk by chunk,
and VERSION_SWITCH; with the rows on whose answers the engine's own accesses wait. -/
namespace Sys2Proof.Machine

/-! JP_OBJ_CTL (R217, R238, R239) -/

/-- The bound on INDEX of a handle. -/
def State.objIndexOk (s : State) (p : Part) (h : W32) : Bool :=
  decide (bitsOf h 0 24 ≠ 0) && decide (bitsOf h 0 24 < dirBound (s.fld fJpObjDir_SIZE_LOG2 p) 24)

/-- Ends an action of JP_OBJ_CTL with a result. -/
def State.objEnd (s : State) (p : Part) (res : Nat) : State :=
  ((s.modPart p fun ps => { ps with objAct := none, retire := none }).setFld fJpObjCtl_BUSY 0 p).setFld fJpObjCtl_RESULT res p

/-- The object a record registers (R215). -/
def objOfRecord (p : Part) (h : W32) (e : Nat) : Obj :=
  { part := p, handle := h, base := BitVec.ofNat 64 (natBits e 12 52 * 4096), len := natBits e 64 48, tier := natBits e 8 4
    range := natBits e 128 32, moving := false, torn := false, cursor := 0, target := 0, retiring := false, stopped := false, due := false }

/-- The refusals of R217 on a record, the overlap with another registered object among them. -/
def State.recordBad (s : State) (p : Part) (e : Nat) : Bool :=
  let o := objOfRecord p 0 e
  decide (o.len = 0) || decide (o.len % 4096 ≠ 0) || decide (2 ^ 64 < o.base.toNat + o.len) || decide (2 < o.tier) ||
  decide (natBits e 0 3 ≠ 0) || decide (natBits e 160 32 ≠ 0) || decide (natBits e 204 52 ≠ 0) ||
  s.objs.any fun y => decide (y.part = p) && overlaps o.base.toNat o.len y.base.toNat y.len

/-- Registers the object of a handle (R217). -/
def State.objRegisterTry (s : State) (p : Part) (h : W32) : Except EngErr State :=
  match s.engRead p (s.objRecAddr p h) 32 (quiet := true) with
  | .error e => .error e
  | .ok (s1, e, bad) =>
    if bad ∨ s1.recordBad p e then .ok (s1.objEnd p 3)
    else if natBits e 120 8 ≠ bitsOf h 24 8 then .ok (s1.objEnd p 4)
    else match s1.engPut p (s1.objRecAddr p h) (leBytes 1 (e % 256 + 1)) (quiet := true) with
      | .error er => .error er
      | .ok s2 => .ok (({ s2 with objs := s2.objs ++ [objOfRecord p h e] } : State).objEnd p 0)

/-- Clears TORN of an object in its record (R217, R238). -/
def State.objClearTry (s : State) (p : Part) (h : W32) : Except EngErr State :=
  match s.obj p h with
  | none => .ok (s.objEnd p 4)
  | some o =>
    if o.moving then .ok (s.objEnd p 5)
    else match s.engPut p (s.objRecAddr p h) (({ o with torn := false } : Obj).bytes true) (quiet := true) with
      | .error e => .error e
      | .ok s1 => .ok ((s1.modObj p h fun y => { y with torn := false }).objEnd p 0)

/-- Some table's current version names an object: the Graft's descriptors and the directory's slots (R217, R230). -/
def State.objCurrent (s : State) (p : Part) (h : W32) : Nat → Except EngErr (State × Bool)
  | 0 => .ok (s, false)
  | n + 1 =>
    match s.currentDesc p n true with
    | .error (.fault a acc) => (s.engWait p (.fault a acc)).objCurrent p h n
    | .error e => .error e
    | .ok (s1, d) => if d.any (fun d => d.valid && decide (d.object = h)) then .ok (s1, true) else s1.objCurrent p h n

/-- Begins the retirement of an object (R217). -/
def State.objRetireTry (s : State) (p : Part) (h : W32) : Except EngErr State :=
  match s.obj p h with
  | none => .ok (s.objEnd p 4)
  | some _ =>
    match s.objCurrent p h (dirBound (s.fld fJpTableDir_SIZE_LOG2 p) 20) with
    | .error e => .error e
    | .ok (s1, true) => .ok (s1.objEnd p 5)
    | .ok (s1, false) =>
      .ok ((s1.modPart p fun ps => { ps with objAct := none, retire := some h }).modObj p h fun o => { o with retiring := true })

/-- An action of JP_OBJ_CTL goes on as far as it can: its accesses open no fault record, and a fault ends it with RESULT 3. -/
def State.objGo (s : State) (p : Part) : State :=
  match (s.part p).objAct with
  | none => s
  | some (k, h) =>
    let r := match k with
      | 1 => s.objRegisterTry p h
      | 2 => s.objRetireTry p h
      | _ => s.objClearTry p h
    match r with
    | .ok s1 => s1
    | .error (.fault a acc) => (s.engWait p (.fault a acc)).objEnd p 3
    | .error e => s.engWait p e

/-- An action on JP_OBJ_CTL that R414 has taken: 1 register, 2 retire, 3 clear TORN. -/
def State.objAction (s : State) (p : Part) (k : Nat) (h : W32) : State :=
  let s0 := s.setFld fJpObjCtl_HANDLE h.toNat p
  if !(s0.partEnabled p) then s0.setFld fJpObjCtl_RESULT 6 p
  else if !(s0.objIndexOk p h) then s0.setFld fJpObjCtl_RESULT 1 p
  else ((s0.modPart p fun ps => { ps with objAct := some (k, h) }).setFld fJpObjCtl_BUSY 1 p).objGo p

/-- Nothing uses an object that is being retired: no pinned version names it, and no move is in progress in it, from its admission on. -/
def State.objUnused (s : State) (p : Part) (h : W32) : Bool :=
  !(s.trackers.any fun x => decide (x.part = p) && x.pins.any fun q => decide (Desc.object q.desc = h)) &&
  !((s.obj p h).any (·.moving)) && !(s.objMoves.any fun m => decide (m.part = p) && decide (m.handle = h)) &&
  !(s.moves.any fun m => decide (m.part = p) && decide (Desc.object m.desc = h))

/-- OBJECT_RETIRE_DONE (R217): VALID and BUSY clear. A write of the record that faults ends the action with RESULT 3, and the
object stays as it was. -/
def execObjectRetireDone (p : Part) (s : State) : Host.Outcome State Fault Refusal :=
  stepTo (match (s.part p).retire with
    | none => s.objGo p
    | some h =>
      match s.obj p h with
      | none => s.objEnd p 4
      | some o =>
        if !(s.objUnused p h) then s
        else match s.engPut p (s.objRecAddr p h) (o.bytes false) (quiet := true) with
          | .ok s1 =>
            ({ s1 with objs := s1.objs.filter fun y => !(decide (y.part = p) && decide (y.handle = h)) } : State).objEnd p 0
          | .error (.fault a acc) =>
            ((s.engWait p (.fault a acc)).modObj p h fun y => { y with retiring := false }).objEnd p 3
          | .error e => s.engWait p e)

/-! What the engine's own accesses wait for -/

/-- The engine's own work goes on: an enable of a queue pair, actions on object records, and the epoch scan. -/
def State.engGo (s : State) : State := ((List.finRange 16).foldl (fun s p => s.objGo p) s.qpGo).scanGo

/-- WALK_READ_RETURN (R275): a key line or the entry of walk k returns. -/
def execWalkReadReturn (k : Fin 16) (s : State) : Host.Outcome State Fault Refusal := stepTo (s.walkStep k).engGo

/-- SNOOP_ACK (R287, R304): ACK, or ACK_DATA with the holder's modified data. -/
def execSnoopAck (a : Byte) (x : BitVec 36) (data : Option (List Byte)) (s : State) : Host.Outcome State Fault Refusal :=
  stepTo (s.snoopAck a x data).engGo

/-- SNOOP_ABSENT (R301, R302, R304). -/
def execSnoopAbsent (a : Byte) (x : BitVec 36) (s : State) : Host.Outcome State Fault Refusal := stepTo (s.snoopAbsent a x).engGo

/-! OBJECT_MOVE (R222 to R227) -/

/-- Bytes of chunk k of an object. -/
def Obj.chunkLen (o : Obj) (k : Nat) : Nat := min (2 ^ 21) (o.len - k * 2 ^ 21)

/-- Chunks of an object. -/
def Obj.chunks (o : Obj) : Nat := ceilDiv o.len (2 ^ 21)

/-- Changes a move. -/
def State.modObjMove (s : State) (t : TrackerId) (f : Move → Move) : State :=
  { s with objMoves := updFirst (fun m => decide (m.t = t)) f s.objMoves }

/-- What the Rake holds for some spans of physical bytes goes on to its adders (R224, R282; log 81). -/
def State.flushSpans (s : State) (spans : List (Nat × Nat)) : State :=
  (List.finRange 16).foldl (fun (s : State) p => s.flushHeld p (·.within spans)) s

/-- Copies the closed chunk of a move, once no write accepted for it is on its way (R223 steps 1 and 2, R227). -/
def State.copyChunk (s : State) (m : Move) (o : Obj) : State :=
  let src := m.old + m.chunk * 2 ^ 21
  let dst := o.target.toNat + m.chunk * 2 ^ 21
  let n := o.chunkLen m.chunk
  let s := s.flushSpans [(src, n)]
  if (List.finRange 16).any (fun p => s.inTransit p [(src, n)]) then s
  else
    let put (s1 : State) (k : Nat) : State :=
      let bad := s.granPoison (src / 64 + k)
      let s2 := s1.issueWrite (dst + 64 * k) (s.rdBytes (src + 64 * k) 64) bad m.part (some m.t) m.handle
      if bad then s2.poisonCmd m.t else s2
    ((List.range (n / 64)).foldl put s).modObjMove m.t fun y => { y with issued := true }

/-- OBJECT_MOVE (R223): MOVING and TARGET are written, and the first chunk is closed and copied. -/
def execObjectMove (t : TrackerId) (s : State) : Host.Outcome State Fault Refusal :=
  stepTo (match s.startable t 0x41 with
    | none => s
    | some x => match s.obj x.part (cObject x.cmd) with
      | none => s.finish t
      | some o =>
        let m : Move := ⟨t, x.part, cObject x.cmd, 0, false, false, s.objPhys o, 0, []⟩
        (({ s.run t with objMoves := s.objMoves ++ [m] } : State).modObj x.part (cObject x.cmd) id).copyChunk m o)

/-- A chunk opens at its new place (R223 step 3, R225): copies of its old lines are dropped, and early work that read it is
squashed. -/
def State.openChunk (s : State) (m : Move) (o : Obj) : State :=
  let lo := m.old + m.chunk * 2 ^ 21
  let n := o.chunkLen m.chunk
  let s1 := (s.dropLines fun key => decide (lo % 2 ^ 56 / 256 ≤ key) && decide (key ≤ (lo % 2 ^ 56 + n - 1) / 256)).squash lo n
  (s1.modObj m.part m.handle fun y => { y with cursor := m.chunk + 1 }).bump fJpObjStat_CHUNKS_MOVED m.part

/-- After the last chunk the range-table entry gets its new base and generation, and the invalidation of the range begins (R223, R272). -/
def State.retarget (s : State) (m : Move) (o : Obj) : State :=
  let e := s.fld fJpXlatTable_BASE m.part * 4096 + 32 * o.range
  let gen := (s.rdNat (e + 24) 2 + 1) % 65536
  let old := ((s.rcache ++ s.rpast).filter fun y => decide (y.part = m.part) && decide (y.index = o.range)).map fun y => (y.phys, y.len)
  let s1 := ((s.pokeNat (e + 16) 8 o.target.toNat).pokeNat (e + 24) 2 gen).dropRanges m.part fun i => decide (i = o.range)
  (s1.squash m.old o.len).modObjMove m.t fun y =>
    { y with finishing := true, gen := BitVec.ofNat 16 gen, spans := (m.old, o.len) :: old }

/-- A move that lost a write stops: its chunk opens at the old range, and the object is torn (R227). -/
def State.stopMove (s : State) (m : Move) : State :=
  ((({ s with objMoves := s.objMoves.filter fun y => decide (y.t ≠ m.t) } : State).modObj m.part m.handle fun o =>
    { o with moving := false, stopped := true }).tear m.part m.handle (some m.t) false).finish m.t

/-- OBJECT_MOVE_CHUNK_DONE (R223, R225): the copied chunk's writes are visible, CURSOR advances, and the next chunk is closed. -/
def execObjectMoveChunkDone (t : TrackerId) (s : State) : Host.Outcome State Fault Refusal :=
  stepTo (match s.objMoves.find? (fun m => decide (m.t = t)), s.trk t with
    | some m, some x => match s.obj m.part m.handle with
      | none => s
      | some o =>
        if m.finishing then s
        else if !m.issued then s.copyChunk m o
        else if s.outstanding t then s
        else if x.marks.lost then s.stopMove m
        else
          let s1 := s.openChunk m o
          let m1 : Move := { m with chunk := m.chunk + 1, issued := false }
          let s2 := s1.modObjMove t fun _ => m1
          if m1.chunk < o.chunks then s2.copyChunk m1 o else s2.retarget m1 o
    | _, _ => s)

/-- OBJECT_MOVE_FINISH (R223, R272): nothing translated under the old mapping is on its way: the entry is read again and cached, TIER is
set and MOVING clears. -/
def execObjectMoveFinish (t : TrackerId) (s : State) : Host.Outcome State Fault Refusal :=
  stepTo (match s.objMoves.find? (fun m => decide (m.t = t)), s.trk t with
    | some m, some x => match s.obj m.part m.handle with
      | none => s
      | some o =>
        if !m.finishing then s
        else
          let s1 := s.flushSpans m.spans
          if (List.finRange 16).any (fun p => s1.inTransit p m.spans) then s1
          else
            let s2 : State := { (s1.reread m.part o.range m.gen).1 with objMoves := s1.objMoves.filter fun y => decide (y.t ≠ t) }
            (s2.modObj m.part m.handle fun y => { y with moving := false, tier := cTier x.cmd }).finish t
    | _, _ => s)

/-! VERSION_SWITCH (R52, R233) -/

/-- VERSION_SWITCH (R52, R233): the Graft writes the descriptor into the table's directory slot; the switch completes once no command
pins the replaced version. -/
def execVersionSwitch (t : TrackerId) (s : State) : Host.Outcome State Fault Refusal :=
  stepTo (match s.startable t 0x40 with
    | none => s
    | some x =>
      match s.graft.find? (fun g => decide (g.part = x.part) && decide (g.table = cTable x.cmd)) with
      | none => s.finish t
      | some g =>
        let bs := leBytes 128 g.desc.toNat
        match s.writePart x.part (.cmd t) (s.fld fJpTableDir_BASE x.part * 4096 + 128 * cTable x.cmd) bs false (some t) with
        | (s1, false) => s1
        | (s1, true) => (s1.run t).settleSwitches)

/-! The rows of JP_OBJ_CTL as its register writes; the check of R414 stands with the register. -/

/-- ACTION 01 (R217). -/
def State.objRegister (s : State) (p : Part) (h : W32) : State := s.objAction p 1 h
/-- ACTION 10 (R217). -/
def State.objRetire (s : State) (p : Part) (h : W32) : State := s.objAction p 2 h
/-- ACTION 11 (R217, R238). -/
def State.objClearTorn (s : State) (p : Part) (h : W32) : State := s.objAction p 3 h

end Sys2Proof.Machine
end

