-- ==== Sys2Proof/Machine/Hbm.lean ====
section
/-! DEFINITION. The HBM side of a slice (R240 to R263): checked reads, the error tracker and row remap, the write-combining
buffer's acceptance, ageing, merge reads and write-backs, refresh, test access. -/
namespace Sys2Proof.Machine

/-! Where a granule lies (R241) -/

/-- Place of a granule in its stack: slice, channel within the stack, pseudo-channel, bank, row. -/
structure RowPlace where
  n : SliceId
  ch : Nat
  pc : Bool
  bank : Nat
  row : Nat
deriving DecidableEq, Repr

/-- The place of the granule at an HBM offset; none with no channel mapped. -/
def State.placeOf (s : State) (off : Nat) : Option RowPlace :=
  (hashLine s.mappedList (off / 256)).map fun y =>
    let m := linePlace y.2
    ⟨Fin.ofNat 8 (y.1 / 32), y.1 % 32, decide (2 ≤ off / 64 % 4), m.2.1, m.2.2⟩

/-- B of the events 0x30 and 0x31 (R391). -/
def RowPlace.evB (r : RowPlace) : Nat := r.pc.toNat * 2 ^ 32 + r.bank * 2 ^ 26 + r.row % 2 ^ 16

/-- Global channel of a place. -/
def RowPlace.chan (r : RowPlace) : Nat := 32 * r.n.val + r.ch

/-! Row remap (R256 to R258) -/

/-- Entry i of a slice's remap table. -/
def State.remapEntry (s : State) (n : SliceId) (i : Nat) : W64 := s.reg .jsRemap n.val i

/-- STATE of a remap entry. -/
def remapState (v : W64) : Nat := bitsOf v 62 2

/-- A remap entry for a row. -/
def RowPlace.entry (r : RowPlace) (st : Nat) : W64 :=
  BitVec.ofNat 64 (st * 2 ^ 62 + r.ch * 2 ^ 57 + r.pc.toNat * 2 ^ 56 + r.bank * 2 ^ 50 + r.row * 2 ^ 34)

/-- A remap entry names a bank. -/
def RowPlace.sameBank (r : RowPlace) (v : W64) : Bool :=
  decide (remapState v ≠ 0) && decide (bitsOf v 57 5 = r.ch) && decide (bitsOf v 56 1 = r.pc.toNat) && decide (bitsOf v 50 6 = r.bank)

/-- The granules of a place's row: 16, in 1 KiB of its pseudo-channel (R241, R256). -/
def State.rowGrans (s : State) (r : RowPlace) : List Nat :=
  let mapped := s.mappedList
  let n := mapped.length
  let k := mapped.idxOf r.chan
  (List.range 8).flatMap fun col =>
    let m := r.row * 512 + (r.bank ^^^ r.row % 64) * 8 + col
    let h := (m ^^^ (m >>> 8) ^^^ (m >>> 16) ^^^ (m >>> 24)) % 256
    let line := m * n + (k + n - h % n) % n
    let g := s.hbmPhys (line * 256) / 64 + 2 * r.pc.toNat
    [g, g + 1]

/-- The row goes into its row hold buffer: words that read uncorrectably hold the poison pattern from here on. -/
def State.holdRow (s : State) (r : RowPlace) (i : Nat) : State :=
  let gran (g : Nat) : Nat × BitVec 512 × Bool :=
    (g, BitVec.ofNat 512 (leNat ((List.range 64).map fun k => memGet s.mem (g * 64 + k))), s.storedPoison g)
  let l := (s.rowGrans r).map gran
  { s with
    rowHolds := s.rowHolds ++ [⟨r.n, i, r.ch, r.pc, r.bank, l⟩]
    badReads := s.badReads.filter fun g => !(l.any fun x => decide (x.1 = g)) }

/-- A row is remapped (R256), where REMAP is set: it takes a remap entry and goes into a row hold buffer; without a spare or an entry it stays as it is
(R257). A row that is being copied already is not taken again. -/
def State.remapStart (s : State) (r : RowPlace) : State :=
  if s.fld fJsHbmCtl_REMAP r.n = 0 then s
  else
    let all := (List.range 512).map (s.remapEntry r.n)
    if all.any (fun v => r.sameBank v && decide (remapState v = 1) && decide (bitsOf v 34 16 = r.row)) then s
    else
      let used := (all.filter r.sameBank).length
      match (List.range 512).find? (fun i => decide (remapState (s.remapEntry r.n i) = 0)) with
      | some i =>
        if used < Config.spareRows r.n.val r.ch r.pc.toNat r.bank then (s.setReg .jsRemap (r.entry 1) r.n.val i).holdRow r i
        else (s.bump fJsRemapStat_SPARE_OUT r.n).eventE 0x31 r.chan r.evB
      | none => (s.bump fJsRemapStat_SPARE_OUT r.n).eventE 0x31 r.chan r.evB

/-- Bytes of a granule as the memory stores them, with its poison: into the row hold buffer while its row is being remapped. Writing
all 64 bytes ends what a check had found (R244). -/
def State.putGran (s : State) (g : Nat) (bs : List Byte) (poison : Bool) : State :=
  if (s.heldGran g).isSome then
    let put (x : Nat × BitVec 512 × Bool) : Nat × BitVec 512 × Bool := if x.1 = g then (g, BitVec.ofNat 512 (leNat bs), poison) else x
    { s with rowHolds := s.rowHolds.map fun (h : RowHold) => { h with grans := h.grans.map put } }
  else
    { s with
      mem := memPutList s.mem (g * 64) bs
      poison := if poison then insNat g s.poison else delNat g s.poison
      badReads := s.badReads.filter fun y => decide (y ≠ g) }

/-- A held row is written back, on its spare. -/
def State.freeRow (s : State) (h : RowHold) : State :=
  h.grans.foldl (fun (s : State) x => s.putGran x.1 (leBytes 64 x.2.1.toNat) x.2.2)
    { s with rowHolds := s.rowHolds.filter fun y => decide (y ≠ h) }

/-- ROW_REMAP_DONE (R256, R258): the held data stand on the spare row, and the entry is ACTIVE; the always-on controller's copy
follows, and the bank's other rows go on. -/
def execRowRemapDone (n : SliceId) (i : Fin 512) (s : State) : Host.Outcome State Fault Refusal :=
  stepTo (
    let v := s.remapEntry n i.val
    if remapState v ≠ 1 then s
    else
      let w := putBits v 62 2 2
      let s0 := (s.rowHolds.filter fun h => decide (h.n = n) && decide (h.i = i.val)).foldl (fun (s : State) h => s.freeRow h) s
      let s1 := (s0.setReg .jsRemap w n.val i.val).bump fJsRemapStat_REMAPS n.val
      ({ s1 with remapCopy := putAssoc s1.remapCopy (512 * n.val + i.val) w } : State).settleWcb)

/-- A corrected error counts against its row in the channel's tracker of 16 rows (R256); at ROW_CE_THRESH the row is remapped. A new
row takes the place of the one with the fewest errors in a full tracker. -/
def State.trackError (s : State) (r : RowPlace) : State :=
  let same (e : ErrRow) : Bool := decide (e.n = r.n) && decide (e.ch = r.ch)
  let hit (e : ErrRow) : Bool := same e && decide (e.pc = r.pc) && decide (e.bank = r.bank) && decide (e.row = r.row)
  let old := ((s.errRows.find? hit).map (·.count)).getD 0
  let rest := s.errRows.filter fun e => !(hit e)
  if max 1 (s.fld fJsHbmCtl_ROW_CE_THRESH r.n) ≤ old + 1 then ({ s with errRows := rest } : State).remapStart r
  else
    let mine := rest.filter same
    let least := mine.foldl (fun (m : Nat) e => min m e.count) 0xFFFFFFFF
    let rest := if 16 ≤ mine.length then eraseFirst (fun e => same e && decide (e.count = least)) rest else rest
    { s with errRows := rest ++ [⟨r.n, r.ch, r.pc, r.bank, r.row, old + 1⟩] }

/-- A granule's check found it uncorrectable, or not: its reads arrive poisoned until a later check or a write of the whole granule
says otherwise, and memory is unchanged (R243). -/
def State.setBad (s : State) (g : Nat) (bad : Bool) : State :=
  { s with badReads := if bad then insNat g s.badReads else s.badReads.filter fun y => decide (y ≠ g) }

/-- The check of a granule read (R243). A granule that memory holds poisoned carries the inverted check bytes, so no other result
comes back for it; a bank that waits returns no read (R256). -/
def State.checkRead (s : State) (off : Nat) (r : CheckResult) : State :=
  match s.placeOf off with
  | none => s
  | some pl =>
    let g := s.hbmPhys off / 64
    if !(s.sliceServes pl.n none) ∨ s.bankWaits g then s
    else if g ∈ s.poison ∧ (s.heldGran g).isNone then s.bump fJsEccStat_POISON_READS pl.n
    else
      match r with
      | .clean => s.setBad g false
      | .corrected => ((s.setBad g false).bump fJsEccStat_CORR pl.n).trackError pl
      | .poisonPattern => (s.setBad g true).bump fJsEccStat_POISON_READS pl.n
      | .uncorrectable => (((s.setBad g true).bump fJsEccStat_UNCORR pl.n).eventE 0x30 pl.chan pl.evB).remapStart pl

/-- HBM_READ_RETURN (R243, R256): a granule read returns, by its number in the HBM address space, with the result of its check. Past
the end of the memory no granule exists. -/
def execHbmReadReturn (granule : BitVec 46) (r : CheckResult) (s : State) : Host.Outcome State Fault Refusal :=
  if s.hbmBound ≤ granule.toNat * 64 then .fault .outsideSpace else stepTo (s.checkRead (granule.toNat * 64) r)

/-! The write-combining buffer (R245 to R249) -/

/-- Accepts the first write of a slice that can be accepted: a write whose granule has an earlier write waiting stays behind it, and
one that finds no entry counts its wait once. -/
def State.acceptWrite (s : State) (n : SliceId) (before : List WrReq) : List WrReq → State
  | [] => { s with wrQ := before }
  | w :: r =>
    if s.isBoard w.addr ∨ s.sliceOf w.addr ≠ n ∨ before.any (fun x => decide (x.addr / 64 = w.addr / 64)) then s.acceptWrite n (before ++ [w]) r
    else
      match ({ s with wrQ := before ++ r } : State).tryWrite w with
      | some s1 => s1
      | none => let y := s.noteFull w; y.1.acceptWrite n (before ++ [y.2]) r

/-- WCB_WRITE_ACCEPT (R245, R248, R260, R304): the next write of a slice is accepted at its point of visibility, or waits. -/
def execWcbWriteAccept (n : SliceId) (s : State) : Host.Outcome State Fault Refusal := stepTo (s.acceptWrite n [] s.wrQ).settleHome

/-- WCB_AGE_EXPIRY (R246, R247): an entry reaches its age and becomes eligible; a partial one issues its merge read. -/
def execWcbAgeExpiry (n : SliceId) (granule : BitVec 46) (s : State) : Host.Outcome State Fault Refusal :=
  stepTo (s.makeEligible fun e => decide (e.n = n) && decide (e.granule = s.hbmPhys (granule.toNat * 64) / 64)).settleHome

/-- A merge read overlays an entry's bytes on what lies below it: the earlier entry of the granule, or memory (R246). -/
def State.mergeEntry (s : State) (e : WcbEnt) : WcbEnt :=
  let below : State := { s with wcb := s.wcb.filter fun x => decide (x ≠ e) }
  { e with
    data := BitVec.ofNat 512 (leNat (s.rdBytes (e.granule * 64) 64))
    mask := BitVec.allOnes 64
    poison := e.poison || below.granPoison e.granule
    state := .open_ }

/-- The charge for an entry's granules: to the partition that wrote it; the fabric's and the hub's own are charged to none (R253). -/
def State.bwEntry (s : State) (e : WcbEnt) (granules : Nat) : State :=
  match e.part with
  | some p => s.bwCharge p e.bg granules
  | none => s

/-- MERGE_READ_RETURN (R246): the entry is whole and goes on its way. One that became whole meanwhile has cancelled its read. -/
def execMergeReadReturn (n : SliceId) (granule : BitVec 46) (s : State) : Host.Outcome State Fault Refusal :=
  stepTo (
    let g := s.hbmPhys (granule.toNat * 64) / 64
    let hit (e : WcbEnt) : Bool := decide (e.n = n) && decide (e.granule = g) && decide (e.state = .merging)
    match s.wcb.find? hit with
    | some e => if s.bankWaits g then s else (({ s with wcb := updFirst hit s.mergeEntry s.wcb } : State).bwEntry e 1).settleWcb
    | none => s)

/-- Bytes of granule k of a whole entry. -/
def WcbEnt.granBytes (e : WcbEnt) : List Byte := leBytes 64 e.data.toNat

/-- An entry's data reach HBM: one granule, or the granules of a zero line that are still its own. -/
def State.writeBackEntry (s : State) (e : WcbEnt) : State :=
  if e.zmask = 0 then s.putGran e.granule e.granBytes e.poison
  else
    (List.range 4).foldl (fun (s : State) k =>
      if e.zmask.getLsbD k then s.putGran (e.granule / 4 * 4 + k) (List.replicate 64 0) e.poison else s) s

/-- WCB_WRITE_BACK_DONE (R247, R249): a write-back completes and its entry frees; an entry that fails its ECC is written poisoned. A
second entry of the granule may now go, and the home's requests that waited for an entry go on. -/
def execWcbWriteBackDone (n : SliceId) (granule : BitVec 46) (s : State) (eccError : Bool := false) : Host.Outcome State Fault Refusal :=
  stepTo (
    let g := s.hbmPhys (granule.toNat * 64) / 64
    let hit (e : WcbEnt) : Bool := decide (e.n = n) && decide (e.granule = g) && decide (e.state = .writing)
    match s.wcb.find? hit with
    | none => s
    | some e =>
      let s0 := if eccError then s.bump fJsEccStat_WCB_UNCORR n.val else s
      let s1 := (s0.writeBackEntry { e with poison := e.poison || eccError }).bwEntry e (if e.zmask = 0 then 1 else 4)
      (({ s1 with wcb := eraseFirst hit s1.wcb } : State).settleWcb).settleHome)

/-! Refresh and test access (R251, R262) -/

/-- Sets or clears a stack's bit in REF_2X. -/
def State.setRef2x (s : State) (n : SliceId) (on : Bool) : State :=
  s.setFld fJeHbmCap_REF_2X (putBits (BitVec.ofNat 64 (s.fld fJeHbmCap_REF_2X)) n.val 1 on.toNat).toNat

/-- STACK_TEMP_HIGH (R251). -/
def execStackTempHigh (n : SliceId) (s : State) : Host.Outcome State Fault Refusal := stepTo (s.setRef2x n true)

/-- STACK_TEMP_NORMAL (R251). -/
def execStackTempNormal (n : SliceId) (s : State) : Host.Outcome State Fault Refusal := stepTo (s.setRef2x n false)

/-- TEST_ACCESS_REQUEST (R262): granted while the slice is out of service, or while the engine runs the test and recovery overlay;
refused otherwise, with its event. -/
def execTestAccessRequest (n : SliceId) (s : State) : Host.Outcome State Fault Refusal :=
  stepTo (if 2 ≤ s.sliceState n ∨ s.fld fJeStart_MODE = 3 then s.emit (.testGrant n) else s.eventE 0x33 n.val 0)

end Sys2Proof.Machine
end

