-- ==== Sys2Proof/Machine/Net.lean ====
section
/-! DEFINITION. The Ethernet ports and remote engines (R318 to R340): the messages and packets that arrive, the pairs' transport,
NVMe over Fabrics, the ports' service states and MACsec. -/
namespace Sys2Proof.Machine

/-! What arrives (R319, R320, R330) -/

/-- A NAK goes out: 0 PSN sequence error, 1 invalid request, 2 remote access error. -/
def State.sendNak (s : State) (i : BitVec 12) (code : Nat) : State := (s.emit (.nak i code)).bump fJeNetStat_NAKS_SENT

/-- A pair acknowledges what has arrived on it (R320). -/
def State.ackRecv (s : State) (i : BitVec 12) (bytes : Nat) : State :=
  match s.qp i with
  | some q =>
    let n := q.recvPsn + BitVec.ofNat 24 (max 1 (ceilDiv bytes q.mtu))
    (s.modQp i fun q => { q with recvPsn := n }).emit (.rocAck i (n - 1))
  | none => s

/-- A packet that came with an ECN-CE mark is answered with a CNP (R320). The event's operand is the mark of a message whose pair has
sent no CNP within the last 50 µs: the clock is the sender's. -/
def State.echoMark (s : State) (i : BitVec 12) (marked : Bool) : State := if marked then s.emit (.cnp i) else s

/-- What a pair's transport does as a packet with its message is received: it is acknowledged, and a mark answered. What was held
during a sleep has had its acknowledgement (R372). -/
def State.received (s : State) (i : BitVec 12) (bytes : Nat) (marked : Bool) : State :=
  if s.power.replaying then s else (s.ackRecv i bytes).echoMark i marked

/-- A message arrives for a queue pair: while the engine sleeps it is held, and the port's transport acknowledges it at once (R372). -/
def State.orHoldMsg (s : State) (c : Instr) (i : BitVec 12) (bytes : Nat) (marked : Bool) (f : State → State) : State :=
  let sleeps := s.asleep || decide (4 ≤ s.power.step)
  (if sleeps ∧ (s.qp i).any (fun q => decide (q.state = .rts)) then s.received i bytes marked else s).orHold c f

/-- Bytes that a message's header and counts ask for (R331): none for an unknown TYPE, or where the counts disagree. -/
def msgLength (msg : List Byte) : Option Nat :=
  let counts := sumBy (fun k => bytesAt msg (32 + 4 * k) 4) (List.range (mBags msg))
  let entries := 32 + 4 * mBags msg + 12 * mEntries msg
  match mField msg 0 1 with
  | 1 => if counts = mEntries msg then some entries else none
  | 2 => some (32 + mBags msg * (8 + 4 * mCols msg))
  | 3 => if counts = mEntries msg then some (entries + 4 * mBags msg * mCols msg) else none
  | 4 => some 32
  | 5 => some (32 + mBags msg * (8 + 4 * mCols msg))
  | 6 => some 32
  | _ => none

/-- A message as R330 asks for it. -/
def msgOk (msg : List Byte) : Bool :=
  decide (32 ≤ msg.length) && decide (msg.length ≤ 131072) && decide (mField msg 1 1 = 1) && decide (msgLength msg = some msg.length)

/-- The answer to a malformed message: a request's reply TYPE, any other TYPE as it came. -/
def malformedReply (msg : List Byte) : List Byte :=
  let t := mField msg 0 1
  mkMsg (if t = 1 ∨ t = 3 ∨ t = 5 then t + 1 else t) 0x08 1 (mReqId msg) (mTable msg) (mPoolMode msg) (mOfrac msg) (mCols msg) 0
    (mBagFirst msg) 0 (mAlpha msg) 0 []

/-- A message arrives on a pair: refused unless the pair is in RTS with ROLE 0, acknowledged, and answered MALFORMED unless it is
as R330 asks and of the TYPE of the event. -/
def State.arrive (s : State) (c : Instr) (i : BitVec 12) (msg : List Byte) (marked : Bool) (typ : Nat)
    (f : QP → State → State) : State :=
  s.orHoldMsg c i msg.length marked fun s => match s.qp i with
    | none => s.sendNak i 1
    | some q =>
      if q.state ≠ .rts ∨ qcRole q.ctx ≠ 0 then s.sendNak i 1
      else
        let s1 := s.received i msg.length marked
        if msgOk msg ∧ mField msg 0 1 = typ then f q s1
        else if msgOk msg then s1
        else s1.sendMsg i (malformedReply msg)

/-- A request joins those its pair serves; a partition that is not ENABLED answers at once (R328). -/
def State.serve (s : State) (q : QP) (msg : List Byte) : State :=
  let x : Served := ⟨q.i, mReqId msg, mField msg 0 1, msg, none⟩
  if s.partEnabled (qcPart q.ctx) then { s with served := s.served ++ [x] }
  else s.answer x 0x04 0 0

/-- GATHER_REQ (R328): a request to pool arrives, to be admitted as a command of its pair's partition. -/
def execGatherReq (qp : BitVec 12) (msg : List Byte) (s : State) (marked : Bool := false) : Host.Outcome State Fault Refusal :=
  stepTo (s.arrive (.gatherReq qp msg marked) qp msg marked 1 fun q s => s.serve q msg)

/-- ADD_REQ (R328). -/
def execAddReq (qp : BitVec 12) (msg : List Byte) (s : State) (marked : Bool := false) : Host.Outcome State Fault Refusal :=
  stepTo (s.arrive (.addReq qp msg marked) qp msg marked 3 fun q s => s.serve q msg)

/-- PUSH (R334): its vectors are written at once where nothing of the pair waits before it and every write translates. -/
def execPush (qp : BitVec 12) (msg : List Byte) (s : State) (marked : Bool := false) : Host.Outcome State Fault Refusal :=
  stepTo (s.arrive (.push qp msg marked) qp msg marked 5 fun q s =>
    let first := !(s.served.any fun x => decide (x.qp = qp) && decide (x.t = none))
    let s1 := s.serve q msg
    if first then (s1.tryServed (qcPart q.ctx) qp).1 else s1)

/-! Replies (R326, R327, R333) -/

/-- The outstanding request that a reply answers. -/
def QP.request (q : QP) (msg : List Byte) (typ : Nat) : Option RemoteReq :=
  q.out.find? fun r => decide (r.reqId = mReqId msg) && decide (r.typ = typ)

/-- A reply for no outstanding request. -/
def State.stray (s : State) : State := s.bump fJeNetStat_STRAY_REPLIES

/-- A request is answered: its place on the pair is free. -/
def State.dropReq (s : State) (i : BitVec 12) (id : W32) : State :=
  s.modQp i fun q => { q with out := q.out.filter fun r => decide (r.reqId ≠ id) }

/-- TORN of a reply (R333). -/
def State.replyTorn (s : State) (t : TrackerId) (msg : List Byte) : State :=
  if mFlag msg 3 then s.modTrk t fun x => { x with torn := true } else s

/-- One bag of a reply: its values take their columns; a count that differs from the requester's poisons the bag (R326, R327). -/
def State.placeBag (s : State) (i : BitVec 12) (r : RemoteReq) (b : Nat × Nat × Bool × List Byte) : State :=
  let k := b.1 - r.bagFirst
  if b.1 < r.bagFirst ∨ r.counts.length ≤ k ∨ k < r.got then s
  else
    let differs := decide (b.2.1 ≠ r.counts.getD k 0)
    let vals := (List.range (b.2.2.2.length / 4)).map fun c => BitVec.ofNat 32 (bytesAt b.2.2.2 (4 * c) 4)
    let s1 := s.modBag r.t b.1 fun g =>
      { g with poison := g.poison || b.2.2.1 || differs, shards := g.shards - 1, pieces := g.pieces ++ [(r.col, vals)] }
    match differs, s1.trk r.t with
    | true, some x => (s1.bump fJpNetStat_MISMATCH_BAGS x.part).eventP x.part 0x0F i.toNat b.1
    | _, _ => s1

/-- GATHER_REPLY (R326, R327, R333): a shard's values take their places in their bags; any status but OK and POISONED fails every
bag of the request. -/
def execGatherReply (qp : BitVec 12) (msg : List Byte) (s : State) (marked : Bool := false) : Host.Outcome State Fault Refusal :=
  stepTo (s.arrive (.gatherReply qp msg marked) qp msg marked 2 fun q s =>
    match q.request msg 1 with
    | none => s.stray
    | some r =>
      let s0 := s.replyTorn r.t msg
      let bad := decide (1 < mField msg 2 1)
      let s1 := if bad then s0 else (msgBags msg).foldl (fun s b => s.placeBag qp r b) s0
      let got := if bad then r.got else r.got + mBags msg
      let s2 := if !bad ∧ mField msg 2 1 = 1 then s1.poisonCmd r.t else s1
      let s3 :=
        if bad then (s2.remoteFail r).dropReq qp r.reqId
        else if mFlag msg 0 then
          (if got < r.counts.length then s2.remoteFail { r with got := got } else s2).dropReq qp r.reqId
        else s2.modQp qp fun q => { q with out := updFirst (fun y => decide (y = r)) (fun y => { y with got := got }) q.out }
      s3.pumpNet.settlePool r.t)

/-- The outcome of adds or a push that has been answered (R333). -/
def State.acceptReply (s : State) (i : BitVec 12) (msg : List Byte) (r : RemoteReq) : State :=
  let st := mField msg 2 1
  let s1 := s.replyTorn r.t msg
  let s2 :=
    if st = 0 then s1
    else if st = 1 then s1.poisonCmd r.t
    else if st = 5 ∨ st = 6 then (s1.mark r.t fun m => { m with lost := true }).modTrk r.t fun x => { x with torn := true }
    else s1.mark r.t fun m => { m with remoteFailed := true }
  (s2.dropReq i r.reqId).pumpNet

/-- ADD_ACCEPT (R333). -/
def execAddAccept (qp : BitVec 12) (msg : List Byte) (s : State) (marked : Bool := false) : Host.Outcome State Fault Refusal :=
  stepTo (s.arrive (.addAccept qp msg marked) qp msg marked 4 fun q s => match q.request msg 3 with
    | none => s.stray
    | some r => s.acceptReply qp msg r)

/-- PUSH_ACCEPT (R333, R334). -/
def execPushAccept (qp : BitVec 12) (msg : List Byte) (s : State) (marked : Bool := false) : Host.Outcome State Fault Refusal :=
  stepTo (s.arrive (.pushAccept qp msg marked) qp msg marked 6 fun q s => match q.request msg 5 with
    | none => s.stray
    | some r => s.acceptReply qp msg r)

/-- MALFORMED_MESSAGE (R330): it is answered and not executed. -/
def execMalformedMessage (qp : BitVec 12) (msg : List Byte) (s : State) (marked : Bool := false) : Host.Outcome State Fault Refusal :=
  stepTo (s.arrive (.malformedMessage qp msg marked) qp msg marked 0 fun _ s => s)

/-- INVALID_REQUEST_PACKET (R320). -/
def execInvalidRequestPacket (qp : BitVec 12) (s : State) : Host.Outcome State Fault Refusal :=
  stepTo (s.orHold (.invalidRequestPacket qp) fun s => s.sendNak qp 1)

/-! Transport (R320, R338) -/

/-- A port in service. -/
def State.portIn (s : State) (e : Nat) : Bool := decide (s.fld fJePortCtl_STATE e = 0)

/-- Every packet a pair has sent is acknowledged. -/
def QP.quiet (q : QP) : Bool := decide (q.ackPsn = q.sendPsn)

/-- Go-back-N: everything not acknowledged is sent again. -/
def State.resend (s : State) (i : BitVec 12) : State :=
  match s.qp i with
  | some q => if q.state = .rts ∧ !q.quiet then (s.emit (.retransmit i q.ackPsn)).bump fJeNetStat_RETRANSMITS else s
  | none => s

/-- A pair with nothing unacknowledged returns to its HOME_PORT while that port is in service (R338). -/
def State.goHome (s : State) (i : BitVec 12) : State :=
  match s.qp i with
  | some q => if q.state = .rts ∧ q.quiet ∧ s.portIn (qcHome q.ctx).val then s.modQp i fun q => { q with port := qcHome q.ctx } else s
  | none => s

/-- A packet number that the pair has sent and that is not acknowledged. -/
def QP.inWindow (q : QP) (psn : BitVec 24) : Bool := decide ((psn - q.ackPsn).toNat < (q.sendPsn - q.ackPsn).toNat)

/-- ROCE_ACK_RECEIVE (R320): everything up to a packet is acknowledged. -/
def execRoceAckReceive (qp : BitVec 12) (psn : BitVec 24) (s : State) : Host.Outcome State Fault Refusal :=
  stepTo (s.orHold (.roceAckReceive qp psn) fun s => match s.qp qp with
    | none => s
    | some q =>
      if q.state = .rts ∧ q.inWindow psn then (s.modQp qp fun q => { q with ackPsn := psn + 1, retries := 0 }).goHome qp else s)

/-- ROCE_NAK_RECEIVE (R320): a NAK acknowledges what comes before its packet and starts go-back-N from there. -/
def execRoceNakReceive (qp : BitVec 12) (psn : BitVec 24) (s : State) : Host.Outcome State Fault Refusal :=
  stepTo (s.orHold (.roceNakReceive qp psn) fun s => match s.qp qp with
    | none => s
    | some q =>
      if q.state = .rts ∧ q.inWindow psn then (s.modQp qp fun q => { q with ackPsn := psn }).resend qp else s)

/-- ROCE_CNP_RECEIVE (R320): the pair halves its send rate. -/
def execRoceCnpReceive (qp : BitVec 12) (s : State) : Host.Outcome State Fault Refusal :=
  stepTo (s.orHold (.roceCnpReceive qp) fun s => s.modQp qp fun q => if q.state = .rts then { q with rate := q.rate / 2 } else q)

/-- CNP_RATE_RECOVERY (R320). -/
def execCnpRateRecovery (qp : BitVec 12) (s : State) : Host.Outcome State Fault Refusal :=
  stepTo (s.modQp qp fun q => if q.state = .rts then { q with rate := min lineRate (q.rate + lineRate / 16) } else q)

/-- ACK_TIMEOUT (R320, R322): another attempt, or ERROR once RETRY_CNT attempts are spent. -/
def execAckTimeout (qp : BitVec 12) (s : State) : Host.Outcome State Fault Refusal :=
  stepTo (match s.qp qp with
    | none => s
    | some q =>
      if q.state ≠ .rts ∨ q.quiet then s
      else if q.retries < qcRetries q.ctx then (s.modQp qp fun q => { q with retries := q.retries + 1 }).resend qp
      else s.qpError qp)

/-! NVMe over Fabrics (R335, R336) -/

/-- ADMIN_QP of a slot record. -/
def recAdmin (r : BitVec 512) : BitVec 12 := BitVec.ofNat 12 (bitsOf r 24 12)
/-- IO_QP of a slot record. -/
def recIo (r : BitVec 512) : BitVec 12 := BitVec.ofNat 12 (bitsOf r 12 12)

/-- HOST_NQN of a slot record. -/
def recHost (r : BitVec 512) : Nat := bitsOf r 192 64
/-- SUBSYS_NQN of a slot record. -/
def recSubsys (r : BitVec 512) : Nat := bitsOf r 256 64

/-- The name at a physical address: its bytes before the NUL. -/
def State.nqn (s : State) (a : Nat) : List Byte := (leBytes 224 (s.rdNat a 224)).takeWhile fun b => decide (b ≠ 0)

/-- A name has 1 to 223 bytes and a NUL after them (R335). -/
def State.nqnOk (s : State) (a : Nat) : Bool :=
  !(s.rdPoison a ((s.nqn a).length + 1)) && decide (1 ≤ (s.nqn a).length) && decide ((s.nqn a).length ≤ 223)

/-- Fabrics Connect on the admin pair as queue 0, on the I/O pair as queue 1 (R335). -/
def State.fabConnect (s : State) (n : Byte) (r : BitVec 512) (queue : Nat) : State :=
  s.emit (.nvmeConnect n (if queue = 0 then recAdmin r else recIo r) queue 128 (s.nqn (recHost r)) (s.nqn (recSubsys r)))

/-- A slot record that may be connected: its two names, VALID, a defined LBA size, reserved bits zero, its pairs in RTS with their roles. -/
def State.recOk (s : State) (r : BitVec 512) : Bool :=
  let role (i : BitVec 12) (k : Nat) : Bool := (s.qp i).any fun q => decide (q.state = .rts) && decide (qcRole q.ctx = k)
  s.nqnOk (recHost r) && s.nqnOk (recSubsys r) && bitOf r 63 && (decide (bitsOf r 0 4 = 9) || decide (bitsOf r 0 4 = 12)) && decide (bitsOf r 4 8 = 0) && decide (bitsOf r 36 27 = 0) &&
  decide (bitsOf r 172 20 = 0) && decide (bitsOf r 320 192 = 0) && role (recAdmin r) 1 && role (recIo r) 2

/-- A namespace slot. -/
def State.slotOf (s : State) (n : Byte) : Option NvmeSlot := s.nvme.find? fun v => decide (v.slot = n)

/-- Changes a namespace slot. -/
def State.modSlot (s : State) (n : Byte) (f : NvmeSlot → NvmeSlot) : State :=
  { s with nvme := updFirst (fun v => decide (v.slot = n)) f s.nvme }

/-- An action of JE_NVME_CMD ends with a RESULT. -/
def State.nvmeEnd (s : State) (res : Nat) : State := (s.setFld fJeNvmeCmd_BUSY 0).setFld fJeNvmeCmd_RESULT res

/-- Every outstanding Read of a slot ends without its data. -/
def State.failReads (s : State) (n : Byte) : State :=
  match s.slotOf n with
  | none => s
  | some v => v.reads.foldl (fun s r => s.remoteData r false) (s.modSlot n fun v => { v with reads := [] })

/-- NVME_CONNECT's action: the record is read, and the first Connect goes out; a slot that is connected is left first. -/
def State.nvmeConnect (s : State) (n : Byte) : State :=
  let a := s.fld fJeNvmeBase_BASE * 2 ^ 14 + 64 * n.toNat
  let r : BitVec 512 := BitVec.ofNat 512 (s.rdNat a 64)
  if s.rdPoison a 64 ∨ !(s.recOk r) then s.nvmeEnd 1
  else
    let s1 := s.failReads n
    let key := ((s1.slotOf n).map (·.nextKey)).getD 0
    let s2 : State := { s1 with nvme := (s1.nvme.filter fun (v : NvmeSlot) => decide (v.slot ≠ n)) ++ [⟨n, r, 0, 1, [], key⟩] }
    (s2.setFld fJeNvmeCmd_BUSY 1).fabConnect n r 0

/-- NVME_DISCONNECT's action: the slot is idle, and its Reads end without their data. -/
def State.nvmeDisconnect (s : State) (n : Byte) : State :=
  let s1 := (s.failReads n).modSlot n fun v => { v with state := 0, stage := 0 }
  (if (s.slotOf n).any fun v => decide (v.state = 1) then s1.emit (.nvmeDisconnect n) else s1).nvmeEnd 0

/-- A slot fails (R336). -/
def State.slotFails (s : State) (n : Byte) (timeout : Bool) : State :=
  if (s.slotOf n).any fun v => decide (v.state = 1) then
    (s.modSlot n fun v => { v with state := 2 }).eventE 0x50 n.toNat timeout.toNat
  else s

/-- A Read command ends. -/
def State.readEnds (s : State) (n : Byte) (r : NvmeRead) (good : Bool) : State :=
  (s.modSlot n fun v => { v with reads := v.reads.filter fun y => decide (y.key ≠ r.key) }).remoteData r good

/-- A connect that is in progress takes its next step: Connect on the admin pair, Connect on the I/O pair, Identify with
CNS 0x00. -/
def State.connectStep (s : State) (v : NvmeSlot) (good : Bool) : State :=
  if !good then (s.modSlot v.slot fun v => { v with stage := 0 }).nvmeEnd 3
  else if v.stage = 1 then (s.modSlot v.slot fun v => { v with stage := 2 }).fabConnect v.slot v.rec_ 1
  else if v.stage = 2 then
    (s.modSlot v.slot fun v => { v with stage := 3 }).emit (.nvmeIdentify v.slot (recAdmin v.rec_) (BitVec.ofNat 32 (bitsOf v.rec_ 64 32)))
  else (s.modSlot v.slot fun v => { v with stage := 0, state := 1 }).nvmeEnd 0

/-- NVME_RESPONSE (R335, R336): of a connect's step, or of a Read; a Read that failed poisons its granules and fails its slot. -/
def execNvmeResponse (slot : Byte) (key : W32) (status : BitVec 16) (lbaLog2 : BitVec 4) (nsBytes : W64) (s : State) :
    Host.Outcome State Fault Refusal :=
  stepTo (s.orHold (.nvmeResponse slot key status lbaLog2 nsBytes) fun s => match s.slotOf slot with
    | none => s
    | some v =>
      if v.stage ≠ 0 then
        s.connectStep v (decide (status = 0) && (decide (v.stage < 3) ||
          (decide (lbaLog2.toNat = bitsOf v.rec_ 0 4) && decide (v.nsBytes ≤ nsBytes.toNat))))
      else match v.reads.find? (fun r => decide (r.key = key)) with
        | none => s
        | some r =>
          let s1 := s.readEnds slot r (decide (status = 0))
          if status = 0 then s1 else s1.slotFails slot false)

/-- NVME_TIMEOUT (R336): no response within KATO. -/
def execNvmeTimeout (slot : Byte) (key : W32) (s : State) : Host.Outcome State Fault Refusal :=
  stepTo (match s.slotOf slot with
    | none => s
    | some v =>
      if v.stage ≠ 0 then s.connectStep v false
      else match v.reads.find? (fun r => decide (r.key = key)) with
        | none => s
        | some r => (s.readEnds slot r false).slotFails slot true)

/-- NVME_KEEP_ALIVE (R335). -/
def execNvmeKeepAlive (slot : Byte) (s : State) : Host.Outcome State Fault Refusal :=
  stepTo (if (s.slotOf slot).any fun v => decide (v.state = 1) then s.emit (.nvmeKeepAlive slot) else s)

/-- RDMA_WRITE_RECEIVE (R320, R336): accepted on an NVMe I/O pair alone, under a key that is current, within its slot. -/
def execRdmaWriteReceive (qp : BitVec 12) (key : W32) (off : W32) (data : List Byte) (s : State) (marked : Bool := false) : Host.Outcome State Fault Refusal :=
  stepTo (s.orHoldMsg (.rdmaWriteReceive qp key off data marked) qp data.length marked fun s =>
    let io := (s.qp qp).any fun q => decide (q.state = .rts) && decide (qcRole q.ctx = 2)
    if !io then s.sendNak qp 1
    else
      let at0 := off.toNat
      let fits (r : NvmeRead) : Bool := decide (r.key = key) && decide (at0 + data.length ≤ r.data.length)
      match s.nvme.find? (fun v => decide (recIo v.rec_ = qp) && decide (v.stage = 0) && v.reads.any fits) with
      | none => s.sendNak qp 2
      | some v =>
        let put (r : NvmeRead) : NvmeRead := { r with data := r.data.take at0 ++ data ++ r.data.drop (at0 + data.length) }
        (s.modSlot v.slot fun v => { v with reads := updFirst (fun r => decide (r.key = key)) put v.reads }).received qp data.length marked)

/-! Ports (R338, R339) -/

/-- The next port above a pair's, in rotation, that it may use and that is in service. -/
def State.nextPort (s : State) (q : QP) : Option (Fin 8) :=
  ((List.range 7).map fun k => Fin.ofNat 8 (q.port.val + k + 1)).find? fun e => qcMayUse q.ctx e.val && s.portIn e.val

/-- The pairs of a port move away; what is not acknowledged is sent again from there. -/
def State.movePairs (s : State) (e : Fin 8) : State :=
  (s.qps.filter fun q => decide (q.port = e) && decide (q.state = .rts)).foldl (fun (s : State) q =>
    match s.nextPort q with
    | some f => (s.modQp q.i fun q => { q with port := f }).resend q.i
    | none => s) s

/-- A port goes DOWN (R338). -/
def State.portFails (s : State) (e : Fin 8) (cause : Nat) : State :=
  let s1 : State := { s with portTrain := s.portTrain.filter fun f => decide (f ≠ e) }
  (((s1.setFld fJePortCtl_STATE 3 e).bump fJePortStat_DOWN_EVENTS e).eventE 0x52 e cause).movePairs e

/-- A port enters service; pairs at rest return to it. -/
def State.portServes (s : State) (e : Fin 8) : State :=
  let s1 := ({ s with portTrain := s.portTrain.filter fun f => decide (f ≠ e) } : State).setFld fJePortCtl_STATE 0 e
  (s1.qps.map (·.i)).foldl (fun s i => s.goHome i) s1

/-- A zeroised module's ports behave as if their links were down (R363). -/
def State.zeroised (s : State) : Bool := decide (s.fld fJeSecStatus_ZEROISED = 1)

/-- A link is lost: alignment, or a remote fault. -/
def State.linkLost (s : State) (e : Fin 8) : State :=
  let s1 := s.setFld fJePortCtl_LINK_UP 0 e
  if s.portIn e ∨ e ∈ s.portTrain then s1.portFails e 0 else s1

/-- PORT_DOWN (R338, R339): a port in service, or in its training, goes DOWN. -/
def execPortDown (e : Fin 8) (s : State) : Host.Outcome State Fault Refusal := stepTo (s.linkLost e)

/-- PORT_LINK_UP (R339): a port that trained enters service; one that is DOWN waits for its FEC window. -/
def execPortLinkUp (e : Fin 8) (s : State) : Host.Outcome State Fault Refusal :=
  stepTo (if s.zeroised ∨ (s.fld fJePortCtl_STATE e = 2 ∧ e ∉ s.portTrain) then s
    else
      let s1 := s.setFld fJePortCtl_LINK_UP 1 e
      if e ∈ s.portTrain then s1.portServes e else s1)

/-- FEC_WINDOW (R338, R339): 2^20 MAC cycles have passed. -/
def execFecWindow (e : Fin 8) (codewords : BitVec 16) (s : State) : Host.Outcome State Fault Refusal :=
  stepTo (
    let s1 := s.bump fJePortStat_FEC_UNCORR e codewords.toNat
    let limit := s.fld fJePortCtl_FEC_LIMIT e
    let excess := decide (limit ≠ 0) && decide (limit < codewords.toNat)
    if s.portIn e then (if excess then s1.portFails e 1 else s1)
    else if s.fld fJePortCtl_STATE e = 3 ∧ s.fld fJePortCtl_LINK_UP e = 1 ∧ !excess then s1.portServes e
    else s1)

/-- A bypassed port is reinitialised (R339). -/
def State.portTrains (s : State) (e : Fin 8) : State :=
  if e ∈ s.portTrain ∨ s.zeroised then s
  else (({ s with portTrain := s.portTrain ++ [e] } : State).setFld fJePortCtl_LINK_UP 0 e)

/-- PORT_BYPASS's action (R339). -/
def State.portBypass (s : State) (e : Fin 8) : State :=
  match s.fld fJePortCtl_STATE e with
  | 0 => (s.setFld fJePortCtl_STATE 1 e).movePairs e
  | 1 => s.setFld fJePortCtl_ENABLE_PENDING 0 e
  | 3 => (s.setFld fJePortCtl_STATE 2 e).setFld fJePortCtl_LINK_UP 0 e
  | _ => s

/-- PORT_RETURN's action (R339). -/
def State.portReturn (s : State) (e : Fin 8) : State :=
  match s.fld fJePortCtl_STATE e with
  | 1 => s.setFld fJePortCtl_ENABLE_PENDING 1 e
  | 2 => s.portTrains e
  | _ => s

/-- PORT_DRAIN_DONE (R339): no pair is on a draining port. -/
def execPortDrainDone (e : Fin 8) (s : State) : Host.Outcome State Fault Refusal :=
  stepTo (if s.fld fJePortCtl_STATE e ≠ 1 ∨ s.qps.any (fun q => decide (q.port = e) && decide (q.state = .rts)) then s
    else
      let s1 := (s.setFld fJePortCtl_STATE 2 e).setFld fJePortCtl_LINK_UP 0 e
      if s.fld fJePortCtl_ENABLE_PENDING e = 1 then (s1.setFld fJePortCtl_ENABLE_PENDING 0 e).portTrains e else s1)

/-! MACsec (R337) -/

/-- MACSEC_KEY_EXHAUSTED (R337): transmit on the association in use stops. -/
def execMacsecKeyExhausted (e : Fin 8) (s : State) : Host.Outcome State Fault Refusal :=
  stepTo (match s.sec.saks.find? (fun k => decide (k.port = e) && !k.rx && k.active) with
    | none => s
    | some k =>
      let off (y : Sak) : Sak := { y with active := false }
      ({ s with sec := { s.sec with saks := updFirst (fun y => decide (y = k)) off s.sec.saks } } : State).eventE 0x51 e (k.sc * 16 + k.an))

/-- MACSEC_FRAME_DROP (R318, R337). -/
def execMacsecFrameDrop (e : Fin 8) (s : State) : Host.Outcome State Fault Refusal := stepTo (s.bump fJePortStat_MACSEC_DROPS e)

end Sys2Proof.Machine
end

