-- ==== Sys2Proof/Machine/Image.lean ====
section
/-! DEFINITION. The flash and its images (R341 to R351, R359): what the loader checks, and the keys that an accepted image sets. -/
namespace Sys2Proof.Machine

/-! The flash (R343) -/

/-- A byte of the flash; erased bytes are 0xFF. -/
def State.flashAt (s : State) (a : Nat) : Byte := ~~~(memGet s.flash a)

/-- Writes bytes to the flash as it stores them. -/
def State.flashPut (s : State) (a : Nat) (bs : List Byte) : State := { s with flash := memPutList s.flash a (bs.map fun b => ~~~b) }

/-- Offset of the PUF helper record. -/
def helperBase : Nat := 0x800000

/-- The PUF helper record. -/
def State.helper (s : State) : List Byte := (List.range 4096).map fun k => s.flashAt (helperBase + k)

/-- Bytes of image slot k. -/
def State.slotByte (s : State) (slot : Nat) (a : Nat) : Byte := s.flashAt (slot * 0x400000 + a)

/-! The image (R344 to R348) -/

/-- n bytes of an image. -/
def imgBytes (rd : Nat → Byte) (a n : Nat) : List Byte := (List.range n).map fun k => rd (a + k)

/-- A little-endian number of an image. -/
def imgNat (rd : Nat → Byte) (a n : Nat) : Nat := leNat (imgBytes rd a n)

/-- IMAGE_LEN. -/
def imgLen (rd : Nat → Byte) : Nat := imgNat rd 8 4
/-- DEFAULT_MODE. -/
def imgMode (rd : Nat → Byte) : Nat := imgNat rd 6 1
/-- BOARD_KEY. -/
def imgBoardKey (rd : Nat → Byte) : Nat := natBits (imgNat rd 7 1) 1 2
/-- LOCK_AT_START. -/
def imgLockAtStart (rd : Nat → Byte) : Bool := decide (imgNat rd 7 1 % 2 = 1)
/-- OWNER_KEY. -/
def imgOwner (rd : Nat → Byte) : List Byte := imgBytes rd 0x40 96

/-- A section of an image. -/
structure ImgSec where
  typ : Nat
  off : Nat
  len : Nat
deriving DecidableEq, Repr

/-- The entries of the section table. -/
def imgSecs (rd : Nat → Byte) : List ImgSec :=
  (List.range (imgNat rd 0x10 1)).map fun k =>
    ⟨imgNat rd (0x110 + 16 * k) 1, imgNat rd (0x114 + 16 * k) 4, imgNat rd (0x118 + 16 * k) 4⟩

/-- The section of a type, of length 0 where there is none. -/
def imgSec (rd : Nat → Byte) (typ : Nat) : ImgSec :=
  ((imgSecs rd).find? fun x => decide (x.typ = typ) && decide (x.len ≠ 0)).getD ⟨typ, 0, 0⟩

/-- The register sections. -/
def regTypes : List Nat := [0x01, 0x02, 0x03, 0x04]

/-- The bytes of a record of a section type; 0 for an invalid type. -/
def recordSize (typ : Nat) : Nat :=
  if typ ∈ regTypes then 16 else if typ = 0x10 then 32 else if typ = 0x11 then 8 else if typ = 0x20 then 128 else 0

/-- Check 1 of R345. -/
def imgHeaderOk (rd : Nat → Byte) : Bool :=
  decide (imgNat rd 0 4 = 0x1E13A5C3) && decide (imgNat rd 4 2 = 1) && decide (1024 ≤ imgLen rd) && decide (imgLen rd ≤ 0x400000) &&
  decide (imgLen rd % 64 = 0) && decide (1 ≤ imgMode rd) && decide (imgMode rd ≤ 3) && decide (imgBoardKey rd ≠ 3) &&
  decide (imgNat rd 0x10 1 ≤ 15)

/-- Check 2 of R345: the owner certificate. -/
def imgCertOk (rd : Nat → Byte) : Bool :=
  Config.ecdsaVerify Config.rootKey (Config.sha384 (imgBytes rd 0x40 0x70)) (imgBytes rd 0xB0 96)

/-- Check 3 of R345: the owner's signature. -/
def imgSigOk (rd : Nat → Byte) : Bool :=
  Config.ecdsaVerify (imgOwner rd) (Config.sha384 (imgBytes rd 0 (imgLen rd - 96))) (imgBytes rd (imgLen rd - 96) 96)

/-- The rules of R346 on the sections that are not empty. -/
def imgSectionsOk (rd : Nat → Byte) : Bool :=
  let l := (imgSecs rd).filter fun x => decide (x.len ≠ 0)
  l.all (fun x => decide (recordSize x.typ ≠ 0) && decide (x.off % 64 = 0) && decide (0x200 ≤ x.off) &&
    decide (x.off + x.len ≤ imgLen rd - 96) && decide (x.len % recordSize x.typ = 0)) &&
  decide ((l.map (·.typ)).Nodup) &&
  decide (l.Pairwise fun x y => x.off + x.len ≤ y.off ∨ y.off + y.len ≤ x.off) &&
  decide ((imgSec rd 0x10).len ≤ 32) && decide ((imgSec rd 0x11).len ≤ 4096 * 8) && decide ((imgSec rd 0x20).len ≤ 8 * 128) &&
  decide (sumBy (fun t => (imgSec rd t).len / 16) regTypes ≤ 65536)

/-- The register records of a section: OFFSET field and VALUE. -/
def imgRecords (rd : Nat → Byte) (typ : Nat) : List (Nat × W64) :=
  let x := imgSec rd typ
  (List.range (x.len / 16)).map fun k => (imgNat rd (x.off + 16 * k) 4, BitVec.ofNat 64 (imgNat rd (x.off + 16 * k + 8) 8))

/-- A value with the fields of some access codes replaced. -/
def writeFields (fs : List FieldDef) (ok : Access → Bool) (old v : W64) : W64 :=
  fs.foldl (fun w f => if ok f.acc then putBits w f.lo f.len (bitsOf v f.lo f.len) else w) old

/-- Fields that an ordinary write sets. -/
def Access.plain : Access → Bool
  | .rw => true
  | .rwl => true
  | _ => false

/-- A valid register record (R347). -/
def recordOk (r : Nat × W64) : Bool :=
  decide (r.1 % 8 = 0) && match regAt (natBits r.1 0 26) with
    | some x => decide (x.reg ≠ .jeBootSel) && decide (writeFields (x.reg.fieldsAt x.i) Access.plain 0 r.2 = r.2)
    | none => false

/-- The repair-list records (R348). -/
def imgRepairs (rd : Nat → Byte) : List W64 :=
  let x := imgSec rd 0x11
  (List.range (x.len / 8)).map fun k => BitVec.ofNat 64 (imgNat rd (x.off + 8 * k) 8)

/-- A valid repair record (R348). -/
def repairOk (v : W64) : Bool := decide (bitsOf v 62 2 = 0) && decide (bitsOf v 8 26 = 0) && decide (bitsOf v 0 5 = bitsOf v 57 5)

/-- The wrapped-key entries: TYPE and wrapped material (R359). -/
def imgKeys (rd : Nat → Byte) : List (Nat × List Byte) :=
  let x := imgSec rd 0x20
  (List.range (x.len / 128)).map fun k =>
    let t := imgNat rd (x.off + 128 * k) 1
    (t, imgBytes rd (x.off + 128 * k + 8) (if t = 1 then 72 else 40))

/-- K_img (R358): the image key of an owner. -/
def imageKey (dev : List Byte) (owner : List Byte) : List Byte := Config.kdf dev 1 (Config.sha384 owner)

/-- The key of a TYPE, unwrapped. -/
def imgKey (rd : Nat → Byte) (kImg : List Byte) (typ : Nat) : Option (List Byte) :=
  ((imgKeys rd).find? fun k => decide (k.1 = typ)).bind fun k => Config.kwUnwrap kImg k.2

/-- Check 5 of R345: every entry has a defined TYPE, no two the same, and unwraps. -/
def imgKeysOk (rd : Nat → Byte) (dev : Option (List Byte)) : Bool :=
  let l := imgKeys rd
  decide (l = []) || dev.any fun d =>
    decide ((l.map (·.1)).Nodup) && l.all fun k => (decide (k.1 = 1) || decide (k.1 = 2)) && (Config.kwUnwrap (imageKey d (imgOwner rd)) k.2).isSome

/-- The mode a start runs in with an image (R350). -/
def State.startMode (s : State) (rd : Nat → Byte) : Nat :=
  if s.boot.recover then 3 else if s.fld fJeBootSel_NEXT_MODE ≠ 0 then s.fld fJeBootSel_NEXT_MODE else imgMode rd

/-- A zeroisation runs (R363). -/
def State.zeroising (s : State) : Bool := decide (1 ≤ s.sec.pending) && decide (s.sec.pending ≤ 3)

/-- The reason for which an image is rejected (R345, R363, R364), 0 where it is accepted. -/
def State.imageReason (s : State) (rd : Nat → Byte) : Nat :=
  if s.boot.noFlash then 0x01
  else if s.fld fJeSecStatus_SELFTEST_FAIL = 1 then 0x0A
  else if !(imgHeaderOk rd) then 0x02
  else if !(imgCertOk rd) then 0x03
  else if !(imgSigOk rd) then 0x05
  else if !(imgSectionsOk rd) then 0x04
  else if imgBoardKey rd = 1 ∧ !((imgKeys rd).any fun k => decide (k.1 = 1)) then 0x04
  else if !((regTypes.flatMap (imgRecords rd)).all recordOk) ∨ !((imgRepairs rd).all repairOk) then 0x06
  else if (s.fld fJeSecStatus_ZEROISED = 1 ∨ s.zeroising) ∧ (imgKeys rd ≠ [] ∨ imgBoardKey rd = 1) then 0x0A
  else if !(imgKeysOk rd s.sec.kDev) then 0x07
  else if imgNat rd 0xA8 1 % 2 = 1 ∧ s.startMode rd ≠ 3 then 0x08
  else 0

/-! What an accepted image sets (R349, R350, R360) -/

/-- ENGINE of JE_PHYS_MAP is another number: HBM and the board tier keep their contents at their new addresses. -/
def State.rekey (s : State) (old : Nat) : State :=
  let new := s.fld fJePhysMap_ENGINE
  if old = new then s
  else
    let at_ (a : Nat) : Nat := if physEngine a = old then new * 2 ^ 56 + a % 2 ^ 56 else a
    { s with
      mem := s.mem.foldl (fun (m : List Host.Cell) c => memPut m (at_ c.1) c.2) []
      poison := s.poison.foldl (fun l g => insNat (at_ (g * 64) / 64) l) []
      badReads := s.badReads.foldl (fun l g => insNat (at_ (g * 64) / 64) l) [] }

/-- Forgets what lies at some addresses: it reads as never written. -/
def State.forget (s : State) (f : Nat → Bool) : State :=
  { s with mem := s.mem.filter fun c => !(f c.1), poison := s.poison.filter fun g => !(f (g * 64)), badReads := s.badReads.filter fun g => !(f (g * 64)) }

/-- The overlay section of a mode. -/
def overlayOf (mode : Nat) : Nat := mode + 1

/-- Board-tier bytes in the encrypted range. -/
def State.inCipher (s : State) (a : Nat) : Bool := s.isBoard a && s.encrypted (physOff a)

/-- The keys of an accepted image take effect (R358 to R360); an ephemeral board key makes the encrypted range as unwritten. -/
def State.takeKeys (s : State) (rd : Nat → Byte) : State :=
  let kImg := s.sec.kDev.map fun d => imageKey d (imgOwner rd)
  let trans := kImg.bind fun k => imgKey rd k 2
  let own := kImg.bind fun k => imgKey rd k 1
  let r := s.drawN 8
  let fresh := r.1.flatMap fun w => leBytes 8 w.toNat
  let bk := imgBoardKey rd
  let s1 : State := if bk = 0 then r.2 else s
  let board := if bk = 0 then some fresh else if bk = 1 then own else none
  let s2 : State := { s1 with sec := { s1.sec with kImg := kImg, transport := trans, board := board } }
  (s2.setFld fJeSecStatus_TRANSPORT_KEY trans.isSome.toNat).setFld fJeSecStatus_BOARD_KEY bk

end Sys2Proof.Machine
end

