-- ==== Sys2Proof/Machine/Boot.lean ====
section
/-! DEFINITION. Power, reset, start and configuration lock (R258, R259, R261, R352 to R356), the flash interface (R366) and the
security module (R357 to R364). -/
namespace Sys2Proof.Machine

/-! Zeroisation and enrolment (R358, R363) -/

/-- No key is held any longer (R363). -/
def Sec.clear (x : Sec) : Sec := { x with kDev := none, kImg := none, transport := none, board := none, saks := [] }

/-- A zeroisation begins: by register 1, pin 2, self-test 3. One that runs goes on; an image load in progress ends (R363). -/
def State.zeroise (s : State) (why : Nat) : State :=
  if s.zeroising then s
  else
    let loading := s.boot.running && decide (s.fld fJeStart_STATE = 0)
    { s with sec := { s.sec with pending := why }, boot := { s.boot with loadEnded := s.boot.loadEnded || loading } }

/-- BUSY of JE_SEC_CTL clears with a RESULT. -/
def State.secEnd (s : State) (res : Nat) : State := (s.setFld fJeSecCtl_BUSY 0).setFld fJeSecCtl_RESULT res

/-- A zeroisation ends: every key is cleared, and every port is as without a link. -/
def State.zeroiseDone (s : State) : State :=
  let cause := s.sec.pending - 1
  let s1 : State := { s with sec := { s.sec.clear with pending := 0 } }
  let s2 := (((s1.setFld fJeSecStatus_ZEROISED 1).setFld fJeSecStatus_DEV_KEY 0).setFld fJeSecStatus_TRANSPORT_KEY 0).eventE 0x63 cause 0
  let s3 := (List.finRange 8).foldl (fun s e => s.linkLost e) s2
  if s3.fld fJeSecCtl_BUSY = 1 then s3.secEnd 0 else s3

/-- An enrolment ends (R358): a fresh secret, its helper record in the flash. -/
def State.enrolDone (s : State) (flashError : Bool) : State :=
  let r := s.drawN 4
  let dev := r.1.flatMap fun w => leBytes 8 w.toNat
  let s1 : State := { r.2 with sec := { r.2.sec with pending := 0 } }
  if flashError then s1.secEnd 3
  else
    let rec_ := Config.pufHelper dev
    let owner := (List.range 96).map fun k => s.boot.image.getD (0x40 + k) 0
    let kImg := if s.boot.image = [] then none else some (imageKey dev owner)
    let s2 := s1.flashPut helperBase ((List.range 4096).map fun k => rec_.getD k 0xFF)
    (({ s2 with sec := { s2.sec with kDev := some dev, kImg := kImg } } : State).setFld fJeSecStatus_DEV_KEY 1).secEnd 0

/-- SECURITY_ACTION_DONE (R358, R363). -/
def execSecurityActionDone (flashError : Bool) (s : State) : Host.Outcome State Fault Refusal :=
  stepTo (match s.sec.pending with
    | 0 => s
    | 4 => s.enrolDone flashError
    | _ => s.zeroiseDone)

/-- ZEROISE's action. -/
def State.zeroiseReg (s : State) : State := (s.zeroise 1).setFld fJeSecCtl_BUSY 1

/-- ZEROISE_PIN (R363). -/
def execZeroisePin (s : State) : Host.Outcome State Fault Refusal := stepTo (s.zeroise 2)

/-- The Crypto Officer's services are open: test and recovery mode (R364). -/
def State.testMode (s : State) : Bool := decide (s.fld fJeStart_MODE = 3)

/-- PUF_ENROL's action: in test and recovery mode, or with no image. -/
def State.pufEnrol (s : State) : State :=
  if !s.testMode ∧ s.fld fJeStart_IMAGE = 1 then s.setFld fJeSecCtl_RESULT 1
  else if s.sec.pending ≠ 0 then s.setFld fJeSecCtl_RESULT 2
  else ({ s with sec := { s.sec with pending := 4 } } : State).setFld fJeSecCtl_BUSY 1

/-- A self-test of the security module fails (R364). -/
def State.secTestFails (s : State) (test : Nat) : State :=
  ((s.setFld fJeSecStatus_SELFTEST_FAIL 1).eventE 0x64 test 0).zeroise 3

/-- ENTROPY_HEALTH_FAIL (R364). -/
def execEntropyHealthFail (s : State) : Host.Outcome State Fault Refusal := stepTo (s.secTestFails 6)

/-! Key imports (R361, R362) -/

/-- Words written to JE_KEY_IMPORT: the eighth makes a record, and those behind a record wait for its end. -/
def State.keyWord (s : State) (v : W64) : State :=
  if s.sec.rec_.isSome then { s with sec := { s.sec with waiting := s.sec.waiting ++ [v] } }
  else if s.sec.words.length < 7 then { s with sec := { s.sec with words := s.sec.words ++ [v] } }
  else { s with sec := { s.sec with words := [], rec_ := some (s.sec.words ++ [v]) } }

/-- A record's processing ends; words that waited are taken. -/
def State.importEnd (s : State) (res : Nat) : State :=
  let s1 : State := { s with sec := { s.sec with rec_ := none, waiting := [] } }
  let s2 := s1.setFld fJeSecStatus_IMPORT_RESULT res
  let s3 := if res = 0 then s2.bump fJeSecStatus_IMPORTS else (s2.bump fJeSecStatus_IMPORT_FAILS).eventE 0x62 res 0
  s.sec.waiting.foldl State.keyWord s3

/-- A record's word. -/
def recWord (r : List W64) (k : Nat) : W64 := r.getD k 0

/-- Bytes of a record's words from k on. -/
def recBytes (r : List W64) (k : Nat) : List Byte := (r.drop k).flatMap fun w => leBytes 8 w.toNat

/-- The outcome of a KIND 1 record (R361, R362): the RESULT and the key it brings. -/
def State.sakResult (s : State) (r : List W64) : Except Nat Sak :=
  let w := recWord r 0
  let rx := bitOf w 56
  let sc := bitsOf w 52 4
  let e : Fin 8 := Fin.ofNat 8 (bitsOf w 57 3)
  let an := bitsOf w 50 2
  if s.zeroised then .error 5
  else if bitsOf w 60 4 ≠ 1 ∨ bitsOf w 0 49 ≠ 0 ∨ (!rx ∧ sc ≠ 0) then .error 2
  else match s.sec.transport with
    | none => .error 5
    | some kek =>
      if !rx ∧ s.sec.saks.any (fun k => decide (k.port = e) && !k.rx && decide (k.an = an) && k.active) then .error 3
      else match Config.kwUnwrap kek (recBytes r 1) with
        | none => .error 1
        | some key => .ok ⟨e, rx, sc, an, bitOf w 49, key, rx || !(s.sec.saks.any fun k => decide (k.port = e) && !k.rx && k.active)⟩

/-- SAK_IMPORT (R361, R362): the record's key replaces its association. A record of no defined KIND is refused here. -/
def execSakImport (s : State) : Host.Outcome State Fault Refusal :=
  stepTo (match s.sec.rec_ with
    | none => s
    | some r =>
      let kind := bitsOf (recWord r 0) 60 4
      if kind = 2 ∨ kind = 3 then s
      else match s.sakResult r with
        | .error res => s.importEnd res
        | .ok k =>
          let same (y : Sak) : Bool := decide (y.port = k.port) && decide (y.rx = k.rx) && decide (y.sc = k.sc) && decide (y.an = k.an)
          let l := s.sec.saks.filter fun y => !(same y)
          ({ s with sec := { s.sec with saks := l ++ [k] } } : State).importEnd 0)

/-- OUT of a KIND 2 or 3 record, as an HBM offset. -/
def recOut (r : List W64) : Nat := bitsOf (recWord r 0) 0 46 * 64

/-- Whether a KIND 2 or 3 record is refused, with its RESULT; `zeros` is the first word that must be zero. -/
def State.provRefused (s : State) (r : List W64) (zeros : Nat) : Nat :=
  if s.zeroised then 5
  else if bitsOf (recWord r 0) 46 14 ≠ 0 ∨ (r.drop zeros).any (fun w => decide (w ≠ 0)) ∨ s.hbmBound < recOut r + 128 then 2
  else if !s.testMode then 4
  else if s.sec.kImg = none then 5
  else 0

/-- Writes a wrapped-key entry at OUT (R359). -/
def State.putEntry (s : State) (r : List W64) (typ : Nat) (key : List Byte) : State :=
  let e := leBytes 8 typ ++ Config.kwWrap (s.sec.kImg.getD []) key
  s.poke (s.hbmPhys (recOut r)) ((List.range 128).map fun k => e.getD k 0)

/-- PROVISION_TRANSPORT_KEY (R361, R362): a KIND 2 record. -/
def execProvisionTransportKey (s : State) : Host.Outcome State Fault Refusal :=
  stepTo (match s.sec.rec_ with
    | none => s
    | some r =>
      if bitsOf (recWord r 0) 60 4 ≠ 2 then s
      else
        let res := s.provRefused r 5
        if res ≠ 0 then s.importEnd res else (s.putEntry r 2 ((recBytes r 1).take 32)).importEnd 0)

/-- GENERATE_BOARD_KEY (R361, R362): a KIND 3 record; the key is drawn from the DRBG. -/
def execGenerateBoardKey (s : State) : Host.Outcome State Fault Refusal :=
  stepTo (match s.sec.rec_ with
    | none => s
    | some r =>
      if bitsOf (recWord r 0) 60 4 ≠ 3 then s
      else
        let res := s.provRefused r 1
        if res ≠ 0 then s.importEnd res
        else
          let d := s.drawN 8
          (d.2.putEntry r 1 (d.1.flatMap fun w => leBytes 8 w.toNat)).importEnd 0)

/-! The flash interface (R366) -/

/-- NVM_BUF_WRITE (R366): the next word of the page buffer. -/
def State.nvmWord (s : State) (v : W64) : State :=
  if s.sec.pageBuf.length < 32 then { s with sec := { s.sec with pageBuf := s.sec.pageBuf ++ [v] } } else s

/-- The address is closed to programming and erasing: the helper record, and the slot loaded at this start outside test and
recovery mode (R366). -/
def State.flashClosed (s : State) (a : Nat) : Bool :=
  (decide (helperBase ≤ a) && decide (a < helperBase + 4096)) ||
  (decide (s.fld fJeStart_IMAGE = 1) && !s.testMode && decide (a / 0x400000 = s.fld fJeStart_SLOT))

/-- An action of JE_NVM_CTL begins: 1 read, 2 program, 3 erase. -/
def State.nvmAct (s : State) (act addr : Nat) : State :=
  if act ≠ 1 ∧ s.flashClosed addr then s.setFld fJeNvmCtl_RESULT 1
  else if act = 2 ∧ s.sec.pageBuf.length < 32 then s.setFld fJeNvmCtl_RESULT 4
  else ({ s with sec := { s.sec with nvmAction := act, nvmAddr := addr } } : State).setFld fJeNvmCtl_BUSY 1

/-- The bytes an action touches: first address and number. -/
def nvmSpan (act addr : Nat) : Nat × Nat :=
  if act = 1 then (addr / 8 * 8, 8) else if act = 2 then (addr / 256 * 256, 256) else (addr / 4096 * 4096, 4096)

/-- A page or sector whose action did not end has undefined contents: free values (R366). -/
def State.nvmSpoil (s : State) (act addr : Nat) : State :=
  if act = 2 ∨ act = 3 then
    let sp := nvmSpan act addr
    let r := s.drawN (sp.2 / 8)
    r.2.flashPut sp.1 (r.1.flatMap fun w => leBytes 8 w.toNat)
  else s

/-- NVM_ACTION_DONE (R366): flash bits are programmed from 1 to 0, and an erased sector reads 0xFF. -/
def execNvmActionDone (flashError : Bool) (s : State) : Host.Outcome State Fault Refusal :=
  stepTo (
    let act := s.sec.nvmAction
    let addr := s.sec.nvmAddr
    if act = 0 then s
    else
      let s1 := ({ s with sec := { s.sec with nvmAction := 0, pageBuf := if act = 2 then [] else s.sec.pageBuf } } : State).setFld fJeNvmCtl_BUSY 0
      if flashError then (s1.nvmSpoil act addr).setFld fJeNvmCtl_RESULT 3
      else
        let s2 := s1.setFld fJeNvmCtl_RESULT 0
        if act = 1 then s2.setReg .jeNvmData (BitVec.ofNat 64 (leNat ((List.range 8).map fun k => s.flashAt ((nvmSpan 1 addr).1 + k))))
        else
          let sp := nvmSpan act addr
          let page := s.sec.pageBuf.flatMap fun w => leBytes 8 w.toNat
          s2.flashPut sp.1 (if act = 2 then page.mapIdx fun k b => b &&& s.flashAt (sp.1 + k) else List.replicate 4096 0xFF))

/-! Power and reset (R352, R357) -/

/-- The registers of the always-on domain: kept across an engine reset (R352, R404). -/
def alwaysOnReg (r : RegId) : Bool :=
  decide (r = .jeChMapout) || decide (r = .jeBootSel) || decide (r = .jeEnergy) || decide (r = .jeEnergyBits) || decide (r = .jePwrResid)

/-- The write-combining buffers of some slices drain to HBM (R249). -/
def State.drainWcb (s : State) (f : SliceId → Bool) : State :=
  let s1 := (s.wcb.filter fun e => f e.n).foldl (fun (s : State) e =>
    if e.zmask = 0 ∧ e.mask ≠ BitVec.allOnes 64 then (s.bump fJsWcbStat_MERGE_READS e.n.val).writeBackEntry (s.mergeEntry e)
    else s.writeBackEntry e) s
  { s1 with wcb := s1.wcb.filter fun e => !(f e.n) }

/-- Writes of commands in flight, issued and not accepted, when the engine is reset: each has landed or has not, as a free value
says (R352). -/
def State.settleReset (s : State) : State :=
  s.wrQ.foldl (fun (s : State) w =>
    let r := s.draw
    if r.1.getLsbD 0 ∧ s.isHbm w.addr then r.2.poke w.addr w.bytes else r.2) { s with wrQ := [] }

/-- Adds of commands in flight that stand at the adders: each has landed or has not, as a free value says (R352). -/
def State.settleAdds (s : State) : State :=
  s.addQ.foldl (fun (s : State) o =>
    let r := s.draw
    if r.1.getLsbD 0 ∧ s.isHbm o.addr then (r.2.addHbm (sliceGens o.n) o).getD r.2 else r.2) { s with addQ := [] }

/-- Every domain but the always-on one is reset. What waits outside (queued commands, the flash, what has been sent) stays. -/
def State.resetDomains (s : State) : State :=
  { State.reset with
    pending := s.pending, out := s.out, freeCtr := s.freeCtr, flash := s.flash, mem := s.mem, poison := s.poison, badReads := s.badReads
    regs := s.regs.filter fun r => alwaysOnReg r.1.reg
    remapCopy := s.remapCopy
    sec := { State.reset.sec with kDev := s.sec.kDev, pending := if s.sec.pending = 4 then 0 else s.sec.pending, pufDraw := s.sec.pufDraw }
    boot := { State.reset.boot with porGood := true, lastMapped := s.boot.lastMapped } }

/-- An engine reset (R352): the write-combining buffers drain, then every other domain is reset; HBM and the board tier stand at
ENGINE 0 until the next start sets it. -/
def State.engineReset (s : State) : State :=
  let s1 := s.rowHolds.foldl (fun (s : State) h => s.freeRow h) ((s.settleAdds.settleReset).drainWcb fun _ => true)
  let s2 := if s1.sec.nvmAction ≠ 0 then s1.nvmSpoil s1.sec.nvmAction s1.sec.nvmAddr else s1
  let s3 := s2.resetDomains
  let s4 := (s3.setFld fJeSecStatus_ZEROISED (s.fld fJeSecStatus_ZEROISED)).setFld fJeSecStatus_DEV_KEY (s.fld fJeSecStatus_DEV_KEY)
  s4.rekey (s.fld fJePhysMap_ENGINE)

/-- What the always-on controller counts is brought up to date before the state changes with a reset (R378, R379). -/
def State.countPower (s : State) : State := (if s.asleep then s.sleepEnergy else s).accrue

/-- ENGINE_RESET (R352): je_rst_n falls. -/
def execEngineReset (s : State) : Host.Outcome State Fault Refusal := stepTo (if s.boot.running then s.countPower.engineReset else s)

/-- POWER_LOSS (R244, R249, R258, R352): je_por_n falls. The key store, the remap copy, the write-combining buffers and the
always-on registers are lost, and HBM is as never written; the board tier and the flash are outside. -/
def State.powerLoss (s : State) : State :=
  let s1 := (({ s with wcb := [] } : State).forget s.isHbm).resetDomains
  let s2 : State := { s1 with
    regs := [], remapCopy := []
    sec := { State.reset.sec with pufDraw := s.sec.pufDraw }
    boot := State.reset.boot }
  s2.rekey (s.fld fJePhysMap_ENGINE)

/-- POWER_LOSS. -/
def execPowerLoss (s : State) : Host.Outcome State Fault Refusal := stepTo (if s.boot.porGood then s.powerLoss else s)

/-- POWER_ON_RESET (R341, R352, R357): je_por_n rises; the device secret is reconstructed from the PUF's start-up values and the
helper record. -/
def execPowerOnReset (s : State) : Host.Outcome State Fault Refusal :=
  stepTo (if s.boot.porGood then s
    else
      let dev := Config.pufExtract s.sec.pufDraw s.helper
      let s1 : State := { s with
        boot := { s.boot with porGood := true }
        sec := { s.sec with kDev := dev, pufDraw := s.sec.pufDraw + 1 } }
      s1.setFld fJeSecStatus_DEV_KEY dev.isSome.toNat)

/-! Start (R259, R261, R353) -/

/-- ENGINE_START (R106, R342, R350, R353, R364): je_rst_n rises; the mode pin is sampled, the generators are seeded, the flash is
discovered and the security module tests itself (0: no test failed). -/
def execEngineStart (recover : Bool) (sfdpDensity : BitVec 6) (failedTest : Byte) (s : State) : Host.Outcome State Fault Refusal :=
  stepTo (if !s.boot.porGood ∨ s.boot.running then s
    else
      let s1 : State := { s with boot := { s.boot with running := true, recover := recover, noFlash := decide (sfdpDensity.toNat < 24) } }
      let s2 := s1.setFld fJeNvmCtl_DENSITY_LOG2 sfdpDensity.toNat
      let s3 := (List.finRange 8).foldl (fun s n => s.reseed n) s2
      if failedTest = 0 then s3 else s3.secTestFails failedTest.toNat)

/-- The image accepted at this start, as the loader read it. -/
def State.imageByte (s : State) (a : Nat) : Byte := s.boot.image.getD a 0

/-- Channel g is named in the image's map-out mask. -/
def State.imageMapsOut (s : State) (g : Nat) : Bool :=
  let x := imgSec s.imageByte 0x10
  decide (x.len ≠ 0) && (s.imageByte (x.off + g / 8)).getLsbD (g % 8)

/-- Sets bit l of a per-lane word field. -/
def State.setLaneState (s : State) (lane st : Nat) : State :=
  s.setFld fJsLaneState_STATES (putBits (BitVec.ofNat 64 (s.fld fJsLaneState_STATES (lane / 32))) (2 * (lane % 32)) 2 st).toNat (lane / 32)

/-- The lanes of a slice that failed their start-up test. -/
def lanesFailed (failed : BitVec 256) (n : SliceId) : List Nat := (List.range 32).filter fun l => failed.getLsbD (32 * n.val + l)

/-- Both lanes of a pair failed: the slice cannot be in service (R394). -/
def pairFailed (failed : BitVec 256) (n : SliceId) : Bool :=
  (List.range 16).any fun m => failed.getLsbD (32 * n.val + 2 * m) && failed.getLsbD (32 * n.val + 2 * m + 1)

/-- Remap entries of a slice at a start: the always-on copy's, then the image's repair list's in the entries left free (R258,
R348). -/
def State.repairRows (s : State) (n : SliceId) : List (Nat × W64) :=
  let kept := (s.remapCopy.filter fun x => decide (x.1 / 512 = n.val) && decide (2 ≤ bitsOf x.2 62 2)).map fun x => (x.1 % 512, x.2)
  let row (v : W64) : Nat := bitsOf v 34 28
  let new := (imgRepairs s.imageByte).filter fun v => decide (s.boot.image ≠ []) && decide (bitsOf v 5 3 = n.val) && !(kept.any fun k => decide (row k.2 = row v))
  let free := (List.range 512).filter fun i => !(kept.any fun k => decide (k.1 = i))
  kept ++ free.zip (new.map fun v => putBits (putBits v 0 34 0) 62 2 2)

/-- Hard repair at a start (R258): a row that it mends frees its entry, any other keeps its entry in STATE 3. -/
def State.repair (s : State) (mended : List (SliceId × Fin 512)) (n : SliceId) : State :=
  let rows := s.repairRows n
  let ok (x : Nat × W64) : Bool := decide (bitsOf x.2 62 2 = 2) && mended.any fun m => decide (m.1 = n) && decide (m.2.val = x.1)
  let kept := (rows.filter fun x => !(ok x)).map fun x => (x.1, putBits x.2 62 2 3)
  let s1 : State := { s with remapCopy := (s.remapCopy.filter fun x => decide (x.1 / 512 ≠ n.val)) ++ kept.map fun x => (512 * n.val + x.1, x.2) }
  (kept.foldl (fun (s : State) x => s.setReg .jsRemap x.2 n.val x.1) s1).setFld fJsRemapStat_HARD_DONE (min 1023 (rows.filter ok).length) n

/-- A set of channels as four register words. -/
def maskWord (l : List Nat) (k : Nat) : W64 :=
  BitVec.ofNat 64 (sumBy (fun g => 2 ^ (g % 64)) (l.filter fun g => decide (g / 64 = k)))

/-- The mapped set as its registers show it (R259, R263). -/
def State.showMapped (s : State) (l : List Nat) : State :=
  let s1 := (List.range 4).foldl (fun (s : State) k => s.setReg .jeChMapped (maskWord l k) k) s
  let s2 := (List.finRange 8).foldl (fun (s : State) (n : SliceId) =>
    s.setFld fJsHbmStat_MAPPED (sumBy (fun g => 2 ^ (g % 32)) (l.filter fun g => decide (g / 32 = n.val))) n) s1
  (s2.setFld fJeHbmCap_N_MAPPED l.length).setFld fJeHbmCap_CAP_GIB (6 * l.length)

/-- The mapped set is fixed: HBM is as never written after a change of it, and after the full pass of test and recovery
mode (R244, R261). -/
def State.fixMapped (s : State) (l : List Nat) : State :=
  let s1 := s.showMapped l
  let s2 := if s1.boot.lastMapped ≠ l ∨ s1.testMode then s1.forget s1.isHbm else s1
  { s2 with boot := { s2.boot with lastMapped := l } }

/-! Configuration lock (R356) -/

/-- The sum of a field over the partitions. -/
def sumParts (f : Nat → Nat) : Nat := sumBy f (List.range 16)

/-- First ring and one past the last of a partition's range. -/
def State.ringSpan (s : State) (p : Nat) : Nat × Nat :=
  (32 * s.fld fJpRingRange_FIRST_GROUP p, 32 * s.fld fJpRingRange_FIRST_GROUP p + 32 * s.fld fJpRingRange_GROUPS p)

/-- A partition whose range passes the last ring or meets an earlier partition's. -/
def State.badRange (s : State) : Option Nat :=
  (List.range 16).find? fun p =>
    let x := s.ringSpan p
    decide (x.1 < x.2) && (decide (262144 < x.2) || (List.range p).any fun q =>
      let y := s.ringSpan q
      decide (y.1 < y.2) && decide (x.1 < y.2) && decide (y.1 < x.2))

/-- The first lock check that fails: RESULT and PART; none where all pass. LIMIT of R134 is summed as it stands in its register, a share
of R255 as it acts (DEDUCED, log 64). -/
def State.lockFault (s : State) : Option (Nat × Nat) :=
  if s.fld fJeStart_IMAGE = 0 then some (8, 0)
  else if s.locked then some (9, 0)
  else match s.badRange with
    | some p => some (1, p)
    | none =>
      if 1048576 < sumParts (fun p => max 4096 (s.fld fJpSieveQuota_MIN p)) then some (2, 0)
      else if 32 < sumParts (fun p => s.fld fJpClocheLock_LIMIT p) then some (3, 0)
      else if 128 < sumParts (fun p => s.fld fJpStreamQuota_MIN p) then some (4, 0)
      else if 256 < sumParts (fun p => min 256 (s.fld fJpBwCtl_FG_SHARE p)) + s.fld fJeBwCtl_HOST_SHARE + s.fld fJeBwCtl_BG_MIN then some (5, 0)
      else if 256 < sumParts (fun p => s.fld fJpXlatCtl_CACHE_MIN p) then some (6, 0)
      else if s.fld fJePhysMap_BOARD_GIB < s.fld fJeSecCtl_PLAIN_GIB then some (7, 0)
      else none

/-- CONFIG_LOCK's action (R356): the checks, and the lock or its failure. -/
def State.configLock (s : State) : State :=
  match s.lockFault with
  | none => ((s.setFld fJeCfgLock_LOCKED 1).setFld fJeCfgLock_RESULT 0).setFld fJeCfgLock_PART 0
  | some (r, p) => (((s.setFld fJeCfgLock_RESULT r).setFld fJeCfgLock_PART p)).eventE 0x61 r p

/-- A slice is out of service from this start on: it failed its start-up self-test, or both lanes of a pair did. -/
def startOut (failedSlices : Byte) (failedLanes : BitVec 256) (n : SliceId) : Bool :=
  failedSlices.getLsbD n.val || pairFailed failedLanes n

/-- The slices and lanes that failed their start-up self-test are out. -/
def State.startUnits (s : State) (failedSlices : Byte) (failedLanes : BitVec 256) : State :=
  let s1 := ((List.finRange 8).filter (startOut failedSlices failedLanes)).foldl (fun (s : State) (n : SliceId) => s.setFld fJsSliceCtl_STATE 2 n) s
  (List.finRange 8).foldl (fun (s : State) n =>
    (lanesFailed failedLanes n).foldl (fun (s : State) l =>
      (s.setLaneState (32 * n.val + l) 2).setFld fJsLaneFail_FAILED (s.fld fJsLaneFail_FAILED n ||| 2 ^ l) n) s) s1

/-- The channels that a start trains: those that neither the image nor JE_CHMAPOUT maps out, of slices that are not out. -/
def State.startTried (s : State) (out : SliceId → Bool) : List Nat :=
  (List.range 256).filter fun g =>
    !(s.imageMapsOut g) && !((s.reg .jeChMapout (g / 64)).getLsbD (g % 64)) && !(out (Fin.ofNat 8 (g / 32)))

/-- Training, and the test of test and recovery mode: each channel that fails raises event 0x32, and the others are mapped. -/
def State.startChannels (s : State) (out : SliceId → Bool) (failedTraining failedTest : BitVec 256) : State :=
  let tried := s.startTried out
  let bad (g : Nat) : Bool := failedTraining.getLsbD g || (s.testMode && failedTest.getLsbD g)
  let s1 := (tried.filter bad).foldl (fun (s : State) g => s.eventE 0x32 g (if failedTraining.getLsbD g then 1 else 2)) s
  s1.fixMapped (tried.filter fun g => !(bad g))

/-- READY: the lock that the image asks for, and what is sent then. -/
def State.startEnd (s : State) : State :=
  let lock := decide (s.boot.image ≠ []) && imgLockAtStart s.imageByte
  let s1 := ((if lock then s.configLock else s).setFld fJeStart_STATE 2).emit .feedResync |>.emit .statResync
  if s1.engineEvents.recs ≠ [] ∧ s1.fld fJeEventStatus_MASK = 0 then s1.emit (.irq 1040) else s1

/-- START_READY (R144, R201, R258, R259, R261, R353): the channels enter service and the engine is at READY. The operands say which
slices and lanes failed their start-up self-test, which channels failed training or the test of test and recovery mode, and
which rows hard repair mended. -/
def execStartReady (failedSlices : Byte) (failedLanes failedTraining failedTest : BitVec 256) (hardRepaired : List (SliceId × Fin 512))
    (s : State) : Host.Outcome State Fault Refusal :=
  stepTo (if !s.boot.running ∨ s.fld fJeStart_STATE ≠ 1 then s
    else
      let s1 := (s.startUnits failedSlices failedLanes).startChannels (startOut failedSlices failedLanes) failedTraining failedTest
      ((List.finRange 8).foldl (fun s n => s.repair hardRepaired n) s1).startEnd)

end Sys2Proof.Machine
end

