-- ==== Sys2Proof/Machine/Power.lean ====
section
/-! DEFINITION. Sleep and the power arbiter (R367 to R379): the limit, idleness, the entries with their steps, what wakes the engine
and what a wake rebuilds, and the throttle level. -/
namespace Sys2Proof.Machine

/-! The limit and idleness (R370, R371) -/

/-- The deepest state whose wake time a bound allows. -/
def depthOf (bound : Nat) : Nat := if bound < 4 then 0 else if bound < 1500 then 1 else if bound < 30000 then 2 else 3

/-- A queue pair is in RTS, or a namespace slot is connected. -/
def State.netOpen (s : State) : Bool := s.qps.any (fun q => decide (q.state = .rts)) || s.nvme.any fun v => decide (v.state = 1)

/-- The limit (R370). -/
def State.sleepLimit (s : State) : Nat :=
  let l := ((List.range 16).filter s.partEnabled).foldl (fun m p => min m (depthOf (s.fld fJpPwrCtl_WAKE_BOUND p))) 3
  let l := min l (s.fld fJePwrCtl_MAX_DEPTH)
  if s.netOpen then min l 2 else l

/-- A register action is in progress. -/
def State.actionBusy (s : State) : Bool :=
  let hub := [fJeWinCtl_BUSY, fJeBiasCmd_BUSY, fJeFabDead_BUSY, fJeQpCmd_BUSY, fJeNvmeCmd_BUSY, fJeCfgLock_BUSY, fJeNvmCtl_BUSY,
    fJeSecCtl_BUSY, fJeInject_BUSY, fJeUnitTest_BUSY]
  let part := [fJpRingCmd_BUSY, fJpObjCtl_BUSY, fJpXlatIndex_BUSY, fJpXlatInval_BUSY]
  hub.any (fun f => decide (s.fld f = 1)) || (List.range 16).any (fun p => part.any fun f => decide (s.fld f p = 1)) ||
    (List.range 8).any fun n => decide (s.fld fJsLaneCtl_BUSY n = 1)

/-- A blocked WAIT. -/
def Tracker.blocked (x : Tracker) : Bool := x.admitted && decide (x.op = 0x02) && (decide (x.phase = .running) || decide (x.phase = .reading))

/-- The engine is idle (R371). -/
def State.idle (s : State) : Bool :=
  s.trackers.all Tracker.blocked && s.dbBuf.isEmpty && s.dbWait.isEmpty &&
  (List.finRange 16).all (fun p => (s.part p).dcmd.isEmpty && (s.part p).dcmdWords.isEmpty && (s.part p).dcmdWait.isEmpty &&
    (s.part p).inval.isNone && !((s.part p).faults.any (·.isOpen)) && !(s.part p).initing) &&
  s.served.isEmpty && s.streams.isEmpty && s.sctx.isEmpty && s.objMoves.isEmpty && s.moves.isEmpty && s.scan.isNone && s.walks.isEmpty &&
  !(s.pages.any fun y => decide (y.2 = .toShared) || decide (y.2 = .toDevice)) && !s.actionBusy

/-! Rest (R369) -/

/-- A unit has no work. -/
def State.unitIdle (s : State) : RestUnit → Bool
  | .lanes n =>
    !(s.laneQ.any fun w => decide (laneSlice w.lane = n)) && !(s.misses.any fun m => decide (laneSlice m.lane = n)) &&
      !(s.accs.any fun a => decide (laneSlice a.lane = n))
  | .winnow => s.keyed.isEmpty && s.fills.isEmpty && !s.winnowInit && decide (s.fld fJeUnitTest_BUSY = 0)

/-- Gates or ungates a unit; the engine is in Rest while every unit is gated. -/
def State.gate (s : State) (u : RestUnit) (on : Bool) : State :=
  (match u with
    | .lanes n => s.setFld fJePwrStatus_LANES_GATED (putBits (BitVec.ofNat 64 (s.fld fJePwrStatus_LANES_GATED)) n.val 1 on.toNat).toNat
    | .winnow => s.setFld fJePwrStatus_WINNOW_GATED on.toNat).restSync

/-- REST_HOLD_EXPIRY (R369, R370): a unit without work is gated while the limit allows it. -/
def execRestHoldExpiry (u : RestUnit) (s : State) : Host.Outcome State Fault Refusal :=
  stepTo (if s.ready ∧ !s.asleep ∧ 1 ≤ s.sleepLimit ∧ s.unitIdle u then s.gate u true else s)

/-- An admitted command needs a unit (R369). -/
def State.unitNeeded (s : State) (u : RestUnit) : Bool :=
  !(s.unitIdle u) || match u with
    | .lanes _ => s.trackers.any fun x => x.admitted && decide (x.phase ≠ .done) && (decide (x.op = 0x10) || decide (x.op = 0x18) || decide (x.op = 0x50))
    | .winnow => false

/-- REST_WAKE_DONE (R369). -/
def execRestWakeDone (u : RestUnit) (s : State) : Host.Outcome State Fault Refusal :=
  stepTo (if s.unitNeeded u then s.gate u false else s)

/-! Entries (R371, R373) -/

/-- An entry may begin: the engine is idle, and nothing sleeps or wakes already. -/
def State.mayEnter (s : State) : Bool :=
  s.ready && s.idle && decide (s.power.entry = 0) && !s.power.waking && s.power.held.isEmpty

/-- DORMANT_HOLD_EXPIRY (R371). -/
def execDormantHoldExpiry (s : State) : Host.Outcome State Fault Refusal :=
  stepTo (if s.mayEnter ∧ !s.asleep ∧ 2 ≤ s.sleepLimit then { s with power := { s.power with entry := 1, step := 1, trigger := false } } else s)

/-- OVERWINTER_HOLD_EXPIRY (R371). -/
def execOverwinterHoldExpiry (s : State) : Host.Outcome State Fault Refusal :=
  stepTo (if s.mayEnter ∧ s.fld fJePwrStatus_STATE = 2 ∧ 3 ≤ s.sleepLimit then
    { s with power := { s.power with entry := 2, step := 1, trigger := false } }
  else s)

/-- Sends every pending interrupt message, whatever its holdoff (R373). -/
def State.irqFlush (s : State) : State :=
  (List.finRange 16).foldl (fun (s : State) (p : Part) => (List.range 64).foldl (fun (s : State) g =>
    let ig := (s.part p).irq.getD g ⟨0, true, false⟩
    if natBits (s.fld fJpIrqPend_PEND p) g 1 = 1 ∧ natBits (s.fld fJpIrqMask_MASK p) g 1 = 0 ∧ 0 < ig.count then
      (s.modPart p fun ps => { ps with irq := ps.irq.set g ⟨0, false, false⟩ }).emit (.irq (65 * p.val + g))
    else s) s) s

/-- What is on its way into the write-combining buffers has reached them. -/
def State.buffersQuiet (s : State) : Bool :=
  s.preagg.isEmpty && s.addQ.isEmpty && s.wrQ.isEmpty && s.popAdds.isEmpty && s.txns.isEmpty && s.coreReqs.isEmpty

/-- Writes back the contexts of every live ring that is cached (R25). -/
def State.saveContexts (s : State) : State :=
  (s.rings.filter (·.cached)).foldl (fun (s : State) x => s.writeCtx x.no x.ctx) s

/-- What the step in progress of an entry does, and whether it can end (R373). -/
def State.entryWork (s : State) : State × Bool :=
  match s.power.entry, s.power.step with
  | 1, 1 => (s.irqFlush, true)
  | 1, 2 =>
    let s1 := (List.finRange 8).foldl (fun (s : State) (n : SliceId) => s.flushPre n fun _ => true) s
    if s1.buffersQuiet then (s1.drainWcb fun _ => true, true) else (s1, false)
  | 2, 2 =>
    let s1 := s.recallAll
    (s1, !(s1.pages.any fun y => decide (y.2 ≠ .device)))
  | 2, 3 => ((s.saveContexts).drainWcb fun _ => true, true)
  | _, _ => (s, true)

/-- Steps of an entry. -/
def entrySteps (entry : Nat) : Nat := if entry = 1 then 4 else 6

/-! Waking (R372, R374) -/

/-- WAKE_TRIGGER (R372). -/
def execWakeTrigger (c : Wake) (s : State) : Host.Outcome State Fault Refusal :=
  stepTo (match c with
    | .resetPin => if s.boot.running then s.trigger else s
    | _ => s.trigger)

/-- FAB_WAKE_REQ (R372): it wakes the engine from Overwinter. -/
def execFabWakeReq (s : State) : Host.Outcome State Fault Refusal :=
  stepTo (if s.fld fJePwrStatus_STATE = 3 ∨ s.power.entry = 2 then s.trigger else s)

/-- Budget requested in a state, in units of 0.5 W (R375). -/
def State.request (s : State) (st : Nat) : Nat :=
  if st = 2 then 48 else if st = 3 then 13 else max 3 (min 680 (s.fld fJePwrArb_REQ_CAP))

/-- What Overwinter loses (R374). -/
def State.overwinterLoss (s : State) : State :=
  let s1 := (List.finRange 256).foldl (fun (s : State) (l : LaneId) => s.resetCloche l) s
  let s2 : State := { s1 with
    rcache := [], rpast := [], walkFaults := [], xnoted := [], ctxLru := [], graft := [], fmt := [], popAdds := [], scan := none
    rings := s1.rings.map fun (x : Ring) => { x with cached := false }
    banks := Vector.replicate 2 Bank.reset
    lineReads := Vector.replicate 8 0 }
  (List.finRange 8).foldl (fun (s : State) (n : SliceId) => s.reseed n) s2

/-! The arbiter (R375 to R377) -/

/-- PPM_GRANT_CHANGE (R375). -/
def execPpmGrantChange (v : BitVec 10) (s : State) : Host.Outcome State Fault Refusal := stepTo (s.setFld fJePwrArb_GRANT v.toNat)

/-- The grant in force G, in units of 0.5 W. -/
def State.grantInForce (s : State) : Nat := min (min 680 (s.fld fJePwrArb_GRANT)) (s.request 0)

/-- POWER_WINDOW (R376 to R378): the energy of a window in nJ sets the level; P is energy / 640 ns, G counts 0.5 W. -/
def execPowerWindow (energyNj : W32) (s : State) : Host.Outcome State Fault Refusal :=
  stepTo (if s.asleep then s
    else
      let e := energyNj.toNat
      let g := s.grantInForce
      let h := s.fld fJePwrArb_HYST
      let l := s.fld fJePwrArb_LEVEL
      let s1 := s.setReg .jeEnergy (s.reg .jeEnergy + BitVec.ofNat 64 e)
      let excess := decide (320 * g < e)
      let level :=
        if 360 * g < e then min (l + 4) 15
        else if excess then min (l + 1) 15
        else if 64 * e < 320 * g * (64 - h) ∧ 0 < l then l - 1
        else l
      let s2 := s1.setFld fJePwrArb_LEVEL level
      if !excess then { s2 with overLast := false }
      else if l ≠ 15 then s2
      else
        let s3 := s2.bump fJePwrArb_UNMET
        if s3.overLast then s3 else ({ s3 with overLast := true } : State).eventE 0x70 (s3.fld fJePwrArb_GRANT) 15)

end Sys2Proof.Machine
end

