-- ==== Sys2Proof/Machine/Ras.lean ====
section
/-! DEFINITION. Testing and service while running (R383, R389, R390, R394 to R401): lanes, slices, heartbeats, the Winnow's
self-test, error injection, FIFO error windows, and the reads of the event FIFOs. -/
namespace Sys2Proof.Machine

/-! Lanes (R394 to R396) -/

/-- Global number of lane l of slice n. -/
def laneId (n : SliceId) (l : Nat) : LaneId := Fin.ofNat 256 (32 * n.val + l % 32)

/-- RESULT of JS_LANE_CTL. -/
def State.laneResult (s : State) (n : SliceId) (r : Nat) : State := s.setFld fJsLaneCtl_RESULT r n

/-- Sets a lane's bit of a field of JS_LANE_FAIL. -/
def State.laneBit (s : State) (f : Fld) (l : LaneId) (v : Bool) : State :=
  s.setFld f (putBits (BitVec.ofNat 64 (s.fld f (laneSlice l))) (l.val % 32) 1 v.toNat).toNat (laneSlice l)

/-- A return to service of the lane is pending. -/
def State.lanePending (s : State) (l : LaneId) : Bool := decide (natBits (s.fld fJsLaneFail_PENDING (laneSlice l)) (l.val % 32) 1 = 1)

/-- The lane failed its last self-test. -/
def State.laneFailed (s : State) (l : LaneId) : Bool := decide (natBits (s.fld fJsLaneFail_FAILED (laneSlice l)) (l.val % 32) 1 = 1)

/-- The self-test a lane is in, or drains towards, and whether it was requested from IN_SERVICE. -/
def State.laneTest (s : State) (l : LaneId) : Option Bool := (s.laneFrom.find? fun x => decide (x.1 = l.val)).map (·.2)

/-- The state with no self-test of a lane. -/
def State.endLaneTest (s : State) (l : LaneId) : State := { s with laneFrom := s.laneFrom.filter fun x => decide (x.1 ≠ l.val) }

/-- A drain begins (R395): the Sieve releases every row held in the lane. -/
def State.laneDrain (s : State) (l : LaneId) : State :=
  let rows := s.heldRows.filter fun e => e.2.lines.any fun x => decide (x.1 = l)
  (rows.foldl (fun (s : State) e => s.releaseRow e.1 e.2.table e.2.key) s).setLaneState l.val 1

/-- Full reinitialisation and the return of the lane's channel (R395). -/
def State.laneBack (s : State) (l : LaneId) : State := (s.resetCloche l).setLaneState l.val 0

/-- The partner of a lane. -/
def partner (l : LaneId) : LaneId := Fin.ofNat 256 (l.val ^^^ 1)

/-- ACTION 01 of JS_LANE_CTL (R394). -/
def State.laneReturn (s : State) (n : SliceId) (k : Nat) : State :=
  let l := laneId n k
  if s.sliceState n ≠ 0 then s.laneResult n 4
  else match s.laneState l.val with
    | 1 => (s.laneBit fJsLaneFail_PENDING l true).laneResult n 0
    | 2 => if s.laneFailed l then s.laneResult n 3 else (s.laneBack l).laneResult n 0
    | 3 => (s.laneBit fJsLaneFail_PENDING l true).laneResult n 0
    | _ => s.laneResult n 0

/-- ACTION 10 of JS_LANE_CTL (R394). -/
def State.laneOffline (s : State) (n : SliceId) (k : Nat) : State :=
  let l := laneId n k
  if s.sliceState n ≠ 0 then s.laneResult n 4
  else match s.laneState l.val with
    | 0 => if s.laneState (partner l).val ≠ 0 then s.laneResult n 1 else (s.laneDrain l).laneResult n 0
    | 1 => (s.laneBit fJsLaneFail_PENDING l false).laneResult n 0
    | _ => s.laneResult n 0

/-- Lanes of a slice in a self-test, or draining towards one. -/
def State.lanesTesting (s : State) (n : SliceId) : Nat := (s.laneFrom.filter fun x => decide (x.1 / 32 = n.val)).length

/-- ACTION 11 of JS_LANE_CTL (R394, R396). -/
def State.laneSelfTest (s : State) (n : SliceId) (k : Nat) : State :=
  let l := laneId n k
  if s.sliceState n ≠ 0 then s.laneResult n 4
  else match s.laneState l.val with
    | 0 =>
      if s.laneState (partner l).val ≠ 0 then s.laneResult n 1
      else if 4 ≤ s.lanesTesting n then s.laneResult n 5
      else (({ s with laneFrom := s.laneFrom ++ [(l.val, true)] } : State).laneDrain l).laneResult n 0
    | 2 =>
      if 4 ≤ s.lanesTesting n then s.laneResult n 5
      else (({ s with laneFrom := s.laneFrom ++ [(l.val, false)] } : State).setLaneState l.val 3).laneResult n 0
    | _ => s.laneResult n 0

/-- The lane has applied every entry sent to it. -/
def State.laneQuiet (s : State) (l : LaneId) : Bool :=
  !(s.laneQ.any fun w => decide (w.lane = l)) && !(s.misses.any fun m => decide (m.lane = l))

/-- LANE_DRAIN_DONE (R394, R395): the accumulator rows go to the slice reduction buffer, the Cloche is invalidated, and the lane is
OFFLINE; a self-test or a pending return goes on from there. -/
def execLaneDrainDone (n : SliceId) (k : Fin 32) (s : State) : Host.Outcome State Fault Refusal :=
  stepTo (
    let l := laneId n k
    if s.laneState l.val ≠ 1 ∨ !(s.laneQuiet l) then s
    else
      let s1 : State := { s with accs := s.accs.map fun (a : Acc) => if a.lane = l then { a with spilled := true } else a }
      let s2 := ((s1.resetCloche l).setLaneState l.val 2).eventE 0x23 l 0
      if (s2.laneTest l).isSome then s2.setLaneState l.val 3
      else if s2.lanePending l then
        let s3 := s2.laneBit fJsLaneFail_PENDING l false
        if s3.laneFailed l then s3.laneResult n 3 else s3.laneBack l
      else s2)

/-- LANE_SELF_TEST_DONE (R394, R396): 0 is a pass, else the failing block. -/
def execLaneSelfTestDone (n : SliceId) (k : Fin 32) (failedBlock : Byte) (s : State) : Host.Outcome State Fault Refusal :=
  stepTo (
    let l := laneId n k
    if s.laneState l.val ≠ 3 then s
    else
      let back := s.laneTest l = some true || s.lanePending l
      let s1 := (s.endLaneTest l).laneBit fJsLaneFail_PENDING l false
      if failedBlock = 0 then
        let s2 := s1.laneBit fJsLaneFail_FAILED l false
        if back then s2.laneBack l else s2.setLaneState l.val 2
      else
        let s2 := ((s1.laneBit fJsLaneFail_FAILED l true).setLaneState l.val 2).laneResult n 3
        (s2.eventE 0x24 l failedBlock.toNat).eventE 0x23 l 1)

/-! Slices (R398, R399) -/

/-- RESULT of JS_SLICE_CTL. -/
def State.sliceResult (s : State) (n : SliceId) (r : Nat) : State := s.setFld fJsSliceCtl_RESULT r n

/-- REQ 10 of JS_SLICE_CTL: the drain begins, for the commands admitted before it (R399). -/
def State.sliceTakeOut (s : State) (n : SliceId) : State :=
  match s.sliceState n with
  | 0 =>
    if s.fld fJeWinCtl_ENABLED = 1 then s.sliceResult n 1
    else if s.slicesIn.all (fun m => decide (m = n)) then s.sliceResult n 3
    else
      let s1 := ((s.setFld fJsSliceCtl_STATE 1 n).setFld fJsSliceCtl_ENABLE_PENDING 0 n).sliceResult n 0
      ({ s1 with drainFrom := s1.drainFrom.set n s1.admitted } : State).flushPre n fun _ => true
  | 1 => (s.setFld fJsSliceCtl_ENABLE_PENDING 0 n).sliceResult n 0
  | 2 => s.sliceResult n 0
  | _ => s.sliceResult n 2

/-- REQ 01 of JS_SLICE_CTL. -/
def State.sliceReturn (s : State) (n : SliceId) : State :=
  match s.sliceState n with
  | 0 => s.sliceResult n 0
  | 1 => (s.setFld fJsSliceCtl_ENABLE_PENDING 1 n).sliceResult n 0
  | 2 => (s.setFld fJsSliceCtl_STATE 3 n).sliceResult n 0
  | 3 => s.sliceResult n 0
  | _ => s.sliceResult n 2

/-- The drain of a slice is complete (R399), but for its write-combining buffer. -/
def State.sliceQuiet (s : State) (n : SliceId) : Bool :=
  let mine (l : LaneId) : Bool := decide (laneSlice l = n)
  let bagOpen (g : Bag) : Bool := g.reserved && g.slices.getLsbD n.val && !(g.closed.getLsbD n.val)
  let owing (c : Scatter) : Bool := (c.toMask &&& ~~~c.reported).getLsbD n.val || c.places.any fun y => decide (y.n = n)
  !(s.laneQ.any fun w => mine w.lane) && !(s.misses.any fun m => mine m.lane) && !(s.accs.any fun a => mine a.lane) &&
    !(s.partials.any fun y => decide (y.n = n)) && !(s.bags.any bagOpen) && !(s.scatters.any owing) && (s.preaggOf n).isEmpty &&
    !(s.mergeStore.any fun e => decide (e.n = n)) && s.links[n].items.isEmpty && !(s.addQ.any fun o => decide (o.n = n)) &&
    !(s.wrQ.any fun w => s.isHbm w.addr && decide (s.sliceOf w.addr = n))

/-- SLICE_DRAIN_DONE (R398, R399). -/
def execSliceDrainDone (n : SliceId) (s : State) : Host.Outcome State Fault Refusal :=
  stepTo (if s.sliceState n ≠ 1 ∨ !(s.sliceQuiet n) then s
    else
      let s1 := ((s.drainWcb fun m => decide (m = n)).setFld fJsSliceCtl_STATE 2 n).eventE 0x22 n 0
      if s1.fld fJsSliceCtl_ENABLE_PENDING n = 1 then (s1.setFld fJsSliceCtl_ENABLE_PENDING 0 n).setFld fJsSliceCtl_STATE 3 n else s1)

/-- SLICE_RETURN_DONE (R261, R398, R399): the self-test and the training of a returning slice end; its channels are as never
written. -/
def execSliceReturnDone (n : SliceId) (passed : Bool) (s : State) : Host.Outcome State Fault Refusal :=
  stepTo (if s.sliceState n ≠ 3 then s
    else if !passed then s.failSlice n 3
    else
      let mine (a : Nat) : Bool := s.isHbm a && (match s.channelOf a with
        | some (c, _) => decide (c / 32 = n.val)
        | none => false)
      let s1 := (s.forget mine).setFld fJsSliceCtl_STATE 0 n
      (((List.finRange 256).filter fun l => decide (laneSlice l = n)).foldl (fun (s : State) (l : LaneId) => s.resetCloche l) s1))

/-- One slice's heartbeat, answered or not (R400). -/
def State.beat (s : State) (n : SliceId) (answered : Bool) : State :=
  if 2 ≤ s.sliceState n then s
  else
    let k := if answered then 0 else s.missedBeats[n] + 1
    let s1 := ({ s with missedBeats := s.missedBeats.set n k } : State).emit (.heartbeat n)
    if 4 ≤ k then ({ s1 with missedBeats := s1.missedBeats.set n 0 } : State).failSlice n 1 else s1

/-- SLICE_HEARTBEAT (R400): one round of heartbeats; bit n tells whether slice n answered. -/
def execSliceHeartbeat (answered : Byte) (s : State) : Host.Outcome State Fault Refusal :=
  stepTo (if !s.ready ∨ s.asleep then s
    else (List.finRange 8).foldl (fun (s : State) (n : SliceId) => s.beat n (answered.getLsbD n.val)) s)

/-! Event FIFOs (R389, R390, R407) -/

/-- Word k of an event record. -/
def EventRec.word (r : EventRec) (k : Nat) : W64 :=
  if k = 0 then BitVec.ofNat 64 (r.code.toNat * 2 ^ 56 + r.part.val * 2 ^ 52 + r.count * 2 ^ 32 + r.a.toNat) else r.b

/-- A read of an event FIFO that holds a record: the word, the FIFO after it, and whether a waiting event was written. -/
def EventFifo.take (q : EventFifo) (acc : RegAcc) (r : EventRec) (rest : List EventRec) : EventFifo × Bool :=
  let v := r.word q.pos
  if acc = .lo then ({ q with last := v }, false)
  else if q.pos = 0 then ({ q with pos := 1, last := v }, false)
  else match q.waiting with
    | [] => (⟨rest, 0, v, []⟩, false)
    | w :: ws => (⟨rest ++ [w], 0, v, ws⟩, true)

/-- A read of JP_EVENT or JE_EVENT; the oldest waiting event is written to a place that frees, with its message. -/
def State.readEvent (s : State) (fifo : Option Part) (acc : RegAcc) : State × W64 :=
  match fifo with
  | some p =>
    let q := (s.part p).events
    match q.recs with
    | [] => (s.setFld fJpEventStatus_UNDERRUN 1 p, q.last)
    | r :: rest =>
      let y := q.take acc r rest
      let s1 := s.modPart p fun ps => { ps with events := y.1 }
      (if y.2 then s1.partVector p else s1, r.word q.pos)
  | none =>
    let q := s.engineEvents
    match q.recs with
    | [] => (s.setFld fJeEventStatus_UNDERRUN 1, q.last)
    | r :: rest =>
      let y := q.take acc r rest
      let s1 : State := { s with engineEvents := y.1 }
      (if y.2 ∧ s1.fld fJeEventStatus_MASK = 0 then s1.emit (.irq 1040) else s1, r.word q.pos)

/-! Injection, windows, self-test (R383, R397, R401) -/

/-- ACTION 01 of JE_INJECT (R401). -/
def State.injectArm (s : State) : State :=
  if s.fld fJeInject_CLASS = 0 then s.setFld fJeInject_RESULT 1
  else
    let a := (s.fld fJeInject_CLASS, partOf (s.fld fJeInject_PART), s.fld fJeInject_KIND)
    (({ s with armed := some a } : State).setFld fJeInject_BUSY 1).setFld fJeInject_RESULT 0

/-- FIFO_ERROR_WINDOW (R383): a window of a class ends. -/
def execFifoErrorWindow (c : Fin 8) (s : State) : Host.Outcome State Fault Refusal :=
  stepTo (
    let k := s.fld fJeFifoStat_WINDOW c
    let s1 := if c ≠ 0 ∧ s.fld fJeFifoCtl_AUTO c = 1 ∧ s.fld fJeFifoCtl_MODE c = 0 ∧ s.fld fJeFifoCtl_THRESH c < k then
        (s.setFld fJeFifoCtl_MODE 1 c).eventE 0x26 c k
      else s
    s1.setFld fJeFifoStat_WINDOW 0 c)

/-- ACTION 01 of JE_UNIT_TEST (R397). -/
def State.winnowSelfTest (s : State) : State :=
  if s.fld fJeWinnowCtl_STATE = 2 then ((s.setFld fJeUnitTest_BUSY 1).setFld fJeUnitTest_RESULT 0).restSync else s.setFld fJeUnitTest_RESULT 1

/-- WINNOW_SELF_TEST_DONE (R397): 0 is a pass, else the failing block. -/
def execWinnowSelfTestDone (failedBlock : Byte) (s : State) : Host.Outcome State Fault Refusal :=
  stepTo (if s.fld fJeUnitTest_BUSY ≠ 1 then s
    else
      let s1 := (s.setFld fJeUnitTest_BUSY 0).restSync
      if failedBlock = 0 then s1.setFld fJeUnitTest_RESULT 0 else (s1.setFld fJeUnitTest_RESULT 3).eventE 0x25 failedBlock.toNat 0)

end Sys2Proof.Machine
end

