-- ==== Sys2Proof/Machine/Access.lean ====
section
/-! DEFINITION. Accesses to the control aperture (R5 to R9, R26, R353, R355, R356, R398, R403 to R410, R414): one path for every
read and one for every write, and the rows that stand for an access to one register. -/
namespace Sys2Proof.Machine

/-! The parts of an access -/

/-- The access that a width and an offset make: none where the width or the alignment is wrong (R6). -/
def accOf (off : Nat) (w : AccW) : Option RegAcc :=
  match w with
  | .w64 => if off % 8 = 0 then some .full else none
  | .w32 => if off % 8 = 0 then some .lo else if off % 8 = 4 then some .hi else none
  | _ => none

/-- Width of an access. -/
def accWidth (acc : RegAcc) : AccW := if acc = .full then .w64 else .w32

/-- Offset of an access within its register. -/
def accOff (acc : RegAcc) : Nat := if acc = .hi then 4 else 0

/-- The bits of a register that an access covers (R7). -/
def accMask : RegAcc → W64
  | .full => BitVec.allOnes 64
  | .lo => 0xFFFFFFFF#64
  | .hi => 0xFFFFFFFF00000000#64

/-- The written value in its place, with zero elsewhere. -/
def accPos (acc : RegAcc) (v : W64) : W64 :=
  match acc with
  | .full => v
  | .lo => v &&& 0xFFFFFFFF#64
  | .hi => v <<< 32

/-- The bits of the fields of one access code. -/
def codeMask (fs : List FieldDef) (acc : Access) : W64 :=
  fs.foldl (fun w f => if f.acc = acc then w ||| putBits 0 f.lo f.len (2 ^ f.len - 1) else w) 0

/-! Reads: levels that the model keeps elsewhere -/

/-- A register's value with some fields replaced. -/
def overlay (v : W64) (l : List (Fld × Nat)) : W64 := l.foldl (fun w x => putBits w x.1.lo x.1.len x.2) v

/-- Stream contexts bound to admitted work (R209). -/
def State.boundCtx (s : State) : List StreamCtx :=
  s.sctx.filter fun x => s.streams.any fun c => decide (c.part = x.part) && decide (c.id = x.id) && decide (c.t ≠ none)

/-- STATE of JE_WINNOW_BANK. -/
def BankState.code : BankState → Nat
  | .empty => 0 | .filling => 1 | .resident => 2 | .stale => 3 | .poisoned => 4

/-- STATE of a queue pair. -/
def QState.code : QState → Nat
  | .reset => 0 | .rts => 1 | .error => 2

/-- A Trellis entry in the layout of R300. -/
def State.trWord (s : State) (e : TrEnt) : W64 :=
  let m := ((hashLine s.mappedList e.line).map (·.2)).getD 0
  let st := match e.state with | .s => 1 | .f => 2 | .x => 3
  let slot := match e.fwd with
    | some a => if e.ovf then 0 else e.holders.idxOf a
    | none => 0
  let ptrs := if e.ovf then [] else e.holders.take 4
  BitVec.ofNat 64 (natBits m 9 16 * 2 ^ 48 + st * 2 ^ 45 + e.ovf.toNat * 2 ^ 44 + (s.txnOn e.line).isSome.toNat * 2 ^ 43 +
    slot % 4 * 2 ^ 41 + ptrs.length * 2 ^ 38 + leNat ptrs)

/-- Channels of slice n that are mapped and in service. -/
def State.liveMask (s : State) (n : Nat) : Nat :=
  if 2 ≤ s.sliceState n then 0 else sumBy (fun c => if s.chMapped (32 * n + c) then 2 ^ c else 0) (List.range 32)

/-- Mapped channels in service. -/
def State.liveCount (s : State) : Nat :=
  (s.mappedList.filter fun g => decide (s.sliceState (g / 32) < 2)).length

/-- Some board-tier traffic passes in plaintext (R360). -/
def State.bypass (s : State) : Bool :=
  decide (s.fld fJePhysMap_BOARD_GIB ≠ 0) && (decide (s.fld fJeSecStatus_BOARD_KEY = 2) || decide (s.fld fJeSecCtl_PLAIN_GIB ≠ 0))

/-- Rings of a partition parked on a fault. -/
def State.parkedRings (s : State) (p : Part) : Nat :=
  (s.rings.filter fun r => decide (r.part = p) && s.srcParked p (.ring r.no)).length

/-- A level that a register reports, with the largest it has had since the last read: never below what it is now. -/
def State.withPeak (s : State) (use peak : Fld) (i n : Nat) : List (Fld × Nat) := [(use, n), (peak, max (s.fld peak i) n)]

/-- The computed fields of a partition's registers. -/
def State.viewPart (s : State) (r : RegId) (p : Part) : List (Fld × Nat) :=
  let ps := s.part p
  match r with
  | .jpStatus => [(fJpStatus_PARKED_RINGS, s.parkedRings p), (fJpStatus_IN_FLIGHT, s.inFlight p)]
  | .jpDcmdStatus => [(fJpDcmdStatus_PARKED, (s.srcParked p (.direct p)).toNat), (fJpDcmdStatus_WORDS, ps.dcmdWords.length),
      (fJpDcmdStatus_CPL_LEVEL, ps.dcpl.length), (fJpDcmdStatus_CMD_LEVEL, ps.dcmd.length)]
  | .jpSieveUse => s.withPeak fJpSieveUse_HASH_IN_USE fJpSieveUse_HASH_PEAK p (s.hashUse p)
  | .jpClocheLock => [(fJpClocheLock_IN_USE, (List.finRange 256).foldl (fun m l => max m (s.locksIn p l)) 0)]
  | .jpStreamStat => [(fJpStreamStat_UNITS, sumBy (·.units) (s.boundCtx.filter fun x => decide (x.part = p)))]
  | .jpObjStat =>
    [(fJpObjStat_TORN_NOW, (s.objs.filter fun o => decide (o.part = p) && o.torn).length),
      (fJpObjStat_MOVES_NOW, (s.objs.filter fun o => decide (o.part = p) && o.moving).length)]
  | .jpFaultStatus => [(fJpFaultStatus_PARKED, ps.parked.length)]
  | .jpEventStatus => [(fJpEventStatus_WAITING, (!ps.events.waiting.isEmpty).toNat), (fJpEventStatus_LEVEL, ps.events.recs.length)]
  | _ => []

/-- The computed fields of a slice's registers. -/
def State.viewSlice (s : State) (r : RegId) (n : SliceId) : List (Fld × Nat) :=
  match r with
  | .jsRakeUse => s.withPeak fJsRakeUse_IN_USE fJsRakeUse_PEAK n (s.preaggOf n).length
  | .jsShardLoad => [(fJsShardLoad_CURRENT, min (2 ^ 32 - 1) (s.lineReads[n] / 16))]
  | .jsHbmStat => [(fJsHbmStat_LIVE, s.liveMask n)]
  | .jsWcbStat => s.withPeak fJsWcbStat_IN_USE fJsWcbStat_PEAK n (s.wcbCount n)
  | .jsRemapStat => [(fJsRemapStat_IN_USE, ((List.range 512).filter fun i => decide (remapState (s.remapEntry n i) ≠ 0)).length)]
  | .jsTrellisUse => s.withPeak fJsTrellisUse_IN_USE fJsTrellisUse_PEAK n (s.trellis.filter fun e => decide (e.n = n)).length
  | .jsTrellisPeek =>
    let at_ (e : TrEnt) : Bool :=
      decide (e.n = n) && decide (e.set = s.fld fJsTrellisPeekSel_SET n) && decide (e.way = s.fld fJsTrellisPeekSel_WAY n)
    [(fJsTrellisPeek_ENTRY, ((s.trellis.find? at_).elim 0 s.trWord).toNat)]
  | _ => []

/-- The computed fields of the hub's registers; i is the place in an array. -/
def State.viewHub (s : State) (r : RegId) (i : Nat) : List (Fld × Nat) :=
  match r with
  | .jeFmtStat => [(fJeFmtStat_RESIDENT, s.fmt.length)]
  | .jePoolStat => s.withPeak fJePoolStat_HUB_IN_USE fJePoolStat_HUB_PEAK 0 (s.hubUnits none)
  | .jeWinnowBank =>
    let b : Bank := if i = 0 then s.banks[0] else s.banks[1]
    [(fJeWinnowBank_STATE, b.state.code), (fJeWinnowBank_PART, b.part.val), (fJeWinnowBank_USERS, s.bankUsers (Fin.ofNat 2 i)),
      (fJeWinnowBank_BARRED, b.barred.length), (fJeWinnowBank_LAYER, b.layer)]
  | .jeStreamStat => [(fJeStreamStat_CONTEXTS, s.boundCtx.length)]
  | .jeHbmCap => [(fJeHbmCap_N_LIVE, s.liveCount)]
  | .jeBiasStat => [(fJeBiasStat_SHARED_NOW, s.pages.length)]
  | .jeQpCmd =>
    let q := s.qp (BitVec.ofNat 12 (s.fld fJeQpCmd_QP))
    [(fJeQpCmd_PORT, q.elim 0 (·.port.val)), (fJeQpCmd_QSTATE, q.elim 0 (·.state.code))]
  | .jeNvmeCmd => [(fJeNvmeCmd_SSTATE, (s.slotOf (BitVec.ofNat 8 (s.fld fJeNvmeCmd_SLOT))).elim 0 (·.state))]
  | .jePortStat => [(fJePortStat_QPS_HERE, (s.qps.filter fun q => decide (q.port.val = i) && decide (q.state ≠ .reset)).length)]
  | .jeNvmCtl => [(fJeNvmCtl_WORDS, s.sec.pageBuf.length)]
  | .jeSecStatus => [(fJeSecStatus_BYPASS, s.bypass.toNat), (fJeSecStatus_IMPORT_WORDS, s.sec.words.length)]
  | .jePwrStatus => [(fJePwrStatus_LIMIT, s.sleepLimit), (fJePwrStatus_WINNOW_GATED, (s.winnowGated || s.winnowOff).toNat)]
  | .jeEventStatus =>
    [(fJeEventStatus_WAITING, (!s.engineEvents.waiting.isEmpty).toNat), (fJeEventStatus_LEVEL, s.engineEvents.recs.length)]
  | _ => []

/-- A register as a read finds it, whole (R9): computed fields in their places, write-only fields zero. -/
def State.viewReg (s : State) (x : RegRef) : W64 :=
  let l := match x.reg.row.space with
    | .hub => s.viewHub x.reg x.i
    | .slice => s.viewSlice x.reg (Fin.ofNat 8 x.i)
    | .part => s.viewPart x.reg (partOf x.i)
  overlay (s.reg x.reg x.i x.j) l &&& ~~~(codeMask (x.reg.fieldsAt x.i) .wo)

/-- A read of a register (R9, R406, R407): the words of a FIFO are removed as R407 says, RC fields in the half that is read go
back to their reset values, and what the always-on controller counts is brought up to date. -/
def State.readReg (s : State) (x : RegRef) (acc : RegAcc) : State × W64 :=
  match x.reg with
  | .jpDcmdCpl => s.readDcpl (partOf x.i) acc
  | .jpFault => s.readFault (partOf x.i) acc
  | .jpEvent => s.readEvent (some (partOf x.i)) acc
  | .jeEvent => s.readEvent none acc
  | .jePwrResid => (s.accrue, s.accrue.viewReg x)
  | .jeEnergy => if s.asleep then (s.sleepEnergy, s.sleepEnergy.viewReg x) else (s, s.viewReg x)
  | r =>
    let m := codeMask (r.fieldsAt x.i) .rc &&& accMask acc
    let s1 := if m = 0 then s else s.setReg r ((s.reg r x.i x.j &&& ~~~m) ||| (r.resetVal x.i &&& m)) x.i x.j
    (s1, s.viewReg x)

/-- Registers of a slice that the hub serves in every state (R398). -/
def hubServed (r : RegId) : Bool :=
  decide (r = .jsSliceCtl) || decide (r = .jsLaneCtl) || decide (r = .jsLaneState) || decide (r = .jsLaneFail)

/-- A register of a slice that is OUT, RETURNING or FAILED (R398). -/
def State.sliceGone (s : State) (x : RegRef) : Bool :=
  decide (x.reg.row.space = .slice) && !(hubServed x.reg) && decide (2 ≤ s.sliceState x.i)

/-- The register an access reaches: none in a reserved range, before READY, or in a slice that is gone (R5, R353, R398). -/
def State.reach (s : State) (off : Nat) (write : Bool) : Option RegRef :=
  match regAt (off / 8 * 8) with
  | none => none
  | some x =>
    if !s.ready ∧ (write ∨ (x.reg ≠ .jeId ∧ x.reg ≠ .jeStart)) then none
    else if s.sliceGone x then none
    else some x

/-- A read that the fabric agent serves: the state after it and the value. -/
def State.busRead (s : State) (off : Nat) (w : AccW) : State × W64 :=
  if 0x2000000 ≤ off then (s, 0)
  else match accOf off w with
    | none => (s.malformed off false w, 0)
    | some acc => match s.reach off false with
      | none => (s, 0)
      | some x => let r := s.readReg x acc; (r.1, viewOf acc r.2)

/-! Writes -/

/-- The action that a write asks for, 0 where its encoding has no effect (R414). -/
def actionOf (r : RegId) (pos : W64) : Nat :=
  let two (a : Nat) : Nat := if a = 3 then 0 else a
  match r with
  | .jpCtl => bitsOf pos 0 2
  | .jeWinnowCtl => two (bitsOf pos 0 2)
  | .jpRingCmd | .jpXlatInval | .jpFaultReply | .jeQpCmd | .jeNvmeCmd | .jePortCtl | .jeSecCtl | .jsSliceCtl => two (bitsOf pos 62 2)
  | .jpObjCtl | .jeWinCtl | .jeBiasCmd | .jeNvmCtl | .jsLaneCtl => bitsOf pos 62 2
  | .jeFabDead | .jeInject | .jeUnitTest => if bitsOf pos 62 2 = 1 then 1 else 0
  | .jeCfgLock => bitsOf pos 63 1
  | _ => 0

/-- BUSY of a register with an action, and its RESULT with the value that says it was rejected. -/
def busyOf : RegId → Option (Fld × Option (Fld × Nat))
  | .jpRingCmd => some (fJpRingCmd_BUSY, some (fJpRingCmd_RESULT, 2))
  | .jpObjCtl => some (fJpObjCtl_BUSY, some (fJpObjCtl_RESULT, 2))
  | .jpXlatInval => some (fJpXlatInval_BUSY, some (fJpXlatInval_RESULT, 2))
  | .jeWinCtl => some (fJeWinCtl_BUSY, some (fJeWinCtl_RESULT, 2))
  | .jeBiasCmd => some (fJeBiasCmd_BUSY, some (fJeBiasCmd_RESULT, 2))
  | .jeFabDead => some (fJeFabDead_BUSY, none)
  | .jeQpCmd => some (fJeQpCmd_BUSY, some (fJeQpCmd_RESULT, 2))
  | .jeNvmeCmd => some (fJeNvmeCmd_BUSY, some (fJeNvmeCmd_RESULT, 2))
  | .jeCfgLock => some (fJeCfgLock_BUSY, some (fJeCfgLock_RESULT, 10))
  | .jeNvmCtl => some (fJeNvmCtl_BUSY, some (fJeNvmCtl_RESULT, 2))
  | .jeSecCtl => some (fJeSecCtl_BUSY, some (fJeSecCtl_RESULT, 2))
  | .jeInject => some (fJeInject_BUSY, some (fJeInject_RESULT, 2))
  | .jeUnitTest => some (fJeUnitTest_BUSY, some (fJeUnitTest_RESULT, 2))
  | .jsLaneCtl => some (fJsLaneCtl_BUSY, some (fJsLaneCtl_RESULT, 2))
  | _ => none

/-- The register's BUSY is set. -/
def State.regBusy (s : State) (x : RegRef) : Bool :=
  match busyOf x.reg with
  | some (b, _) => decide (s.fld b x.i = 1)
  | none => false

/-- An action refused because BUSY is set: only RESULT changes, where there is one (R414). -/
def State.rejectBusy (s : State) (x : RegRef) : State :=
  match busyOf x.reg with
  | some (_, some (f, v)) => s.setFld f v x.i
  | _ => s

/-- Directory registers, written only while their partition is DISABLED (R409). -/
def isDir (r : RegId) : Bool :=
  decide (r = .jpTableDir) || decide (r = .jpKeyedDir) || decide (r = .jpObjDir) || decide (r = .jpXlatTable) || decide (r = .jpShardDir)

/-- Registers whose actions wait for configuration lock (R355). -/
def needsLock (r : RegId) : Bool := decide (r = .jpCtl) || decide (r = .jeWinCtl) || decide (r = .jeQpCmd) || decide (r = .jeNvmeCmd)

/-- Registers that take 64-bit writes only (R408). -/
def wholeOnly (r : RegId) : Bool := decide (r = .jpDcmd) || decide (r = .jeKeyImport) || decide (r = .jeNvmBuf)

/-- A register's value once its fields have taken a write: RW fields, RWL fields until lock, and W1C bits (R7, R9). -/
def State.newFields (s : State) (x : RegRef) (acc : RegAcc) (pos : W64) : W64 :=
  let fs := x.reg.fieldsAt x.i
  let m := (codeMask fs .rw &&& accMask acc) ||| (if s.locked then 0 else codeMask fs .rwl &&& accMask acc)
  ((s.reg x.reg x.i x.j &&& ~~~m) ||| (pos &&& m)) &&& ~~~(pos &&& codeMask fs .w1c)

/-- The fields of a write under their access codes (R7, R9): RW fields, RWL fields until lock, and W1C bits. After lock a write that
covers an RWL field raises "write after lock". -/
def State.storeFields (s : State) (off : Nat) (x : RegRef) (acc : RegAcc) (pos : W64) (val : Nat) : State :=
  let rwl := codeMask (x.reg.fieldsAt x.i) .rwl &&& accMask acc
  let new := s.newFields x acc pos
  let s1 := if new = s.reg x.reg x.i x.j then s else s.setReg x.reg new x.i x.j
  if rwl ≠ 0 ∧ s.locked then s1.eventE 0x02 off val else s1

/-- What a write does beside setting fields, where the register has no action field; `old` is the state before it. -/
def State.wrote (s old : State) (x : RegRef) (pos : W64) : State :=
  match x.reg with
  | .jpWaitLimit => s.limitWritten (partOf x.i)
  | .jeSieveCtl => if s.holdLane < old.holdLane then s.trimHolds s.heldRows.length else s
  | .jsSrCtl => if pos.getLsbD 2 then s.reseed (Fin.ofNat 8 x.i) else s
  | .jsClocheCtl => if pos.getLsbD 2 then s.flushSlice (Fin.ofNat 8 x.i) else s
  | .jpIrqMask | .jpIrqMod => s.irqTryAll (partOf x.i)
  | .jePhysMap => s.rekey (old.fld fJePhysMap_ENGINE)
  | .jePopCtl => if s.fld fJePopCtl_ENABLE = 0 then { s with scan := none } else s
  | .jePwrArb => if !s.asleep ∧ s.request 0 ≠ old.request 0 then s.emit (.ppmReq (s.request 0)) else s
  | .jpXlatIndex => s.publishIndex (partOf x.i) (s.fld fJpXlatIndex_BASE x.i)
  | .jpDcmd => s.dcmdWrite (partOf x.i) pos
  | .jpDcmdStatus =>
    let s1 := if pos.getLsbD 60 then s.dcmdResync (partOf x.i) else s
    if pos.getLsbD 58 then s1.dcmdResume (partOf x.i) else s1
  | .jeNvmBuf => s.nvmWord pos
  | .jeKeyImport => s.keyWord pos
  | _ => s

/-- An invalidation that is taken: refused with RESULT 4 for a partition that is not ENABLED (R282, R284). -/
def State.invalAct (s : State) (p : Part) (a : Nat) : State :=
  let gen := BitVec.ofNat 16 (s.fld fJpXlatInval_GEN p)
  let irq := decide (s.fld fJpXlatInval_IRQ p = 1)
  if !(s.partEnabled p) then s.setFld fJpXlatInval_RESULT 4 p
  else if a = 1 then s.invalRange p gen irq else s.invalAll p gen irq

/-- An action that is taken, on the operand fields as they now stand (R414). -/
def State.act (s : State) (x : RegRef) (a : Nat) (pos : W64) : State :=
  let p := partOf x.i
  let n : SliceId := Fin.ofNat 8 x.i
  match x.reg, a with
  | .jpCtl, 1 => s.partEnable p
  | .jpCtl, 2 => s.partDrain p
  | .jpCtl, 3 => s.partStop p
  | .jpRingCmd, 1 => s.ringAction p true (BitVec.ofNat 18 (s.fld fJpRingCmd_RING x.i))
  | .jpRingCmd, 2 => s.ringAction p false (BitVec.ofNat 18 (s.fld fJpRingCmd_RING x.i))
  | .jpObjCtl, 1 => s.objRegister p (BitVec.ofNat 32 (s.fld fJpObjCtl_HANDLE x.i))
  | .jpObjCtl, 2 => s.objRetire p (BitVec.ofNat 32 (s.fld fJpObjCtl_HANDLE x.i))
  | .jpObjCtl, 3 => s.objClearTorn p (BitVec.ofNat 32 (s.fld fJpObjCtl_HANDLE x.i))
  | .jpXlatInval, 1 => s.invalAct p 1
  | .jpXlatInval, 2 => s.invalAct p 2
  | .jpFaultReply, 1 => s.faultReply p pos.toNat
  | .jpFaultReply, 2 => s.faultReply p pos.toNat
  | .jeWinnowCtl, 1 => s.winnowReturn
  | .jeWinnowCtl, 2 => s.winnowBypass
  | .jeWinCtl, 1 => s.winEnable (BitVec.ofNat 11 (s.fld fJeWinCtl_NEW_BASE_GIB))
  | .jeWinCtl, 2 => s.winDisable
  | .jeWinCtl, 3 => s.winMove (BitVec.ofNat 11 (s.fld fJeWinCtl_NEW_BASE_GIB))
  | .jeBiasCmd, 1 => s.biasFlip (BitVec.ofNat 15 (s.fld fJeBiasCmd_PAGE))
  | .jeBiasCmd, 2 => s.biasRead (BitVec.ofNat 15 (s.fld fJeBiasCmd_PAGE))
  | .jeBiasCmd, 3 => s.biasAll
  | .jeFabDead, 1 => s.deadByHand (BitVec.ofNat 8 (s.fld fJeFabDead_AGENT))
  | .jeQpCmd, 1 => s.qpEnable (BitVec.ofNat 12 (s.fld fJeQpCmd_QP))
  | .jeQpCmd, 2 => s.qpReset (BitVec.ofNat 12 (s.fld fJeQpCmd_QP))
  | .jeNvmeCmd, 1 => s.nvmeConnect (BitVec.ofNat 8 (s.fld fJeNvmeCmd_SLOT))
  | .jeNvmeCmd, 2 => s.nvmeDisconnect (BitVec.ofNat 8 (s.fld fJeNvmeCmd_SLOT))
  | .jePortCtl, 1 => s.portReturn (Fin.ofNat 8 x.i)
  | .jePortCtl, 2 => s.portBypass (Fin.ofNat 8 x.i)
  | .jeCfgLock, 1 => s.configLock
  | .jeNvmCtl, k + 1 => s.nvmAct (k + 1) (s.fld fJeNvmCtl_ADDR)
  | .jeSecCtl, 1 => s.zeroiseReg
  | .jeSecCtl, 2 => s.pufEnrol
  | .jeInject, 1 => s.injectArm
  | .jeUnitTest, 1 => s.winnowSelfTest
  | .jsSliceCtl, 1 => s.sliceReturn n
  | .jsSliceCtl, 2 => s.sliceTakeOut n
  | .jsLaneCtl, 1 => s.laneReturn n (s.fld fJsLaneCtl_LANE x.i)
  | .jsLaneCtl, 2 => s.laneOffline n (s.fld fJsLaneCtl_LANE x.i)
  | .jsLaneCtl, 3 => s.laneSelfTest n (s.fld fJsLaneCtl_LANE x.i)
  | _, _ => s

/-- The owning rule has refused an action (R414): it has ended at its write, with a RESULT that says why. The checks of a lock end
it; they refuse no write. -/
def State.actRefused (s : State) (x : RegRef) : Bool :=
  match busyOf x.reg with
  | some (b, some (f, _)) => decide (x.reg ≠ .jeCfgLock) && decide (s.fld b x.i = 0) && decide (s.fld f x.i ≠ 0)
  | _ => false

/-- A refused write changes no field of its register but RESULT (R414). -/
def State.unstore (s old : State) (x : RegRef) : State :=
  match busyOf x.reg with
  | some (_, some (f, _)) => (s.setReg x.reg (old.reg x.reg x.i x.j) x.i x.j).setFld f (s.fld f x.i) x.i
  | _ => s

/-- What a write that asks for an action would leave: its action is refused where this says so (R414). -/
def State.tried (s : State) (x : RegRef) (acc : RegAcc) (v : W64) : State :=
  (s.setReg x.reg (s.newFields x acc (accPos acc v)) x.i x.j).act x (actionOf x.reg (accPos acc v)) (accPos acc v)

/-- A write that reaches a register: refused as R355, R409 and R414 say, else its fields, its effects and its action. -/
def State.writeReg (s : State) (off : Nat) (x : RegRef) (acc : RegAcc) (v : W64) : State :=
  let pos := accPos acc v
  let val := if acc = .full then v.toNat else v.toNat % 2 ^ 32
  let a := actionOf x.reg pos
  if isDir x.reg ∧ !(s.partDisabled x.i) then s.eventE 0x03 off val
  else if x.reg = .jpXmark then s.xmarkWritten (partOf x.i) x.j ((s.reg .jpXmark x.i x.j &&& ~~~(accMask acc)) ||| pos)
  else if a ≠ 0 ∧ needsLock x.reg ∧ !s.locked then s.eventE 0x03 off val
  else if x.reg = .jpXlatIndex ∧ s.fld fJpXlatIndex_BUSY x.i = 1 then s.eventE 0x03 off val
  else if a ≠ 0 ∧ s.regBusy x then s.rejectBusy x
  else if a = 0 then (s.storeFields off x acc pos val).wrote s x pos
  else
    let y := s.tried x acc v
    if y.actRefused x then y.unstore s x
    else ((s.storeFields off x acc pos val).wrote s x pos).act x a pos

/-- A write that the fabric agent serves. -/
def State.busWrite (s : State) (off : Nat) (w : AccW) (v : W64) : State :=
  if 0x2000000 ≤ off then s.doorbell (BitVec.ofNat 25 off) w v
  else match accOf off w with
    | none => s.malformed off true w
    | some acc => match s.reach off true with
      | none => s
      | some x => if wholeOnly x.reg ∧ acc ≠ .full then s.malformed off true w else s.writeReg off x acc v

/-! Sleep and reset -/

/-- Registers that the always-on controller serves without waking the engine (R379). -/
def servedAsleep (off : Nat) : Bool :=
  match regAt (off / 8 * 8) with
  | some x => decide (x.reg = .jePwrStatus) || decide (x.reg = .jePwrArb) || decide (x.reg = .jeEnergy) || decide (x.reg = .jeEnergyBits) ||
      decide (x.reg = .jePwrResid)
  | none => false

/-- A write of REQ = 01 has not taken effect: its partition's initialisation runs (R418). The accesses behind it wait, in their
order (R290): the aperture's accesses are modelled as one agent's (DESIGN CHOICE, log 74). -/
def State.enabling (s : State) : Bool := s.parts.any fun ps => ps.initing && ps.initReq

/-- An access waits for an earlier write to take effect. -/
def State.holdAccess (s : State) (c : Instr) : State := { s with power := { s.power with held := s.power.held ++ [c] } }

/-- A write from outside: nothing answers in reset, and a sleeping engine holds it and wakes (R372). -/
def State.apWrite (s : State) (off : BitVec 26) (w : AccW) (v : W64) : State :=
  if !s.boot.running then s
  else if s.enabling then s.holdAccess (.registerWrite off w v)
  else if servedAsleep off.toNat then s.busWrite off.toNat w v
  else s.orHold (.registerWrite off w v) fun s => s.busWrite off.toNat w v

/-- A read from outside: its value goes out. -/
def State.apRead (s : State) (off : BitVec 26) (w : AccW) : State :=
  let go (s : State) : State := let r := s.busRead off.toNat w; r.1.emit (.readData r.2 false)
  if !s.boot.running then s
  else if s.enabling then s.holdAccess (.malformedRegisterRead off w)
  else if servedAsleep off.toNat then go s
  else s.orHold (.malformedRegisterRead off w) go

/-- A write of a register or of one half. -/
def State.putReg (s : State) (r : RegId) (i j : Nat) (acc : RegAcc) (v : W64) : State :=
  s.apWrite (BitVec.ofNat 26 (r.addr i j + accOff acc)) (accWidth acc) v

/-- A read of a register or of one half. -/
def State.getReg (s : State) (r : RegId) (i j : Nat) (acc : RegAcc) : State :=
  s.apRead (BitVec.ofNat 26 (r.addr i j + accOff acc)) (accWidth acc)

/-- A whole write of an action with its operand. -/
def State.putAct (s : State) (r : RegId) (i action operand : Nat) : State :=
  s.putReg r i 0 .full (BitVec.ofNat 64 (action * 2 ^ 62 + operand))

/-- A whole write that sets some action bits and keeps the fields beside them as they are. -/
def State.putKeep (s : State) (r : RegId) (i : Nat) (v : W64) : State :=
  s.putReg r i 0 .full ((s.reg r i &&& (codeMask (r.fieldsAt i) .rw ||| codeMask (r.fieldsAt i) .rwl)) ||| v)

/-! Rows of the general accesses -/

/-- REGISTER_WRITE (R6 to R9, R409, R414). -/
def execRegisterWrite (off : BitVec 26) (w : AccW) (v : W64) (s : State) : Host.Outcome State Fault Refusal := stepTo (s.apWrite off w v)

/-- REGISTER_READ_CLEAR (R7, R9, R406): a well-formed read. -/
def execRegisterReadClear (off : BitVec 26) (acc : RegAcc) (s : State) : Host.Outcome State Fault Refusal :=
  stepTo (s.apRead (BitVec.ofNat 26 (off.toNat / 8 * 8 + accOff acc)) (accWidth acc))

/-- MALFORMED_REGISTER_READ (R6): a read of any width and alignment. -/
def execMalformedRegisterRead (off : BitVec 26) (w : AccW) (s : State) : Host.Outcome State Fault Refusal := stepTo (s.apRead off w)

/-- DOORBELL_WRITE (R26 to R29, R353). -/
def execDoorbellWrite (off : BitVec 25) (w : AccW) (v : W64) (s : State) : Host.Outcome State Fault Refusal :=
  stepTo (if !s.boot.running then s
    else if s.enabling then s.holdAccess (.doorbellWrite off w v)
    else s.orHold (.doorbellWrite off w v) fun s => s.doorbell off w v)

/-! Rows of one register: rings, partitions, the direct path -/

/-- WAIT_LIMIT_WRITE (R43). -/
def execWaitLimitWrite (p : Part) (acc : RegAcc) (v : W64) (s : State) : Host.Outcome State Fault Refusal :=
  stepTo (s.putReg .jpWaitLimit p 0 acc v)

/-- XMARK_WRITE (R41). -/
def execXmarkWrite (p : Part) (i : BitVec 8) (acc : RegAcc) (v : W64) (s : State) : Host.Outcome State Fault Refusal :=
  stepTo (s.putReg .jpXmark p i.toNat acc v)

/-- PARTITION_ENABLE (R60, R355): REQ 01 of JP_CTL. -/
def execPartitionEnable (p : Part) (s : State) : Host.Outcome State Fault Refusal := stepTo (s.putReg .jpCtl p 0 .full 1)

/-- PARTITION_DISABLE_DRAIN (R60, R355): REQ 10. -/
def execPartitionDisableDrain (p : Part) (s : State) : Host.Outcome State Fault Refusal := stepTo (s.putReg .jpCtl p 0 .full 2)

/-- PARTITION_DISABLE_STOP (R60, R61, R355): REQ 11. -/
def execPartitionDisableStop (p : Part) (s : State) : Host.Outcome State Fault Refusal := stepTo (s.putReg .jpCtl p 0 .full 3)

/-- RING_ENABLE (R57, R58). -/
def execRingEnable (p : Part) (ring : RingNo) (s : State) : Host.Outcome State Fault Refusal := stepTo (s.putAct .jpRingCmd p 1 ring.toNat)

/-- RING_DISABLE (R57, R59). -/
def execRingDisable (p : Part) (ring : RingNo) (s : State) : Host.Outcome State Fault Refusal := stepTo (s.putAct .jpRingCmd p 2 ring.toNat)

/-- DCMD_WORD_WRITE (R63, R64). -/
def execDcmdWordWrite (p : Part) (v : W64) (s : State) : Host.Outcome State Fault Refusal := stepTo (s.putReg .jpDcmd p 0 .full v)

/-- DCMD_CPL_READ (R65, R407). -/
def execDcmdCplRead (p : Part) (acc : RegAcc) (s : State) : Host.Outcome State Fault Refusal := stepTo (s.getReg .jpDcmdCpl p 0 acc)

/-- DCMD_RESYNC (R63). -/
def execDcmdResync (p : Part) (s : State) : Host.Outcome State Fault Refusal := stepTo (s.putReg .jpDcmdStatus p 0 .hi 0x10000000#64)

/-- DCMD_RESUME (R416). -/
def execDcmdResume (p : Part) (s : State) : Host.Outcome State Fault Refusal := stepTo (s.putReg .jpDcmdStatus p 0 .hi 0x4000000#64)

/-! Sieve, lanes, adders -/

/-- SIEVE_CTL_WRITE (R80). -/
def execSieveCtlWrite (acc : RegAcc) (v : W64) (s : State) : Host.Outcome State Fault Refusal := stepTo (s.putReg .jeSieveCtl 0 0 acc v)

/-- SR_RESEED (R106, R107): RESEED is written with the register's other fields. -/
def execSrReseed (n : SliceId) (v : W64) (s : State) : Host.Outcome State Fault Refusal := stepTo (s.putReg .jsSrCtl n 0 .full (v ||| 4))

/-- CLOCHE_FLUSH (R133). -/
def execClocheFlush (n : SliceId) (s : State) : Host.Outcome State Fault Refusal := stepTo (s.putKeep .jsClocheCtl n 4)

/-- WINNOW_BYPASS (R167). -/
def execWinnowBypass (s : State) : Host.Outcome State Fault Refusal := stepTo (s.putKeep .jeWinnowCtl 0 2)

/-- WINNOW_RETURN (R167, R397). -/
def execWinnowReturn (s : State) : Host.Outcome State Fault Refusal := stepTo (s.putKeep .jeWinnowCtl 0 1)

/-! Objects and translation -/

/-- OBJECT_REGISTER (R217). -/
def execObjectRegister (p : Part) (h : W32) (s : State) : Host.Outcome State Fault Refusal := stepTo (s.putAct .jpObjCtl p 1 h.toNat)

/-- OBJECT_RETIRE (R217). -/
def execObjectRetire (p : Part) (h : W32) (s : State) : Host.Outcome State Fault Refusal := stepTo (s.putAct .jpObjCtl p 2 h.toNat)

/-- OBJECT_CLEAR_TORN (R217, R238). -/
def execObjectClearTorn (p : Part) (h : W32) (s : State) : Host.Outcome State Fault Refusal := stepTo (s.putAct .jpObjCtl p 3 h.toNat)

/-- FAULT_READ (R280, R407). -/
def execFaultRead (p : Part) (acc : RegAcc) (s : State) : Host.Outcome State Fault Refusal := stepTo (s.getReg .jpFault p 0 acc)

/-- FAULT_RETRY (R281). -/
def execFaultRetry (p : Part) (id : BitVec 16) (s : State) : Host.Outcome State Fault Refusal := stepTo (s.putAct .jpFaultReply p 1 id.toNat)

/-- FAULT_ABORT (R281). -/
def execFaultAbort (p : Part) (id : BitVec 16) (s : State) : Host.Outcome State Fault Refusal := stepTo (s.putAct .jpFaultReply p 2 id.toNat)

/-- XLAT_INDEX_PUBLISH (R271). -/
def execXlatIndexPublish (p : Part) (v : W64) (s : State) : Host.Outcome State Fault Refusal := stepTo (s.putReg .jpXlatIndex p 0 .full v)

/-- XLAT_INVAL_RANGE (R282). -/
def execXlatInvalRange (p : Part) (gen : BitVec 16) (irq : Bool) (s : State) : Host.Outcome State Fault Refusal :=
  stepTo (s.putAct .jpXlatInval p 1 (irq.toNat * 2 ^ 60 + gen.toNat * 2 ^ 16))

/-- XLAT_INVAL_ALL (R284). -/
def execXlatInvalAll (p : Part) (gen : BitVec 16) (irq : Bool) (s : State) : Host.Outcome State Fault Refusal :=
  stepTo (s.putAct .jpXlatInval p 2 (irq.toNat * 2 ^ 60 + gen.toNat * 2 ^ 16))

/-! The window and its agents -/

/-- WINDOW_ENABLE (R294, R355). -/
def execWindowEnable (base : BitVec 11) (s : State) : Host.Outcome State Fault Refusal := stepTo (s.putAct .jeWinCtl 0 1 base.toNat)

/-- WINDOW_DISABLE (R294, R355). -/
def execWindowDisable (s : State) : Host.Outcome State Fault Refusal := stepTo (s.putKeep .jeWinCtl 0 0x8000000000000000#64)

/-- WINDOW_MOVE (R294, R355). -/
def execWindowMove (base : BitVec 11) (s : State) : Host.Outcome State Fault Refusal := stepTo (s.putAct .jeWinCtl 0 3 base.toNat)

/-- BIAS_FLIP_PAGE (R298, R299). -/
def execBiasFlipPage (page : BitVec 15) (s : State) : Host.Outcome State Fault Refusal := stepTo (s.putAct .jeBiasCmd 0 1 page.toNat)

/-- BIAS_READ_PAGE. -/
def execBiasReadPage (page : BitVec 15) (s : State) : Host.Outcome State Fault Refusal := stepTo (s.putAct .jeBiasCmd 0 2 page.toNat)

/-- BIAS_FLIP_ALL (R298). -/
def execBiasFlipAll (s : State) : Host.Outcome State Fault Refusal := stepTo (s.putKeep .jeBiasCmd 0 0xC000000000000000#64)

/-- DECLARE_AGENT_DEAD (R312). -/
def execDeclareAgentDead (a : Byte) (s : State) : Host.Outcome State Fault Refusal := stepTo (s.putAct .jeFabDead 0 1 a.toNat)

/-! Network -/

/-- QP_ENABLE (R322, R355). -/
def execQpEnable (qp : BitVec 12) (s : State) : Host.Outcome State Fault Refusal := stepTo (s.putAct .jeQpCmd 0 1 qp.toNat)

/-- QP_RESET (R322, R355). -/
def execQpReset (qp : BitVec 12) (s : State) : Host.Outcome State Fault Refusal := stepTo (s.putAct .jeQpCmd 0 2 qp.toNat)

/-- NVME_CONNECT (R335, R355). -/
def execNvmeConnect (slot : Byte) (s : State) : Host.Outcome State Fault Refusal := stepTo (s.putAct .jeNvmeCmd 0 1 slot.toNat)

/-- NVME_DISCONNECT (R335, R355). -/
def execNvmeDisconnect (slot : Byte) (s : State) : Host.Outcome State Fault Refusal := stepTo (s.putAct .jeNvmeCmd 0 2 slot.toNat)

/-- PORT_BYPASS (R339). -/
def execPortBypass (e : Fin 8) (s : State) : Host.Outcome State Fault Refusal := stepTo (s.putKeep .jePortCtl e 0x8000000000000000#64)

/-- PORT_RETURN (R339). -/
def execPortReturn (e : Fin 8) (s : State) : Host.Outcome State Fault Refusal := stepTo (s.putKeep .jePortCtl e 0x4000000000000000#64)

/-! Configuration, flash, security -/

/-- CONFIG_LOCK (R356). -/
def execConfigLock (s : State) : Host.Outcome State Fault Refusal := stepTo (s.putKeep .jeCfgLock 0 0x8000000000000000#64)

/-- NVM_READ (R366). -/
def execNvmRead (addr : BitVec 24) (s : State) : Host.Outcome State Fault Refusal := stepTo (s.putAct .jeNvmCtl 0 1 addr.toNat)

/-- NVM_PROGRAM (R366). -/
def execNvmProgram (addr : BitVec 24) (s : State) : Host.Outcome State Fault Refusal := stepTo (s.putAct .jeNvmCtl 0 2 addr.toNat)

/-- NVM_ERASE (R366). -/
def execNvmErase (addr : BitVec 24) (s : State) : Host.Outcome State Fault Refusal := stepTo (s.putAct .jeNvmCtl 0 3 addr.toNat)

/-- NVM_BUF_WRITE (R366). -/
def execNvmBufWrite (v : W64) (s : State) : Host.Outcome State Fault Refusal := stepTo (s.putReg .jeNvmBuf 0 0 .full v)

/-- ZEROISE (R363). -/
def execZeroise (s : State) : Host.Outcome State Fault Refusal := stepTo (s.putKeep .jeSecCtl 0 0x4000000000000000#64)

/-- PUF_ENROL (R358). -/
def execPufEnrol (s : State) : Host.Outcome State Fault Refusal := stepTo (s.putKeep .jeSecCtl 0 0x8000000000000000#64)

/-! Errors and service -/

/-- EVENT_READ (R389, R407). -/
def execEventRead (fifo : Option Part) (acc : RegAcc) (s : State) : Host.Outcome State Fault Refusal :=
  stepTo (match fifo with
    | some p => s.getReg .jpEvent p 0 acc
    | none => s.getReg .jeEvent 0 0 acc)

/-- INJECT_ARM (R401). -/
def execInjectArm (cls : Fin 8) (p : Part) (kind : BitVec 2) (s : State) : Host.Outcome State Fault Refusal :=
  stepTo (s.putAct .jeInject 0 1 (cls.val * 2 ^ 48 + p.val * 2 ^ 40 + kind.toNat * 2 ^ 32))

/-- WINNOW_SELF_TEST (R397). -/
def execWinnowSelfTest (s : State) : Host.Outcome State Fault Refusal := stepTo (s.putAct .jeUnitTest 0 1 0)

/-- LANE_RETURN (R394, R395). -/
def execLaneReturn (n : SliceId) (l : Fin 32) (s : State) : Host.Outcome State Fault Refusal := stepTo (s.putAct .jsLaneCtl n 1 l.val)

/-- LANE_OFFLINE (R394, R395). -/
def execLaneOffline (n : SliceId) (l : Fin 32) (s : State) : Host.Outcome State Fault Refusal := stepTo (s.putAct .jsLaneCtl n 2 l.val)

/-- LANE_SELF_TEST (R394, R396). -/
def execLaneSelfTest (n : SliceId) (l : Fin 32) (s : State) : Host.Outcome State Fault Refusal := stepTo (s.putAct .jsLaneCtl n 3 l.val)

/-- SLICE_TAKE_OUT (R398, R399). -/
def execSliceTakeOut (n : SliceId) (s : State) : Host.Outcome State Fault Refusal := stepTo (s.putAct .jsSliceCtl n 2 0)

/-- SLICE_RETURN (R398). -/
def execSliceReturn (n : SliceId) (s : State) : Host.Outcome State Fault Refusal := stepTo (s.putAct .jsSliceCtl n 1 0)

end Sys2Proof.Machine
end

