-- ==== Sys2Proof/Machine/Load.lean ====
section
/-! DEFINITION. An image is loaded (R345, R349 to R354): its records are ordinary register writes. -/
namespace Sys2Proof.Machine

/-- A register record is an ordinary 64-bit write of its register (R349). -/
def State.applyRecord (s : State) (r : Nat × W64) : State :=
  match regAt (natBits r.1 0 26) with
  | some x => s.writeReg (natBits r.1 0 26) x .full r.2
  | none => s

/-- The image of a slot is accepted: its records act in order, the base's and then the mode's overlay's. -/
def State.acceptImage (s : State) (slot : Nat) : State :=
  let rd := s.slotByte slot
  let mode := s.startMode rd
  let s1 := (((s.setFld fJeStart_IMAGE 1).setFld fJeStart_MODE mode).setFld fJeStart_SLOT slot).setFld fJeStart_IMAGE_VERSION (imgNat rd 0xC 4)
  let s2 : State := { s1 with boot := { s1.boot with image := imgBytes rd 0 (imgLen rd) } }
  let s3 := (imgRecords rd 0x01 ++ imgRecords rd (overlayOf mode)).foldl State.applyRecord (s2.takeKeys rd)
  if imgBoardKey rd = 0 then s3.forget s3.inCipher else s3

/-- IMAGE_CHECK_DONE (R345, R349 to R354, R363): the first acceptable image of the two slots acts, the one that SLOT names before
the other; without one the engine starts with none. A load that a zeroisation ended is rejected with 0x0A: it is that of the slot
tried first (DESIGN CHOICE, log 61). The slices are released. -/
def execImageCheckDone (s : State) : Host.Outcome State Fault Refusal :=
  stepTo (if !s.boot.running ∨ s.fld fJeStart_STATE ≠ 0 then s
    else
      let k := s.fld fJeBootSel_SLOT
      let a := if s.boot.loadEnded then 0x0A else s.imageReason (s.slotByte k)
      let b := s.imageReason (s.slotByte (1 - k))
      if a = 0 then (s.acceptImage k).setFld fJeStart_STATE 1
      else
        let s1 := ((s.setFld fJeStart_FALLBACK 1).setFld fJeStart_FAIL_FIRST a).eventE 0x60 k a
        if b = 0 then (s1.acceptImage (1 - k)).setFld fJeStart_STATE 1
        else ((s1.setFld fJeStart_FAIL_SECOND b).eventE 0x60 (1 - k) b).setFld fJeStart_STATE 1)

end Sys2Proof.Machine
end

