-- ==== Sys2Proof/Machine/Wake.lean ====
section
/-! DEFINITION. The steps of a sleep entry and the end of a wake (R372 to R375), with the service of the accesses and messages that
were held meanwhile. -/
namespace Sys2Proof.Machine

/-- The state a command leaves behind. -/
def outState (o : Host.Outcome State Fault Refusal) (s : State) : State :=
  match o with
  | .next t => t
  | _ => s

/-- Serves a held access, request or message (R372). -/
def State.replay (s : State) (c : Instr) : State :=
  match c with
  | .registerWrite off w v => s.apWrite off w v
  | .malformedRegisterRead off w => s.apRead off w
  | .doorbellWrite off w v => outState (execDoorbellWrite off w v s) s
  | .rdShared a x lost => outState (execRdShared a x s lost) s
  | .rdOwn a x lost => outState (execRdOwn a x s lost) s
  | .upgrade a x lost => outState (execUpgrade a x s lost) s
  | .wbDirty a x data => outState (execWbDirty a x data s) s
  | .rdCur a x lost => outState (execRdCur a x s lost) s
  | .wrLine a x data lost => outState (execWrLine a x data s lost) s
  | .wrPart a x mask data lost => outState (execWrPart a x mask data s lost) s
  | .atomic a x op lost => outState (execAtomic a x op s lost) s
  | .gatherReq qp msg ce => outState (execGatherReq qp msg s ce) s
  | .gatherReply qp msg ce => outState (execGatherReply qp msg s ce) s
  | .addReq qp msg ce => outState (execAddReq qp msg s ce) s
  | .addAccept qp msg ce => outState (execAddAccept qp msg s ce) s
  | .push qp msg ce => outState (execPush qp msg s ce) s
  | .pushAccept qp msg ce => outState (execPushAccept qp msg s ce) s
  | .roceAckReceive qp psn => outState (execRoceAckReceive qp psn s) s
  | .roceNakReceive qp psn => outState (execRoceNakReceive qp psn s) s
  | .roceCnpReceive qp => outState (execRoceCnpReceive qp s) s
  | .rdmaWriteReceive qp key off data ce => outState (execRdmaWriteReceive qp key off data s ce) s
  | .nvmeResponse slot key status lba ns => outState (execNvmeResponse slot key status lba ns s) s
  | .invalidRequestPacket qp => outState (execInvalidRequestPacket qp s) s
  | .malformedMessage qp msg ce => outState (execMalformedMessage qp msg s ce) s
  | _ => s

/-- Serves what was held, in the order of arrival. -/
def State.replayAll (s : State) : State :=
  let s1 := s.power.held.foldl (fun (s : State) c => s.replay c) { s with power := { s.power with held := [], replaying := true } }
  { s1 with power := { s1.power with replaying := false } }

/-- PARTITION_INIT_DONE (R60, R62, R322, R418): the partition is ENABLED, with every ring disabled and its queue pairs in ERROR;
accesses that waited for the request to take effect go on. -/
def execPartitionInitDone (p : Part) (s : State) : Host.Outcome State Fault Refusal :=
  stepTo (if (s.part p).initing then
    let s1 := (((s.initPart p).qpErrors p).setFld fJpStatus_STATE 1 p).setFld fJpStatus_ENABLE_PENDING 0 p
    if (s.part p).initReq ∧ !s1.asleep then s1.replayAll else s1
  else s)

/-- The engine is Awake, with no unit gated, and the energy of a sleep is counted. -/
def State.awake (s : State) : State :=
  let s1 := if s.asleep then s.sleepEnergy else s
  ((s1.setFld fJePwrStatus_LANES_GATED 0).setFld fJePwrStatus_WINNOW_GATED 0).setPower 0

/-- An entry is abandoned (R373): the engine is Awake and counts it. -/
def State.abandonEntry (s : State) : State :=
  let s1 := (({ s with power := { s.power with entry := 0, step := 0, trigger := false } } : State).bump fJePwrStatus_ENTRY_ABORTS)
  (if s.asleep then s1.emit (.ppmReq (s1.request 0)) else s1).awake.replayAll

/-- An entry has taken its last step: the state, the request to the arbiter and the readiness to the fabric follow. A trigger that
the last steps met wakes the engine at once. -/
def State.finishEntry (s : State) : State :=
  let st := s.power.entry + 1
  let s1 := ({ s with power := { s.power with entry := 0, step := 0, trigger := false } } : State).setPower st
  let s2 := (if st = 3 then s1.emit (.fabReady false) else s1).emit (.ppmReq (s1.request st))
  if s.power.trigger then s2.trigger else s2

/-- SLEEP_ENTRY_STEP_DONE (R373): the step in progress ends where its work is done; a trigger before step 4 abandons the
entry, at once while pages flip. -/
def execSleepEntryStepDone (s : State) : Host.Outcome State Fault Refusal :=
  stepTo (if s.power.entry = 0 then s
    else
      let y := s.entryWork
      let flips := decide (y.1.power.entry = 2) && decide (y.1.power.step = 2)
      if y.1.power.trigger ∧ y.1.power.step < 4 ∧ (y.2 ∨ flips) then y.1.abandonEntry
      else if !y.2 then y.1
      else if y.1.power.step < entrySteps y.1.power.entry then { y.1 with power := { y.1.power with step := y.1.power.step + 1 } }
      else y.1.finishEntry)

/-- WAKE_DONE (R372, R374, R375): the engine is Awake, without what Overwinter lost, and serves what was held. -/
def execWakeDone (s : State) : Host.Outcome State Fault Refusal :=
  stepTo (if !s.power.waking then s
    else
      let deep := decide (s.fld fJePwrStatus_STATE = 3)
      let s1 := if deep then s.overwinterLoss.emit (.fabReady true) else s
      let s2 := ({ s1 with power := { s1.power with waking := false } } : State).awake
      ((s2.bump fJePwrStatus_WAKES).emit (.ppmReq (s2.request 0))).replayAll)

end Sys2Proof.Machine
end

