-- ==== Sys2Proof/Machine/Dispatch.lean ====
section
/-! DEFINITION. One arm for each command: a direct call of its meaning. -/
namespace Sys2Proof.Machine

/-- The effect of a command on everything but the queue. -/
def exec (i : Instr) (s : State) : Host.Outcome State Fault Refusal :=
  match i with
  | .registerWrite off w v => Sys2Proof.Machine.execRegisterWrite off w v s
  | .registerReadClear off acc => Sys2Proof.Machine.execRegisterReadClear off acc s
  | .doorbellWrite off w v => Sys2Proof.Machine.execDoorbellWrite off w v s
  | .doorbellSpaceFreed => Sys2Proof.Machine.execDoorbellSpaceFreed s
  | .doorbellBufferTake => Sys2Proof.Machine.execDoorbellBufferTake s
  | .contextReadReturn ring => Sys2Proof.Machine.execContextReadReturn ring s
  | .commandFetchReturn ring => Sys2Proof.Machine.execCommandFetchReturn ring s
  | .admissionReadReturn src => Sys2Proof.Machine.execAdmissionReadReturn src s
  | .admitCommand => Sys2Proof.Machine.execAdmitCommand s
  | .nop t => Sys2Proof.Machine.execNop t s
  | .mark t => Sys2Proof.Machine.execMark t s
  | .markPublish t => Sys2Proof.Machine.execMarkPublish t s
  | .wait t => Sys2Proof.Machine.execWait t s
  | .waitLimitTick t => Sys2Proof.Machine.execWaitLimitTick t s
  | .waitLimitWrite p acc v => Sys2Proof.Machine.execWaitLimitWrite p acc v s
  | .gatherPool t => Sys2Proof.Machine.execGatherPool t s
  | .keyedLookup t => Sys2Proof.Machine.execKeyedLookup t s
  | .scatterAdd t => Sys2Proof.Machine.execScatterAdd t s
  | .scatterApply t => Sys2Proof.Machine.execScatterApply t s
  | .stream t => Sys2Proof.Machine.execStream t s
  | .versionSwitch t => Sys2Proof.Machine.execVersionSwitch t s
  | .objectMove t => Sys2Proof.Machine.execObjectMove t s
  | .clochePreload t => Sys2Proof.Machine.execClochePreload t s
  | .clocheUnlock t => Sys2Proof.Machine.execClocheUnlock t s
  | .completionRecordWrite src => Sys2Proof.Machine.execCompletionRecordWrite src s
  | .irqHoldoffExpiry p g => Sys2Proof.Machine.execIrqHoldoffExpiry p g s
  | .xmarkWrite p k acc v => Sys2Proof.Machine.execXmarkWrite p k acc v s
  | .arrXmarkWr p k v => Sys2Proof.Machine.execArrXmarkWr p k v s
  | .partitionEnable p => Sys2Proof.Machine.execPartitionEnable p s
  | .partitionDisableDrain p => Sys2Proof.Machine.execPartitionDisableDrain p s
  | .partitionDisableStop p => Sys2Proof.Machine.execPartitionDisableStop p s
  | .partitionInitDone p => Sys2Proof.Machine.execPartitionInitDone p s
  | .partitionQuiesceDone p => Sys2Proof.Machine.execPartitionQuiesceDone p s
  | .ringEnable p ring => Sys2Proof.Machine.execRingEnable p ring s
  | .ringEnableDone p => Sys2Proof.Machine.execRingEnableDone p s
  | .ringDisable p ring => Sys2Proof.Machine.execRingDisable p ring s
  | .ringDisableDone p => Sys2Proof.Machine.execRingDisableDone p s
  | .dcmdWordWrite p v => Sys2Proof.Machine.execDcmdWordWrite p v s
  | .dcmdSpaceFreed p => Sys2Proof.Machine.execDcmdSpaceFreed p s
  | .dcmdCplRead p acc => Sys2Proof.Machine.execDcmdCplRead p acc s
  | .dcmdResync p => Sys2Proof.Machine.execDcmdResync p s
  | .dcmdResume p => Sys2Proof.Machine.execDcmdResume p s
  | .indexStreamLineReturn t k line => Sys2Proof.Machine.execIndexStreamLineReturn t k line s
  | .sieveEntryIntake pipe word => Sys2Proof.Machine.execSieveEntryIntake pipe s word
  | .remapReadReturn t x => Sys2Proof.Machine.execRemapReadReturn t x s
  | .fanOutQueueFreed pipe => Sys2Proof.Machine.execFanOutQueueFreed pipe s
  | .sieveCtlWrite acc v => Sys2Proof.Machine.execSieveCtlWrite acc v s
  | .formatBlockLoadDone src => Sys2Proof.Machine.execFormatBlockLoadDone src s
  | .srReseed n v => Sys2Proof.Machine.execSrReseed n v s
  | .popCountReturn => Sys2Proof.Machine.execPopCountReturn s
  | .epochScan => Sys2Proof.Machine.execEpochScan s
  | .classMoveDone k => Sys2Proof.Machine.execClassMoveDone k s
  | .slotReturn => Sys2Proof.Machine.execSlotReturn s
  | .laneRowReference lane parityError word => Sys2Proof.Machine.execLaneRowReference lane parityError s word
  | .laneFillReturn lane line parityError word => Sys2Proof.Machine.execLaneFillReturn lane line parityError s word
  | .fanOutEntry lane headerError parityError word => Sys2Proof.Machine.execFanOutEntry lane headerError s parityError word
  | .slicePartialArrive n word => Sys2Proof.Machine.execSlicePartialArrive n s word
  | .rerunPlaceFreed => Sys2Proof.Machine.execRerunPlaceFreed s
  | .clocheAgeTick n => Sys2Proof.Machine.execClocheAgeTick n s
  | .clocheFlush n => Sys2Proof.Machine.execClocheFlush n s
  | .feedEnable mask => Sys2Proof.Machine.execFeedEnable mask s
  | .feedCredit q count => Sys2Proof.Machine.execFeedCredit q count s
  | .feedTileSend q => Sys2Proof.Machine.execFeedTileSend q s
  | .feedTileAck q => Sys2Proof.Machine.execFeedTileAck q s
  | .winnowBind t => Sys2Proof.Machine.execWinnowBind t s
  | .winnowQueryReturn t => Sys2Proof.Machine.execWinnowQueryReturn t s
  | .winnowSetScored t => Sys2Proof.Machine.execWinnowSetScored t s
  | .winnowPairsSelected t => Sys2Proof.Machine.execWinnowPairsSelected t s
  | .winnowWeightsDone t => Sys2Proof.Machine.execWinnowWeightsDone t s
  | .subkeyFillStart => Sys2Proof.Machine.execSubkeyFillStart s
  | .subkeyFillEnd b => Sys2Proof.Machine.execSubkeyFillEnd b s
  | .winnowBypass => Sys2Proof.Machine.execWinnowBypass s
  | .winnowReturn => Sys2Proof.Machine.execWinnowReturn s
  | .winnowDrainDone => Sys2Proof.Machine.execWinnowDrainDone s
  | .winnowReinitDone => Sys2Proof.Machine.execWinnowReinitDone s
  | .gradientReadReturn t bag err => Sys2Proof.Machine.execGradientReadReturn t bag s err
  | .rakeMessageArrive n poisoned err word => Sys2Proof.Machine.execRakeMessageArrive n poisoned s err word
  | .rakeAck n lost => Sys2Proof.Machine.execRakeAck n s lost
  | .rakeResendRequest n => Sys2Proof.Machine.execRakeResendRequest n s
  | .rakeEndToken n err => Sys2Proof.Machine.execRakeEndToken n s err
  | .adderReadReturn n => Sys2Proof.Machine.execAdderReadReturn n s
  | .landingReport n t => Sys2Proof.Machine.execLandingReport n t s
  | .applyStateReturn t => Sys2Proof.Machine.execApplyStateReturn t s
  | .streamSourceReturn t parityError word => Sys2Proof.Machine.execStreamSourceReturn t parityError s word
  | .streamReceiverAccept t r parity rereadError => Sys2Proof.Machine.execStreamReceiverAccept t r s parity rereadError
  | .catchupSlotBoundary t r => Sys2Proof.Machine.execCatchupSlotBoundary t r s
  | .statBankFree b k => Sys2Proof.Machine.execStatBankFree b k s
  | .statBankReadyAck b k => Sys2Proof.Machine.execStatBankReadyAck b k s
  | .tokenWaitExpiry t r => Sys2Proof.Machine.execTokenWaitExpiry t r s
  | .earlyWorkStart ring => Sys2Proof.Machine.execEarlyWorkStart ring s
  | .objectRegister p h => Sys2Proof.Machine.execObjectRegister p h s
  | .objectRetire p h => Sys2Proof.Machine.execObjectRetire p h s
  | .objectRetireDone p => Sys2Proof.Machine.execObjectRetireDone p s
  | .objectClearTorn p h => Sys2Proof.Machine.execObjectClearTorn p h s
  | .objectMoveChunkDone t => Sys2Proof.Machine.execObjectMoveChunkDone t s
  | .objectMoveFinish t => Sys2Proof.Machine.execObjectMoveFinish t s
  | .hbmReadReturn granule r => Sys2Proof.Machine.execHbmReadReturn granule r s
  | .rowRemapDone n k => Sys2Proof.Machine.execRowRemapDone n k s
  | .wcbWriteAccept n => Sys2Proof.Machine.execWcbWriteAccept n s
  | .wcbAgeExpiry n granule => Sys2Proof.Machine.execWcbAgeExpiry n granule s
  | .mergeReadReturn n granule => Sys2Proof.Machine.execMergeReadReturn n granule s
  | .stackTempHigh n => Sys2Proof.Machine.execStackTempHigh n s
  | .stackTempNormal n => Sys2Proof.Machine.execStackTempNormal n s
  | .testAccessRequest n => Sys2Proof.Machine.execTestAccessRequest n s
  | .walkReadReturn k => Sys2Proof.Machine.execWalkReadReturn k s
  | .faultRead p acc => Sys2Proof.Machine.execFaultRead p acc s
  | .faultRetry p id => Sys2Proof.Machine.execFaultRetry p id s
  | .faultAbort p id => Sys2Proof.Machine.execFaultAbort p id s
  | .xlatIndexPublish p v => Sys2Proof.Machine.execXlatIndexPublish p v s
  | .xlatInvalRange p gen irq => Sys2Proof.Machine.execXlatInvalRange p gen irq s
  | .xlatInvalAll p gen irq => Sys2Proof.Machine.execXlatInvalAll p gen irq s
  | .xlatInvalDone p => Sys2Proof.Machine.execXlatInvalDone p s
  | .rdShared a x lost => Sys2Proof.Machine.execRdShared a x s lost
  | .rdOwn a x lost => Sys2Proof.Machine.execRdOwn a x s lost
  | .upgrade a x lost => Sys2Proof.Machine.execUpgrade a x s lost
  | .wbDirty a x data => Sys2Proof.Machine.execWbDirty a x data s
  | .rdCur a x lost => Sys2Proof.Machine.execRdCur a x s lost
  | .wrLine a x data lost => Sys2Proof.Machine.execWrLine a x data s lost
  | .wrPart a x mask data lost => Sys2Proof.Machine.execWrPart a x mask data s lost
  | .atomic a x op lost => Sys2Proof.Machine.execAtomic a x op s lost
  | .snoopAck a x data => Sys2Proof.Machine.execSnoopAck a x data s
  | .snoopAbsent a x => Sys2Proof.Machine.execSnoopAbsent a x s
  | .grantHoldExpiry x => Sys2Proof.Machine.execGrantHoldExpiry x s
  | .flipToSharedDone page => Sys2Proof.Machine.execFlipToSharedDone page s
  | .flipToDeviceDone page => Sys2Proof.Machine.execFlipToDeviceDone page s
  | .windowEnable base => Sys2Proof.Machine.execWindowEnable base s
  | .windowDisable => Sys2Proof.Machine.execWindowDisable s
  | .windowMove base => Sys2Proof.Machine.execWindowMove base s
  | .windowActionDone => Sys2Proof.Machine.execWindowActionDone s
  | .biasFlipPage page => Sys2Proof.Machine.execBiasFlipPage page s
  | .biasReadPage page => Sys2Proof.Machine.execBiasReadPage page s
  | .biasFlipAll => Sys2Proof.Machine.execBiasFlipAll s
  | .snoopTimeout a x => Sys2Proof.Machine.execSnoopTimeout a x s
  | .declareAgentDead a => Sys2Proof.Machine.execDeclareAgentDead a s
  | .deadAgentScanDone => Sys2Proof.Machine.execDeadAgentScanDone s
  | .fabRetrain high => Sys2Proof.Machine.execFabRetrain high s
  | .fabHostReset => Sys2Proof.Machine.execFabHostReset s
  | .fabLinkLoss => Sys2Proof.Machine.execFabLinkLoss s
  | .fabResetScanDone => Sys2Proof.Machine.execFabResetScanDone s
  | .fabLinkReturn => Sys2Proof.Machine.execFabLinkReturn s
  | .boardReadReturn granule data poisoned word => Sys2Proof.Machine.execBoardReadReturn granule data poisoned s word
  | .boardWriteAck => Sys2Proof.Machine.execBoardWriteAck s
  | .gatherReq qp msg marked => Sys2Proof.Machine.execGatherReq qp msg s marked
  | .gatherReply qp msg marked => Sys2Proof.Machine.execGatherReply qp msg s marked
  | .addReq qp msg marked => Sys2Proof.Machine.execAddReq qp msg s marked
  | .addAccept qp msg marked => Sys2Proof.Machine.execAddAccept qp msg s marked
  | .push qp msg marked => Sys2Proof.Machine.execPush qp msg s marked
  | .pushAccept qp msg marked => Sys2Proof.Machine.execPushAccept qp msg s marked
  | .roceAckReceive qp psn => Sys2Proof.Machine.execRoceAckReceive qp psn s
  | .roceNakReceive qp psn => Sys2Proof.Machine.execRoceNakReceive qp psn s
  | .roceCnpReceive qp => Sys2Proof.Machine.execRoceCnpReceive qp s
  | .rdmaWriteReceive qp key off data marked => Sys2Proof.Machine.execRdmaWriteReceive qp key off data s marked
  | .ackTimeout qp => Sys2Proof.Machine.execAckTimeout qp s
  | .cnpRateRecovery qp => Sys2Proof.Machine.execCnpRateRecovery qp s
  | .qpEnable qp => Sys2Proof.Machine.execQpEnable qp s
  | .qpReset qp => Sys2Proof.Machine.execQpReset qp s
  | .nvmeConnect slot => Sys2Proof.Machine.execNvmeConnect slot s
  | .nvmeDisconnect slot => Sys2Proof.Machine.execNvmeDisconnect slot s
  | .nvmeResponse slot key status lbaLog2 nsBytes => Sys2Proof.Machine.execNvmeResponse slot key status lbaLog2 nsBytes s
  | .nvmeKeepAlive slot => Sys2Proof.Machine.execNvmeKeepAlive slot s
  | .nvmeTimeout slot key => Sys2Proof.Machine.execNvmeTimeout slot key s
  | .portDown e => Sys2Proof.Machine.execPortDown e s
  | .fecWindow e codewords => Sys2Proof.Machine.execFecWindow e codewords s
  | .portLinkUp e => Sys2Proof.Machine.execPortLinkUp e s
  | .portBypass e => Sys2Proof.Machine.execPortBypass e s
  | .portReturn e => Sys2Proof.Machine.execPortReturn e s
  | .portDrainDone e => Sys2Proof.Machine.execPortDrainDone e s
  | .macsecKeyExhausted e => Sys2Proof.Machine.execMacsecKeyExhausted e s
  | .sakImport => Sys2Proof.Machine.execSakImport s
  | .provisionTransportKey => Sys2Proof.Machine.execProvisionTransportKey s
  | .generateBoardKey => Sys2Proof.Machine.execGenerateBoardKey s
  | .powerOnReset => Sys2Proof.Machine.execPowerOnReset s
  | .engineReset => Sys2Proof.Machine.execEngineReset s
  | .engineStart recover sfdpDensity failedTest => Sys2Proof.Machine.execEngineStart recover sfdpDensity failedTest s
  | .imageCheckDone => Sys2Proof.Machine.execImageCheckDone s
  | .startReady failedSlices failedLanes failedTraining failedTest hardRepaired => Sys2Proof.Machine.execStartReady failedSlices failedLanes failedTraining failedTest hardRepaired s
  | .configLock => Sys2Proof.Machine.execConfigLock s
  | .nvmRead addr => Sys2Proof.Machine.execNvmRead addr s
  | .nvmProgram addr => Sys2Proof.Machine.execNvmProgram addr s
  | .nvmErase addr => Sys2Proof.Machine.execNvmErase addr s
  | .nvmActionDone flashError => Sys2Proof.Machine.execNvmActionDone flashError s
  | .nvmBufWrite v => Sys2Proof.Machine.execNvmBufWrite v s
  | .zeroise => Sys2Proof.Machine.execZeroise s
  | .zeroisePin => Sys2Proof.Machine.execZeroisePin s
  | .pufEnrol => Sys2Proof.Machine.execPufEnrol s
  | .entropyHealthFail => Sys2Proof.Machine.execEntropyHealthFail s
  | .restHoldExpiry u => Sys2Proof.Machine.execRestHoldExpiry u s
  | .dormantHoldExpiry => Sys2Proof.Machine.execDormantHoldExpiry s
  | .overwinterHoldExpiry => Sys2Proof.Machine.execOverwinterHoldExpiry s
  | .sleepEntryStepDone => Sys2Proof.Machine.execSleepEntryStepDone s
  | .wakeTrigger c => Sys2Proof.Machine.execWakeTrigger c s
  | .fabWakeReq => Sys2Proof.Machine.execFabWakeReq s
  | .wakeDone => Sys2Proof.Machine.execWakeDone s
  | .ppmGrantChange v => Sys2Proof.Machine.execPpmGrantChange v s
  | .powerWindow energyNj => Sys2Proof.Machine.execPowerWindow energyNj s
  | .fifoErrorWindow c => Sys2Proof.Machine.execFifoErrorWindow c s
  | .eventRead fifo acc => Sys2Proof.Machine.execEventRead fifo acc s
  | .injectArm cls p kind => Sys2Proof.Machine.execInjectArm cls p kind s
  | .winnowSelfTest => Sys2Proof.Machine.execWinnowSelfTest s
  | .winnowSelfTestDone failedBlock => Sys2Proof.Machine.execWinnowSelfTestDone failedBlock s
  | .laneReturn n l => Sys2Proof.Machine.execLaneReturn n l s
  | .laneOffline n l => Sys2Proof.Machine.execLaneOffline n l s
  | .laneSelfTest n l => Sys2Proof.Machine.execLaneSelfTest n l s
  | .laneDrainDone n l => Sys2Proof.Machine.execLaneDrainDone n l s
  | .laneSelfTestDone n l failedBlock => Sys2Proof.Machine.execLaneSelfTestDone n l failedBlock s
  | .sliceTakeOut n => Sys2Proof.Machine.execSliceTakeOut n s
  | .sliceReturn n => Sys2Proof.Machine.execSliceReturn n s
  | .sliceDrainDone n => Sys2Proof.Machine.execSliceDrainDone n s
  | .sliceReturnDone n passed => Sys2Proof.Machine.execSliceReturnDone n passed s
  | .sliceHeartbeat answered => Sys2Proof.Machine.execSliceHeartbeat answered s
  | .wcbWriteBackDone n granule eccError => Sys2Proof.Machine.execWcbWriteBackDone n granule s eccError
  | .waitMarkReadReturn t => Sys2Proof.Machine.execWaitMarkReadReturn t s
  | .malformedRegisterRead off w => Sys2Proof.Machine.execMalformedRegisterRead off w s
  | .restWakeDone u => Sys2Proof.Machine.execRestWakeDone u s
  | .fabLinkUpChange up => Sys2Proof.Machine.execFabLinkUpChange up s
  | .securityActionDone flashError => Sys2Proof.Machine.execSecurityActionDone flashError s
  | .powerLoss => Sys2Proof.Machine.execPowerLoss s
  | .invalidRequestPacket qp => Sys2Proof.Machine.execInvalidRequestPacket qp s
  | .malformedMessage qp msg marked => Sys2Proof.Machine.execMalformedMessage qp msg s marked
  | .macsecFrameDrop e => Sys2Proof.Machine.execMacsecFrameDrop e s

end Sys2Proof.Machine
end

