-- ==== Sys2Proof/Safety.lean ====
section
/-! DEFINITION. What counts as a safe run, and the words that the statements use of a state: when the block answers its
aperture at once, and what every command ends in. -/
namespace Sys2Proof

/-- The step goes on. -/
def goesOn (s : Machine.State) : Prop := ∃ t, Machine.step s = .next t

/-- Memory is in canonical form. -/
def memOk (s : Machine.State) : Prop := Machine.Memory.wf s.mem

namespace Machine

/-- The block answers accesses at once (R353, R372, R418): je_rst_n is high, the start has reached READY, the engine neither sleeps nor
is about to, and no request to enable a partition waits for its initialisation. -/
abbrev State.serving (s : State) : Prop :=
  s.boot.running = true ∧ s.ready = true ∧ s.asleep = false ∧ s.power.entry = 0 ∧ s.power.step < 4 ∧ s.enabling = false

/-- A request of agent a for window offset x is served at the home of its line at once (R294, R296, R308, R312): the link is up, the
window enabled and not moving, the slice in service, the agent not dead and, for a caching request, a caching agent, and nothing open or
waiting on the line. -/
abbrev State.homeFree (s : State) (a : Byte) (x : BitVec 36) (n : SliceId) (set : Nat) (caching : Bool) : Prop :=
  s.fld fJeFabStatus_STATE = 0 ∧ s.fld fJeWinCtl_ENABLED = 1 ∧ s.fab.winAction ≠ 3 ∧ s.homeOf (s.winLine x) = some (n, set) ∧
  s.sliceServes n none = true ∧ s.agentRefused a caching = false ∧ s.txnOn (s.winLine x) = none ∧
  ∀ q ∈ s.coreReqs, q.line ≠ s.winLine x

/-- The page of a window line has a bias (R295). -/
abbrev State.pageIs (s : State) (x : BitVec 36) (b : Bias) : Prop :=
  s.inWindow (s.lineAddr (s.winLine x)) = true ∧ s.biasOf (s.pageOf (s.lineAddr (s.winLine x))) = b

/-- What every command ends in (R42, R216): object records that are due are written, then each blocked WAIT whose source has reached
its TARGET completes. -/
def State.settle (s : State) : State := s.syncObjs.wake

/-- No record of a registered object is due (R216): the end of a command writes nothing to memory. -/
abbrev State.synced (s : State) : Prop := ∀ o ∈ s.objs, o.due = false

/-- The blocked WAITs have all seen the source they wait for short of their TARGET (R42). -/
def State.waitsBlocked (s : State) : Prop :=
  ∀ x ∈ s.trackers, x.op = 0x02 → x.phase = .running → ∀ v, s.waitValue x.cmd = some v → v < cW2 x.cmd

/-- A reference that names a register of the aperture. -/
abbrev RegRef.valid (x : RegRef) : Prop :=
  x.j < x.reg.row.count ∧ match x.reg.row.space with
    | .hub => x.i < x.reg.row.count ∧ x.j = 0
    | .slice => x.i < 8
    | .part => x.i < 16

/-- A ring's context is cached (R25): the ring is live, and of the 4,096 contexts of the cache fewer than 4,096 are others'. -/
abbrev State.ctxAt (s : State) (r : RingNo) (x : Ring) : Prop :=
  s.ring r = some x ∧ x.cached = true ∧ (s.ctxLru.filter fun y => decide (y ≠ r)).length < 4096

/-- A ring's context is the most recently used (R25). -/
def State.ctxUsed (s : State) (r : RingNo) : State := { s with ctxLru := r :: s.ctxLru.filter fun y => decide (y ≠ r) }

/-- The direct path of a partition. -/
def isDirect : Src → Bool
  | .direct _ => true
  | _ => false

/-- Registers whose write sets fields and does nothing else: no action field, no unit that follows the write, no directory. -/
def RegId.plain (r : RegId) : Bool :=
  !(decide (r ∈ ([.jpCtl, .jeWinnowCtl, .jpRingCmd, .jpXlatInval, .jpFaultReply, .jeQpCmd, .jeNvmeCmd, .jePortCtl, .jeSecCtl, .jsSliceCtl,
    .jpObjCtl, .jeWinCtl, .jeBiasCmd, .jeNvmCtl, .jsLaneCtl, .jeFabDead, .jeInject, .jeUnitTest, .jeCfgLock, .jpWaitLimit, .jeSieveCtl,
    .jsSrCtl, .jsClocheCtl, .jpIrqMask, .jpIrqMod, .jePhysMap, .jePopCtl, .jePwrArb, .jpXlatIndex, .jpDcmd, .jpDcmdStatus, .jeNvmBuf,
    .jeKeyImport, .jpXmark] : List RegId))) && !(isDir r)

/-- Registers through which a FIFO is read (R407). -/
def RegId.fifo (r : RegId) : Bool := decide (r ∈ ([.jpDcmdCpl, .jpFault, .jpEvent, .jeEvent] : List RegId))

/-- Registers that the always-on controller counts up by itself (R378, R379). -/
def RegId.timed (r : RegId) : Bool := decide (r = .jePwrResid) || decide (r = .jeEnergy)

/-- The value of an access as it stands on the bus. -/
def busValue (acc : RegAcc) (v : W64) : Nat := if acc = .full then v.toNat else v.toNat % 2 ^ 32

/-- A write's effect on the fields of its register (R7, R9, R356). -/
def State.stored (s : State) (x : RegRef) (acc : RegAcc) (v : W64) : State :=
  s.storeFields (x.addr + accOff acc) x acc (accPos acc v) (busValue acc v)

/-- A whole write's effect on the fields of a register. -/
abbrev State.put (s : State) (r : RegId) (i : Nat) (v : W64) : State := s.stored ⟨r, i, 0⟩ .full v

/-- What a write that asks a register which is not busy for an action leaves (R414): the effect t of the action, or, where the rule
refuses it, what was tried with the register's fields but RESULT as before. -/
def State.orRefused (s : State) (r : RegId) (i : Nat) (v : W64) (t : State) : State :=
  if (s.tried ⟨r, i, 0⟩ .full v).actRefused ⟨r, i, 0⟩ then (s.tried ⟨r, i, 0⟩ .full v).unstore s ⟨r, i, 0⟩ else t

/-- A read's effect on the RC fields of the half it reads (R9, R406). -/
def State.cleared (s : State) (x : RegRef) (acc : RegAcc) : State :=
  let m := codeMask (x.reg.fieldsAt x.i) .rc &&& accMask acc
  if m = 0 then s
  else s.setReg x.reg ((s.reg x.reg x.i x.j &&& ~~~m) ||| (x.reg.resetVal x.i &&& m)) x.i x.j

end Machine
end Sys2Proof
end

