-- ==== Sys2Proof/Certificates/Slice0/Obligations.lean ====
section
/-! DEFINITION. The statements about this block. They say of each command what it does where its own effect happens, as an equation
for the next state (every field that an equation does not name is unchanged), and state the rules of the spec over all states.
`settle` is what every command ends in (R42, R216). -/

open Sys2Proof Sys2Proof.Machine

/-- A well-formed write of a register that has no action, directory or FIFO behind it sets the fields of exactly the register at its offset.
A directory register, JP_TABLE_DIR among them, is written only while its partition is DISABLED: a write to it at any other time has no
effect but event 0x03, "register write refused" (R34). A well-formed read of a register that is no FIFO and that the always-on controller
does not count up answers the register's value and puts the RC fields of the half it reads back to their reset values. A malformed access
changes nothing, reads zero and raises event 0x01. -/
def Obligations.RegisterAccesses : Prop :=
  (∀ (s : State) (x : RegRef) (acc : RegAcc) (v : W64), s.serving → x.valid → s.sliceGone x = false → x.reg.plain = true →
    exec (.registerWrite (BitVec.ofNat 26 (x.addr + accOff acc)) (accWidth acc) v) s = .next (s.stored x acc v).settle) ∧
  (∀ (s : State) (p : Part) (r : RegId) (acc : RegAcc) (v : W64), s.serving → isDir r = true →
    exec (.registerWrite (BitVec.ofNat 26 (r.addr p + accOff acc)) (accWidth acc) v) s =
      .next (if s.partDisabled p then s.stored ⟨r, p, 0⟩ acc v else s.eventE 0x03 (r.addr p + accOff acc) (busValue acc v)).settle) ∧
  (∀ (s : State) (x : RegRef) (acc : RegAcc), s.serving → x.valid → s.sliceGone x = false → x.reg.fifo = false → x.reg.timed = false →
    exec (.registerReadClear (BitVec.ofNat 26 x.addr) acc) s =
      .next ((s.cleared x acc).emit (.readData (viewOf acc (s.viewReg x)) false)).settle) ∧
  (∀ (s : State) (off : BitVec 26) (w : AccW), s.serving → off.toNat < 0x2000000 → accOf off.toNat w = none →
    exec (.malformedRegisterRead off w) s = .next ((s.eventE 0x01 off.toNat (16 * accBytes w)).emit (.readData 0 false)).settle) ∧
  (∀ (s : State) (off : BitVec 26) (w : AccW) (v : W64), s.serving → off.toNat < 0x2000000 → accOf off.toNat w = none →
    exec (.registerWrite off w v) s = .next (s.eventE 0x01 off.toNat (1 + 16 * accBytes w)).settle)

/-- R7, R9, R356, R414: bit b of a register after a write of its fields. An RW field takes the written bits of the half written; an RWL
field does so until configuration lock; a W1C bit written 1 is cleared; every other bit stays, and so does every other register and all
of memory; before configuration lock the write changes nothing but the register file. A write that asks for an action while BUSY is set
is refused, and so is one whose action its rule ends at once with a RESULT that says why: the register keeps its fields but for RESULT, and nothing else
that belongs to the register happens. Any other action is taken on the fields as they are written. -/
def Obligations.FieldsStored : Prop :=
  (∀ (s : State) (x : RegRef) (acc : RegAcc) (v : W64), s.serving → x.valid → s.sliceGone x = false → (wholeOnly x.reg = false ∨ acc = .full) →
    isDir x.reg = false → x.reg ≠ .jpXmark → x.reg ≠ .jpXlatIndex → (needsLock x.reg = true → s.locked = true) →
    actionOf x.reg (accPos acc v) ≠ 0 →
    let y := s.tried x acc v
    let go (t : State) : Prop := exec (.registerWrite (BitVec.ofNat 26 (x.addr + accOff acc)) (accWidth acc) v) s = .next t.settle
    (s.regBusy x = true → go (s.rejectBusy x)) ∧
    (s.regBusy x = false → y.actRefused x = true → go (y.unstore s x)) ∧
    (s.regBusy x = false → y.actRefused x = false →
      go (((s.stored x acc v).wrote s x (accPos acc v)).act x (actionOf x.reg (accPos acc v)) (accPos acc v)))) ∧
  (∀ (s : State) (x : RegRef) (b f : Fld) (k : Nat), busyOf x.reg = some (b, some (f, k)) → x.j = 0 →
    s.rejectBusy x = s.setFld f k x.i ∧
    ∀ y : State, (y.unstore s x).fld f x.i = y.fld f x.i ∧
      ∀ g : Fld, g.reg = x.reg → (g.lo + g.len ≤ f.lo ∨ f.lo + f.len ≤ g.lo) → (y.unstore s x).fld g x.i = s.fld g x.i) ∧
  ∀ (s : State) (x : RegRef) (acc : RegAcc) (v : W64),
    (∀ b, b < 64 → ((s.stored x acc v).reg x.reg x.i x.j).getLsbD b =
      (let fs := x.reg.fieldsAt x.i
       if (codeMask fs .w1c).getLsbD b && (accPos acc v).getLsbD b then false
       else if (accMask acc).getLsbD b && ((codeMask fs .rw).getLsbD b || (!s.locked && (codeMask fs .rwl).getLsbD b)) then
         (accPos acc v).getLsbD b
       else (s.reg x.reg x.i x.j).getLsbD b)) ∧
    (∀ y : RegRef, y ≠ x → (s.stored x acc v).reg y.reg y.i y.j = s.reg y.reg y.i y.j) ∧
    (∀ a, (s.stored x acc v).rdByte a = s.rdByte a) ∧
    (s.locked = false → s.stored x acc v = { s with regs := (s.stored x acc v).regs })

/-- R26, R28, R29: what a write to a ring's doorbell does in every case. A ring in no partition's range takes none. For a partition that
is not ENABLED, or a ring that is not, the doorbell is discarded: DISABLED counts and event 0x04 is raised. While the ring's context is not
cached the doorbell waits for its read. Otherwise it enters the doorbell buffer: where the ring has no entry there it takes one of
the 8,192, or waits for space; an entry is left alone by an equal value and by one that goes back (REGRESS, event 0x05) or past the ring's
size (OVERRUN, event 0x06), and any other replaces it. A write beside the doorbell's 8 bytes has no effect, and one of another
width or offset raises event 0x01. A doorbell that waits for space enters by the same rules. The oldest entry leaves the buffer: it becomes
the ring's PRODUCED count, or is left out or discarded by the same comparison with PRODUCED; it waits while the ring's context is not
cached. -/
def Obligations.Doorbells : Prop :=
  (∀ (s : State) (r : RingNo) (w : AccW) (v : W64), s.serving → (w = .w32 ∨ w = .w64) →
    let n : W32 := BitVec.ofNat 32 v.toNat
    let go (t : State) : Prop := exec (.doorbellWrite (BitVec.ofNat 25 (r.toNat * 128)) w v) s = .next t.settle
    (s.ringOwner r.toNat = none → go s) ∧
    (∀ p, s.ringOwner r.toNat = some p → (s.partEnabled p = false ∨ s.ring r = none) →
      go ((s.bump fJpDbStat_DISABLED p).eventP p 0x04 r.toNat n.toNat)) ∧
    (∀ p x, s.ringOwner r.toNat = some p → s.partEnabled p = true → s.ring r = some x → x.cached = false →
      go { s with
        ctxReads := if r ∈ s.ctxReads then s.ctxReads else s.ctxReads ++ [r]
        dbWait := s.dbWait ++ [(r, n)] }) ∧
    (∀ p x, s.ringOwner r.toNat = some p → s.partEnabled p = true → s.ctxAt r x → go ((s.ctxUsed r).dbEnter r n))) ∧
  (∀ (s : State) (r : RingNo) (n : W32) (x : Ring), s.ring r = some x →
    s.dbEnter r n =
      match s.dbBuf.find? (fun e => decide (e.1 = r)) with
      | none => if s.dbBuf.length < 8192 then { s with dbBuf := s.dbBuf ++ [(r, n)] } else { s with dbWait := s.dbWait ++ [(r, n)] }
      | some e =>
        if n = e.2 then s
        else if behind n e.2 then (s.bump fJpDbStat_REGRESS x.part).eventP x.part 0x05 r.toNat n.toNat
        else if x.ctx.size < (n - x.ctx.completed).toNat then (s.bump fJpDbStat_OVERRUN x.part).eventP x.part 0x06 r.toNat n.toNat
        else { s with dbBuf := s.dbBuf.map fun e => if e.1 = r then (r, n) else e }) ∧
  (∀ (s : State) (off : BitVec 25) (w : AccW) (v : W64), s.serving →
    (8 ≤ off.toNat % 128 → exec (.doorbellWrite off w v) s = .next s.settle) ∧
    (off.toNat % 128 < 8 → ¬(off.toNat % 128 = 0 ∧ (w = .w64 ∨ w = .w32)) →
      exec (.doorbellWrite off w v) s = .next (s.eventE 0x01 (0x2000000 + off.toNat) (1 + accBytes w * 16)).settle)) ∧
  (∀ (s : State) (r : RingNo) (n : W32), s.dbWait.find? (fun e => (s.ring e.1).any (·.cached)) = some (r, n) →
    (s.dbBuf.length < 8192 ∨ ∃ e ∈ s.dbBuf, e.1 = r) →
    exec .doorbellSpaceFreed s =
      .next (({ s with dbWait := eraseFirst (fun x => decide (x = (r, n))) s.dbWait } : State).dbEnter r n).settle) ∧
  (∀ (s : State) (r : RingNo) (n : W32) (rest : List (RingNo × W32)), s.dbBuf = (r, n) :: rest →
    let go (t : State) : Prop := exec .doorbellBufferTake s = .next t.settle
    let t : State := { s.ctxUsed r with dbBuf := rest }
    (∀ p, s.ringOwner r.toNat = some p → s.ring r = none →
      go ((({ s with dbBuf := rest } : State).bump fJpDbStat_DISABLED p).eventP p 0x04 r.toNat n.toNat)) ∧
    (∀ x, s.ring r = some x → x.cached = false → go { s with ctxReads := if r ∈ s.ctxReads then s.ctxReads else s.ctxReads ++ [r] }) ∧
    (∀ p x, s.ringOwner r.toNat = some p → s.ctxAt r x →
      go (if s.partEnabled p = false then (t.bump fJpDbStat_DISABLED p).eventP p 0x04 r.toNat n.toNat
        else if n = x.ctx.produced then t
        else if behind n x.ctx.produced then (t.bump fJpDbStat_REGRESS p).eventP p 0x05 r.toNat n.toNat
        else if x.ctx.size < (n - x.ctx.completed).toNat then (t.bump fJpDbStat_OVERRUN p).eventP p 0x06 r.toNat n.toNat
        else { t with
          rings := updFirst (fun y => decide (y.no = r)) (fun y => { y with ctx := { y.ctx with produced := n } }) s.rings
          out := s.out ++ [.dbAccepted r] })))

/-- R22, R25, R415: a ring context that returns is cached, and the doorbells that waited for it enter; a poisoned one halts its ring with
POISONED; where 4,096 other contexts are cached, the least recently used of them is written back and leaves the cache. A line of command
slots that returns is taken up to the end of its 256 B line, the accepted PRODUCED count and 16 held commands, and CONSUMED advances by as
many. -/
def Obligations.ContextAndCommandFetch : Prop :=
  (∀ (s : State) (r : RingNo) (x : Ring), r ∈ s.ctxReads → s.ring r = some x →
    let s1 : State := { s with ctxReads := s.ctxReads.filter fun q => decide (q ≠ r) }
    s1.jReadOk (.fetch r) (s1.ctxAddr r) = (s1, true) →
    (s1.rdPoison (s1.ctxAddr r) 64 = true → exec (.contextReadReturn r) s = .next (s1.haltRing r stPoisoned).settle) ∧
    (s1.rdPoison (s1.ctxAddr r) 64 = false → (s.ctxLru.filter fun y => decide (y ≠ r)).length < 4096 →
      exec (.contextReadReturn r) s =
        .next ((s.dbWait.filter fun e => decide (e.1 = r)).foldl (fun u e => u.dbEnter e.1 e.2)
          ({ s1.ctxUsed r with
            dbWait := s.dbWait.filter fun e => decide (e.1 ≠ r)
            jreads := s.jreads.filter fun y => decide (y.2 ≠ .fetch r)
            rings := updFirst (fun y => decide (y.no = r)) (fun y => { y with cached := true }) s.rings } : State)).settle)) ∧
  (∀ (s : State) (r v : RingNo) (l : List RingNo) (y : Ring), s.ctxLru.filter (fun y => decide (y ≠ r)) = l ++ [v] →
    l.length = 4095 →
    let s1 : State := { s with
      ctxLru := r :: l
      rings := updFirst (fun y => decide (y.no = r)) (fun y => { y with cached := true }) s.rings }
    s1.ring v = some y →
    s.cacheCtx r = (s1.writeCtx v y.ctx).modRing v fun y => { y with cached := false }) ∧
  (∀ (s t : State) (r : RingNo) (x : Ring) (ph : Nat) (h : W32), s.ctxAt r x → x.fetchCount ≠ 0 →
    x.ctx.halted = false → x.phase = .enabled → s.srcParked x.part (.ring r) = false →
    (s.ctxUsed r).look x.part (.fetch r) (x.ctx.cmdBase.toNat + x.nextFetch.toNat % x.ctx.size * 64) .read = (t, some (ph, h)) →
    (∀ i, i < x.fetchCount → t.granPoison (ph / 64 + i) = false) →
    exec (.commandFetchReturn r) s =
      .next ({ t with
        jreads := t.jreads.filter fun y => decide (y.2 ≠ .fetch r)
        rings := updFirst (fun y => decide (y.no = r)) (fun y => { y with
          fetched := y.fetched ++ (List.range x.fetchCount).map fun i => BitVec.ofNat 512 (t.rdNat (ph + 64 * i) 64)
          ctx := { y.ctx with consumed := y.ctx.consumed + BitVec.ofNat 32 x.fetchCount } }) t.rings } : State).settle)

/-- R60 to R62, R355, R417, R418: what a write of REQ does. Before configuration lock it has no effect but event 0x03. After lock, REQ = 01 starts
the initialisation of a DISABLED partition, leaves a request pending in a QUIESCING one and does nothing to an ENABLED one; REQ = 10 lets an
ENABLED partition drain to the accepted PRODUCED counts, and REQ = 11 stops it where it stands; both take back a pending request of a
QUIESCING partition, and REQ = 11 then stops it too; neither does anything to a DISABLED one. A partition that enters QUIESCING with nothing
parked closes its fault records, discards what its direct path holds (DISCARD says so) and its early work. Once nothing of the
partition is left to complete and its rings have drained, its rings close, a ring action in hand ends and the partition is DISABLED, or begins
its initialisation where a request is pending; before that it waits. At the end of its initialisation a partition is ENABLED, its queue
pairs are in ERROR, and the accesses that waited for the request to take effect are served; initialisation has put its marks and its
interrupt, doorbell, fault, event and direct-path status to zero, emptied its FIFOs and its direct path, unlocked its Cloche entries and
emptied its banks; rings, trackers and memory stay. -/
def Obligations.PartitionControl : Prop :=
  (∀ (s : State) (p : Part), s.serving → s.locked = false →
    let off (v : Nat) : State := s.eventE 0x03 (RegId.jpCtl.addr p) v
    exec (.partitionEnable p) s = .next (off 1).settle ∧ exec (.partitionDisableDrain p) s = .next (off 2).settle ∧
    exec (.partitionDisableStop p) s = .next (off 3).settle) ∧
  (∀ (s : State) (p : Part), s.serving → s.locked = true → s.partDisabled p = true →
    exec (.partitionEnable p) s =
      .next (if (s.part p).initing then s else s.modPart p fun ps => { ps with initing := true, initReq := true }).settle ∧
    exec (.partitionDisableDrain p) s = .next s.settle ∧ exec (.partitionDisableStop p) s = .next s.settle) ∧
  (∀ (s : State) (p : Part), s.serving → s.locked = true → s.partQuiescing p = true →
    exec (.partitionEnable p) s = .next (s.setFld fJpStatus_ENABLE_PENDING 1 p).settle ∧
    exec (.partitionDisableDrain p) s = .next (s.setFld fJpStatus_ENABLE_PENDING 0 p).settle ∧
    exec (.partitionDisableStop p) s = .next ((s.setFld fJpStatus_ENABLE_PENDING 0 p).stopRings p).settle) ∧
  (∀ (s : State) (p : Part), s.serving → s.locked = true → s.partEnabled p = true →
    exec (.partitionEnable p) s = .next s.settle ∧
    exec (.partitionDisableDrain p) s = .next (({ s with
      rings := s.rings.map fun x => if x.part = p then { x with drainTo := some x.ctx.produced } else x } : State).enterQuiesce p).settle ∧
    exec (.partitionDisableStop p) s = .next ((s.enterQuiesce p).stopRings p).settle) ∧
  (∀ (s : State) (p : Part), (s.part p).parked = [] →
    let held := decide ((s.part p).dcmd ≠ []) || decide ((s.part p).dcmdWords ≠ []) || decide ((s.part p).dcmdWait ≠ [])
    let s1 := s.setFld fJpStatus_STATE 2 p
    s.enterQuiesce p =
      (((if held then s1.setFld fJpDcmdStatus_DISCARD 1 p else s1).forgetHead p (.direct p)).dropEarlyOf fun c => decide (c.part = p)).modPart p
        fun ps => { ps with
          dcmd := [], dcmdWords := [], dcmdWait := [], parked := []
          faults := (ps.faults.map fun f => { f with isOpen := false }).filter fun f => f.isOpen || decide (f.wordsRead < 4) }) ∧
  (∀ (s : State) (p : Part), (∀ x ∈ s.trackers, x.part ≠ p) → (∀ a ∈ s.admReads, a.aborted = false) →
    s.stopRings p = ({ s with
      rings := s.rings.map fun x => if x.part = p then { x with drainTo := some x.admitAt } else x } : State).setFld fJpStatus_STOP_MODE 1 p) ∧
  (∀ (s : State) (p : Part), s.partQuiescing p = true →
    ((∀ x ∈ s.trackers, x.part ≠ p) ∧ (s.part p).dcmd = [] ∧ (∀ x ∈ s.rings, x.part = p → x.drained = true ∧ s.recordOut x.no = false) →
      let s1 := (s.closeRings p).modPart p fun ps => { ps with ringAct := none }
      let s2 := match (s.part p).ringAct with
        | none => s1
        | some (_, enable) => (s1.setFld fJpRingCmd_BUSY 0 p).setFld fJpRingCmd_RESULT (if enable then 4 else 0) p
      let s3 := (s2.setFld fJpStatus_STATE 0 p).setFld fJpStatus_STOP_MODE 0 p
      exec (.partitionQuiesceDone p) s =
        .next (if s3.fld fJpStatus_ENABLE_PENDING p = 1 then s3.modPart p fun ps => { ps with initing := true, initReq := false }
          else s3).settle) ∧
    ((∃ x ∈ s.trackers, x.part = p) ∨ (s.part p).dcmd ≠ [] ∨ (∃ x ∈ s.rings, x.part = p ∧ (x.drained = false ∨ s.recordOut x.no = true)) →
      exec (.partitionQuiesceDone p) s = .next s.settle)) ∧
  (∀ (s : State) (p : Part), (s.part p).initing = true →
    let s1 := (((s.initPart p).qpErrors p).setFld fJpStatus_STATE 1 p).setFld fJpStatus_ENABLE_PENDING 0 p
    exec (.partitionInitDone p) s = .next (if (s.part p).initReq ∧ !s1.asleep then s1.replayAll else s1).settle ∧
    s1.fld fJpStatus_STATE p = 1 ∧ s1.fld fJpStatus_ENABLE_PENDING p = 0) ∧
  (∀ (s : State) (p : Part), let t := s.initPart p
    (∀ i, t.reg .jpXmark p i = 0) ∧ t.reg .jpIrqPend p = 0 ∧ t.reg .jpDbStat p = 0 ∧ t.reg .jpFaultStatus p = 0 ∧
    t.reg .jpEventStatus p = 0 ∧ t.reg .jpDcmdStatus p = 0 ∧
    (t.part p).initing = false ∧ (t.part p).dcmd = [] ∧ (t.part p).dcmdWords = [] ∧ (t.part p).dcmdWait = [] ∧ (t.part p).dcpl = [] ∧
    (t.part p).faults = [] ∧ (t.part p).events = ⟨[], 0, 0, []⟩ ∧ (∀ e ∈ t.cloche, e.lock.all fun l => decide (l.1 ≠ p)) ∧
    (∀ b ∈ t.banks, b.part = p → b.state = .empty ∨ b = Bank.reset) ∧
    t.rings = s.rings ∧ t.trackers = s.trackers ∧ (∀ a, t.rdByte a = s.rdByte a))

/-- R57 to R59, R414: RING_ENABLE of a ring that is not enabled begins the read of its context, RING_DISABLE of an enabled one stops
its fetching; each sets BUSY. Asked of a partition that is not ENABLED the action answers RESULT 4, of a ring outside the range RESULT 1, and
while BUSY is set RESULT 2, and changes nothing else; where nothing is to be done it answers RESULT 0. The context of an enable that
returns opens the ring with HALTED cleared, its commands without a record to be fetched again and its old mark forgotten; poisoned or failing
the checks it answers RESULT 3; where the partition is ENABLED no more, RESULT 4. A disable ends once the ring's admitted commands
have completed and no record of it is on its way: the context is written back with CONSUMED equal to COMPLETED, the doorbells that still
wait are discarded, and the last mark stays held; before that it waits. -/
def Obligations.RingControl : Prop :=
  (∀ (s : State) (p : Part) (r : RingNo), s.serving →
    (s.fld fJpRingCmd_BUSY p = 1 → exec (.ringEnable p r) s = .next (s.setFld fJpRingCmd_RESULT 2 p).settle ∧
      exec (.ringDisable p r) s = .next (s.setFld fJpRingCmd_RESULT 2 p).settle) ∧
    (s.fld fJpRingCmd_BUSY p = 0 → s.partEnabled p = false → exec (.ringEnable p r) s = .next (s.setFld fJpRingCmd_RESULT 4 p).settle ∧
      exec (.ringDisable p r) s = .next (s.setFld fJpRingCmd_RESULT 4 p).settle) ∧
    (s.fld fJpRingCmd_BUSY p = 0 → s.partEnabled p = true → s.ringIn p r.toNat = false →
      exec (.ringEnable p r) s = .next (s.setFld fJpRingCmd_RESULT 1 p).settle ∧
      exec (.ringDisable p r) s = .next (s.setFld fJpRingCmd_RESULT 1 p).settle)) ∧
  (∀ (s : State) (p : Part) (r : RingNo), s.serving → s.fld fJpRingCmd_BUSY p = 0 → s.partEnabled p = true → s.ringIn p r.toNat = true →
    let s1 := s.put .jpRingCmd p (BitVec.ofNat 64 (1 * 2 ^ 62 + r.toNat))
    exec (.ringEnable p r) s = .next
      (if (s.ring r).isSome then s1.setFld fJpRingCmd_RESULT 0 p
       else (s1.modPart p fun ps => { ps with ringAct := some (r, true) }).setFld fJpRingCmd_BUSY 1 p).settle) ∧
  (∀ (s : State) (p : Part) (r : RingNo), s.serving → s.fld fJpRingCmd_BUSY p = 0 → s.partEnabled p = true → s.ringIn p r.toNat = true →
    let s1 := s.put .jpRingCmd p (BitVec.ofNat 64 (2 * 2 ^ 62 + r.toNat))
    exec (.ringDisable p r) s = .next
      (if s.ring r = none then s1.setFld fJpRingCmd_RESULT 0 p
       else ((((s1.modRing r fun x => { x with phase := .disabling, fetched := [] }).forgetHead p (.ring r)).dropEarly r).modPart p fun ps =>
         { ps with ringAct := some (r, false) }).setFld fJpRingCmd_BUSY 1 p).settle) ∧
  (∀ (s : State) (p : Part) (r : RingNo), (s.part p).ringAct = some (r, true) → s.partEnabled p = false →
    exec (.ringEnableDone p) s =
      .next (((s.modPart p fun ps => { ps with ringAct := none }).setFld fJpRingCmd_BUSY 0 p).setFld fJpRingCmd_RESULT 4 p).settle) ∧
  (∀ (s t : State) (p : Part) (r : RingNo), (s.part p).ringAct = some (r, true) → s.partEnabled p = true →
    s.jReadOk (.fetch r) (s.ctxAddr r) = (t, true) →
    let u : State := { t with jreads := t.jreads.filter fun y => decide (y.2 ≠ .fetch r) }
    (u.rdPoison (u.ctxAddr r) 64 = false → (u.readCtx r).valid = true →
      exec (.ringEnableDone p) s =
        .next ((((({ u with
          rings := u.rings ++ [Ring.ofCtx r p (u.readCtx r)]
          heldMarks := u.heldMarks.filter fun e => decide (e.1 ≠ r) } : State).cacheCtx r).modPart p fun ps => { ps with ringAct := none }).setFld
            fJpRingCmd_BUSY 0 p).setFld fJpRingCmd_RESULT 0 p).wake.settle) ∧
    (u.rdPoison (u.ctxAddr r) 64 = true ∨ (u.readCtx r).valid = false →
      exec (.ringEnableDone p) s =
        .next (((u.modPart p fun ps => { ps with ringAct := none }).setFld fJpRingCmd_BUSY 0 p).setFld fJpRingCmd_RESULT 3 p).settle)) ∧
  (∀ (r : RingNo) (p : Part) (c : RingCtx), let x := Ring.ofCtx r p c
    x.no = r ∧ x.part = p ∧ x.phase = .enabled ∧ x.ctx.halted = false ∧ x.admitAt = c.completed ∧ x.ctx.consumed = c.completed ∧
    x.ctx.produced = c.produced ∧ x.fetched = []) ∧
  (∀ (s : State) (p : Part) (r : RingNo), (s.part p).ringAct = some (r, false) →
    (s.srcBusy (.ring r) = true ∨ s.recordOut r = true → exec (.ringDisableDone p) s = .next s.settle) ∧
    (s.srcBusy (.ring r) = false → s.recordOut r = false → ∀ x, s.ring r = some x →
      let s1 := ((s.writeCtx r x.ctx.closed).dropDoorbells x.part r).forgetHead x.part (.ring r)
      exec (.ringDisableDone p) s =
        .next (((({ s1 with
          rings := s1.rings.filter fun y => decide (y.no ≠ r)
          ctxLru := s1.ctxLru.filter fun y => decide (y ≠ r)
          ctxReads := s1.ctxReads.filter fun y => decide (y ≠ r)
          heldMarks := (r, x.ctx.mark) :: s1.heldMarks.filter fun e => decide (e.1 ≠ r) } : State).modPart p fun ps =>
            { ps with ringAct := none }).setFld fJpRingCmd_BUSY 0 p).setFld fJpRingCmd_RESULT 0 p).settle))

/-- R63 to R65, R407, R416: eight words written to JP_DCMD make a command of the direct path; while 32 commands are held, or an earlier
word waits, a word waits for space; on a path that is closed (its partition not ENABLED, parked or halted) a word is discarded and DISCARD
set, and so is one that waited. A read of JP_DCMD_CPL answers the next half of the oldest record and removes the record with its second word;
the low half alone removes nothing; with no record it answers the last value again and sets UNDERRUN. RESYNC drops a partly written
command; RESUME ends a halt and drops the commands held, and does nothing to a path that is not halted. -/
def Obligations.DirectPath : Prop :=
  (∀ (s : State) (p : Part) (v : W64), s.serving → s.dcmdClosed p = false → (s.part p).dcmd.length < 32 → (s.part p).dcmdWait = [] →
    exec (.dcmdWordWrite p v) s =
      .next (s.modPart p fun ps =>
        if ps.dcmdWords.length = 7 then { ps with dcmdWords := [], dcmd := ps.dcmd ++ [cmdOfWords (ps.dcmdWords ++ [v])] }
        else { ps with dcmdWords := ps.dcmdWords ++ [v] }).settle) ∧
  (∀ (s : State) (p : Part) (v : W64), s.serving → s.dcmdClosed p = false → (32 ≤ (s.part p).dcmd.length ∨ (s.part p).dcmdWait ≠ []) →
    exec (.dcmdWordWrite p v) s = .next (s.modPart p fun ps => { ps with dcmdWait := ps.dcmdWait ++ [v] }).settle) ∧
  (∀ (s : State) (p : Part) (v : W64), s.serving → s.dcmdClosed p = true →
    exec (.dcmdWordWrite p v) s = .next (s.setFld fJpDcmdStatus_DISCARD 1 p).settle) ∧
  (∀ (s : State) (p : Part) (v : W64) (rest : List W64), (s.part p).dcmdWait = v :: rest →
    (s.dcmdClosed p = false → (s.part p).dcmd.length < 32 →
      exec (.dcmdSpaceFreed p) s =
        .next (s.modPart p fun ps =>
          if ps.dcmdWords.length = 7 then
            { ps with dcmdWait := rest, dcmdWords := [], dcmd := ps.dcmd ++ [cmdOfWords (ps.dcmdWords ++ [v])] }
          else { ps with dcmdWait := rest, dcmdWords := ps.dcmdWords ++ [v] }).settle) ∧
    (s.dcmdClosed p = true →
      exec (.dcmdSpaceFreed p) s =
        .next ((s.modPart p fun ps => { ps with dcmdWait := rest }).setFld fJpDcmdStatus_DISCARD 1 p).settle)) ∧
  (∀ (s : State) (p : Part) (acc : RegAcc) (r : BitVec 128) (rest : List (BitVec 128)), s.serving → (s.part p).dcpl = r :: rest →
    let v : W64 := BitVec.ofNat 64 (r.toNat >>> (64 * (s.part p).dcplPos))
    exec (.dcmdCplRead p acc) s =
      .next ((s.modPart p fun ps =>
        if acc = .lo then { ps with dcplLast := v }
        else if ps.dcplPos = 0 then { ps with dcplLast := v, dcplPos := 1 }
        else { ps with dcplLast := v, dcpl := rest, dcplPos := 0 }).emit (.readData (viewOf acc v) false)).settle) ∧
  (∀ (s : State) (p : Part) (acc : RegAcc), s.serving → (s.part p).dcpl = [] →
    exec (.dcmdCplRead p acc) s =
      .next ((s.setFld fJpDcmdStatus_UNDERRUN 1 p).emit (.readData (viewOf acc (s.part p).dcplLast) false)).settle) ∧
  (∀ (s : State) (p : Part), s.serving →
    exec (.dcmdResync p) s = .next (s.modPart p fun ps => { ps with dcmdWords := [] }).settle) ∧
  (∀ (s : State) (p : Part), s.serving →
    exec (.dcmdResume p) s = .next (if s.fld fJpDcmdStatus_HALTED p = 1 then
      (((s.modPart p fun ps => { ps with dcmd := [], dcmdWords := [] }).forgetHead p (.direct p)).setFld fJpDcmdStatus_HALTED 0 p).setFld
        fJpDcmdStatus_HALT_STATUS 0 p
      else s).settle)

/-- R30 to R33, R40, R42: the first source in the order of R31 that can go ahead has its command taken. A command that passes its checks, in
a partition with fewer than 8,192 admitted, is admitted; one that fails a check completes with that status and no other effect; both take
the head of the source, forget what was read for it and pass the turn. For NOP, MARK and WAIT, which name no table, admission is a tracker in
phase handed; an opcode that R35 does not define fails with BAD_OPCODE. A read that a command waits for before its own checks is kept for
them; a check that then fails ends the command there; while the read cannot go on, the command waits. -/
def Obligations.Admission : Prop :=
  (∀ (s s1 : State) (y : Cand) (rest : List Cand) (c : Cmd) (r : AdmRes), s.ready = true → s.fld fJePwrStatus_STATE < 2 →
    s.cands = y :: rest → (∀ q, y.src ≠ .remote q) → s.offers y.part y.src = true → s.headCmd y.src = some c →
    s.trackers.length < 16384 → s.admCheck y.part y.src c = (s1, r) →
    (∀ st, r = .fail st → exec .admitCommand s = .next ((s1.admFail y.part y.src c st).turnTaken y).settle) ∧
    (r ≠ .wait → (∀ st, r ≠ .fail st) → s1.inFlight y.part < 8192 →
      exec .admitCommand s = .next ((s1.admitNow y.part y.src c r).turnTaken y).settle)) ∧
  (∀ (s : State) (y : Cand) (rest : List Cand) (c : Cmd), s.ready = true → s.fld fJePwrStatus_STATE < 2 → s.cands = y :: rest →
    (∀ q, y.src ≠ .remote q) → s.offers y.part y.src = true → s.headCmd y.src = some c → cOp c ≤ 2 →
    cmdFieldsOk c (isDirect y.src) = true →
    s.trackers.length < 16384 → (∀ a ∈ s.admReads, a.src ≠ y.src) → s.inFlight y.part < 8192 →
    exec .admitCommand s =
      .next (((({ s with
        trackers := s.trackers ++ [{ newTracker s.freeTracker y.part y.src (s.nextCount y.src) c s.admitted with
          background := s.srcBackground y.src }]
        admitted := s.admitted + 1 } : State).takeHead y.src).forgetHead y.part y.src).turnTaken y).settle) ∧
  (∀ (s : State) (y : Cand) (rest : List Cand) (c : Cmd), s.ready = true → s.fld fJePwrStatus_STATE < 2 → s.cands = y :: rest →
    (∀ q, y.src ≠ .remote q) → s.offers y.part y.src = true → s.headCmd y.src = some c → cOp c ∉ opcodes →
    s.trackers.length < 16384 →
    exec .admitCommand s = .next ((s.admFail y.part y.src c stBadOpcode).turnTaken y).settle) ∧
  (∀ (s : State) (p : Part) (r : RingNo) (c : Cmd) (st : Byte),
    s.admFail p (.ring r) c st =
      ((({ s with
        trackers := s.trackers ++ [{ newTracker s.freeTracker p (.ring r) (s.nextCount (.ring r)) c s.admitted with
          admitted := false, phase := .done, marks := { Marks.none with only := some st } }] } : State).dropEarlyOf
        fun e => decide (e.ring = some (r, s.nextCount (.ring r)))).modRing r fun x => { x with
          fetched := x.fetched.drop 1, admitAt := x.admitAt + 1, noEarly := x.noEarly.filter fun k => decide (k ≠ x.admitAt) }).forgetHead p
        (.ring r)) ∧
  (∀ (s s1 : State) (src : Src) (p : Part) (c : Cmd) (a : AdmRead) (got : Option (List Byte × Bool)),
    s.admReads.find? (fun a => decide (a.src = src) && !a.ready) = some a → s.srcPart src = some p → s.headCmd src = some c →
    (match admReadOf c with
      | some n => s.readPart p (.admission src) n.1 n.2
      | none => s.readPart p (.admission src) (s.fld fJpShardDir_BASE p * 4096 + 8 * cTable c) 8) = (s1, got) →
    (got = none → exec (.admissionReadReturn src) s = .next s1.settle) ∧
    (∀ bs poison, got = some (bs, poison) →
      let t : State := { s1 with admReads := s1.admReads.map fun a => if a.src = src then { a with ready := true, poisoned := poison } else a }
      ((t.offers p src = false ∨ ∀ st, (t.admCheck p src c).2 ≠ .fail st) → exec (.admissionReadReturn src) s = .next t.settle) ∧
      (∀ u st, t.offers p src = true → t.trackers.length < 16384 → t.admCheck p src c = (u, .fail st) →
        exec (.admissionReadReturn src) s = .next (u.admFail p src c st).settle)))

/-- R35, R40 to R44, R61: what NOP, MARK and WAIT do once handed to their unit. NOP is done at once; MARK waits for its publication; a WAIT
that may not name its source ends with WAIT_DENIED, one on a ring that is not enabled first reads the ring's mark, any other runs, and is
done as soon as its source reaches TARGET; one still blocked in a partition that is stopping is aborted. A mark read leaves the held value
of its ring; a poisoned one leaves it alone and marks the WAIT poisoned; a ring enabled meanwhile needs no read. -/
def Obligations.ControlCommands : Prop :=
  (∀ (s : State) (t : TrackerId) (x : Tracker), s.startable t 0x00 = some x →
    exec (.nop t) s = .next (s.modTrk t fun y => { y with phase := .done }).settle) ∧
  (∀ (s : State) (t : TrackerId) (x : Tracker), s.startable t 0x01 = some x →
    exec (.mark t) s = .next (s.modTrk t fun y => { y with phase := .running }).settle) ∧
  (∀ (s : State) (t : TrackerId) (x : Tracker), s.startable t 0x02 = some x → s.waitAllowed x.part x.cmd = false →
    exec (.wait t) s =
      .next (s.modTrk t fun y => { y with marks := { y.marks with only := some stWaitDenied }, phase := .done }).settle) ∧
  (∀ (s : State) (p : Part) (c : Cmd), s.waitAllowed p c = true ↔
    (cSrcPart c = p.val ∨ natBits (s.fld fJpWaitSrc_ALLOW p) (cSrcPart c) 1 = 1) ∧
      (cSource c = 1 ∨ s.ringIn (cSrcPart c) (cSrcIndex c) = true)) ∧
  (∀ (s : State) (t : TrackerId) (x : Tracker), s.startable t 0x02 = some x → s.waitAllowed x.part x.cmd = true →
    let u := if cSource x.cmd = 0 ∧ s.ring (BitVec.ofNat 18 (cSrcIndex x.cmd)) = none then s.modTrk t fun y => { y with phase := .reading }
      else (s.modTrk t fun y => { y with phase := .running }).wake
    exec (.wait t) s =
      .next (if s.partQuiescing x.part = true ∧ s.fld fJpStatus_STOP_MODE x.part = 1 ∧ (u.trk t).any (fun y => decide (y.phase ≠ .done)) = true
        then u.abortCmd t else u).settle) ∧
  (∀ (s : State) (t : TrackerId) (x : Tracker), s.trk t = some x → x.op = 0x02 → x.phase = .reading →
    let r : RingNo := BitVec.ofNat 18 (cSrcIndex x.cmd)
    (s.ring r ≠ none → exec (.waitMarkReadReturn t) s = .next (s.modTrk t fun y => { y with phase := .running }).wake.settle) ∧
    (s.ring r = none → ∀ u, s.jReadOk (.cmd t) (s.ctxAddr r) = (u, false) → exec (.waitMarkReadReturn t) s = .next u.settle) ∧
    (s.ring r = none → ∀ u, s.jReadOk (.cmd t) (s.ctxAddr r) = (u, true) →
      exec (.waitMarkReadReturn t) s =
        .next (((if u.rdPoison (s.ctxAddr r) 64 then u.poisonCmd t
          else { u with heldMarks := (r, (u.readCtx r).mark) :: u.heldMarks.filter fun e => decide (e.1 ≠ r) }).modTrk t fun y =>
            { y with phase := .running }).wake).settle))

/-- R41, R43: a write of LIMIT stores it and compares it at once with every WAIT of the partition, its source looked at first; at a tick the
count of a WAIT that is not done advances, its source is looked at, and then its limit; a WAIT still blocked whose count has reached a LIMIT
other than zero ends with WAIT_TIMEOUT; nothing counts while the hub sleeps. A write of an external mark, by software or, for an
ENABLED partition, by the matrix array, takes effect only where it advances the mark; one that does not raises event 0x08. -/
def Obligations.WaitsAndExternalMarks : Prop :=
  (∀ (s : State) (p : Part) (acc : RegAcc) (v : W64), s.serving →
    let s1 := (s.stored ⟨.jpWaitLimit, p, 0⟩ acc v).wake
    exec (.waitLimitWrite p acc v) s =
      .next ((s1.trackers.filter fun x => decide (x.part = p) && decide (x.op = 0x02)).foldl (fun u x => u.waitLimit x.id) s1).settle) ∧
  (∀ (s : State) (t : TrackerId) (x : Tracker), s.trk t = some x →
    let lim := s.fld fJpWaitLimit_LIMIT x.part
    s.waitLimit t =
      if x.op = 0x02 ∧ (x.phase = .running ∨ x.phase = .reading) ∧ lim ≠ 0 ∧ lim ≤ x.waitCount then
        s.modTrk t fun y => { y with marks := { y.marks with only := some stWaitTimeout }, phase := .done }
      else s) ∧
  (∀ (s : State) (t : TrackerId) (x : Tracker), s.trk t = some x → x.op = 0x02 → x.admitted = true → x.phase ≠ .done →
    exec (.waitLimitTick t) s =
      .next (if s.fld fJePwrStatus_STATE < 2 then ((s.modTrk t fun y => { y with waitCount := y.waitCount + 1 }).wake).waitLimit t
        else s).settle) ∧
  (∀ (s : State) (p : Part) (i : BitVec 8) (acc : RegAcc) (v : W64), s.serving →
    let new := (s.reg .jpXmark p i.toNat &&& ~~~(accMask acc)) ||| accPos acc v
    exec (.xmarkWrite p i acc v) s =
      .next (if s.reg .jpXmark p i.toNat < new then (s.setReg .jpXmark new p i.toNat).wake
        else s.eventP p 0x08 i.toNat new.toNat).settle) ∧
  (∀ (s : State) (p : Part) (i : BitVec 8) (v : W64),
    exec (.arrXmarkWr p i v) s =
      .next (if s.partEnabled p = false then s
        else if s.reg .jpXmark p i.toNat < v then (s.setReg .jpXmark v p i.toNat).wake
        else s.eventP p 0x08 i.toNat v.toNat).settle)

/-- R36 to R41, R45, R65: the oldest command of a source, done and with nothing outstanding, gives back what it holds and its record is
written: of the direct path into the completion FIFO, with group 0's interrupt where IRQ asks for it; of a ring to its slot of the
completion ring, where COMPLETED advances; a record joins the write of the record before it in its granule where that has not gone to
memory, and waits for it otherwise. A status other than OK of a WAIT, or of a command with HALT_ON_ERROR, halts its source. A MARK whose
earlier commands are complete sets its mark in the step that writes its record, or reports MARK_REGRESS where its value does not advance the
mark. HOLDOFF elapsing sends the message that a group whose bit is pending and not masked is owed. -/
def Obligations.CompletionRecords : Prop :=
  (∀ (s : State) (src : Src) (x y : Tracker), s.oldest src = some x →
    let u := ((s.drainAborted.settlePool x.id).settleScatter x.id).settleApply x.id
    u.trk x.id = some y → exec (.completionRecordWrite src) s = .next (u.completeNow y).1.settle) ∧
  (∀ (s : State) (x : Tracker), x.phase ≠ .done → s.completeNow x = (s, false)) ∧
  (∀ (s : State) (x : Tracker), x.phase = .done → s.trk x.id = some x → s.batch x.id = none → x.marks.status ≠ stFaultAborted →
    s.outstanding x.id = false →
    let y := { x with torn := x.torn || s.touchesTorn x }
    (∀ p, x.src = .direct p → s.completeNow x =
      (let t := (s.completed y).modPart p fun ps =>
        { ps with dcpl := ps.dcpl ++ [BitVec.ofNat 128 (recordNat y y.version 0)], dcmdDone := ps.dcmdDone + 1 }
      if cIrq x.cmd then t.irqRaise p 0 else t, true)) ∧
    (∀ r z t ph h, x.src = .ring r → s.ctxAt r z → z.mute = false →
      (s.ctxUsed r).look x.part (.record x.src) ((z.ctx.cplBase.toNat + x.count.toNat % z.ctx.size * 16) % 2 ^ 64) .write = (t, some (ph, h)) →
      let w : WrReq := ⟨ph, leBytes 16 (recordNat y y.version (z.ctx.phase x.count)), false, x.part, none, h, false, true, false,
        some (r, x.count), if cIrq x.cmd then [z.ctx.irqGroup] else [], false, false, false, false⟩
      let done (u : State) : State := (u.completed y).modRing r fun v => { v with ctx := { v.ctx with completed := v.ctx.completed + 1 } }
      (t.joinRecord w = none → t.recordOut r = false → s.completeNow x = ((done t).writeNow w, true)) ∧
      (t.joinRecord w = none → t.recordOut r = true → s.completeNow x = (t, false)) ∧
      (∀ u, t.joinRecord w = some u → s.completeNow x = (done u, true)))) ∧
  (∀ (s : State) (x : Tracker),
    s.completed x = (let t := (s.release x).countStatus x.part x.marks.status
      if x.marks.status ≠ stOk ∧ (x.op = 0x02 ∨ cHaltOnError x.cmd = true) then t.haltSrc x.src x.marks.status else t)) ∧
  (∀ (s t : State) (x y : Tracker), s.trk x.id = some x → x.op = 0x01 → x.phase = .running → s.oldest x.src = some x →
    (s.publish x).trk x.id = some y → (s.publish x).completeNow y = (t, true) →
    exec (.markPublish x.id) s = .next t.settle) ∧
  (∀ (s : State) (x : Tracker), cExternal x.cmd = true →
    s.publish x = if s.reg .jpXmark x.part (cXmark x.cmd) < cW2 x.cmd then
        ((s.modTrk x.id fun z => { z with phase := .done }).setReg .jpXmark (cW2 x.cmd) x.part (cXmark x.cmd)).wake
      else s.modTrk x.id fun z => { z with marks := { z.marks with only := some stMarkRegress }, phase := .done }) ∧
  (∀ (s : State) (x : Tracker) (r : RingNo) (z : Ring), cExternal x.cmd = false → x.src = .ring r → s.ring r = some z →
    s.publish x = if z.ctx.mark < cW2 x.cmd then
        ((s.modTrk x.id fun z => { z with phase := .done }).modRing r fun w => { w with ctx := { w.ctx with mark := cW2 x.cmd } }).wake
      else s.modTrk x.id fun z => { z with marks := { z.marks with only := some stMarkRegress }, phase := .done }) ∧
  (∀ (s : State) (p : Part) (g : Fin 64) (ig : IrqGroup), (s.part p).irq[g.val]? = some ig →
    (ig.count ≠ 0 → ig.elapsed = true → natBits (s.fld fJpIrqPend_PEND p) g 1 = 1 → natBits (s.fld fJpIrqMask_MASK p) g 1 = 0 →
      exec (.irqHoldoffExpiry p g) s =
        .next ((s.modPart p fun ps => { ps with irq := ps.irq.set g ⟨0, false, false⟩ }).emit (.irq (65 * p.val + g.val))).settle) ∧
    (ig.count = 0 → exec (.irqHoldoffExpiry p g) s =
      .next (s.modPart p fun ps => { ps with irq := ps.irq.set g { ig with elapsed := true } }).settle))

/-- R66, R68, R70 to R72, R74, R76, R77, R80, R85: a line of a stream joins its command's line buffer as it was read, and the bags
whose boundaries it settles are dealt. A pipeline takes the entry at its head where the entry can go on: it moves to the next entry, and a bag
whose last entry was taken leaves the pipeline. What an entry comes to: a poisoned word, the padding index and an index past the table are
dropped, in this order, each counted under its own reason, all but the padding also in DETAIL and in the partition's totals, a poisoned one
also poisoning its bag; an entry of modes 0 to 3 whose weight is not finite is dropped after that, and any other accepted. A remap read that
returns clean stands for its index in the window: an entry that waited for it is dropped as out of range where the remap entry names no slot,
and goes on to its slot otherwise; a poisoned one drops it as poisoned. Lowering HOLD_LANE releases the holds past it; writing
SIEVE_CTL does nothing else beside its fields. -/
def Obligations.SieveIntake : Prop :=
  (∀ (s s1 : State) (t : TrackerId) (k : IdxStream) (line : BitVec 32) (bt : Batch) (x : Tracker) (lo hi : Nat)
      (phs : List (Nat × W32)), s.batch t = some bt → s.trk t = some x → bt.given = false → x.marks.aborted = false →
    bt.lineSpan k line.toNat = (lo, hi) → lo < hi → (∀ l ∈ bt.lines, l.kind ≠ k ∨ l.line ≠ line.toNat) →
    s.lookAll x.part (.cmd t) .read (granAddrs lo (hi - lo)) = (s1, some phs) →
    exec (.indexStreamLineReturn t k line) s =
      .next ((s1.modBatch t fun b => { b with lines := b.lines ++ [s1.lineOf k line.toNat lo phs x.serial] }).deal t).settle) ∧
  (∀ (s s1 s2 : State) (k : Fin 32) (it : PipeItem) (rest : List PipeItem) (x : Tracker) (bt : Batch) (g : Bag) (d : Desc) (e : Ent),
    s.pipes[k] = it :: rest → s.trk it.t = some x → s.batch it.t = some bt → s.bag it.t it.bag = some g → x.desc = some d →
    ((bt.kind = .pool ∨ bt.kind = .keyed) → g.reserved = true) → it.next < g.stop → bt.entry g it.next = some e → s.armed = none →
    s.takeEntry x d bt g it.next e = (s1, true) →
    s2 = { s1 with pipes := s1.pipes.set k (updFirst (fun i => decide (i.t = it.t) && decide (i.bag = it.bag))
      (fun i => { i with next := it.next + 1 }) s1.pipes[k]) } →
    (it.next + 1 < g.stop → exec (.fanOutQueueFreed k) s = .next s2.flushAll.settle) ∧
    (it.next + 1 = g.stop → g.whole = true → exec (.fanOutQueueFreed k) s = .next (s2.endBag k g.t g.bag).flushAll.settle) ∧
    (it.next + 1 = g.stop → g.whole = true → (∀ y ∈ s.trackers, y.marks.aborted = false) → s.rowWaits = [] →
      (s2.endBag k g.t g.bag).pipes[k] = [] →
      exec (.sieveEntryIntake k .clean) s = .next (s2.endBag k g.t g.bag).flushAll.settle)) ∧
  (∀ (s : State) (x : Tracker) (d : Desc) (bt : Batch) (g : Bag) (i : Nat) (e : Ent), g.rerun ≠ .running →
    (e.poison = true → s.takeEntry x d bt g i e = (s.dropEntry x g.bag false .poisoned, true)) ∧
    (e.poison = false → bt.isPad e.x = true → s.takeEntry x d bt g i e = (s.dropEntry x g.bag false .padded, true)) ∧
    (e.poison = false → bt.isPad e.x = false → d.mapIndex e.x.toNat = .outOfRange →
      s.takeEntry x d bt g i e = (s.dropEntry x g.bag false .outOfRange, true)) ∧
    (e.poison = false → bt.isPad e.x = false → d.mapIndex e.x.toNat ≠ .outOfRange → d.mapIndex e.x.toNat ≠ .remap →
      s.takeEntry x d bt g i e =
        if bt.weighted = true ∧ notFinite32 e.w = true then (s.dropEntry x g.bag false .badWeight, true)
        else s.acceptEntry x d g.bag i e false (rowsOf (d.mapIndex e.x.toNat)))) ∧
  (∀ (s : State) (x : Tracker) (b : Nat),
    let det (u : State) : State := u.modTrk x.id fun y => { y with detail := y.detail + 1 }
    s.dropEntry x b false .padded = (s.modBatch x.id fun y => { y with counts := { y.counts with padded := y.counts.padded + 1 } }) ∧
    s.dropEntry x b false .outOfRange = det ((s.modBatch x.id fun y =>
      { y with counts := { y.counts with outOfRange := y.counts.outOfRange + 1 } }).bump fJpSieveDrop_OUT_OF_RANGE x.part) ∧
    s.dropEntry x b false .badWeight = det ((s.modBatch x.id fun y =>
      { y with counts := { y.counts with badWeight := y.counts.badWeight + 1 } }).bump fJpSieveDrop_BAD_WEIGHT x.part) ∧
    (x.op ≠ 0x21 → s.dropEntry x b false .poisoned = det (((s.poisonBag x.id b).modBatch x.id fun y =>
      { y with counts := { y.counts with poisoned := y.counts.poisoned + 1 } }).bump fJpSieveDrop_POISONED x.part))) ∧
  (∀ (s s1 : State) (t : TrackerId) (v : W64) (x : Tracker) (bt : Batch) (d : Desc) (w : RemapWait) (bs : List Byte) (poison : Bool),
    (∀ y ∈ s.trackers, y.marks.aborted = false) → s.trk t = some x → s.batch t = some bt → x.desc = some d →
    s.remapWaits.filter (fun w => decide (w.t = t) && decide (w.x = v)) = [w] → (∀ m ∈ bt.remaps, m.1 ≠ v) →
    s.readPart x.part (.cmd t) (d.remapBase + 4 * v.toNat) 4 = (s1, some (bs, poison)) →
    let val : Option (Option (Nat × Nat)) := if poison then none else some (d.remapSlot (leNat bs))
    let s2 := s1.modBatch t fun b => { b with remaps := b.remaps ++ [(v, val)] }
    (s2.bag x.id w.bag).any (fun g => decide (g.rerun = .running)) = false →
    let go (u : State) : State :=
      (({ u with remapWaits := eraseFirst (fun y => decide (y = w)) u.remapWaits } : State).tokenBag x.id w.bag).flushAll
    (poison = true → exec (.remapReadReturn t v) s = .next (go (s2.dropEntry x w.bag false .poisoned)).settle) ∧
    (poison = false → d.remapSlot (leNat bs) = none →
      exec (.remapReadReturn t v) s = .next (go (s2.dropEntry x w.bag false .outOfRange)).settle) ∧
    (∀ c i s3, poison = false → d.remapSlot (leNat bs) = some (c, i) →
      s2.mapped x d bt w.bag w.i ⟨w.x, w.w, false⟩ false [⟨0, w.x.toNat, c, i, none⟩] = (s3, true) →
      exec (.remapReadReturn t v) s = .next (go s3).settle)) ∧
  (∀ (s : State) (acc : RegAcc) (v : W64), s.serving →
    let s1 := s.stored ⟨.jeSieveCtl, 0, 0⟩ acc v
    exec (.sieveCtlWrite acc v) s = .next (if s1.holdLane < s.holdLane then s1.trimHolds s1.heldRows.length else s1).settle)

/-- R66, R88, R95, R96, R106, R135, R136: a gather or a preload handed to its unit becomes a batch of the Sieve, a gather with its
delivery at the hub; one that another engine asked for brings its bags with it. CLOCHE_UNLOCK clears its locks and is done. A format
block that is clean and passes the checks of every table that waits for it is installed, the most recently used, once blocks that no command uses have made room;
a poisoned one fails every command that waits for it with POISONED. RESEED stores the register's fields and seeds the slice's generators. -/
def Obligations.PoolingStarts : Prop :=
  (∀ (s : State) (t : TrackerId) (x : Tracker), s.startable t 0x10 = some x →
    let u (served : Bool) : State := { (s.modTrk t fun y => { y with phase := .running }) with
      batches := s.batches ++ [newBatch t x.cmd .pool served]
      deliveries := s.deliveries ++ [deliveryOf t x.cmd served (cW5 x.cmd) (cStride x.cmd)] }
    (s.servedOf t = none → exec (.gatherPool t) s = .next ((u false).deal t).settle) ∧
    (∀ y, s.servedOf t = some y →
      exec (.gatherPool t) s = .next (((u true).pushGiven t (servedBags y.msg)).settlePool t).settle)) ∧
  (∀ (s : State) (t : TrackerId) (x : Tracker), s.startable t 0x50 = some x →
    exec (.clochePreload t) s =
      .next (({ (s.modTrk t fun y => { y with phase := .running }) with
        batches := s.batches ++ [newBatch t x.cmd .preload false] } : State).deal t).settle) ∧
  (∀ (s : State) (t : TrackerId) (x : Tracker), s.startable t 0x51 = some x →
    let mine (k : Part × Nat) : Bool := decide (k.1 = x.part) && (cAll x.cmd || decide (k.2 = cTable x.cmd))
    exec (.clocheUnlock t) s =
      .next (({ s with
        cloche := (s.cloche.map fun e => if e.lock.any mine then { e with lock := none } else e).filter fun e =>
          decide (e.valid ≠ 0) || decide (e.lock ≠ none) || e.held } : State).modTrk t fun y => { y with phase := .done }).settle) ∧
  (∀ (s s1 : State) (src : Src) (l : FmtLoad) (bs : List Byte) (poison : Bool),
    s.fmtLoads.find? (fun l => l.srcs.any fun y => decide (y.1 = src)) = some l →
    s.readPart l.part (.admission src) l.base (fmtBlockSize l.dim) = (s1, some (bs, poison)) →
    let s2 : State := { s1 with fmtLoads := eraseFirst (fun x => decide (x = l)) s1.fmtLoads }
    (poison = true → exec (.formatBlockLoadDone src) s =
      .next ((l.srcs.map (·.1)).eraseDups.foldl (fun u q => u.failHead q stPoisoned) s2).settle) ∧
    (poison = false → (∀ y ∈ l.srcs, Desc.blockOk y.2 bs = true) → s2.blockRoom (ceilDiv bs.length 512) = true →
      let s3 := s2.evictBlocks (ceilDiv bs.length 512) 16
      exec (.formatBlockLoadDone src) s =
        .next (({ s3 with fmt := ⟨l.part, l.base, l.version, bs⟩ :: s3.fmt } : State).bump fJeFmtStat_LOADS).settle)) ∧
  (∀ (s : State) (n : SliceId) (v : W64), s.serving → s.sliceState n < 2 →
    exec (.srReseed n v) s = .next ((s.put .jsSrCtl n (v ||| 4)).reseed n).settle)

/-- R79 to R81, R102, R103, R125 to R133, R139 to R141, R384, R385: the next row reference or fan-out entry of a lane is looked up for the lines it
has still to be given: one it hits is given to it, and with its last line it is applied; one it misses takes it to memory, in the line's miss
tracker or in one of its own; it waits while the lane is gated, full or must hold the lookup back. A fan-out word whose header fails is
discarded, its bag poisoned, and every command of its partition touched. A line that fills clean is installed and every entry that waited on
it goes on; filled with a parity error nothing is installed and every entry goes on poisoned in what it needs of it. A partial joins its bag
at the hub, which finishes it with its last. A bag that waited for a re-run place is read again from its first entry with its sums cleared.
An ageing tick ages every entry of the slice that is neither locked nor held and drops those at age 7; a flush drops every line, but keeps
locked and held ways. -/
def Obligations.LanesAndCloches : Prop :=
  (∀ (s : State) (l : LaneId) (w : LaneWork) (a : Nat) (mask : BitVec 4) (rest : List (Nat × BitVec 4)) (par : Bool) (c : Instr),
    (c = .laneRowReference l par .clean ∧ s.laneQ.find? (fun w => decide (w.lane = l) && !w.fan) = some w) ∨
      (c = .fanOutEntry l false par .clean ∧ s.laneQ.find? (fun w => decide (w.lane = l) && w.fan) = some w) →
    w.todo = (a, mask) :: rest →
    let u : State := { s with laneQ := eraseFirst (fun y => decide (y = w)) s.laneQ }
    (s.laneGated l = true ∨ s.laneFull l = true → exec c s = .next s.settle) ∧
    (s.laneGated l = false → s.laneFull l = false → s.armed = none → u.laneWaits l a = true →
      exec c s = .next ({ u with laneQ := w :: u.laneQ } : State).settle) ∧
    (∀ v, s.laneGated l = false → s.laneFull l = false → s.armed = none → u.laneWaits l a = false →
      u.clocheAt l (lineKey a) ≠ none ∨ u.holdWanted l (lineKey a) = false → u.clocheLookup l (lineKey a) mask par = (v, true) →
      rest = [] → exec c s = .next ((v.holdLine l (lineKey a)).laneApply { w with todo := [] }).settle) ∧
    (∀ v, s.laneGated l = false → s.laneFull l = false → s.armed = none → u.laneWaits l a = false →
      u.clocheAt l (lineKey a) ≠ none ∨ u.holdWanted l (lineKey a) = false → u.clocheLookup l (lineKey a) mask par = (v, false) →
      exec c s = .next (v.missEnter { w with todo := rest } a mask).settle)) ∧
  (∀ (s : State) (w : LaneWork) (a : Nat) (mask : BitVec 4), s.isHbm a = true →
    let mine (m : Miss) : Bool := decide (m.lane = w.lane) && decide (m.line = lineKey a)
    let n := laneSlice w.lane
    (s.misses.any mine = true → s.missEnter w a mask =
      { s with misses := updFirst mine (fun m => { m with granules := m.granules ||| mask, work := m.work ++ [w] }) s.misses }) ∧
    (s.misses.any mine = false → (s.trk w.t).any (·.background) = false → s.isBoard (a / 256 * 256) = false → s.missEnter w a mask =
      { s with
        misses := s.misses ++ [⟨w.lane, lineKey a, a / 256 * 256, mask, [w]⟩]
        lineReads := s.lineReads.set n (s.lineReads[n] + 1) })) ∧
  (∀ (s : State) (l : LaneId) (w : LaneWork) (x : Tracker) (par : Bool) (err : EccErr),
    s.laneQ.find? (fun w => decide (w.lane = l) && w.fan) = some w → s.laneGated l = false → s.trk w.t = some x →
    exec (.fanOutEntry l true par err) s =
      .next ((((({ s with laneQ := eraseFirst (fun y => decide (y = w)) s.laneQ } : State).unattributed x.part 2).poisonBag w.t w.bag).applied
        w).settle)) ∧
  (∀ (s s1 : State) (l : LaneId) (line : BitVec 48) (m : Miss) (w : LaneWork) (rest : List LaneWork) (x : Tracker),
    s.misses.find? (fun m => decide (m.lane = l) && decide (m.line = line.toNat)) = some m → m.work = w :: rest → s.trk w.t = some x →
    (∀ u par err, s.fillOk m = (u, false) → exec (.laneFillReturn l line par err) s = .next u.settle) ∧
    (s.fillOk m = (s1, true) → s1.armed = none →
      let s2 : State := { s1 with misses := eraseFirst (fun y => decide (y = m)) s1.misses }
      let n := ((List.range 4).filter fun k => m.granules.getLsbD k).length
      let read (u : State) : State := if u.isHbm m.base then
          (u.setReg .jeEnergyBits (u.reg .jeEnergyBits + BitVec.ofNat 64 (512 * n))).bwRead x.part (some w.t) m.base (64 * n)
        else u
      ((∀ k, k < 4 → s2.granPoison (m.base / 64 + k) (some x.serial) = false) →
        exec (.laneFillReturn l line false .clean) s =
          .next (m.work.foldl (fun u v => u.laneLook v false v.todo) ((read s2).installFill m m.granules)).settleWcb.settle) ∧
      exec (.laneFillReturn l line true .clean) s =
        .next (m.work.foldl (fun u v => u.laneLook { v with bad := v.bad || decide (v.needs m.base &&& m.granules ≠ 0) } false v.todo)
          (read (s2.bump fJsPathStat_PARITY (l.val / 32)))).settleWcb.settle)) ∧
  (∀ (s : State) (n : SliceId) (q : Partial) (x : Tracker) (bt : Batch) (d : Desc), s.partials.find? (fun q => decide (q.n = n)) = some q →
    s.trk q.t = some x → s.batch q.t = some bt → x.desc = some d → s.armed = none →
    exec (.slicePartialArrive n .clean) s =
      .next ((({ s with partials := eraseFirst (fun y => decide (y = q)) s.partials } : State).joinPartial d bt.mode q).hubStep q.t q.bag).settle) ∧
  (∀ (s : State) (g : Bag), s.bags.find? (fun g => decide (g.rerun = .waiting)) = some g →
    exec .rerunPlaceFreed s =
      .next (if s.rerunning < 1024 then
        { (s.modBag g.t g.bag fun h => { h with
          rerun := .running, sent := List.replicate 8 0, applied := List.replicate 8 0, token := false, closed := 0, arrived := 0
          accepted := 0, sat := false, esc := 0, acc := none }) with
        pipes := s.pipes.set (Fin.ofNat 32 g.bag) (s.pipes[Fin.ofNat 32 g.bag] ++ [⟨g.t, g.bag, g.first, false⟩]) } else s).settle) ∧
  (∀ (s : State) (n : SliceId),
    let mine (e : ClocheEnt) : Bool := decide (laneSlice e.lane = n) && decide (e.lock = none) && !e.held
    exec (.clocheAgeTick n) s =
      .next (if s.fld fJsClocheCtl_MODE n = 0 then s else { s with
        cloche := (s.cloche.filter fun e => !(mine e && decide (7 ≤ e.age))).map fun e => if mine e then { e with age := e.age + 1 } else e }
          ).settle) ∧
  (∀ (s : State) (n : SliceId), s.serving → s.sliceState n < 2 →
    let s1 := s.put .jsClocheCtl n ((s.reg .jsClocheCtl n &&& (codeMask (RegId.fields .jsClocheCtl) .rw |||
      codeMask (RegId.fields .jsClocheCtl) .rwl)) ||| 4)
    exec (.clocheFlush n) s =
      .next ({ s1 with
        cloche := (s.cloche.map fun e => if laneSlice e.lane = n then { e with valid := 0 } else e).filter fun e =>
          !(decide (laneSlice e.lane = n)) || decide (e.lock ≠ none) || e.held
        evb := s.evb.filter fun x => !(decide (laneSlice x.lane = n))
        trees := s.trees.filter fun t => !(decide (laneSlice t.lane = n)) } : State).settle)

/-- R144 to R148: `feed_enable` sets which queues are enabled; a credit adds tile slots; a queue sends nothing while it is not enabled or has
no credit; otherwise the first command for it, where the bags of its next tile are finished, sends that tile, whose column blocks go before
its row blocks, takes a credit for it, and counts a bag with an element that clipped once; the bags of a row block are delivered once its last
tile is accepted, and an earlier tile changes nothing else when it is accepted. -/
def Obligations.FeederQueues : Prop :=
  (∀ (s : State) (mask : W64), exec (.feedEnable mask) s = .next (s.setFld fJeFeedEn_ENABLED mask.toNat).settle) ∧
  (∀ (s : State) (q : Fin 64) (n : BitVec 8),
    exec (.feedCredit q n) s = .next ({ s with credits := s.credits.set q (s.credits[q] + n.toNat) } : State).settle) ∧
  (∀ (s : State) (q : Fin 64), s.credits[q] = 0 ∨ natBits (s.fld fJeFeedEn_ENABLED) q 1 = 0 → exec (.feedTileSend q) s = .next s.settle) ∧
  (∀ (s : State) (q : Fin 64) (dl : Delivery) (rest : List Delivery) (x : Tracker) (bt : Batch) (d : Desc) (rows : List (List Nat))
      (pois : List Bool) (clips : List Nat), s.credits[q] ≠ 0 → natBits (s.fld fJeFeedEn_ENABLED) q 1 = 1 →
    s.deliveries.filter (fun dl => decide (dl.kind = 1) && decide (fdQueue dl.dest = q.val) && !dl.tilesDone) = dl :: rest →
    s.trk dl.t = some x → s.batch dl.t = some bt → dl.over bt = false → x.desc = some d → s.tileOf x d bt dl = some (rows, pois, clips) →
    let C := tileCols (fdShape dl.dest)
    let lastCol := decide (ceilDiv x.total C ≤ dl.tileCol + 1)
    let lastRow := decide (fdRow dl.dest + bt.lastBag ≤ (dl.tileRow + 1) * dl.rowsOf)
    let s1 := clips.foldl (fun (u : State) b =>
      if (u.bag x.id b).any (·.clipped) then u
      else (u.modBag x.id b fun g => { g with clipped := true }).bump fJpPoolStat_OUT_CLIPS x.part) s
    exec (.feedTileSend q) s =
      .next (({ s1 with
        deliveries := updFirst (fun y => decide (y.t = x.id)) (fun y => { y with
          tileRow := if lastCol then y.tileRow + 1 else y.tileRow
          tileCol := if lastCol then 0 else y.tileCol + 1
          tilesDone := lastCol && lastRow }) s1.deliveries
        credits := s1.credits.set q (s1.credits[q] - 1)
        tiles := s1.tiles ++ [⟨q, x.id, dl.tileRow, lastCol⟩]
        out := s1.out ++ [.tile q dl.tileRow (fdCol dl.dest + dl.tileCol) (fdElem dl.dest) pois dl.checksum rows] } : State).settlePool
          x.id).settle) ∧
  (∀ (s : State) (q : Fin 64) (y : TileSent) (x : Tracker) (dl : Delivery), s.tiles.find? (fun y => decide (y.q = q)) = some y →
    s.trk y.t = some x → s.deliveries.find? (fun dl => decide (dl.t = y.t)) = some dl →
    let s1 : State := { s with tiles := eraseFirst (fun z => decide (z = y)) s.tiles }
    let block := s.bags.filter fun g => decide (g.t = y.t) && !g.delivered && decide ((fdRow dl.dest + g.bag) / dl.rowsOf = y.rowBlock)
    exec (.feedTileAck q) s =
      .next (if y.last then (block.foldl (fun u g => u.markDelivered x g.bag) s1).settlePool y.t else s1).settle)
/-- R150, R153 to R164: KEYED_LOOKUP hands its bags and its delivery on. A queued command binds to the bank that holds its layer, RESIDENT, with
fewer than 64 users; waits, counted once, where a bank is being filled with it; asks for a demand fill where DEMAND is 1 and its partition may have 16 units; and
otherwise completes with SUBKEYS_ABSENT, counted. The next query of the command whose turn it is returns behind those read ahead, a first one of its query group
passing the turn to its partition; the first of the queries goes to the array where it is clean, and is rejected or ends poisoned otherwise.
Set A is scored against the first half of the query and set B against the second, the K best of each kept, and the K best of
their pairs. The weights end the head with the entries of weight other than 0 and the whole selection, and reject it where the greatest score is not
finite. -/
def Obligations.KeyedHeads : Prop :=
  (∀ (s : State) (t : TrackerId) (x : Tracker), s.startable t 0x18 = some x →
    exec (.keyedLookup t) s =
      .next ({ (s.modTrk t fun y => { y with phase := .running }) with
        batches := s.batches ++ [{ newBatch t x.cmd .keyed true with bagCount := x.bags }]
        deliveries := s.deliveries ++ [deliveryOf t x.cmd false (cW3 x.cmd) (cKeyedStride x.cmd)] } : State).settle) ∧
  (∀ (s : State) (t : TrackerId) (k : KeyedCmd) (x : Tracker), s.keyedOf t = some k → s.trk t = some x → x.phase = .running →
    s.winnowGated = false → k.bank = none → k.stage ≠ .aborted →
    let base := BitVec.ofNat 64 (kBase k.desc)
    let some_ (b : Fin 2) (st : BankState) : Prop := s.banks[b].holds x.part k.layer base = true ∧ s.banks[b].state = st
    (∀ b : Fin 2, some_ b .resident → (∀ c : Fin 2, c < b → s.banks[c].holds x.part k.layer base = false) → s.bankUsers b < 64 →
      s.demandOf t = none →
      exec (.winnowBind t) s =
        .next ({ (s.modKeyed t fun k => { k with bank := some b }) with
          lastBound := b, fills := s.fills.filter fun f => !(f.demand && decide (f.t = t)) } : State).releaseCtx.settle) ∧
    ((∀ b : Fin 2, ¬ some_ b .resident ∧ ¬ some_ b .poisoned) → s.demandOf t = none →
      ((∃ b : Fin 2, some_ b .filling) → exec (.winnowBind t) s = .next (s.fillWait k).settle) ∧
      ((∀ b : Fin 2, ¬ some_ b .filling) → s.fld fJeWinnowCtl_DEMAND = 1 → 16 ≤ s.streamMax x.part →
        exec (.winnowBind t) s =
          .next ((({ s with fills := s.fills ++ [⟨x.part, k.layer, base, kImageLen k.desc, kNA k.desc, kDim k.desc, t, true,
            s.fillTarget x.part k.layer base, none⟩] } : State).bump fJeWinnowStat_DEMAND_FILLS).fillWait k).settle) ∧
      ((∀ b : Fin 2, ¬ some_ b .filling) → s.fld fJeWinnowCtl_DEMAND = 0 ∨ s.streamMax x.part < 16 →
        exec (.winnowBind t) s =
          .next ((({ s with keyed := s.keyed.filter fun y => decide (y.t ≠ t) } : State).bump fJpKeyedStat_ABSENT x.part.val).only t
            stSubkeysAbsent).settle))) ∧
  (∀ (s : State) (k : KeyedCmd),
    s.fillWait k = if k.waited = true then s else
      (s.bump fJeWinnowStat_FILL_WAITS).modKeyed k.t fun k => { k with waited := true }) ∧
  (∀ (s s1 : State) (t : TrackerId) (k : KeyedCmd) (x : Tracker) (bs : List Byte) (poison : Bool), s.keyedOf t = some k → s.trk t = some x →
    s.winnowGated = false → k.ahead = [] → s.headTurn k x.part = true →
    s.readPart x.part (.cmd t) ((k.query.toNat + 2 * (2 * kDim k.desc) * k.taken) % 2 ^ 64) (2 * (2 * kDim k.desc)) = (s1, some (bs, poison)) →
    let q := (List.range (2 * kDim k.desc)).map fun i => BitVec.ofNat 16 (bytesAt bs (2 * i) 2)
    let s2 : State := if k.taken % k.group = 0 then { s1 with queryTurn := x.part } else s1
    exec (.winnowQueryReturn t) s =
      .next ((s2.modKeyed t fun k => { k with ahead := k.ahead ++ [⟨q, poison, q.any badBf16⟩] }).nextHeads x 9).settle) ∧
  (∀ (s s1 : State) (x : Tracker) (n : Nat) (k : KeyedCmd) (q : Query) (rest : List Query), s.keyedOf x.id = some k → k.stage = .idle →
    k.ahead = q :: rest →
    let pop (u : State) : State := u.modKeyed x.id fun y => { y with ahead := y.ahead.drop 1 }
    (q.poison = false → q.reject = false →
      s.nextHeads x (n + 1) = (pop s).modKeyed x.id fun y => { y with stage := .query, q := q.q }) ∧
    (q.poison = false → q.reject = true → s.rejectHead x k = (s1, true) → s.nextHeads x (n + 1) = (pop s1).nextHeads x n) ∧
    (q.poison = true → s.endHead x k [] (List.replicate k.k noSel) true = (s1, true) → s.nextHeads x (n + 1) = (pop s1).nextHeads x n)) ∧
  (∀ (s : State) (t : TrackerId) (k : KeyedCmd) (b : Fin 2), s.keyedOf t = some k → k.bank = some b → s.winnowGated = false →
    let dk := kDim k.desc
    (k.stage = .query →
      exec (.winnowSetScored t) s =
        .next (s.modKeyed t fun y => { y with
          stage := .setA, topA := topK k.k (s.banks[b].scores (k.q.take dk) dk 0 (kNA k.desc)) }).settle) ∧
    (k.stage = .setA →
      exec (.winnowSetScored t) s =
        .next ((s.modKeyed t fun y => { y with
          stage := .setB, topB := topK k.k (s.banks[b].scores (k.q.drop dk) dk (kNA k.desc) (kNB k.desc)) }).bump
            fJeWinnowStat_HEADS).settle) ∧
    (k.stage = .setB →
      exec (.winnowPairsSelected t) s =
        .next (s.modKeyed t fun y => { y with
          stage := .pairs, pairs := topK y.k (pairsOf (kNB y.desc) y.topA y.topB) }).settle)) ∧
  (∀ (s : State) (t : TrackerId) (k : KeyedCmd) (x : Tracker), s.keyedOf t = some k → s.trk t = some x →
    k.stage = .pairs → s.winnowGated = false →
    (∀ ws, softmax (kTemp k.desc) k.pairs = some ws →
      exec (.winnowWeightsDone t) s =
        .next ((s.endHead x k ((ws.filter fun y => decide (y.2 ≠ 0#32)).map fun y => (BitVec.ofNat 64 y.1, y.2))
          ((ws.map fun y => if y.2 = 0#32 then noSel else (BitVec.ofNat 32 y.1, y.2)) ++ List.replicate (k.k - ws.length) noSel)
          false).1.nextHeads x 9).settle) ∧
    (softmax (kTemp k.desc) k.pairs = none →
      exec (.winnowWeightsDone t) s = .next ((s.rejectHead x k).1.nextHeads x 9).settle)) ∧
  (∀ (temp : W32) (m : Nat × W32) (l : List (Nat × W32)), softmax temp (m :: l) = none ↔ notFinite32 m.2 = true)

/-- R161, R167, R203: the first of the waiting fills that may start does: its stream has its context and 16 units if it is a demand fill, and its target
has no users and is not being filled; its target becomes FILLING, and the other bank, where it holds the layer, STALE; none starts out of IN_SERVICE. The
last line of an image makes its bank RESIDENT with its keys, the keys of a NaN or infinite value barred, or POISONED where a line of it was.
WINNOW_BYPASS completes the queued commands and the streams that wait for a bank with WINNOW_BYPASSED, gives up the fills and empties a bank
that was being filled, and withdraws a pending return while it drains; a drained Winnow is bypassed with both banks EMPTY, or goes on to the return it owes;
WINNOW_RETURN starts its reinitialisation, or is kept while it drains; the end of the reinitialisation puts it IN_SERVICE. -/
def Obligations.SubkeyBanks : Prop :=
  (∀ (s : State), s.fld fJeWinnowCtl_STATE ≠ 0 → exec .subkeyFillStart s = .next s.settle) ∧
  (∀ (s : State), s.fld fJeWinnowCtl_STATE = 0 →
    exec .subkeyFillStart s = .next (s.startFills (s.fills.filter fun f => decide (f.bank = none))).settle) ∧
  (∀ (s s1 : State) (f : Fill) (rest : List Fill),
    (s.fillStream f = (s1, false) → s.startFills (f :: rest) = s1.startFills rest) ∧
    (s.fillStream f = (s1, true) → 0 < s1.bankUsers f.target ∨ s1.banks[f.target].state = .filling →
      s.startFills (f :: rest) = s1.startFills rest) ∧
    (s.fillStream f = (s1, true) → s1.bankUsers f.target = 0 → s1.banks[f.target].state ≠ .filling →
      s.startFills (f :: rest) =
        (let other : Fin 2 := if f.target = 0 then 1 else 0
        let old := s1.banks[other]
        { s1 with
          banks := (s1.banks.set f.target ⟨.filling, f.part, f.layer, f.base, [], [], false⟩).set other
            (if old.holds f.part f.layer f.base then { old with state := .stale } else old)
          fills := updFirst (fun g => decide (g = f)) (fun g => { g with bank := some f.target }) s1.fills }))) ∧
  (∀ (s : State) (f : Fill), (f.demand = false ∨ (s.streamOf f.t).isSome = true → s.fillStream f = (s, true)) ∧
    (f.demand = true → s.streamOf f.t = none →
      let u := s.makeRoom f.part 16 s.streams.length
      (u.streamRoom f.part 16 = false → s.fillStream f = (u, false)) ∧
      (u.streamRoom f.part 16 = true → (s.fillStream f).2 = true ∧
        (s.fillStream f).1.sctx = u.sctx ++ [⟨f.part, demandId f.t, 4, 18, 16⟩]))) ∧
  (∀ (s : State) (b : Fin 2) (f : Fill), s.fills.find? (fun f => decide (f.bank = some b)) = some f →
    (2 * s.banks[b].keys.length < f.bytes → exec (.subkeyFillEnd b) s = .next s.settle) ∧
    (f.bytes ≤ 2 * s.banks[b].keys.length →
      let s1 := ({ s with
        banks := s.banks.set b ⟨if s.banks[b].poison then .poisoned else .resident, f.part, f.layer, f.base, s.banks[b].keys,
          barredOf s.banks[b].keys f.dk, s.banks[b].poison⟩
        fills := s.fills.filter fun g => decide (g ≠ f)
        streams := if f.demand then s.streams.filter fun c => decide (c.t ≠ some f.t) else s.streams } : State).releaseCtx
      exec (.subkeyFillEnd b) s =
        .next (({ s1 with streams := updFirst (fun c => decide (c.t = some f.t)) (fun c : StreamCmd =>
          { c with rcvs := c.rcvs.map fun (r : Receiver) => if r.kind = 2 then { r with done := true } else r }) s1.streams } :
            State).settleStream f.t).settle)) ∧
  (∀ (s : State), s.serving →
    let s1 := s.put .jeWinnowCtl 0 ((s.reg .jeWinnowCtl &&& codeMask (RegId.fields .jeWinnowCtl) .rw) ||| 2)
    (s.fld fJeWinnowCtl_STATE = 0 →
      let s2 := (s.keyed.filter fun k => decide (k.bank = none) && decide (k.stage ≠ .aborted)).foldl
        (fun (u : State) (k : KeyedCmd) => u.only k.t stWinnowBypassed) s1
      let s3 := (s.fills.filter fun f => !f.demand).foldl (fun (u : State) (f : Fill) => u.only f.t stWinnowBypassed) s2
      exec .winnowBypass s =
        .next ((({ s3 with
          keyed := s3.keyed.filter fun k => decide (k.bank ≠ none) || decide (k.stage = .aborted)
          banks := s3.banks.map fun (b : Bank) => if b.state = .filling then Bank.reset else b
          fills := []
          streams := s3.streams.filter fun c => !(s.fills.any fun f => f.demand && decide (c.t = some f.t)) } : State).releaseCtx).setFld
            fJeWinnowCtl_STATE 1).settle) ∧
    (s.fld fJeWinnowCtl_STATE = 1 → exec .winnowBypass s = .next (s1.setFld fJeWinnowCtl_ENABLE_PENDING 0).settle)) ∧
  (∀ (s : State), s.serving →
    let s1 := s.put .jeWinnowCtl 0 ((s.reg .jeWinnowCtl &&& codeMask (RegId.fields .jeWinnowCtl) .rw) ||| 1)
    (s.fld fJeWinnowCtl_STATE = 1 → exec .winnowReturn s = .next (s1.setFld fJeWinnowCtl_ENABLE_PENDING 1).settle) ∧
    (s.fld fJeWinnowCtl_STATE = 2 → exec .winnowReturn s = .next ({ s1 with winnowInit := true } : State).restSync.settle)) ∧
  (∀ (s : State), s.fld fJeWinnowCtl_STATE = 1 → s.keyed.all (fun k => decide (k.bank = none)) = true →
    let s1 := ({ s with banks := Vector.replicate 2 Bank.reset } : State).setFld fJeWinnowCtl_STATE 2
    (s.fld fJeWinnowCtl_ENABLE_PENDING = 0 → exec .winnowDrainDone s = .next s1.restSync.settle) ∧
    (s.fld fJeWinnowCtl_ENABLE_PENDING = 1 → exec .winnowDrainDone s =
      .next ({ (s1.setFld fJeWinnowCtl_ENABLE_PENDING 0) with winnowInit := true } : State).restSync.settle)) ∧
  (∀ (s : State), s.winnowInit = true → s.fld fJeUnitTest_BUSY = 0 →
    exec .winnowReinitDone s =
      .next (({ s with banks := Vector.replicate 2 Bank.reset, winnowInit := false } : State).setFld fJeWinnowCtl_STATE 0).settle)

/-- R192, R197, R199 to R201, R206, R336: a stream starts with the claims of its receivers. The next line of its source, read of memory,
enters the slot in fill with its poison, each granule poisoned where the line meets a parity error on the way; of remote storage it is a
read command. A receiver whose next slot is full takes it as the staging read gives it; a staging read without an error gives the slot
as it stands, and one that finds a line in error reads that line from its source again, poisoned where that read fails too. A dropped receiver at a slot's end whose
next slot is still held rejoins its group and gives up its reader, and otherwise goes on reading. -/
def Obligations.Streams : Prop :=
  (∀ (s : State) (t : TrackerId) (x : Tracker) (c : StreamCmd), s.startable t 0x30 = some x → s.streamOf t = some c →
    (∀ r ∈ c.rcvs, r.kind ≠ 2) →
    exec (.stream t) s = .next ((s.modTrk t fun y => { y with phase := .running }).firstClaims x c).settle) ∧
  (∀ (s s1 : State) (t : TrackerId) (par : Bool) (x : Tracker) (c : StreamCmd) (k a : Nat) (e : Option RangeEnt), s.trk t = some x →
    s.streamOf t = some c → c.fillSlot = some k → x.phase = .running → s.mayFill c k = true →
    let o := k * sSlotBytes c.desc + 64 * c.filledIn k
    let pa := sAddr c.desc o
    s.streamLook x c.range (srcAccess x) pa = (s1, some (a, e)) →
    let s2 := s1.modStream (fun y => decide (y.t = some t)) fun y => { y with range := e }
    (∀ err, physSpace a = 2 → exec (.streamSourceReturn t par err) s = .next (s2.remoteRead t none k (sPiece c.desc k o) a).settle) ∧
    (physSpace a ≠ 2 →
      let n := min (4 - pa / 64 % 4) (sPiece c.desc k o / 64)
      let s3 := ((if par then s2.bump fJePathStat_PARITY else s2).bwRead x.part (some t) a (64 * n)).jReadDone (.cmd t)
      s3.armed = none →
      exec (.streamSourceReturn t par .clean) s =
        .next (s3.modStream (fun y => decide (y.t = some t)) fun y => y.append k ((List.range n).map fun i =>
          (BitVec.ofNat 512 (s3.rdNat (a + 64 * i) 64), par || s3.granPoison (a / 64 + i) (some x.serial))) []).settle)) ∧
  (∀ (s s1 s2 : State) (t : TrackerId) (r : Fin 64) (par : Option (Fin 4096)) (fails : Bool) (x : Tracker) (c : StreamCmd) (v : Receiver)
      (sl : SSlot) (gs : List (BitVec 512 × Bool)), s.trk t = some x →
    s.streamOf t = some c → c.rcvs[r.val]? = some v → (v.kind = 1 → v.claim ≠ none) → x.phase = .running → s.claimsHeld t c = true →
    v.done = false → v.readySent = false → v.slots < sSlotCount c.desc → v.atBound = false → v.dropped = false →
    c.slots.find? (fun sl => decide (sl.k = v.slots) && sl.full c.desc) = some sl →
    s.stagingRead x c r v sl par fails = (s1, some gs) → s1.deliverSlot x c.desc v (v.slots * sSlotBytes c.desc) gs = (s2, true) →
    exec (.streamReceiverAccept t r par fails) s = .next (s2.accepted x r.val v gs).settle) ∧
  (∀ (s : State) (x : Tracker) (c : StreamCmd) (i : Fin 64) (v : Receiver) (sl : SSlot) (fails : Bool), v.again = none →
    let gs := sl.data.zip sl.poison
    s.stagingRead x c i v sl none fails = (s, some gs) ∧
    (∀ j : Fin 4096, 4 * j.val < gs.length →
      let n := min 4 (sSlotGrans c.desc sl.k - 4 * j.val)
      let u := ((s.modRcv x.id i.val fun r => { r with again := some j.val }).bump fJePathStat_PARITY).fetchFor x i sl.k (4 * j.val) n 4
      let line := u.bufOf x.id i
      n ≤ line.length → s.stagingRead x c i v sl (some j) fails =
        (if fails then u.bump fJePathStat_PARITY else u,
          some (gs.take (4 * j.val) ++ line.map (fun g => (g.1, g.2 || fails)) ++ gs.drop (4 * j.val + n))))) ∧
  (∀ (s : State) (t : TrackerId) (r : Fin 64) (x : Tracker) (c : StreamCmd) (v : Receiver), s.trk t = some x → s.streamOf t = some c →
    c.rcvs[r.val]? = some v → v.dropped = true → v.atBound = true →
    exec (.catchupSlotBoundary t r) s =
      .next (if c.slots.any (fun sl => decide (sl.k = v.slots)) then
          (s.modRcv t r.val fun y => { y with dropped := false, reader := false, atBound := false }).bump fJpStreamStat_REJOINS x.part.val
        else s.modRcv t r.val fun y => { y with atBound := false }).settle)

/-- R46, R201, R202, R208, R210, R211: a free bank's token comes back and waiting claims are granted. A bank the array has taken completes its
receiver. A token wait past TOKEN_EVENT raises event 0x0C once, and goes on. Run-ahead starts the next STREAM it reaches where that can
start; otherwise it reads the next line of the first stream that has started early, has a slot to fill and has not paused. A line it may read, with a place in the filter
for its block, enters the slot in fill with its poison; one it may not read pauses the work. -/
def Obligations.StationaryBanks : Prop :=
  (∀ (s : State) (b : Fin 64) (k : Fin 2),
    exec (.statBankFree b k) s =
      .next (({ s with tokens := if (b, k) ∈ s.tokens then s.tokens else s.tokens ++ [(b, k)] } : State).grantTokens b).settle) ∧
  (∀ (s : State) (b : Fin 64) (k : Fin 2) (t : TrackerId) (c : StreamCmd),
    let mine (r : Receiver) : Bool :=
      decide (r.kind = 1) && decide (r.buffer = b) && decide (r.claim = some k) && r.readySent && !r.done
    let took (y : StreamCmd) : StreamCmd := { y with rcvs := updFirst mine (fun (r : Receiver) => { r with done := true }) y.rcvs }
    s.streams.find? (fun c => c.rcvs.any mine) = some c → c.t = some t →
    exec (.statBankReadyAck b k) s =
      .next (({ s with streams := updFirst (fun y => decide (y.t = some t)) took s.streams } : State).settleStream t).settle) ∧
  (∀ (s : State) (t : TrackerId) (r : Fin 64) (x : Tracker) (c : StreamCmd) (v : Receiver), s.trk t = some x → s.streamOf t = some c →
    c.rcvs[r.val]? = some v → v.waited = true → v.claim = none → s.fld fJeStreamCtl_TOKEN_EVENT ≠ 0 →
    exec (.tokenWaitExpiry t r) s =
      .next (if v.longWait = true then s
        else (s.modRcv t r.val fun y => { y with longWait := true }).eventP x.part 0x0C v.buffer.val x.tag).settle) ∧
  (∀ (s : State) (r : RingNo) (x : Ring), s.ring r = some x → s.fld fJeStreamCtl_EARLY ≠ 0 → x.ctx.halted = false →
    x.phase ≠ .disabling → s.partEnabled x.part = true → s.hardPending r = false →
    let cand := (lookAhead s x.ctx.runahead x.admitAt (s.softPending r) x.fetched).filter fun y => decide (cOp y.2.1 = 0x30)
    (∀ y u, cand.find? (fun y => (s.earlyOf (.ring r) y.1).isNone && !(y.1 ∈ x.noEarly)) = some y →
      s.earlyStart x.part r y.1 y.2.1 y.2.2 = (u, true) → exec (.earlyWorkStart r) s = .next u.settle) ∧
    (cand.find? (fun y => (s.earlyOf (.ring r) y.1).isNone && !(y.1 ∈ x.noEarly)) = none →
      (∀ c, (cand.filterMap fun y => s.earlyOf (.ring r) y.1).find? (fun c => decide (c.fillSlot ≠ none) && !c.paused) = some c →
        exec (.earlyWorkStart r) s = .next (s.earlyLine c).settle) ∧
      ((cand.filterMap fun y => s.earlyOf (.ring r) y.1).find? (fun c => decide (c.fillSlot ≠ none) && !c.paused) = none →
        exec (.earlyWorkStart r) s = .next s.settle))) ∧
  (∀ (s s1 : State) (c : StreamCmd) (k : Nat), c.fillSlot = some k → s.mayFill c k = true →
    let o := k * sSlotBytes c.desc + 64 * c.filledIn k
    let pa := sAddr c.desc o
    (s.earlyAddr c.part c.range pa = (s1, .pause) →
      s.earlyLine c = { s1 with streams := updFirst (fun y => decide (y = c)) (fun y => { y with paused := true }) s1.streams }) ∧
    (∀ a e, s.earlyAddr c.part c.range pa = (s1, .read a e) → s1.filterUse < 16384 →
      let gs := (List.range (min (4 - pa / 64 % 4) (sPiece c.desc k o / 64))).map fun i =>
        (BitVec.ofNat 512 (s1.rdNat (a / 64 * 64 + 64 * i) 64), s1.granPoison (a / 64 + i))
      s.earlyLine c = { s1 with streams := updFirst (fun y => decide (y = c)) (fun y =>
        { y.append k gs [a / 4096] with range := some e, touched := (y.touched ++ [e.obj]).eraseDups }) s1.streams }))
/-- R66, R169, R170, R172, R174, R181 to R186, R188, R386: SCATTER_ADD and SCATTER_APPLY hand their batches to the Sieve, the second with the four
words of PARAMS as its admission read them; a SCATTER_ADD that another engine asked for brings its bags. The gradient of a bag of a SCATTER_ADD, once the bag's entries are known, is read, a
poisoned column of it poisons the command, and what can be formed of it is; a gradient that is kept is not read again. The gradient of a listed row with poison drops
the row, counts it in DETAIL and poisons the command; a clean one issues the row's parameter update with LR under rule 0, and otherwise the update of its
optimiser state with the mean square of the gradient. A returned optimiser state issues the row's parameter update with the factor
of its new value. A slice where every add of a command has landed reports if it holds no scale-gradient place, and otherwise adds its places into their
records. An entry that fails its ECC is corrected, or discarded and its write lost; both are counted. -/
def Obligations.ScatterCommands : Prop :=
  (∀ (s : State) (t : TrackerId) (x : Tracker), s.startable t 0x20 = some x →
    let u (served : Bool) : State := { (s.modTrk t fun y => { y with phase := .running }) with
      batches := s.batches ++ [newBatch t x.cmd .scatter served] }
    (s.servedOf t = none → exec (.scatterAdd t) s = .next ((u false).deal t).settle) ∧
    (∀ y, s.servedOf t = some y → exec (.scatterAdd t) s = .next ((u true).pushGiven t (servedBags y.msg)).settle)) ∧
  (∀ (s : State) (t : TrackerId) (x : Tracker), s.startable t 0x21 = some x →
    let w (k : Nat) : W32 := BitVec.ofNat 32 (bitsOf x.body (32 * k) 32)
    exec (.scatterApply t) s =
      .next (({ (s.modTrk t fun y => { y with phase := .running }) with
        batches := s.batches ++ [newBatch t x.cmd .apply false]
        applies := s.applies ++ [⟨t, cRule x.cmd, w 0, w 1, w 2, w 3, [], false⟩] } : State).deal t).settle) ∧
  (∀ (s : State) (t : TrackerId) (bag : BitVec 21) (x : Tracker) (c : Scatter) (g : Bag) (d : Desc),
    s.trk t = some x → x.op = 0x20 → s.scatterOf t = some c → s.bag t bag.toNat = some g → x.desc = some d → g.token = true →
    g.bag ∉ c.gradsDone → x.marks.aborted = false → x.phase = .running →
    let n := if x.shards = [] then d.dim else x.total
    let stride := if cStride x.cmd = 0 then 4 * n else cStride x.cmd
    (∀ s1 grad, c.grads.find? (fun z => decide (z.1 = bag.toNat)) = none → s.servedOf t = none →
      s.readCols x.part t ((cW5 x.cmd).toNat + bag.toNat * stride) n = (s1, some grad) →
      exec (.gradientReadReturn t bag .clean) s =
        .next ((if grad.any (·.2) then s1.poisonCmd t else s1).formBag x d c g grad).settle) ∧
    (∀ y, c.grads.find? (fun z => decide (z.1 = bag.toNat)) = none → s.servedOf t = some y →
      exec (.gradientReadReturn t bag .clean) s = .next (s.formBag x d c g (servedGrad y.msg bag.toNat)).settle) ∧
    (∀ z, c.grads.find? (fun z => decide (z.1 = bag.toNat)) = some z →
      exec (.gradientReadReturn t bag .clean) s = .next (s.formBag x d c g z.2).settle)) ∧
  (∀ (s s1 : State) (t : TrackerId) (i : BitVec 21) (x : Tracker) (a : Apply) (d : Desc) (r : ApplyRow) (g : List (W32 × Bool)) (err : EccErr),
    s.trk t = some x → x.op = 0x21 → s.applyOf t = some a → x.desc = some d →
    a.rows.find? (fun r => decide (r.i = i.toNat) && decide (r.grad = none)) = some r → s.localShard x = true →
    s.readCols x.part t ((cW3 x.cmd).toNat + 4 * d.dim * i.toNat) d.dim = (s1, some g) →
    let r1 : ApplyRow := { r with grad := some (g.map (·.1)) }
    (g.any (·.2) = true → exec (.gradientReadReturn t i err) s =
      .next ((((s1.modTrk t fun y => { y with detail := y.detail + 1 }).poisonCmd t).dropRow t i.toNat).settleApply t).settle) ∧
    (g.any (·.2) = false → a.rule = 0 → exec (.gradientReadReturn t i err) s = .next (s1.applyParams x d r1 a.lr).settle) ∧
    (∀ st s2 ph h, g.any (·.2) = false → a.rule ≠ 0 → x.desc2 = some st →
      s1.look x.part (.cmd t) (st.rowBase 0 + r.x / 16 * st.stride 0 + 4 * (r.x % 16)) .add = (s2, some (ph, h)) →
      exec (.gradientReadReturn t i err) s =
        .next (((s2.modRows t fun l => updFirst (fun q => decide (q.i = i.toNat)) (fun _ => r1) l).queueOps x
          [⟨s2.sliceOf ph, x.part, some t, h, ph, .applyState i.toNat (meanSquare (g.map (·.1))), false, false, false⟩]).settleApply
            t).settle)) ∧
  (∀ (s : State) (t : TrackerId) (x : Tracker) (a : Apply) (d : Desc) (r : ApplyRow) (v : W32), s.trk t = some x → s.applyOf t = some a →
    a.rows.find? (fun r => r.state.isSome) = some r → r.state = some v → x.desc = some d →
    exec (.applyStateReturn t) s = .next (s.applyParams x d r (fdiv a.lr (fadd (fsqrt v) a.eps))).settle) ∧
  (∀ (s : State) (n : SliceId) (t : TrackerId) (x : Tracker) (c : Scatter), s.trk t = some x → s.scatterOf t = some c →
    c.ended.getLsbD n = true → c.reported.getLsbD n = false → s.adding n t = false →
    let mine := c.places.filter fun y => decide (y.n = n)
    (mine = [] → exec (.landingReport n t) s =
      .next (({ s with
        scatters := updFirst (fun c => decide (c.t = t)) (fun c => { c with reported := c.reported ||| BitVec.ofNat 8 (2 ^ n.val) })
          s.scatters } : State).settleScatter t).settle) ∧
    (∀ s1 l, mine ≠ [] → s.sgradOps x mine = (s1, some l) →
      exec (.landingReport n t) s =
        .next ((s1.modScatter t fun c => { c with places := c.places.filter fun y => decide (y.n ≠ n) }).queueOps x l).settle)) ∧
  (∀ (s : State) (e : PreAgg) (x : Tracker), s.trk e.c.t = some x →
    s.bufErr e .clean = s ∧ s.bufErr e .corrected = s.bump fJsRakeStat_BUF_CORR e.n ∧
    s.bufErr e .uncorrectable = ((({ s with
      preagg := s.preagg.filter fun y => decide (y ≠ e)
      mergeStore := s.mergeStore.filter fun y => decide (y ≠ e) } : State).bump fJsRakeStat_BUF_UNCORR e.n).loseWrite x.part (some e.c.t)
        e.c.obj))

/-- R174 to R178, R186, R400: a message in sequence is acknowledged and its contributions merged, an error of the buffer striking the first entry it
meets; a poisoned one is discarded and asked for again, its failures counted; a duplicate is discarded and acknowledged; one ahead of its turn
is discarded. An acknowledgement takes the message out of the replay store and forming goes on; a lost one has the message sent again. A request to send again puts the message and the ones after it on
the link and counts it, or fails the slice once RESEND arrivals of it in a row were poisoned. An end token behind its contributions flushes the command's
entries to the adders. Flushing an entry issues the entries of its command for its stored granule as one operation. The oldest operation of a slice that no flip or bank holds takes
its read, where no agent may hold its line. -/
def Obligations.RakeLinks : Prop :=
  (∀ (s : State) (n : SliceId) (m : RakeMsg) (rest : List RakeMsg), s.links[n].flight = m :: rest → s.armed = none →
    let l : RakeLink := { s.links[n] with flight := rest }
    let l0 : RakeLink := { l with fails := l.fails.filter fun y => decide (y.1 ≠ m.seq) }
    (∀ err, m.seq = l.expect →
      let s1 : State := { s with links := s.links.set n { l0 with expect := l.expect + 1, acks := l.acks ++ [m.seq] } }
      exec (.rakeMessageArrive n false err .clean) s =
        .next (m.items.foldl (fun u c => u.mergeContrib n c)
          (s1.bufErrFirst ((s1.preaggOf n).filter fun e => m.items.any fun c => e.c.same c) err)).settle) ∧
    (∀ err, m.seq ≠ l.expect →
      exec (.rakeMessageArrive n false err .clean) s =
        .next ({ s with links := s.links.set n (if 2048 ≤ (m.seq - l.expect).toNat then { l0 with acks := l.acks ++ [m.seq] } else l0) } :
          State).settle) ∧
    (∀ err, exec (.rakeMessageArrive n true err .clean) s =
      let l1 : RakeLink := { l with resend := l.resend ++ [m.seq], fails := putAssoc l.fails m.seq (getAssoc l.fails m.seq 0 + 1) }
      .next ({ s with links := s.links.set n l1 } : State).settle)) ∧
  (∀ (s : State) (n : SliceId) (q : BitVec 12) (rest : List (BitVec 12)), s.links[n].acks = q :: rest →
    exec (.rakeAck n false) s =
      .next (({ s with
        links := s.links.set n { s.links[n] with
          acks := rest, replay := s.links[n].replay.filter fun m => decide (m.seq ≠ q) } } : State).pumpLink n).settle ∧
    exec (.rakeAck n true) s =
      .next ({ s with
        links := s.links.set n { s.links[n] with
          acks := rest, flight := s.links[n].flight ++ s.links[n].replay.filter fun m => decide (m.seq = q) } } : State).settle) ∧
  (∀ (s : State) (n : SliceId) (q : BitVec 12) (rest : List (BitVec 12)), s.links[n].resend = q :: rest →
    let again := s.links[n].replay.filter fun m => decide ((m.seq - q).toNat < 2048)
    let s1 : State := { s with links := s.links.set n { s.links[n] with resend := rest, flight := s.links[n].flight ++ again } }
    exec (.rakeResendRequest n) s =
      .next (if max 1 (s.fld fJeRakeCtl_RESEND) ≤ getAssoc s.links[n].fails q 0 then (s.eventE 0x20 n.val q.toNat).failSlice n 2
        else if again.any (fun m => decide (m.seq = q)) then s1.bump fJsRakeStat_RESENT n else s1).settle) ∧
  (∀ (s : State) (n : SliceId) (t : TrackerId) (err : EccErr), (n, t) ∈ s.endTokens → s.links[n].owes t = false →
    (∀ y ∈ s.endTokens, y.1 = n → y = (n, t)) →
    let s1 : State := { s with endTokens := eraseFirst (fun z => decide (z = (n, t))) s.endTokens }
    exec (.rakeEndToken n err) s =
      .next (((s1.bufErrFirst ((s1.preaggOf n).filter fun e => decide (e.c.t = t)) err).flushPre n fun e => decide (e.c.t = t)).modScatter t
        fun c => { c with ended := c.ended ||| BitVec.ofNat 8 (2 ^ n.val) }).settle) ∧
  (∀ (s : State) (e : PreAgg) (x : Tracker), s.trk e.c.t = some x →
    let mate (y : PreAgg) : Bool := decide (y.n = e.n) && decide (y.c.t = e.c.t) && decide (y.c.addr / 64 = e.c.addr / 64)
    s.flushEntry e = { s with
      preagg := s.preagg.filter fun y => !(mate y)
      addQ := s.addQ ++ (match (s.preagg.filter mate).map (·.c) with
        | [] => []
        | c :: r => [⟨e.n, x.part, some c.t, c.obj, c.addr / 64 * 64, .scatter (c :: r), false, false, (c :: r).any (·.old)⟩]) }) ∧
  (∀ (s s1 : State) (n : SliceId) (o : AddOp),
    s.addQ.find? (fun o => decide (o.n = n) && !(s.isBoard o.addr) && (o.issued || !(s.flipping o.addr)) && !(s.bankWaits (o.addr / 64))) =
      some o → s.tracked o.addr = false →
    ({ s with addQ := eraseFirst (fun y => decide (y = o)) s.addQ } : State).addHbm (sliceGens n) o = some s1 →
    exec (.adderReadReturn n) s = .next s1.settleWcb.settle)

/-- R52, R76, R110 to R114, R116, R228, R229, R233: a count that returns is taken: it goes up by one, at most to 2^31-1, where it reads poisoned it counts in
POISON_ADDS and starts nothing, below the threshold of its index's class it starts nothing, and at or above it the promotion is tried. An epoch begins a scan, or falls due and is counted late while one
runs; with ENABLE or EPOCH 0 no epoch begins, and with ENABLE 0 a scan ends. A class move that has written its row and its
remap entry counts as promoted, demoted or balanced and its old slot waits; one whose addresses do not translate gives its new slot back. A slot that no earlier command
reads goes to the tail of its ring. VERSION_SWITCH writes the new descriptor into the table's directory slot. -/
def Obligations.MixedWidthTables : Prop :=
  (∀ (s s1 : State) (q : PopAdd) (r : List PopAdd), s.popAdds = q :: r → ({ s with popAdds := r } : State).popTake q = .ok s1 →
    exec .popCountReturn s = .next s1.scanGo.settle) ∧
  (∀ (s s1 s2 : State) (q : PopAdd) (c : Nat) (bad : Bool), s.popCount q.part q.desc q.x = .ok (s1, c, bad) →
    let old : W32 := BitVec.ofNat 32 c
    let new : Int := min (toI32 old + 1) (2 ^ 31 - 1)
    s1.putCount q.part q.desc q.x (BitVec.ofInt 32 new).toNat = .ok s2 →
    (bad = true → s.popTake q = .ok (s2.bump fJpRakeStat_POISON_ADDS q.part)) ∧
    (bad = false → toI32 old < (Desc.upThresh q.desc q.cls : Int) → s.popTake q = .ok s2) ∧
    (∀ s3, bad = false → (Desc.upThresh q.desc q.cls : Int) ≤ toI32 old → s2.promote q = .ok s3 → s.popTake q = .ok s3)) ∧
  (∀ (s : State),
    (s.fld fJePopCtl_ENABLE = 0 → exec .epochScan s = .next ({ s with scan := none } : State).settle) ∧
    (s.fld fJePopCtl_EPOCH = 0 → exec .epochScan s = .next s.scanGo.settle) ∧
    (s.fld fJePopCtl_ENABLE ≠ 0 → s.fld fJePopCtl_EPOCH ≠ 0 → s.scan = none →
      exec .epochScan s = .next (State.scanParts 17 s.latchLoads ⟨0, 0, 0, 0, false⟩).settle) ∧
    (∀ c, s.fld fJePopCtl_ENABLE ≠ 0 → s.fld fJePopCtl_EPOCH ≠ 0 → s.scan = some c →
      exec .epochScan s =
        .next ((({ s with scan := some { c with due := true } } : State).bump fJpPopStat_EPOCHS_LATE c.p).scanGo).settle)) ∧
  (∀ (s : State) (n : SliceId),
    (s.latchLoads.fld fJsShardLoad_LAST_EPOCH n = min (2 ^ 32 - 1) (s.lineReads[n] / 16)) ∧ s.latchLoads.lineReads[n] = 0) ∧
  (∀ (s s1 : State) (k : Fin 64) (m : RowMove), s.moves.find? (fun m => decide (m.id = k)) = some m → s.doMove m = .ok s1 →
    exec (.classMoveDone k) s =
      .next (({ s1 with
        moves := eraseFirst (fun y => decide (y.id = k)) s1.moves
        slotBacks := s1.slotBacks ++ [⟨m.part, m.table, m.fromCls, m.fromSlot, s1.admitted, m.desc⟩] } : State).bump
          (if m.load then fJpBalanceStat_BALANCED else if m.toCls < m.fromCls then fJpPopStat_PROMOTED else fJpPopStat_DEMOTED)
          m.part).scanGo.settle) ∧
  (∀ (s : State) (k : Fin 64) (m : RowMove) (a : Nat) (acc : XAcc), s.moves.find? (fun m => decide (m.id = k)) = some m →
    s.doMove m = .error (.fault a acc) →
    let s1 := s.engWait m.part (.fault a acc)
    exec (.classMoveDone k) s =
      .next ({ s1 with
        moves := eraseFirst (fun y => decide (y.id = k)) s1.moves
        slotBacks := s1.slotBacks ++ [⟨m.part, m.table, m.toCls, m.toSlot, 0, m.desc⟩] } : State).scanGo.settle) ∧
  (∀ (s s1 s2 : State) (b : SlotBack) (f : FreeRing),
    s.slotBacks.find? (fun b => s.trackers.all fun x => !x.admitted || decide (b.before ≤ x.serial)) = some b →
    s.ringRec b.part b.desc b.cls = .ok (s1, f) → s1.ringAppend b.part f [b.slot] = .ok s2 →
    exec .slotReturn s = .next ({ s2 with slotBacks := eraseFirst (fun y => decide (y = b)) s2.slotBacks } : State).settle) ∧
  (∀ (s s1 : State) (t : TrackerId) (x : Tracker) (g : Current), s.startable t 0x40 = some x →
    s.graft.find? (fun g => decide (g.part = x.part) && decide (g.table = cTable x.cmd)) = some g →
    s.writePart x.part (.cmd t) (s.fld fJpTableDir_BASE x.part * 4096 + 128 * cTable x.cmd) (leBytes 128 g.desc.toNat) false (some t) =
      (s1, true) →
    exec (.versionSwitch t) s = .next ((s1.modTrk t fun y => { y with phase := .running }).settleSwitches).settle)

/-- R214 to R217, R238, R414: an action on JP_OBJ_CTL while BUSY is set answers RESULT 2, in a partition that is not ENABLED 6, with INDEX outside the
directory 1, and changes nothing else. Any other runs on the register as written, and where it ends at once with a RESULT that says why the register's
other fields stay. A record that reads poisoned or fails its checks answers 3, one of another generation 4, and one that passes is registered, its VALID
written. An object that is not registered answers 4; one whose TORN is cleared while a move is in progress 5, else TORN is
cleared in its record too; one that a current version names is not retired, with RESULT 5; any other is retiring. Once nothing uses a retiring object its record is written
without VALID and it is registered no longer; before that it waits. -/
def Obligations.ObjectActions : Prop :=
  (∀ (s : State) (p : Part) (h : W32), s.serving →
    let go (k : Nat) (t : State) : Prop := (k = 1 → exec (.objectRegister p h) s = .next t.settle) ∧
      (k = 2 → exec (.objectRetire p h) s = .next t.settle) ∧ (k = 3 → exec (.objectClearTorn p h) s = .next t.settle)
    ∀ k, k = 1 ∨ k = 2 ∨ k = 3 →
      let v := BitVec.ofNat 64 (k * 2 ^ 62 + h.toNat)
      (s.fld fJpObjCtl_BUSY p = 1 → go k (s.setFld fJpObjCtl_RESULT 2 p)) ∧
      (s.fld fJpObjCtl_BUSY p = 0 → s.partEnabled p = false → go k (s.setFld fJpObjCtl_RESULT 6 p)) ∧
      (s.fld fJpObjCtl_BUSY p = 0 → s.partEnabled p = true → s.objIndexOk p h = false → go k (s.setFld fJpObjCtl_RESULT 1 p)) ∧
      (s.fld fJpObjCtl_BUSY p = 0 → go k (s.orRefused .jpObjCtl p v ((s.put .jpObjCtl p v).objAction p k h)))) ∧
  (∀ (s : State) (p : Part) (h : W32) (k : Nat), s.partEnabled p = true → s.objIndexOk p h = true →
    s.objAction p k h =
      (((s.setFld fJpObjCtl_HANDLE h.toNat p).modPart p fun ps => { ps with objAct := some (k, h) }).setFld fJpObjCtl_BUSY 1 p).objGo p) ∧
  (∀ (s s1 : State) (p : Part) (h : W32) (e : Nat) (bad : Bool), (s.part p).objAct = some (1, h) →
    s.engRead p (s.objRecAddr p h) 32 (quiet := true) = .ok (s1, e, bad) →
    (bad = true ∨ s1.recordBad p e = true → s.objGo p = s1.objEnd p 3) ∧
    (bad = false → s1.recordBad p e = false → natBits e 120 8 ≠ bitsOf h 24 8 → s.objGo p = s1.objEnd p 4) ∧
    (∀ s2, bad = false → s1.recordBad p e = false → natBits e 120 8 = bitsOf h 24 8 →
      s1.engPut p (s1.objRecAddr p h) (leBytes 1 (e % 256 + 1)) (quiet := true) = .ok s2 →
      s.objGo p = ({ s2 with objs := s2.objs ++ [objOfRecord p h e] } : State).objEnd p 0)) ∧
  (∀ (s : State) (p : Part) (h : W32) (k : Nat), (s.part p).objAct = some (k, h) → k ≠ 1 → s.obj p h = none → s.objGo p = s.objEnd p 4) ∧
  (∀ (s s1 : State) (p : Part) (h : W32) (o : Obj) (cur : Bool), (s.part p).objAct = some (2, h) → s.obj p h = some o →
    s.objCurrent p h (dirBound (s.fld fJpTableDir_SIZE_LOG2 p) 20) = .ok (s1, cur) →
    s.objGo p = if cur then s1.objEnd p 5
      else (s1.modPart p fun ps => { ps with objAct := none, retire := some h }).modObj p h fun o => { o with retiring := true }) ∧
  (∀ (s : State) (p : Part) (h : W32) (k : Nat) (o : Obj), (s.part p).objAct = some (k, h) → k ≠ 1 → k ≠ 2 → s.obj p h = some o →
    (o.moving = true → s.objGo p = s.objEnd p 5) ∧
    (∀ s1, o.moving = false → s.engPut p (s.objRecAddr p h) (({ o with torn := false } : Obj).bytes true) (quiet := true) = .ok s1 →
      s.objGo p = (s1.modObj p h fun y => { y with torn := false }).objEnd p 0)) ∧
  (∀ (s : State) (p : Part) (h : W32) (o : Obj), (s.part p).retire = some h → s.obj p h = some o →
    (s.objUnused p h = false → exec (.objectRetireDone p) s = .next s.settle) ∧
    (∀ s1, s.objUnused p h = true → s.engPut p (s.objRecAddr p h) (o.bytes false) (quiet := true) = .ok s1 →
      exec (.objectRetireDone p) s =
        .next (({ s1 with objs := s1.objs.filter fun y => !(decide (y.part = p) && decide (y.handle = h)) } : State).objEnd p 0).settle))

/-- R222, R223, R225, R227, R272: OBJECT_MOVE marks the object and copies its first chunk. A chunk is copied
granule by granule, poison with it, once nothing translated for it is on its way; until then it waits, and what the Rake holds for it goes on to the adders. A chunk
whose writes are visible opens at its new place
(its old lines dropped, the early work that read it squashed, CURSOR and CHUNKS_MOVED advanced) and the next one is copied, or after the last the range is
retargeted: its base and its generation are written; a lost write stops the move. The object's tier changes and the command is done once nothing under the old mapping is on its way. -/
def Obligations.ObjectMoves : Prop :=
  (∀ (s : State) (t : TrackerId) (x : Tracker) (o : Obj), s.startable t 0x41 = some x → s.obj x.part (cObject x.cmd) = some o →
    let m : Move := ⟨t, x.part, cObject x.cmd, 0, false, false, s.objPhys o, 0, []⟩
    exec (.objectMove t) s =
      .next ((({ (s.modTrk t fun y => { y with phase := .running }) with objMoves := s.objMoves ++ [m] } : State).modObj x.part
        (cObject x.cmd) id).copyChunk m o).settle) ∧
  (∀ (s : State) (m : Move) (o : Obj),
    let src := m.old + m.chunk * 2 ^ 21
    let dst := o.target.toNat + m.chunk * 2 ^ 21
    let n := min (2 ^ 21) (o.len - m.chunk * 2 ^ 21)
    let s0 := s.flushSpans [(src, n)]
    ((∃ p : Part, s0.inTransit p [(src, n)] = true) → s.copyChunk m o = s0) ∧
    ((∀ p : Part, s0.inTransit p [(src, n)] = false) →
      s.copyChunk m o =
        ((List.range (n / 64)).foldl (fun (u : State) k =>
          let v := u.issueWrite (dst + 64 * k) (s0.rdBytes (src + 64 * k) 64) (s0.granPoison (src / 64 + k)) m.part (some m.t) m.handle
          if s0.granPoison (src / 64 + k) then v.poisonCmd m.t else v) s0).modObjMove m.t fun y => { y with issued := true })) ∧
  (∀ (s : State) (t : TrackerId) (m : Move) (x : Tracker) (o : Obj), s.objMoves.find? (fun m => decide (m.t = t)) = some m →
    s.trk t = some x → s.obj m.part m.handle = some o → m.finishing = false →
    (m.issued = false → exec (.objectMoveChunkDone t) s = .next (s.copyChunk m o).settle) ∧
    (m.issued = true → s.outstanding t = true → exec (.objectMoveChunkDone t) s = .next s.settle) ∧
    (m.issued = true → s.outstanding t = false → x.marks.lost = true →
      exec (.objectMoveChunkDone t) s =
        .next (((({ s with objMoves := s.objMoves.filter fun y => decide (y.t ≠ t) } : State).modObj m.part m.handle fun o =>
          { o with moving := false, stopped := true }).tear m.part m.handle (some t) false).modTrk t fun y => { y with phase := .done }).settle) ∧
    (m.issued = true → s.outstanding t = false → x.marks.lost = false →
      let lo := m.old + m.chunk * 2 ^ 21
      let n := o.chunkLen m.chunk
      let s1 := (((s.dropLines fun key => decide (lo % 2 ^ 56 / 256 ≤ key) && decide (key ≤ (lo % 2 ^ 56 + n - 1) / 256)).squash lo
        n).modObj m.part m.handle fun y => { y with cursor := m.chunk + 1 }).bump fJpObjStat_CHUNKS_MOVED m.part
      let m1 : Move := { m with chunk := m.chunk + 1, issued := false }
      let s2 := s1.modObjMove t fun _ => m1
      exec (.objectMoveChunkDone t) s = .next (if m1.chunk < ceilDiv o.len (2 ^ 21) then s2.copyChunk m1 o else s2.retarget m1 o).settle)) ∧
  (∀ (s : State) (m : Move) (o : Obj),
    let e := s.fld fJpXlatTable_BASE m.part * 4096 + 32 * o.range
    let gen := (s.rdNat (e + 24) 2 + 1) % 65536
    let old := ((s.rcache ++ s.rpast).filter fun y => decide (y.part = m.part) && decide (y.index = o.range)).map fun y => (y.phys, y.len)
    s.retarget m o =
      ((((s.pokeNat (e + 16) 8 o.target.toNat).pokeNat (e + 24) 2 gen).dropRanges m.part fun i => decide (i = o.range)).squash m.old
        o.len).modObjMove m.t fun y => { y with finishing := true, gen := BitVec.ofNat 16 gen, spans := (m.old, o.len) :: old }) ∧
  (∀ (s : State) (t : TrackerId) (m : Move) (x : Tracker) (o : Obj), s.objMoves.find? (fun m => decide (m.t = t)) = some m →
    s.trk t = some x → s.obj m.part m.handle = some o →
    let s1 := s.flushSpans m.spans
    let s2 : State := (s1.reread m.part o.range m.gen).1
    (m.finishing = false → exec (.objectMoveFinish t) s = .next s.settle) ∧
    (m.finishing = true → (∃ p : Part, s1.inTransit p m.spans = true) → exec (.objectMoveFinish t) s = .next s1.settle) ∧
    (m.finishing = true → (∀ p : Part, s1.inTransit p m.spans = false) →
      exec (.objectMoveFinish t) s =
        .next ((({ s2 with objMoves := s1.objMoves.filter fun y => decide (y.t ≠ t) } : State).modObj m.part m.handle fun y =>
          { y with moving := false, tier := cTier x.cmd }).modTrk t fun y => { y with phase := .done }).settle))

/-- R241, R243, R251, R256 to R258, R260, R262: the result of a granule read's check is counted against its slice; a clean or corrected one arrives without poison, any other
with it, and an uncorrectable one raises event 0x30 and has its row remapped. A granule that memory holds poisoned returns the poison pattern
whatever its check says. A bank that waits and a slice out of service return no read, and past the end of the memory there is no granule. Corrected errors
count against their row and have it remapped at ROW_CE_THRESH. A remapped row takes the first free entry where its bank has a spare, and else counts SPARE_OUT
with event 0x31; once copied, its entry is ACTIVE, in the always-on copy too. A hot stack is refreshed at
twice the rate until its temperature is normal. Test access is granted where the slice is out of service and in the test and recovery overlay, and refused with event 0x33 in one
that serves. -/
def Obligations.HbmRowsAndTest : Prop :=
  (∀ (s : State) (g : BitVec 46) (pl : RowPlace), g.toNat * 64 < s.hbmBound → s.placeOf (g.toNat * 64) = some pl →
    let ph := s.hbmPhys (g.toNat * 64) / 64
    let arrives (bad : Bool) : State := { s with
      badReads := if bad then insNat ph s.badReads else s.badReads.filter fun y => decide (y ≠ ph) }
    (∀ r, s.sliceServes pl.n none = false ∨ s.bankWaits ph = true → exec (.hbmReadReturn g r) s = .next s.settle) ∧
    (s.sliceServes pl.n none = true → s.bankWaits ph = false →
      (∀ r, ph ∈ s.poison → s.heldGran ph = none → exec (.hbmReadReturn g r) s = .next (s.bump fJsEccStat_POISON_READS pl.n).settle) ∧
      (ph ∉ s.poison →
        exec (.hbmReadReturn g .clean) s = .next (arrives false).settle ∧
        exec (.hbmReadReturn g .corrected) s = .next (((arrives false).bump fJsEccStat_CORR pl.n).trackError pl).settle ∧
        exec (.hbmReadReturn g .poisonPattern) s = .next ((arrives true).bump fJsEccStat_POISON_READS pl.n).settle ∧
        exec (.hbmReadReturn g .uncorrectable) s =
          .next ((((arrives true).bump fJsEccStat_UNCORR pl.n).eventE 0x30 pl.chan
            (pl.pc.toNat * 2 ^ 32 + pl.bank * 2 ^ 26 + pl.row % 2 ^ 16)).remapStart pl).settle))) ∧
  (∀ (s : State) (g : BitVec 46) (r : CheckResult), s.hbmBound ≤ g.toNat * 64 → exec (.hbmReadReturn g r) s = .fault .outsideSpace) ∧
  (∀ (s : State) (r : RowPlace),
    let hit (e : ErrRow) : Bool := decide (e.n = r.n) && decide (e.ch = r.ch) && decide (e.pc = r.pc) && decide (e.bank = r.bank) && decide (e.row = r.row)
    let old := ((s.errRows.find? hit).map (·.count)).getD 0
    let rest := s.errRows.filter fun e => !(hit e)
    (max 1 (s.fld fJsHbmCtl_ROW_CE_THRESH r.n) ≤ old + 1 → s.trackError r = ({ s with errRows := rest } : State).remapStart r) ∧
    (old + 1 < max 1 (s.fld fJsHbmCtl_ROW_CE_THRESH r.n) → (rest.filter fun e => decide (e.n = r.n) && decide (e.ch = r.ch)).length < 16 →
      s.trackError r = { s with errRows := rest ++ [⟨r.n, r.ch, r.pc, r.bank, r.row, old + 1⟩] })) ∧
  (∀ (s : State) (r : RowPlace),
    let all := (List.range 512).map fun i => s.reg .jsRemap r.n i
    let used := (all.filter r.sameBank).length
    let out := (s.bump fJsRemapStat_SPARE_OUT r.n).eventE 0x31 r.chan (r.pc.toNat * 2 ^ 32 + r.bank * 2 ^ 26 + r.row % 2 ^ 16)
    (s.fld fJsHbmCtl_REMAP r.n = 0 → s.remapStart r = s) ∧
    (s.fld fJsHbmCtl_REMAP r.n ≠ 0 → (∀ v ∈ all, r.sameBank v = true → bitsOf v 62 2 ≠ 1) →
      (∀ i, i < 512 → (∀ j, j < i → bitsOf (s.reg .jsRemap r.n j) 62 2 ≠ 0) → bitsOf (s.reg .jsRemap r.n i) 62 2 = 0 →
        (used < Config.spareRows r.n r.ch r.pc.toNat r.bank → s.remapStart r = (s.setReg .jsRemap (r.entry 1) r.n i).holdRow r i) ∧
        (Config.spareRows r.n r.ch r.pc.toNat r.bank ≤ used → s.remapStart r = out)) ∧
      ((∀ j, j < 512 → bitsOf (s.reg .jsRemap r.n j) 62 2 ≠ 0) → s.remapStart r = out))) ∧
  (∀ (s : State) (n : SliceId) (i : Fin 512),
    (bitsOf (s.reg .jsRemap n i) 62 2 ≠ 1 → exec (.rowRemapDone n i) s = .next s.settle) ∧
    (bitsOf (s.reg .jsRemap n i) 62 2 = 1 →
      let w := putBits (s.reg .jsRemap n i) 62 2 2
      let s0 := (s.rowHolds.filter fun h => decide (h.n = n) && decide (h.i = i.val)).foldl (fun (u : State) h => u.freeRow h) s
      let s1 := (s0.setReg .jsRemap w n i).bump fJsRemapStat_REMAPS n
      exec (.rowRemapDone n i) s = .next ({ s1 with remapCopy := putAssoc s1.remapCopy (512 * n.val + i.val) w } : State).settleWcb.settle)) ∧
  (∀ (s : State) (n : SliceId),
    let refresh (on : Bool) : State := s.setFld fJeHbmCap_REF_2X (putBits (BitVec.ofNat 64 (s.fld fJeHbmCap_REF_2X)) n 1 on.toNat).toNat
    exec (.stackTempHigh n) s = .next (refresh true).settle ∧ exec (.stackTempNormal n) s = .next (refresh false).settle) ∧
  (∀ (s : State) (n : SliceId),
    (2 ≤ s.sliceState n ∨ s.fld fJeStart_MODE = 3 →
      exec (.testAccessRequest n) s = .next ({ s with out := s.out ++ [.testGrant n] } : State).settle) ∧
    (s.sliceState n < 2 → s.fld fJeStart_MODE ≠ 3 → exec (.testAccessRequest n) s = .next (s.eventE 0x33 n 0).settle))

/-- R187, R242, R244 to R249, R256, R260, R297, R304: the oldest write of a slice is accepted, or waits, its first want of an entry counted. A write waits while its page flips; is lost where
its channel is out of service; goes through its line's home where cores may hold it; and else enters its slice's buffer: the entry of its granule, or a
new one of 2,048, or it waits. Copies and early work
that covered it go, and from 1,792 entries on all are eligible. Merging a write of all 64 bytes brings its own poison, a smaller one adds to it. An entry that reaches its age becomes eligible, and a partial one issues its merge read, counted once; a merge read makes the entry whole, but not of a bank that waits. A
whole eligible entry goes to HBM once its pseudo-channel has turned to writes. A
write-back that completes stores all 64 bytes of the granule, with the entry's poison, and frees the entry; one whose entry fails its ECC is stored poisoned and counted. -/
def Obligations.WriteCombining : Prop :=
  (∀ (s : State) (n : SliceId) (w : WrReq) (r : List WrReq), s.wrQ = w :: r → s.isBoard w.addr = false → s.sliceOf w.addr = n →
    (∀ s1, ({ s with wrQ := r } : State).tryWrite w = some s1 → exec (.wcbWriteAccept n) s = .next s1.settleHome.settle) ∧
    (({ s with wrQ := r } : State).tryWrite w = none → r = [] →
      let y := s.noteFull w
      exec (.wcbWriteAccept n) s = .next ({ y.1 with wrQ := [y.2] } : State).settleHome.settle)) ∧
  (∀ (s : State) (w : WrReq) (n : SliceId),
    (s.wrPlace w = .flips → s.tryWrite w = none) ∧
    (s.wrPlace w = .lost → s.tryWrite w = some (s.writeLost w.part w.owner w.obj w.record w.plain)) ∧
    (s.wrPlace w = .home n → s.homeLoad n < 512 → s.tryWrite w = some (s.homeJ (hbmLine w.addr) (.jWrite w) .inv)) ∧
    (s.wrPlace w = .home n → 512 ≤ s.homeLoad n → s.tryWrite w = none) ∧
    (s.wrPlace w = .buffer n → s.tryWrite w = s.takeWcb n w) ∧
    (s.wrPlace w = .buffer n → w.waited = false → s.noteFull w = (s.bump fJsWcbStat_FULL_WAITS n, { w with waited := true }))) ∧
  (∀ (s : State) (w : WrReq) (c k : Nat), s.channelOf w.addr = some (c, k) → w.issued = false → w.atHome = false →
    let n : SliceId := Fin.ofNat 8 (c / 32)
    let ok := s.sliceServes n (w.owner.bind s.serialOf)
    let shared := s.tracked w.addr && ((s.trOf (hbmLine w.addr)).isSome || (s.txnOn (hbmLine w.addr)).isSome)
    (s.flipping w.addr = true → s.wrPlace w = .flips) ∧
    (s.flipping w.addr = false → ok = false → s.wrPlace w = .lost) ∧
    (s.flipping w.addr = false → ok = true → shared = true → s.wrPlace w = .home n) ∧
    (s.flipping w.addr = false → ok = true → shared = false → s.wrPlace w = .buffer n)) ∧
  (∀ (s : State) (n : SliceId) (w : WrReq), w.zeroLine = false →
    let part := if w.plain then none else some w.part
    let bg := s.bgOf w.owner && decide (w.record = none)
    let accepted (l : List WcbEnt) : State :=
      let s1 := ({ s with wcb := l } : State).settleWcb
      let s2 := (s1.writeActs w).peak fJsWcbStat_PEAK (s1.wcbCount n) n
      (if 1792 ≤ s2.wcbCount n then s2.makeEligible fun e => decide (e.n = n) else s2).recordSeen w.part w.irq
    ((∀ e ∈ s.wcb, e.covers (w.addr / 64) = true → e.state = .writing) →
      (s.wcbCount n < 2048 →
        s.takeWcb n w = some (accepted (s.wcb ++
          [(⟨n, w.addr / 64, 0, 0, false, part, bg, .open_, false, 0⟩ : WcbEnt).merge (w.addr % 64) w.bytes w.poison]))) ∧
      (2048 ≤ s.wcbCount n → s.takeWcb n w = none)) ∧
    (∀ e, s.wcb.find? (fun e => e.covers (w.addr / 64) && decide (e.state ≠ .writing)) = some e → e.zmask = 0 →
      s.takeWcb n w = some (accepted (updFirst (fun x => decide (x = e))
        (fun x => { x.merge (w.addr % 64) w.bytes w.poison with part := part, bg := bg }) s.wcb)))) ∧
  (∀ (e : WcbEnt) (off : Nat) (bs : List Byte) (bad : Bool), (e.merge off bs bad).poison = if bs.length = 64 then bad else e.poison || bad) ∧
  (∀ (s : State) (n : SliceId) (g : BitVec 46),
    let due (e : WcbEnt) : Bool :=
      decide (e.n = n) && decide (e.granule = s.hbmPhys (g.toNat * 64) / 64) && !e.eligible && decide (e.state = .open_)
    let step (e : WcbEnt) : WcbEnt :=
      if due e then { e with eligible := true, state := if e.mask = BitVec.allOnes 64 then .open_ else .merging } else e
    let s1 := (s.wcb.filter fun e => due e && decide (e.mask ≠ BitVec.allOnes 64)).foldl
      (fun (u : State) (e : WcbEnt) => u.bump fJsWcbStat_MERGE_READS e.n) s
    exec (.wcbAgeExpiry n g) s = .next (({ s1 with wcb := s1.wcb.map step } : State).settleWcb.settleHome).settle) ∧
  (∀ (s : State) (n : SliceId) (g : BitVec 46),
    let ph := s.hbmPhys (g.toNat * 64) / 64
    let hit (e : WcbEnt) : Bool := decide (e.n = n) && decide (e.granule = ph) && decide (e.state = .merging)
    let whole (e : WcbEnt) : WcbEnt := { e with
      data := BitVec.ofNat 512 (leNat (s.rdBytes (e.granule * 64) 64))
      mask := BitVec.allOnes 64
      poison := e.poison || ({ s with wcb := s.wcb.filter fun x => decide (x ≠ e) } : State).granPoison e.granule
      state := .open_ }
    (s.wcb.find? hit = none ∨ s.bankWaits ph = true → exec (.mergeReadReturn n g) s = .next s.settle) ∧
    (∀ e, s.wcb.find? hit = some e → s.bankWaits ph = false →
      exec (.mergeReadReturn n g) s = .next (({ s with wcb := updFirst hit whole s.wcb } : State).bwEntry e 1).settleWcb.settle)) ∧
  (∀ (s : State) (e : WcbEnt), s.wcb = [e] →
    (e.waits = true → s.turned e = true → s.bankWaits e.granule = false → s.settleWcb = { s with wcb := [{ e with state := .writing }] }) ∧
    (e.waits = false ∨ s.turned e = false ∨ s.bankWaits e.granule = true → s.settleWcb = s)) ∧
  (∀ (s : State) (n : SliceId) (g : BitVec 46) (bad : Bool),
    let hit (e : WcbEnt) : Bool :=
      decide (e.n = n) && decide (e.granule = s.hbmPhys (g.toNat * 64) / 64) && decide (e.state = .writing)
    (s.wcb.find? hit = none → exec (.wcbWriteBackDone n g bad) s = .next s.settle) ∧
    (∀ e, s.wcb.find? hit = some e → e.zmask = 0 →
      let s0 := if bad then s.bump fJsEccStat_WCB_UNCORR n else s
      let s1 := (s0.putGran e.granule (leBytes 64 e.data.toNat) (e.poison || bad)).bwEntry { e with poison := e.poison || bad } 1
      exec (.wcbWriteBackDone n g bad) s = .next (({ s1 with wcb := eraseFirst hit s1.wcb } : State).settleWcb.settleHome).settle)) ∧
  (∀ (s : State) (g : Nat) (bs : List Byte) (bad : Bool), s.heldGran g = none →
    s.putGran g bs bad = { s with
      mem := memPutList s.mem (g * 64) bs
      poison := if bad then insNat g s.poison else delNat g s.poison
      badReads := s.badReads.filter fun y => decide (y ≠ g) })

/-- R268, R269, R275, R277, R280 to R282: a read of JP_FAULT answers the next word of the oldest unread record, and only a read of the whole or the high half
moves on; with none it answers the last value again and sets UNDERRUN. A reply to an open record closes it and lets its requests translate again, the range's entry read afresh, or aborts their commands; a reply to no open record sets
REPLY_STALE. A key line of a walk halves the search, or ends it with the entry to read; a poisoned line, no key at or below the address, or an entry outside the table ends the
walk with its fault. The entry read of a walk waits while its range is invalidated; poisoned, not VALID, malformed or not covering the address it ends the walk with its fault, and
whole, well formed and covering the address it fills the range cache. -/
def Obligations.FaultsAndWalks : Prop :=
  (∀ (s : State) (p : Part) (acc : RegAcc), s.serving →
    ((s.part p).faults.find? (fun f => decide (f.wordsRead < 4)) = none →
      exec (.faultRead p acc) s =
        .next ((s.setFld fJpFaultStatus_UNDERRUN 1 p).emit (.readData (viewOf acc (s.part p).faultLast) false)).settle) ∧
    (∀ f, (s.part p).faults.find? (fun f => decide (f.wordsRead < 4)) = some f →
      let v := f.word f.wordsRead
      let s1 := s.modPart p fun ps => { ps with faultLast := v }
      exec (.faultRead p acc) s =
        .next ((if acc = .lo then s1 else (s1.modPart p fun ps => { ps with
          faults := updFirst (fun x => decide (x.id = f.id)) (fun x => { x with wordsRead := x.wordsRead + 1 }) ps.faults }).drainFaults p).emit
            (.readData (viewOf acc v) false)).settle)) ∧
  (∀ (s : State) (p : Part) (id : BitVec 16), s.serving →
    ((s.part p).faults.find? (fun f => decide (f.id = id) && f.isOpen) = none →
      exec (.faultRetry p id) s = .next (s.setFld fJpFaultStatus_REPLY_STALE 1 p).settle ∧
      exec (.faultAbort p id) s = .next (s.setFld fJpFaultStatus_REPLY_STALE 1 p).settle) ∧
    (∀ f, (s.part p).faults.find? (fun f => decide (f.id = id) && f.isOpen) = some f →
      let s1 := s.modPart p fun ps => { ps with
        faults := updWhere (fun x => decide (x.id = id) && x.isOpen) (fun x => { x with isOpen := false }) ps.faults
        parked := ps.parked.filter fun x => decide (x.rec_ ≠ some id) }
      exec (.faultRetry p id) s =
        .next (((s1.freshWalks p).forgetRanges fun e => decide (e.part = p) && decide (BitVec.ofNat 32 e.index = f.range)).drainFaults p).settle ∧
      exec (.faultAbort p id) s =
        .next ((((s.part p).parked.filter fun x => decide (x.rec_ = some id)).foldl (fun u x => u.abortParker p x.addr x.who) s1).drainFaults
          p).settle)) ∧
  (∀ (s : State) (k : Fin 16) (w : Walk), s.walks.find? (fun w => decide (w.k = k)) = some w → w.entry = none →
    let mid := if w.lo = w.hi then w.lo else (w.lo + w.hi + 1) / 2
    let la := w.keys + 256 * mid
    let ks := keysOf (s.rdBytes la 256) (min 16 (2 ^ s.fld fJpXlatTable_SIZE_LOG2 w.part))
    let s1 := s.jReadDone (.walk k)
    let go (t : State) : Prop := exec (.walkReadReturn k) s = .next t.engGo.settle
    s.jReadOk (.walk k) la = (s, true) →
    (s.rdPoison la 256 = true → go (s1.endWalk w (some (.walkPoison, 0xFFFFFFFF, 0)))) ∧
    (s.rdPoison la 256 = false → w.lo ≠ w.hi → ∀ st i r, ks = (st, i) :: r →
      go { s1 with walks := updFirst (fun x => decide (x.k = w.k)) (fun x => if w.addr < st then { x with hi := mid - 1 } else { x with lo := mid }) s.walks }) ∧
    (s.rdPoison la 256 = false → w.lo = w.hi → ∀ st i, (ks.filter fun q => decide (q.1 ≤ w.addr)).getLast? = some (st, i) →
      i < 2 ^ min (s.fld fJpXlatTable_SIZE_LOG2 w.part) 20 →
      go { s1 with walks := updFirst (fun x => decide (x.k = w.k)) (fun x => { x with entry := some i }) s.walks }) ∧
    (s.rdPoison la 256 = false → w.lo = w.hi → ∀ st i, (ks.filter fun q => decide (q.1 ≤ w.addr)).getLast? = some (st, i) →
      2 ^ min (s.fld fJpXlatTable_SIZE_LOG2 w.part) 20 ≤ i →
      go (s1.endWalk w (some (.malformed, BitVec.ofNat 32 i, 0)) fun a => decide (st ≤ a) && decide (a ≤ w.addr))) ∧
    (s.rdPoison la 256 = false → w.lo = w.hi → (∀ q ∈ ks, w.addr < q.1) →
      go (s1.endWalk w (some (.noRange, 0xFFFFFFFF, 0)) fun a => decide (a ≤ w.addr)))) ∧
  (∀ (s : State) (k : Fin 16) (w : Walk) (i : Nat), s.walks.find? (fun w => decide (w.k = k)) = some w → w.entry = some i →
    let base := s.fld fJpXlatTable_BASE w.part * 4096 + 32 * i
    let rg := BitVec.ofNat 32 i
    let e := s.rdNat base 32
    let ent := entryOf w.part i e
    let here (a : Nat) : Bool := decide (ent.start ≤ a) && decide (a < ent.start + ent.len)
    let s1 := s.jReadDone (.walk k)
    let go (t : State) : Prop := exec (.walkReadReturn k) s = .next t.engGo.settle
    let valid := natBits e 0 1 = 1 ∧ i ∉ (s.part w.part).unmapped
    s.jReadOk (.walk k) base = (s, true) →
    (s.rangeHeld w.part i = true → go s1) ∧
    (s.rangeHeld w.part i = false → s.rdPoison base 32 = true → go (s1.endWalk w (some (.walkPoison, rg, 0)))) ∧
    (s.rangeHeld w.part i = false → s.rdPoison base 32 = false → ¬valid → go (s1.endWalk w (some (.noRange, rg, ent.gen)) here)) ∧
    (s.rangeHeld w.part i = false → s.rdPoison base 32 = false → valid → s.entryBad e = true →
      go (s1.endWalk w (some (.malformed, rg, ent.gen)) here)) ∧
    (s.rangeHeld w.part i = false → s.rdPoison base 32 = false → valid → s.entryBad e = false → ent.covers w.part w.addr = false →
      go (s1.endWalk w (some (.noRange, rg, ent.gen)) fun a => decide (ent.start + ent.len ≤ a) && decide (a ≤ w.addr))) ∧
    (s.rangeHeld w.part i = false → s.rdPoison base 32 = false → valid → s.entryBad e = false → ent.covers w.part w.addr = true →
      go ((s1.fillRange ent).endWalk w none)))

/-- R211, R271, R282 to R284, R414: BASE of JP_XLAT_INDEX publishes a new key array, BUSY until no walk uses the old one; a write while it is BUSY
is refused with event 0x03. An invalidation of a range, or of all, asked for while one is BUSY answers RESULT 2, and in a partition that is not ENABLED 4; else it removes the ranges from the range cache with the walks that found them, squashes early
work that read them and is BUSY. It waits while anything it translated is on its way, what the Rake holds of it going on to the adders, and ends with BUSY clear, RESULT 0, its generation acknowledged and its event where IRQ asked
for one; where the entry with that generation is not found RESULT is 3 and the range is not VALID until its next invalidation. -/
def Obligations.TranslationTables : Prop :=
  (∀ (s : State) (p : Part) (v : W64), s.serving →
    (s.fld fJpXlatIndex_BUSY p = 0 →
      let s1 := s.stored ⟨.jpXlatIndex, p, 0⟩ .full v
      let s2 : State := { s1 with
        walks := s.walks.map fun (w : Walk) => { w with old := w.old || decide (w.part = p) }
        walkFaults := s.walkFaults.filter fun f => decide (f.part ≠ p) }
      exec (.xlatIndexPublish p v) s =
        .next (((s2.setFld fJpXlatIndex_BASE (s1.fld fJpXlatIndex_BASE p) p).setFld fJpXlatIndex_BUSY 1 p).settleIndex p).settle) ∧
    (s.fld fJpXlatIndex_BUSY p = 1 →
      exec (.xlatIndexPublish p v) s = .next (s.eventE 0x03 (RegId.addr .jpXlatIndex p 0) v.toNat).settle)) ∧
  (∀ (s : State) (p : Part), ((∃ w ∈ s.walks, w.part = p ∧ w.old = true) → s.settleIndex p = s) ∧
    ((∀ w ∈ s.walks, w.part = p → w.old = false) → s.settleIndex p = s.setFld fJpXlatIndex_BUSY 0 p)) ∧
  (∀ (s : State) (p : Part) (gen : BitVec 16) (irq : Bool), s.serving →
    let v (a : Nat) := BitVec.ofNat 64 (a * 2 ^ 62 + (irq.toNat * 2 ^ 60 + gen.toNat * 2 ^ 16))
    (s.fld fJpXlatInval_BUSY p = 1 → exec (.xlatInvalRange p gen irq) s = .next (s.setFld fJpXlatInval_RESULT 2 p).settle ∧
      exec (.xlatInvalAll p gen irq) s = .next (s.setFld fJpXlatInval_RESULT 2 p).settle) ∧
    (s.fld fJpXlatInval_BUSY p = 0 → s.partEnabled p = false →
      exec (.xlatInvalRange p gen irq) s = .next (s.setFld fJpXlatInval_RESULT 4 p).settle ∧
      exec (.xlatInvalAll p gen irq) s = .next (s.setFld fJpXlatInval_RESULT 4 p).settle) ∧
    (s.fld fJpXlatInval_BUSY p = 0 → s.partEnabled p = true →
      exec (.xlatInvalRange p gen irq) s = .next ((s.put .jpXlatInval p (v 1)).invalRange p gen irq).settle ∧
      exec (.xlatInvalAll p gen irq) s = .next ((s.put .jpXlatInval p (v 2)).invalAll p gen irq).settle)) ∧
  (∀ (s : State) (p : Part) (gen : BitVec 16) (irq : Bool),
    let r := s.fld fJpXlatInvalRange_RANGE p
    let old := ((s.rcache ++ s.rpast).filter fun e => decide (e.part = p) && decide (e.index = r)).map fun e => (e.phys, e.len)
    s.invalRange p gen irq =
      ((s.modPart p fun ps => { ps with inval := some ⟨some r, old, gen, irq⟩ }).setFld fJpXlatInval_BUSY 1 p).dropRanges p fun i =>
        decide (i = r)) ∧
  (∀ (s : State) (p : Part) (gen : BitVec 16) (irq : Bool),
    let s1 := ((s.markOld p).modPart p fun ps => { ps with inval := some ⟨none, [], gen, irq⟩, unmapped := [] }).setFld fJpXlatInval_BUSY 1 p
    let s2 := s1.dropRanges p fun _ => true
    s.invalAll p gen irq = ({ s2 with walks := s2.walks.filter fun w => decide (w.part ≠ p) } : State).settleIndex p) ∧
  (∀ (s : State) (p : Part) (f : Nat → Bool),
    let hit (e : RangeEnt) : Bool := decide (e.part = p) && f e.index
    let s1 : State := { s.freshWalks p with
      rcache := s.rcache.filter fun e => !(hit e)
      rpast := s.rpast.filter fun e => !(hit e)
      walks := s.walks.filter fun w => !(decide (w.part = p) && w.entry.any f)
      streams := s.streams.map fun (c : StreamCmd) => { c with
        range := c.range.filter fun e => !(hit e)
        rcvs := c.rcvs.map fun (r : Receiver) => { r with range := r.range.filter fun e => !(hit e) } } }
    s.dropRanges p f = ((s.rcache ++ s.rpast).filter hit).foldl (fun u e => u.squash e.phys e.len) (s1.settleIndex p)) ∧
  (∀ (s : State) (p : Part) (v : Inval), (s.part p).inval = some v →
    let t := s.flushHeld p fun c => if v.range = none then c.old else c.within v.old
    (t.part p).inval = some v →
    let waits : Bool := if v.range = none then t.inTransitOld p else t.inTransit p v.old
    let s1 := (t.modPart p fun ps => { ps with inval := none }).setFld fJpXlatInval_BUSY 0 p
    (waits = true → exec (.xlatInvalDone p) s = .next t.settle) ∧
    (waits = false → v.range = none →
      let s2 := s1.setFld fJpXlatInval_RESULT 0 p
      exec (.xlatInvalDone p) s =
        .next (if v.irq then s2.eventP p 0x0E 0xFFFFFFFF (s2.fld fJpXlatInval_ACK_GEN p) else s2).settle) ∧
    (∀ r, waits = false → v.range = some r →
      let s2 := ((s1.reread p r v.gen).1.setFld fJpXlatInval_RESULT (if (s1.reread p r v.gen).2 then 0 else 3) p).setFld
        fJpXlatInval_ACK_GEN v.gen.toNat p
      exec (.xlatInvalDone p) s = .next (if v.irq then s2.eventP p 0x0E r v.gen.toNat else s2).settle)) ∧
  (∀ (s : State) (p : Part) (r : Nat) (gen : BitVec 16),
    let base := s.fld fJpXlatTable_BASE p * 4096 + 32 * r
    let e := s.rdNat base 32
    let s1 (l : List Nat) := s.modPart p fun ps => { ps with unmapped := (ps.unmapped.filter fun i => decide (i ≠ r)) ++ l }
    (natBits e 192 16 = gen.toNat → s.rdPoison base 32 = false →
      s.reread p r gen = (if natBits e 0 1 = 1 ∧ s.entryBad e = false then (s1 []).fillRange (entryOf p r e) else s1 [], true)) ∧
    (natBits e 192 16 ≠ gen.toNat ∨ s.rdPoison base 32 = true → s.reread p r gen = (s1 [r], false)))

/-- R293, R294, R296, R300, R301, R304 to R308, R310, R312: while the link runs, a request with the window disabled gets an error and event 0x40, one from an agent that is refused, or to a line without a home in
service, an error, and one while the window moves a RETRY. A request to a shared page that finds its line in no entry is served at once: a caching request takes a way of the line's
set and is granted the line, shared or as its only holder; a read, a write or an atomic is served at the memory and leaves the Trellis as it is. A line in
S or F is granted shared with its forwarder asked first, read at the memory, and invalidated at its other holders for a new owner; a line in X is asked of its owner. A
caching request to a device page starts the page's flip and waits. An entry that fails its check raises event 0x41 and every live agent is snooped. -/
def Obligations.CoherentRequests : Prop :=
  (∀ (s : State) (a : Byte) (x : BitVec 36) (lost : Bool) (data : List Byte) (mask : BitVec 256) (op : AtomicOp), s.serving →
    s.fld fJeFabStatus_STATE = 0 →
    let all (t : State) : Prop := exec (.rdShared a x lost) s = .next t.settle ∧ exec (.rdOwn a x lost) s = .next t.settle ∧
      exec (.upgrade a x lost) s = .next t.settle ∧ exec (.rdCur a x lost) s = .next t.settle ∧
      exec (.wrLine a x data lost) s = .next t.settle ∧ exec (.wrPart a x mask data lost) s = .next t.settle ∧
      exec (.atomic a x op lost) s = .next t.settle
    (s.fld fJeWinCtl_ENABLED = 0 → all ((s.eventE 0x40 a.toNat x.toNat).emit (.fabError a x.toNat))) ∧
    (s.fld fJeWinCtl_ENABLED = 1 → s.agentRefused a true = true →
      exec (.rdShared a x lost) s = .next (s.emit (.fabError a x.toNat)).settle ∧
      exec (.rdOwn a x lost) s = .next (s.emit (.fabError a x.toNat)).settle ∧
      exec (.upgrade a x lost) s = .next (s.emit (.fabError a x.toNat)).settle ∧
      (s.agentBit .jeFabDeadmask a = true → all (s.emit (.fabError a x.toNat)))) ∧
    (s.fld fJeWinCtl_ENABLED = 1 → (∀ c, s.agentRefused a c = false) →
      (s.homeOf (s.winLine x) = none → all (s.emit (.fabError a x.toNat))) ∧
      (∀ n set, s.homeOf (s.winLine x) = some (n, set) →
        (s.fab.winAction = 3 → all ((s.bump fJsTrellisStat_RETRIES n).emit (.retry a (s.winLine x) 1024))) ∧
        (s.fab.winAction ≠ 3 → s.sliceServes n none = false → all (s.emit (.fabError a x.toNat)))))) ∧
  (∀ (s : State) (a : Byte) (x : BitVec 36) (n : SliceId) (set : Nat), s.serving → s.homeFree a x n set true → s.pageIs x .shared →
    s.trOf (s.winLine x) = none →
    let line := s.winLine x
    let used := s.trellis.filter fun e => decide (e.n = n) && decide (e.set = set)
    used.length < 16 →
    let s0 : State := { s with trellis := s.trellis ++ [⟨n, set, firstFree (used.map (·.way)) 16 0, line, .s, false, [], none, [], s.clock⟩] }
    let s1 := s0.peak fJsTrellisUse_PEAK (s0.trellis.filter fun e => decide (e.n = n)).length n.val
    exec (.rdShared a x false) s =
      .next ((s1.grantLine a line true fun e => e.share a (decide (s.fld fJeFabCtl_FWD_EN = 1))).settleHome).settle ∧
    exec (.rdOwn a x false) s = .next ((s1.grantLine a line true fun e => e.own a).settleHome).settle ∧
    exec (.upgrade a x false) s = .next ((s1.grantLine a line true fun e => e.own a).settleHome).settle) ∧
  (∀ (s : State) (a : Byte) (x : BitVec 36) (n : SliceId) (set : Nat), s.serving → s.homeFree a x n set false → s.pageIs x .shared →
    s.trOf (s.winLine x) = none →
    let line := s.winLine x
    exec (.rdCur a x false) s = .next ((s.emit (.grant a line (some (s.lineData line).1) (s.lineData line).2)).settleHome).settle ∧
    (∀ (data : List Byte) (s1 : State), s.takeAll n (coreWrites (s.lineAddr line) (BitVec.allOnes 256) data) = some s1 →
      exec (.wrLine a x data false) s = .next ((s1.emit (.ack a line)).settleHome).settle) ∧
    (∀ (mask : BitVec 256) (data : List Byte) (s1 : State), s.takeAll n (coreWrites (s.lineAddr line) mask data) = some s1 →
      exec (.wrPart a x mask data false) s = .next ((s1.emit (.ack a line)).settleHome).settle) ∧
    (∀ (op : AtomicOp) (s1 : State) (old : W64),
      (s.placeAtomic n set none).1.doAtomic n line (x.toNat % 256 / atomSize op * atomSize op) op = some (s1, old) →
      exec (.atomic a x op false) s = .next ((s1.emit (.old a old)).settleHome).settle)) ∧
  (∀ (s : State) (a : Byte) (x : BitVec 36) (n : SliceId) (set : Nat), s.serving → s.homeFree a x n set true → s.pageIs x .device →
    let page := s.pageOf (s.lineAddr (s.winLine x))
    let s1 := s.startFlip page
    s1.homeLoad n < 512 →
    let held (k : ReqKind) : State := { s1 with coreReqs := s1.coreReqs ++ [⟨some a, s.winLine x, k⟩] }
    exec (.rdShared a x false) s = .next (held .rdShared).settle ∧ exec (.rdOwn a x false) s = .next (held .rdOwn).settle ∧
    exec (.upgrade a x false) s = .next (held .upgrade).settle) ∧
  (∀ (s : State) (q : CoreReq) (n : SliceId) (set : Nat) (e : TrEnt), s.homeOf q.line = some (n, set) → s.sliceServes n none = true →
    s.inWindow (s.lineAddr q.line) = true → s.biasOf (s.pageOf (s.lineAddr q.line)) = .shared → s.trOf q.line = some e →
    (e.state = .x → (∀ a, q.agent = some a → e.holders ≠ [a]) →
      (q.req = .rdShared → q.agent ≠ none → s.serveReq q = s.openFor e q e.holders .share) ∧
      ((q.req = .rdOwn ∨ q.req = .upgrade) → q.agent ≠ none → s.serveReq q = s.openFor e q e.holders .inv) ∧
      (q.req = .rdCur → s.serveReq q = s.openFor e q e.holders .cur) ∧
      (∀ m d, q.req = .write m d → s.serveReq q = s.openFor e q e.holders .inv)) ∧
    (e.state ≠ .x →
      (∀ a, q.agent = some a → q.req = .rdShared → (e.state ≠ .f ∨ e.fwd = none ∨ e.fwd = some a) →
        s.serveReq q = (s.grantLine a q.line true fun e => e.share a (decide (s.fld fJeFabCtl_FWD_EN = 1)), .done)) ∧
      (∀ a f, q.agent = some a → q.req = .rdShared → e.state = .f → e.fwd = some f → f ≠ a → s.serveReq q = s.openFor e q [f] .fwd) ∧
      (∀ a, q.agent = some a → q.req = .rdOwn → s.serveReq q = s.takeOwn e q a true) ∧
      (∀ a, q.agent = some a → q.req = .upgrade → s.serveReq q = s.takeOwn e q a (!(e.ovf || decide (a ∈ e.holders)))) ∧
      (∀ m d, q.req = .write m d → s.serveReq q = s.openFor e q (s.holdersOf e) .inv))) ∧
  (∀ (s : State) (e : TrEnt) (q : CoreReq) (a : Byte) (data : Bool),
    ((s.holdersOf e).filter (fun h => decide (h ≠ a)) = [] → s.takeOwn e q a data = (s.grantLine a q.line data fun e => e.own a, .done)) ∧
    ((s.holdersOf e).filter (fun h => decide (h ≠ a)) ≠ [] →
      s.takeOwn e q a data = s.openFor e q ((s.holdersOf e).filter fun h => decide (h ≠ a)) .inv)) ∧
  (∀ (s : State) (line : Nat) (e : TrEnt), s.trOf line = some e → s.txnOn line = none →
    let s1 := (s.eventE 0x41 e.n (e.set * 16 + e.way)).openTxn none line none .recall (s.liveAgents.map fun a => (a, .inv))
    s.entryLost line =
      ({ s1 with txns := updFirst (fun x => decide (x.line = line)) (fun x => { x with lost := true }) s1.txns } : State).settleHome) ∧
  (∀ (s : State) (a : Byte) (x : BitVec 36) (n : SliceId) (set : Nat), s.serving → s.homeFree a x n set true →
    exec (.rdShared a x true) s = .next ((s.entryLost (s.winLine x)).coreGo n set ⟨some a, s.winLine x, .rdShared⟩ a).settle ∧
    exec (.rdOwn a x true) s = .next ((s.entryLost (s.winLine x)).coreGo n set ⟨some a, s.winLine x, .rdOwn⟩ a).settle ∧
    exec (.upgrade a x true) s = .next ((s.entryLost (s.winLine x)).coreGo n set ⟨some a, s.winLine x, .upgrade⟩ a).settle)

/-- R301, R302, R304, R309, R312: the owner's write-back puts its data in memory and frees the entry; one from an agent that owns nothing is stray, acknowledged and counted. With a
transaction open on the line the owner's data are written, but for a whole-line write. An
answer that the line's transaction awaits is taken with the owner's data, an agent that holds nothing leaves the entry, and an answer that none awaits changes nothing. The oldest grant's time ends.
An agent whose answer is overdue, with SNOOP_LIMIT not 0 and the link up and not retraining, or that the host declares dead, is recorded in the dead mask with event 0x42 and its lines are reclaimed, BUSY until the scan ends; its waiting requests are refused. -/
def Obligations.SnoopsAndDeadAgents : Prop :=
  (∀ (s : State) (a : Byte) (x : BitVec 36) (data : List Byte) (n : SliceId) (set : Nat), s.serving → s.homeFree a x n set true →
    (∀ e, s.trOf (s.winLine x) = some e → e.state = .x → e.holders = [a] →
      exec (.wbDirty a x data) s =
        .next ((((s.putLine (s.winLine x) data).freeTr (s.winLine x)).emit (.ack a (s.winLine x))).settleHome).settle) ∧
    ((∀ e, s.trOf (s.winLine x) = some e → ¬(e.state = .x ∧ e.holders = [a])) →
      exec (.wbDirty a x data) s = .next ((s.bump fJsAtomicStat_STRAY_WB n.val).emit (.ack a (s.winLine x))).settle)) ∧
  (∀ (s : State) (a : Byte) (x : BitVec 36) (data : List Byte) (n : SliceId) (set : Nat) (t : Txn), s.serving →
    s.fld fJeFabStatus_STATE = 0 → s.fld fJeWinCtl_ENABLED = 1 → s.homeOf (s.winLine x) = some (n, set) → s.agentRefused a true = false →
    s.sliceServes n none = true → s.txnOn (s.winLine x) = some t →
    (t.owner = some a → t.evict = true → (∀ m d, t.req ≠ .write m d) →
      exec (.wbDirty a x data) s = .next ((s.putLine (s.winLine x) data).emit (.ack a (s.winLine x))).settle) ∧
    (∀ d, t.owner = some a → t.evict = true → t.req = .write (BitVec.allOnes 256) d →
      exec (.wbDirty a x data) s = .next (s.emit (.ack a (s.winLine x))).settle) ∧
    (t.owner ≠ some a → t.lost = false →
      exec (.wbDirty a x data) s = .next ((s.bump fJsAtomicStat_STRAY_WB n.val).emit (.ack a (s.winLine x))).settle)) ∧
  (∀ (s : State) (a : Byte) (x : BitVec 36) (data : Option (List Byte)), s.awaited (s.winLine x) a = none →
    exec (.snoopAck a x data) s = .next s.engGo.settle ∧ exec (.snoopAbsent a x) s = .next s.engGo.settle) ∧
  (∀ (s : State) (a : Byte) (x : BitVec 36) (t : Txn) (k : Snoop), s.awaited (s.winLine x) a = some (t, k) →
    exec (.snoopAck a x none) s = .next (s.answerSnoop (s.winLine x) a false).engGo.settle ∧
    (∀ d, t.owner = some a ∨ t.lost = true → (∀ m w, t.req ≠ .write m w) →
      exec (.snoopAck a x (some d)) s = .next ((s.putLine (s.winLine x) d).answerSnoop (s.winLine x) a false).engGo.settle) ∧
    (∀ n set, s.homeOf (s.winLine x) = some (n, set) →
      exec (.snoopAbsent a x) s =
        .next ((((s.bump fJsTrellisStat_STALE_ACKS n.val).modTr (s.winLine x) fun e => e.drop a).answerSnoop (s.winLine x) a true).engGo).settle)) ∧
  (∀ (s : State) (line : Nat) (a : Byte) (absent : Bool),
    s.answerSnoop line a absent = ({ s with
      txns := updFirst (fun x => decide (x.line = line))
        (fun x => { x with snoops := x.snoops.filter fun y => decide (y.1 ≠ a), absent := x.absent || absent }) s.txns } : State).settleHome) ∧
  (∀ (s : State) (x : BitVec 36),
    exec (.grantHoldExpiry x) s = .next ((s.modTr (s.winLine x) fun e => { e with hold := e.hold.drop 1 }).settleHome).settle) ∧
  (∀ (s : State) (a : Byte) (x : BitVec 36),
    (∀ k, s.awaited (s.winLine x) a = some k → s.fld fJeFabCtl_SNOOP_LIMIT ≠ 0 → s.fld fJeFabStatus_LINK_UP = 1 → s.fab.retrain = false →
      exec (.snoopTimeout a x) s = .next (s.declareDead a 0).settle) ∧
    (s.awaited (s.winLine x) a = none ∨ s.fld fJeFabCtl_SNOOP_LIMIT = 0 ∨ s.fld fJeFabStatus_LINK_UP ≠ 1 ∨ s.fab.retrain = true →
      exec (.snoopTimeout a x) s = .next s.settle)) ∧
  (∀ (s : State) (a : Byte), s.serving →
    (s.fld fJeFabDead_BUSY = 1 → exec (.declareAgentDead a) s = .next s.settle) ∧
    (s.fld fJeFabDead_BUSY = 0 →
      let s1 := s.put .jeFabDead 0 (BitVec.ofNat 64 (1 * 2 ^ 62 + a.toNat))
      exec (.declareAgentDead a) s = .next ((s1.setFld fJeFabDead_AGENT a.toNat).declareDead a 1).settle)) ∧
  (∀ (s : State) (a : Byte) (cause : Nat),
    let w := s.reg .jeFabDeadmask (a.toNat / 64)
    let s1 := s.setReg .jeFabDeadmask (w ||| BitVec.ofNat 64 (2 ^ (a.toNat % 64))) (a.toNat / 64)
    let s2 := ((s1.setFld fJeFabDead_LAST_DEAD a.toNat).setFld fJeFabDead_BUSY 1).eventE 0x42 a.toNat cause
    let s3 : State := { s2 with
      fab := { s2.fab with deadScan := some a }
      coreReqs := s2.coreReqs.filter fun q => decide (q.agent ≠ some a) }
    s.declareDead a cause =
      ((s2.coreReqs.filter fun q => decide (q.agent = some a)).foldl (fun (u : State) q => u.refuseReq (some a) q.line q.req) s3).reclaim a) ∧
  (∀ (s : State),
    (s.fab.deadScan = none → exec .deadAgentScanDone s = .next s.settle) ∧
    (∀ a, s.fab.deadScan = some a →
      exec .deadAgentScanDone s = .next (({ s with fab := { s.fab with deadScan := none } } : State).setFld fJeFabDead_BUSY 0).settle))

/-- R295 to R299, R414: a flip to shared begins where fewer than 16 run: early work that read the page is squashed, copies of its lines go, and the accesses issued before are marked. A page on its
way to shared becomes shared once none of those is left, and counts; one on its
way to device becomes device once no entry and no request of it is left, counts, and ends the action that asked; before that each waits. An action of JE_BIAS_CMD answers RESULT 2 while
BUSY is set, and RESULT 1 with the window disabled, and its other fields stay. ACTION 01 sends a shared page on its way, each entry of it recalled,
a device page needs nothing, a page on its way to shared answers RESULT 2; ACTION 10 reads a page's bias; ACTION 11 sends every shared page. -/
def Obligations.PageBias : Prop :=
  (∀ (s : State) (page : Nat),
    let running := (s.pages.filter fun y => decide (y.2 = .toShared)).length
    let a := s.pageAddr page
    let mine (x : Nat) : Bool := decide (a ≤ x) && decide (x < a + 2 ^ 21)
    let s1 := ((s.setBias page .toShared).squash a (2 ^ 21)).dropLines fun key => mine (key * 256)
    (16 ≤ running → s.startFlip page = s) ∧
    (running < 16 → s.startFlip page = { s1 with
      wrQ := s1.wrQ.map fun (w : WrReq) => if mine w.addr then { w with issued := true } else w
      addQ := s1.addQ.map fun (o : AddOp) => if mine o.addr then { o with issued := true } else o })) ∧
  (∀ (s : State) (page : BitVec 15),
    (s.biasOf page.toNat = .toShared → s.flipLeft page.toNat = false →
      exec (.flipToSharedDone page) s = .next (((s.setBias page.toNat .shared).bump fJeBiasStat_TO_SHARED).settleHome).settle) ∧
    (s.biasOf page.toNat ≠ .toShared ∨ s.flipLeft page.toNat = true → exec (.flipToSharedDone page) s = .next s.settle)) ∧
  (∀ (s : State) (page : BitVec 15),
    (s.biasOf page.toNat = .toDevice → s.pageEmpty page.toNat = true →
      let s1 := (s.setBias page.toNat .device).bump fJeBiasStat_TO_DEVICE
      exec (.flipToDeviceDone page) s = .next (if s.fab.biasPage = some page then s1.biasEnd 0 else s1.biasAllStep).settle) ∧
    (s.biasOf page.toNat ≠ .toDevice ∨ s.pageEmpty page.toNat = false → exec (.flipToDeviceDone page) s = .next s.settle)) ∧
  (∀ (s : State) (page : BitVec 15), s.serving →
    let v (a : Nat) := BitVec.ofNat 64 (a * 2 ^ 62 + page.toNat)
    let s1 (a : Nat) : State := (s.put .jeBiasCmd 0 (v a)).setFld fJeBiasCmd_PAGE page.toNat
    let ended : State := { s with flipsAll := false, fab := { s.fab with biasPage := none } }
    (s.fld fJeBiasCmd_BUSY = 1 → exec (.biasFlipPage page) s = .next (s.setFld fJeBiasCmd_RESULT 2).settle ∧
      exec (.biasReadPage page) s = .next (s.setFld fJeBiasCmd_RESULT 2).settle) ∧
    (s.fld fJeBiasCmd_BUSY = 0 → s.fld fJeWinCtl_ENABLED = 0 →
      exec (.biasFlipPage page) s = .next (ended.setFld fJeBiasCmd_RESULT 1).settle ∧
      exec (.biasReadPage page) s = .next (ended.setFld fJeBiasCmd_RESULT 1).settle) ∧
    (s.fld fJeBiasCmd_BUSY = 0 → s.fld fJeWinCtl_ENABLED = 1 →
      exec (.biasReadPage page) s = .next ((s1 2).biasEnd 0).settle ∧
      (s.biasOf page.toNat = .device → exec (.biasFlipPage page) s = .next ((s1 1).biasEnd 0).settle) ∧
      (s.biasOf page.toNat = .toShared → exec (.biasFlipPage page) s = .next (ended.setFld fJeBiasCmd_RESULT 2).settle) ∧
      (s.biasOf page.toNat = .shared ∨ s.biasOf page.toNat = .toDevice →
        exec (.biasFlipPage page) s =
          .next (s.orRefused .jeBiasCmd 0 (v 1)
            ((({ s1 1 with fab := { s.fab with biasPage := some page } } : State).setFld fJeBiasCmd_BUSY 1).recallPage page.toNat)).settle))) ∧
  (∀ (s : State) (page : Nat),
    let s1 := s.setBias page .toDevice
    s.recallPage page = ({ s1 with
      coreReqs := s1.coreReqs ++ (s.trellis.filter fun e => s.inPage page e.line).map fun e => (⟨none, e.line, .recall⟩ : CoreReq) } :
        State).settleHome) ∧
  (∀ (s : State), s.serving →
    let mask := codeMask (RegId.fields .jeBiasCmd) .rw ||| codeMask (RegId.fields .jeBiasCmd) .rwl
    let v := (s.reg .jeBiasCmd &&& mask) ||| 0xC000000000000000#64
    let s1 := s.put .jeBiasCmd 0 v
    let ended : State := { s with flipsAll := false, fab := { s.fab with biasPage := none } }
    (s.fld fJeBiasCmd_BUSY = 1 → exec .biasFlipAll s = .next (s.setFld fJeBiasCmd_RESULT 2).settle) ∧
    (s.fld fJeBiasCmd_BUSY = 0 → s.fld fJeWinCtl_ENABLED = 0 → exec .biasFlipAll s = .next (ended.setFld fJeBiasCmd_RESULT 1).settle) ∧
    (s.fld fJeBiasCmd_BUSY = 0 → s.fld fJeWinCtl_ENABLED = 1 →
      let s2 := (({ s1 with flipsAll := true } : State).setFld fJeBiasCmd_BUSY 1).setFld fJeBiasCmd_RESULT 0
      exec .biasFlipAll s = .next (s.orRefused .jeBiasCmd 0 v (s2.recallAll.biasAllStep)).settle))

/-- R293, R294, R355, R414: the window's actions. Before configuration lock each raises event 0x03; while BUSY is set each answers RESULT 2. Enabling a window that fits the mapped HBM makes every page device, sets BASE_GIB and ENABLED and
keeps BUSY; one that does not fit answers RESULT 1, and an action that the window's state does not allow RESULT 3; the other fields of the register stay then. Moving and disabling recall every
shared page first. The action ends once every page is device, and a page that is not is recalled again: ENABLED clears, or the base moves to the one the action took once nothing translated under the old
or the new range is on its way; ranges cached there are dropped. -/
def Obligations.WindowActions : Prop :=
  (∀ (s : State) (base : BitVec 11), s.serving →
    let v (a : Nat) := BitVec.ofNat 64 (a * 2 ^ 62 + base.toNat)
    let s1 (a : Nat) : State := (s.put .jeWinCtl 0 (v a)).setFld fJeWinCtl_NEW_BASE_GIB base.toNat
    let ended : State := { s with fab := { s.fab with winAction := 0 } }
    (s.locked = false → exec (.windowEnable base) s = .next (s.eventE 0x03 (RegId.addr .jeWinCtl 0) (v 1).toNat).settle ∧
      exec (.windowMove base) s = .next (s.eventE 0x03 (RegId.addr .jeWinCtl 0) (v 3).toNat).settle) ∧
    (s.locked = true → s.fld fJeWinCtl_BUSY = 1 → exec (.windowEnable base) s = .next (s.setFld fJeWinCtl_RESULT 2).settle ∧
      exec (.windowMove base) s = .next (s.setFld fJeWinCtl_RESULT 2).settle) ∧
    (s.locked = true → s.fld fJeWinCtl_BUSY = 0 → s.fld fJeWinCtl_ENABLED = 0 →
      (base.toNat + 64 ≤ 6 * s.mappedList.length →
        exec (.windowEnable base) s =
          .next (((({ s1 1 with pages := [] } : State).winBegin 1).setFld fJeWinCtl_BASE_GIB base.toNat).setFld fJeWinCtl_ENABLED 1).settle) ∧
      (6 * s.mappedList.length < base.toNat + 64 → exec (.windowEnable base) s = .next (ended.setFld fJeWinCtl_RESULT 1).settle) ∧
      exec (.windowMove base) s = .next (ended.setFld fJeWinCtl_RESULT 3).settle) ∧
    (s.locked = true → s.fld fJeWinCtl_BUSY = 0 → s.fld fJeWinCtl_ENABLED = 1 →
      exec (.windowEnable base) s = .next (ended.setFld fJeWinCtl_RESULT 3).settle ∧
      (base.toNat + 64 ≤ 6 * s.mappedList.length →
        exec (.windowMove base) s =
          .next (s.orRefused .jeWinCtl 0 (v 3)
            ((({ s1 3 with fab := { s.fab with winBase := base.toNat } } : State).winBegin 3).recallAll)).settle) ∧
      (6 * s.mappedList.length < base.toNat + 64 → exec (.windowMove base) s = .next (ended.setFld fJeWinCtl_RESULT 1).settle))) ∧
  (∀ (s : State), s.serving →
    let mask := codeMask (RegId.fields .jeWinCtl) .rw ||| codeMask (RegId.fields .jeWinCtl) .rwl
    let v := (s.reg .jeWinCtl &&& mask) ||| 0x8000000000000000#64
    let s1 := s.put .jeWinCtl 0 v
    (s.locked = false → exec .windowDisable s = .next (s.eventE 0x03 (RegId.addr .jeWinCtl 0) v.toNat).settle) ∧
    (s.locked = true → s.fld fJeWinCtl_BUSY = 1 → exec .windowDisable s = .next (s.setFld fJeWinCtl_RESULT 2).settle) ∧
    (s.locked = true → s.fld fJeWinCtl_BUSY = 0 → s.fld fJeWinCtl_ENABLED = 0 →
      exec .windowDisable s = .next (({ s with fab := { s.fab with winAction := 0 } } : State).setFld fJeWinCtl_RESULT 3).settle) ∧
    (s.locked = true → s.fld fJeWinCtl_BUSY = 0 → s.fld fJeWinCtl_ENABLED = 1 →
      exec .windowDisable s = .next (s.orRefused .jeWinCtl 0 v ((s1.winBegin 2).recallAll)).settle)) ∧
  (∀ (s : State),
    (s.fab.winAction = 0 → exec .windowActionDone s = .next s.settle) ∧
    (s.fab.winAction = 1 → exec .windowActionDone s = .next (s.winEnd 0).settle) ∧
    (s.fab.winAction = 2 ∨ s.fab.winAction = 3 → s.pages ≠ [] → exec .windowActionDone s = .next s.recallAll.settle) ∧
    (s.fab.winAction = 2 → s.pages = [] → exec .windowActionDone s = .next ((s.setFld fJeWinCtl_ENABLED 0).winEnd 0).settle) ∧
    (s.fab.winAction = 3 → s.pages = [] →
      let old := s.fld fJeWinCtl_BASE_GIB
      let new := s.fab.winBase
      let s1 := (s.dropWinRanges old).dropWinRanges new
      (s1.winTransit old = true ∨ s1.winTransit new = true → exec .windowActionDone s = .next s1.settle) ∧
      (s1.winTransit old = false → s1.winTransit new = false →
        exec .windowActionDone s = .next ((({ s1 with pages := [] } : State).setFld fJeWinCtl_BASE_GIB new).winEnd 0).settle)))

/-- R299, R313, R314, R316: a retrain begins with one more in RETRAINS and STATE 1, where the agent ran, and ends with STATE 0 and the held board writes sent. A host
reset or a link loss resets the agent, unless it is in its reset already: the board writes not acknowledged and the adds of the board tier are lost and counted, the board reads outstanding return poisoned; after the scan the
Trellis is empty, every page is device, the reset counts and event 0x43 says what was lost; with the link back the dead mask clears,
interrupts still pending are sent again, and the agent runs, or retrains. -/
def Obligations.FabricLink : Prop :=
  (∀ (s : State), s.fab.retrain = false →
    let s1 := ({ s with fab := { s.fab with retrain := true } } : State).bump fJeFabStatus_RETRAINS
    (s.fld fJeFabStatus_STATE = 0 → exec (.fabRetrain true) s = .next (s1.setFld fJeFabStatus_STATE 1).settle) ∧
    (s.fld fJeFabStatus_STATE ≠ 0 → exec (.fabRetrain true) s = .next s1.settle)) ∧
  (∀ (s : State),
    let s1 : State := { s with fab := { s.fab with retrain := false } }
    (s.fld fJeFabStatus_STATE = 1 → exec (.fabRetrain false) s = .next ((s1.setFld fJeFabStatus_STATE 0).sendBoards).settle) ∧
    (s.fld fJeFabStatus_STATE ≠ 1 → exec (.fabRetrain false) s = .next s1.settle)) ∧
  (∀ (s : State) (up : Bool), exec (.fabLinkUpChange up) s =
    .next (({ s with fab := { s.fab with linkUp := up, counting := !up } } : State).setFld fJeFabStatus_LINK_UP up.toNat).settle) ∧
  (∀ (s : State),
    let s1 : State := { s with fab := { s.fab with hostReset := true } }
    let s2 := ({ s with fab := { s.fab with linkUp := false, counting := false } } : State).setFld fJeFabStatus_LINK_UP 0
    let resets (u : State) (cause : Nat) : State :=
      ((({ u with fab := { u.fab with cause := cause, scanning := true } } : State).setFld fJeFabStatus_STATE 2).loseBoard).poisonBoardReads
    (s.fld fJeFabStatus_STATE ≠ 2 → exec .fabHostReset s = .next (resets s1 0).settle ∧ exec .fabLinkLoss s = .next (resets s2 1).settle) ∧
    (s.fld fJeFabStatus_STATE = 2 → exec .fabHostReset s = .next s1.settle ∧ exec .fabLinkLoss s = .next s2.settle)) ∧
  (∀ (s : State),
    let ops := s.addQ.filter fun o => s.isBoard o.addr
    let s1 : State := { s with boardWrs := [], addQ := s.addQ.filter fun o => !(s.isBoard o.addr) }
    let s2 := s.boardWrs.foldl (fun (u : State) w => u.writeLost w.part w.owner w.obj w.record w.plain) s1
    let s3 := ops.foldl (fun (u : State) o => u.loseAdd o) s2
    s.loseBoard = ({ s3 with fab := { s3.fab with lost := s.boardWrs.length + ops.length } } : State).bump fJeFabStatus_LOST_WRITES 0
      (s.boardWrs.length + ops.length)) ∧
  (∀ (s : State),
    (s.fld fJeFabStatus_STATE ≠ 2 → exec .fabResetScanDone s = .next s.settle) ∧
    (s.fld fJeFabStatus_STATE = 2 →
      let s1 := ((s.scanDone.setFld fJeFabStatus_STATE 3).bump fJeFabStatus_AGENT_RESETS).eventE 0x43 s.fab.cause s.fab.lost
      let s2 : State := { s1 with fab := { s1.fab with scanning := false } }
      exec .fabResetScanDone s = .next (if s2.fab.biasPage.isSome ∨ s2.flipsAll then s2.biasEnd 0 else s2).settle)) ∧
  (∀ (s : State), s.txns = [] → s.coreReqs = [] → (∀ e ∈ s.trellis, e.state ≠ .x) →
    s.scanDone = { s with trellis := [], txns := [], pages := [], retryCount := [], coreReqs := [] }) ∧
  (∀ (s : State),
    (s.fld fJeFabStatus_STATE ≠ 3 → exec .fabLinkReturn s = .next s.settle) ∧
    (s.fld fJeFabStatus_STATE = 3 →
      let s1 : State := { s with fab := { s.fab with linkUp := true, hostReset := false, counting := false } }
      let s2 := [0, 1, 2, 3].foldl (fun (s : State) k => s.setReg .jeFabDeadmask 0 k) (s1.setFld fJeFabStatus_LINK_UP 1)
      exec .fabLinkReturn s =
        .next (((s2.setFld fJeFabStatus_STATE (if s.fab.retrain then 1 else 0)).resendIrqs).sendBoards).settle))

/-- R39, R118, R287, R291, R292, R360: a granule from the board tier, with the link up, is what memory then holds there, decrypted in the encrypted range; one that
comes poisoned poisons its granule; the adds that wait for its line execute. Past the end of the tier there is no granule, and while the link does not run none arrives. The acknowledged
write, the oldest sent, is visible with its poison, squashes early work over it and raises its interrupts, and the writes that waited for room are sent. -/
def Obligations.BoardTier : Prop :=
  (∀ (s : State) (g : BitVec 46) (data : List Byte) (poisoned : Bool) (word : EccErr),
    let a := s.boardPhys (g.toNat * 64)
    (s.boardBound ≤ g.toNat * 64 → exec (.boardReadReturn g data poisoned word) s = .fault .outsideSpace) ∧
    (g.toNat * 64 < s.boardBound → s.fld fJeFabStatus_STATE ≠ 0 → exec (.boardReadReturn g data poisoned word) s = .next s.settle)) ∧
  (∀ (s : State) (g : BitVec 46) (data : List Byte) (poisoned : Bool),
    let a := s.boardPhys (g.toNat * 64)
    g.toNat * 64 < s.boardBound → s.fld fJeFabStatus_STATE = 0 → s.armed = none →
      (poisoned = true →
        exec (.boardReadReturn g data poisoned .clean) s =
          .next ((({ s with poison := insNat (a / 64) s.poison } : State).addBoardLine (a / 256))).settle) ∧
      (poisoned = false → s.encrypted (physOff a) = false → data.length = 64 →
        exec (.boardReadReturn g data poisoned .clean) s =
          .next ((({ s with mem := memPutList s.mem a data, poison := delNat (a / 64) s.poison } : State).addBoardLine (a / 256))).settle) ∧
      (poisoned = false → s.encrypted (physOff a) = true →
        let plain := Config.xtsDecrypt (s.sec.board.getD []) (physOff a / 64) data
        exec (.boardReadReturn g data poisoned .clean) s =
          .next ((({ s with
            mem := memPutList s.mem a ((List.range 64).map fun i => plain.getD i 0)
            poison := delNat (a / 64) s.poison } : State).addBoardLine (a / 256))).settle)) ∧
  (∀ (s : State),
    (s.boardWrs.find? (·.sent) = none ∨ s.fld fJeFabStatus_STATE ≠ 0 → exec .boardWriteAck s = .next s.settle) ∧
    (∀ w, s.boardWrs.find? (·.sent) = some w → s.fld fJeFabStatus_STATE = 0 →
      let s1 : State := { s with
        boardWrs := eraseFirst (fun x => decide (x = w)) s.boardWrs
        mem := memPutList s.mem w.addr w.bytes
        poison := if w.poison then insNat (w.addr / 64) s.poison
          else if w.bytes.length = 64 then delNat (w.addr / 64) s.poison else s.poison }
      exec .boardWriteAck s =
        .next ((w.irq.foldl (fun u g => u.irqRaise w.part g) (s1.squash w.addr w.bytes.length)).sendBoards).settle)) ∧
  (∀ (s : State), s.fld fJeFabStatus_STATE = 0 →
    let room := 2048 - (s.boardWrs.filter (·.sent)).length
    let due := (s.boardWrs.filter fun w => !w.sent).take room
    let s1 := due.foldl (fun (u : State) w => u.emit (.boardWrite (u.boardHost (u.boardBytes w).1) (u.boardBytes w).2 w.poison w.isAdd)) s
    s.sendBoards = { s1 with boardWrs := markSent room s1.boardWrs })

/-- R319, R320, R328, R330, R334: on a pair in RTS with ROLE 0, a well-formed request is received and joins those its pair serves; a
partition that is not ENABLED answers it with status 4 at once; a push that is first of its pair is tried at once. A message that is malformed is received, answered with the
reply's TYPE and status 8 and not executed, and what comes on a pair that is not in RTS with ROLE 0, or is no valid request, is answered with a NAK that counts. What is received is
acknowledged with its last packet number, and a CNP answers its mark, once. -/
def Obligations.RemoteRequests : Prop :=
  (∀ (s : State) (i : BitVec 12) (q : QP) (msg : List Byte) (marked : Bool), s.serving → s.qp i = some q → q.state = .rts → qcRole q.ctx = 0 →
    let s1 := s.received i msg.length marked
    let x : Served := ⟨q.i, mReqId msg, mField msg 0 1, msg, none⟩
    let first : Bool := !(s1.served.any fun y => decide (y.qp = i) && decide (y.t = none))
    (msgOk msg = true → s1.partEnabled (qcPart q.ctx) = true →
      let s2 : State := { s1 with served := s1.served ++ [x] }
      (mField msg 0 1 = 1 → exec (.gatherReq i msg marked) s = .next s2.settle) ∧
      (mField msg 0 1 = 3 → exec (.addReq i msg marked) s = .next s2.settle) ∧
      (mField msg 0 1 = 5 → exec (.push i msg marked) s = .next (if first then (s2.tryServed (qcPart q.ctx) i).1 else s2).settle)) ∧
    (msgOk msg = true → s1.partEnabled (qcPart q.ctx) = false →
      let s2 := s1.answer x 0x04 0 0
      (mField msg 0 1 = 1 → exec (.gatherReq i msg marked) s = .next s2.settle) ∧
      (mField msg 0 1 = 3 → exec (.addReq i msg marked) s = .next s2.settle) ∧
      (mField msg 0 1 = 5 → exec (.push i msg marked) s = .next (if first then (s2.tryServed (qcPart q.ctx) i).1 else s2).settle)) ∧
    (msgOk msg = false →
      let s2 := s1.sendMsg i (malformedReply msg)
      exec (.malformedMessage i msg marked) s = .next s2.settle ∧ exec (.gatherReq i msg marked) s = .next s2.settle ∧
      exec (.addReq i msg marked) s = .next s2.settle ∧ exec (.push i msg marked) s = .next s2.settle ∧
      exec (.gatherReply i msg marked) s = .next s2.settle ∧ exec (.addAccept i msg marked) s = .next s2.settle ∧
      exec (.pushAccept i msg marked) s = .next s2.settle)) ∧
  (∀ (s : State) (i : BitVec 12) (msg : List Byte) (marked : Bool), s.serving → (∀ q, s.qp i = some q → q.state ≠ .rts ∨ qcRole q.ctx ≠ 0) →
    let s1 := (s.emit (.nak i 1)).bump fJeNetStat_NAKS_SENT
    exec (.gatherReq i msg marked) s = .next s1.settle ∧ exec (.addReq i msg marked) s = .next s1.settle ∧
    exec (.push i msg marked) s = .next s1.settle ∧ exec (.gatherReply i msg marked) s = .next s1.settle ∧
    exec (.addAccept i msg marked) s = .next s1.settle ∧ exec (.pushAccept i msg marked) s = .next s1.settle ∧
    exec (.malformedMessage i msg marked) s = .next s1.settle) ∧
  (∀ (s : State) (i : BitVec 12), s.serving →
    exec (.invalidRequestPacket i) s = .next ((s.emit (.nak i 1)).bump fJeNetStat_NAKS_SENT).settle) ∧
  (∀ msg : List Byte,
    (msgOk msg = true ↔ 32 ≤ msg.length ∧ msg.length ≤ 131072 ∧ mField msg 1 1 = 1 ∧ msgLength msg = some msg.length) ∧
    mField (malformedReply msg) 2 1 = 8 ∧
    (mField msg 0 1 = 1 ∨ mField msg 0 1 = 3 ∨ mField msg 0 1 = 5 → mField (malformedReply msg) 0 1 = mField msg 0 1 + 1)) ∧
  (∀ (s : State) (i : BitVec 12) (q : QP) (n : Nat) (marked : Bool), s.power.replaying = false → s.qp i = some q →
    let psn := q.recvPsn + BitVec.ofNat 24 (max 1 (ceilDiv n q.mtu))
    let s1 := (s.modQp i fun q => { q with recvPsn := psn }).emit (.rocAck i (psn - 1))
    s.received i n marked = if marked then s1.emit (.cnp i) else s1)

/-- R326, R327, R332, R333: a reply to an outstanding request of its pair sets TORN where it carries it. A gather's values take their places in their bags, a count that
differs poisons its bag, status 1
poisons the command, any higher status fails every bag of the request, and the last reply frees its place, failing the bags that it leaves out. Adds and pushes answered with 5 or 6 lost writes, with
any other status but 0 and 1 they have failed. A reply that answers no request is stray, and counts. -/
def Obligations.RemoteReplies : Prop :=
  (∀ (s : State) (i : BitVec 12) (q : QP) (msg : List Byte) (marked : Bool), s.serving → s.qp i = some q → q.state = .rts → qcRole q.ctx = 0 → msgOk msg = true →
    let s0 := (s.received i msg.length marked).bump fJeNetStat_STRAY_REPLIES
    (mField msg 0 1 = 2 → q.request msg 1 = none → exec (.gatherReply i msg marked) s = .next s0.settle) ∧
    (mField msg 0 1 = 4 → q.request msg 3 = none → exec (.addAccept i msg marked) s = .next s0.settle) ∧
    (mField msg 0 1 = 6 → q.request msg 5 = none → exec (.pushAccept i msg marked) s = .next s0.settle)) ∧
  (∀ (s : State) (i : BitVec 12) (q : QP) (msg : List Byte) (marked : Bool) (r : RemoteReq), s.serving → s.qp i = some q → q.state = .rts → qcRole q.ctx = 0 →
    msgOk msg = true → mField msg 0 1 = 2 → q.request msg 1 = some r →
    let s0 := (s.received i msg.length marked).replyTorn r.t msg
    let s1 := (msgBags msg).foldl (fun s b => s.placeBag i r b) s0
    let s2 := if mField msg 2 1 = 1 then s1.poisonCmd r.t else s1
    let got := r.got + mBags msg
    (mField msg 2 1 ≤ 1 → mFlag msg 0 = true → r.counts.length ≤ got →
      exec (.gatherReply i msg marked) s = .next (((s2.dropReq i r.reqId).pumpNet).settlePool r.t).settle) ∧
    (mField msg 2 1 ≤ 1 → mFlag msg 0 = true → got < r.counts.length →
      exec (.gatherReply i msg marked) s = .next ((((s2.remoteFail { r with got := got }).dropReq i r.reqId).pumpNet).settlePool r.t).settle) ∧
    (mField msg 2 1 ≤ 1 → mFlag msg 0 = false →
      let more (q : QP) : QP := { q with out := updFirst (fun y => decide (y = r)) (fun y => { y with got := got }) q.out }
      exec (.gatherReply i msg marked) s = .next (((s2.modQp i more).pumpNet).settlePool r.t).settle) ∧
    (1 < mField msg 2 1 →
      exec (.gatherReply i msg marked) s = .next ((((s0.remoteFail r).dropReq i r.reqId).pumpNet).settlePool r.t).settle)) ∧
  (∀ (s : State) (i : BitVec 12) (q : QP) (msg : List Byte) (marked : Bool) (r : RemoteReq), s.serving → s.qp i = some q → q.state = .rts → qcRole q.ctx = 0 →
    msgOk msg = true →
    let s0 := (s.received i msg.length marked).replyTorn r.t msg
    let st := mField msg 2 1
    let s1 := if st = 0 then s0 else if st = 1 then s0.poisonCmd r.t
      else if st = 5 ∨ st = 6 then (s0.mark r.t fun m => { m with lost := true }).modTrk r.t fun x => { x with torn := true }
      else s0.mark r.t fun m => { m with remoteFailed := true }
    (mField msg 0 1 = 4 → q.request msg 3 = some r → exec (.addAccept i msg marked) s = .next ((s1.dropReq i r.reqId).pumpNet).settle) ∧
    (mField msg 0 1 = 6 → q.request msg 5 = some r → exec (.pushAccept i msg marked) s = .next ((s1.dropReq i r.reqId).pumpNet).settle)) ∧
  (∀ (s : State) (t : TrackerId) (msg : List Byte), s.replyTorn t msg = if mFlag msg 3 then s.modTrk t fun x => { x with torn := true } else s) ∧
  (∀ (s : State) (i : BitVec 12) (r : RemoteReq) (bag count : Nat) (poisoned : Bool) (bytes : List Byte),
    r.bagFirst + r.got ≤ bag → bag < r.bagFirst + r.counts.length →
    let differs := decide (count ≠ r.counts.getD (bag - r.bagFirst) 0)
    let vals := (List.range (bytes.length / 4)).map fun c => BitVec.ofNat 32 (bytesAt bytes (4 * c) 4)
    let s1 := s.modBag r.t bag fun g =>
      { g with poison := g.poison || poisoned || differs, shards := g.shards - 1, pieces := g.pieces ++ [(r.col, vals)] }
    (count = r.counts.getD (bag - r.bagFirst) 0 → s.placeBag i r (bag, count, poisoned, bytes) = s1) ∧
    (∀ x, count ≠ r.counts.getD (bag - r.bagFirst) 0 → s1.trk r.t = some x →
      s.placeBag i r (bag, count, poisoned, bytes) = (s1.bump fJpNetStat_MISMATCH_BAGS x.part).eventP x.part 0x0F i.toNat bag))

/-- R320, R322, R338, R355, R414: an acknowledgement moves the window past its packet and spends no retry; a NAK starts again from its packet; one outside the window changes nothing. A timeout sends
again what is not acknowledged, and after RETRY_CNT attempts the pair is in ERROR; a CNP halves the rate, which then recovers a sixteenth of the line rate at a time. An enable reads the
context: one that is poisoned or not as the table asks answers RESULT 1, one of a partition not ENABLED RESULT 3, and else the receive area is looked up: in HBM it makes a pair in RESET ready to
send, outside it answers RESULT 1, and while a walk is out the enable waits; a reset moves the pair to RESET and fails what is outstanding. Before lock an action raises event 0x03, and while BUSY is set it
answers RESULT 2. -/
def Obligations.QueuePairs : Prop :=
  (∀ (s : State) (i : BitVec 12) (psn : BitVec 24), s.serving →
    (∀ q, s.qp i = some q → q.state = .rts → (psn - q.ackPsn).toNat < (q.sendPsn - q.ackPsn).toNat →
      exec (.roceAckReceive i psn) s = .next ((s.modQp i fun q => { q with ackPsn := psn + 1, retries := 0 }).goHome i).settle ∧
      exec (.roceNakReceive i psn) s = .next ((s.modQp i fun q => { q with ackPsn := psn }).resend i).settle) ∧
    ((∀ q, s.qp i = some q → q.state ≠ .rts ∨ (q.sendPsn - q.ackPsn).toNat ≤ (psn - q.ackPsn).toNat) →
      exec (.roceAckReceive i psn) s = .next s.settle ∧ exec (.roceNakReceive i psn) s = .next s.settle)) ∧
  (∀ (s : State) (i : BitVec 12), s.serving →
    exec (.roceCnpReceive i) s = .next (s.modQp i fun q => if q.state = .rts then { q with rate := q.rate / 2 } else q).settle) ∧
  (∀ (s : State) (i : BitVec 12),
    exec (.cnpRateRecovery i) s =
      .next (s.modQp i fun q => if q.state = .rts then { q with rate := min lineRate (q.rate + lineRate / 16) } else q).settle) ∧
  (∀ (s : State) (i : BitVec 12),
    (∀ q, s.qp i = some q → q.state = .rts → q.ackPsn ≠ q.sendPsn → q.retries < qcRetries q.ctx →
      exec (.ackTimeout i) s = .next ((s.modQp i fun q => { q with retries := q.retries + 1 }).resend i).settle) ∧
    (∀ q, s.qp i = some q → q.state = .rts → q.ackPsn ≠ q.sendPsn → qcRetries q.ctx ≤ q.retries → exec (.ackTimeout i) s =
      .next (((s.modQp i fun q => { q with state := .error }).bump fJeNetStat_QP_ERRORS).failPair i).settle) ∧
    ((∀ q, s.qp i = some q → q.state ≠ .rts ∨ q.ackPsn = q.sendPsn) → exec (.ackTimeout i) s = .next s.settle)) ∧
  (∀ (s : State) (i : BitVec 12) (q : QP), s.qp i = some q → q.state = .rts →
    (q.ackPsn ≠ q.sendPsn → s.resend i = (s.emit (.retransmit i q.ackPsn)).bump fJeNetStat_RETRANSMITS) ∧
    (q.ackPsn = q.sendPsn → s.fld fJePortCtl_STATE (qcHome q.ctx) = 0 → s.goHome i = s.modQp i fun q => { q with port := qcHome q.ctx })) ∧
  (∀ (s : State) (i : BitVec 12), s.serving →
    let v (a : Nat) := BitVec.ofNat 64 (a * 2 ^ 62 + i.toNat)
    (s.locked = false → exec (.qpEnable i) s = .next (s.eventE 0x03 (RegId.addr .jeQpCmd 0) (v 1).toNat).settle ∧
      exec (.qpReset i) s = .next (s.eventE 0x03 (RegId.addr .jeQpCmd 0) (v 2).toNat).settle) ∧
    (s.locked = true → s.fld fJeQpCmd_BUSY = 1 → exec (.qpEnable i) s = .next (s.setFld fJeQpCmd_RESULT 2).settle ∧
      exec (.qpReset i) s = .next (s.setFld fJeQpCmd_RESULT 2).settle) ∧
    (s.locked = true → s.fld fJeQpCmd_BUSY = 0 →
      let s1 := ({ s.put .jeQpCmd 0 (v 1) with qpAct := some i } : State).setFld fJeQpCmd_BUSY 1
      let a := s.fld fJeQpBase_BASE * 2 ^ 19 + 128 * i.toNat
      let c : BitVec 1024 := BitVec.ofNat 1024 (s.rdNat a 128)
      let ended : State := { s with qpAct := none }
      (s.rdPoison a 128 = true ∨ qcOk c = false → exec (.qpEnable i) s = .next (ended.setFld fJeQpCmd_RESULT 1).settle) ∧
      (s.rdPoison a 128 = false → qcOk c = true → s.partEnabled (qcPart c) = false →
        exec (.qpEnable i) s = .next (ended.setFld fJeQpCmd_RESULT 3).settle) ∧
      (s.rdPoison a 128 = false → qcOk c = true → s.partEnabled (qcPart c) = true → ∀ s2 : State,
        (s1.allInHbm (qcPart c) (rxPages c) = (s2, none) → exec (.qpEnable i) s = .next (s.orRefused .jeQpCmd 0 (v 1) s2).settle) ∧
        (s1.allInHbm (qcPart c) (rxPages c) = (s2, some false) → exec (.qpEnable i) s = .next (s.orRefused .jeQpCmd 0 (v 1) (s2.qpEnd 1)).settle) ∧
        (s1.allInHbm (qcPart c) (rxPages c) = (s2, some true) → s2.qp i = none →
          exec (.qpEnable i) s = .next (s.orRefused .jeQpCmd 0 (v 1) (({ s2 with qps := s2.qps ++ [QP.fresh i c] } : State).qpEnd 0)).settle) ∧
        (∀ q, s1.allInHbm (qcPart c) (rxPages c) = (s2, some true) → s2.qp i = some q → q.state = .reset →
          let s3 : State := { s2 with qps := updFirst (fun (y : QP) => decide (y.i = i)) (fun _ => QP.fresh i c) s2.qps }
          exec (.qpEnable i) s = .next (s.orRefused .jeQpCmd 0 (v 1) (s3.qpEnd 0)).settle)) ∧
      (let s1 := s.put .jeQpCmd 0 (v 2)
       let s2 : State := { s1 with served := s.served.filter fun (x : Served) => decide (x.qp ≠ i) || x.t.isSome }
       exec (.qpReset i) s = .next (s.orRefused .jeQpCmd 0 (v 2) (((s2.modQp i fun q => { q with state := .reset }).failPair i).qpEnd 0)).settle)))

/-- R335, R336, R355, R414: a connect whose record is good, as recOk checks it, begins with its first Connect, BUSY, and takes a step at each good response; a poisoned or bad record answers
RESULT 1, a failed step, or one without a response in time, RESULT 3; a disconnect leaves the slot idle. A Read ends with its response; one that failed, or had none within KATO, fails its
slot. A connected slot is kept alive. An RDMA write on an I/O pair lands in the staging of the Read that its key names; otherwise a NAK answers. Before lock an action raises event 0x03, and while BUSY is set
it answers RESULT 2. -/
def Obligations.NvmeSlots : Prop :=
  (∀ (s : State) (n : Byte), s.serving →
    let v (a : Nat) := BitVec.ofNat 64 (a * 2 ^ 62 + n.toNat)
    (s.locked = false → exec (.nvmeConnect n) s = .next (s.eventE 0x03 (RegId.addr .jeNvmeCmd 0) (v 1).toNat).settle ∧
      exec (.nvmeDisconnect n) s = .next (s.eventE 0x03 (RegId.addr .jeNvmeCmd 0) (v 2).toNat).settle) ∧
    (s.locked = true → s.fld fJeNvmeCmd_BUSY = 1 → exec (.nvmeConnect n) s = .next (s.setFld fJeNvmeCmd_RESULT 2).settle ∧
      exec (.nvmeDisconnect n) s = .next (s.setFld fJeNvmeCmd_RESULT 2).settle) ∧
    (s.locked = true → s.fld fJeNvmeCmd_BUSY = 0 →
      let a := s.fld fJeNvmeBase_BASE * 2 ^ 14 + 64 * n.toNat
      let r : BitVec 512 := BitVec.ofNat 512 (s.rdNat a 64)
      (s.rdPoison a 64 = true ∨ s.recOk r = false → exec (.nvmeConnect n) s = .next (s.setFld fJeNvmeCmd_RESULT 1).settle) ∧
      (s.rdPoison a 64 = false → s.recOk r = true →
        let s1 := (s.put .jeNvmeCmd 0 (v 1)).failReads n
        let key := ((s1.slotOf n).map (·.nextKey)).getD 0
        let s2 : State := { s1 with nvme := (s1.nvme.filter fun (v : NvmeSlot) => decide (v.slot ≠ n)) ++ [⟨n, r, 0, 1, [], key⟩] }
        exec (.nvmeConnect n) s = .next (s.orRefused .jeNvmeCmd 0 (v 1) ((s2.setFld fJeNvmeCmd_BUSY 1).fabConnect n r 0)).settle) ∧
      (let s1 := s.put .jeNvmeCmd 0 (v 2)
       let s2 := (s1.failReads n).modSlot n fun v => { v with state := 0, stage := 0 }
       exec (.nvmeDisconnect n) s = .next (s.orRefused .jeNvmeCmd 0 (v 2)
         ((if (s1.slotOf n).any fun v => decide (v.state = 1) then s2.emit (.nvmeDisconnect n) else s2).nvmeEnd 0)).settle))) ∧
  (∀ (s : State) (n : Byte) (key : W32) (status : BitVec 16) (lba : BitVec 4) (bytes : W64), s.serving →
    (s.slotOf n = none → exec (.nvmeResponse n key status lba bytes) s = .next s.settle) ∧
    (∀ v, s.slotOf n = some v →
      (v.stage = 1 → status = 0 → exec (.nvmeResponse n key status lba bytes) s =
        .next ((s.modSlot v.slot fun v => { v with stage := 2 }).fabConnect v.slot v.rec_ 1).settle) ∧
      (v.stage = 2 → status = 0 → exec (.nvmeResponse n key status lba bytes) s =
        .next ((s.modSlot v.slot fun v => { v with stage := 3 }).emit
          (.nvmeIdentify v.slot (recAdmin v.rec_) (BitVec.ofNat 32 (bitsOf v.rec_ 64 32)))).settle) ∧
      (v.stage = 3 → status = 0 → lba.toNat = bitsOf v.rec_ 0 4 → v.nsBytes ≤ bytes.toNat → exec (.nvmeResponse n key status lba bytes) s =
        .next ((s.modSlot v.slot fun v => { v with stage := 0, state := 1 }).nvmeEnd 0).settle) ∧
      ((v.stage ≠ 0 ∧ status ≠ 0) ∨ (v.stage = 3 ∧ (lba.toNat ≠ bitsOf v.rec_ 0 4 ∨ bytes.toNat < v.nsBytes)) →
        exec (.nvmeResponse n key status lba bytes) s = .next ((s.modSlot v.slot fun v => { v with stage := 0 }).nvmeEnd 3).settle) ∧
      (v.stage = 0 → v.reads.find? (fun r => decide (r.key = key)) = none → exec (.nvmeResponse n key status lba bytes) s = .next s.settle) ∧
      (∀ r, v.stage = 0 → v.reads.find? (fun r => decide (r.key = key)) = some r →
        (status = 0 → exec (.nvmeResponse n key status lba bytes) s = .next (s.readEnds n r true).settle) ∧
        (status ≠ 0 → exec (.nvmeResponse n key status lba bytes) s = .next ((s.readEnds n r false).slotFails n false).settle)))) ∧
  (∀ (s : State) (n : Byte) (key : W32),
    (s.slotOf n = none → exec (.nvmeTimeout n key) s = .next s.settle) ∧
    (∀ v, s.slotOf n = some v →
      (v.stage ≠ 0 → exec (.nvmeTimeout n key) s = .next ((s.modSlot v.slot fun v => { v with stage := 0 }).nvmeEnd 3).settle) ∧
      (v.stage = 0 → v.reads.find? (fun r => decide (r.key = key)) = none → exec (.nvmeTimeout n key) s = .next s.settle) ∧
      (∀ r, v.stage = 0 → v.reads.find? (fun r => decide (r.key = key)) = some r →
        exec (.nvmeTimeout n key) s = .next ((s.readEnds n r false).slotFails n true).settle))) ∧
  (∀ (s : State) (n : Byte),
    (∀ v, s.slotOf n = some v → v.state = 1 → exec (.nvmeKeepAlive n) s = .next (s.emit (.nvmeKeepAlive n)).settle) ∧
    ((∀ v, s.slotOf n = some v → v.state ≠ 1) → exec (.nvmeKeepAlive n) s = .next s.settle)) ∧
  (∀ (s : State) (n : Byte) (timeout : Bool) (v : NvmeSlot), s.slotOf n = some v → v.state = 1 →
    s.slotFails n timeout = (s.modSlot n fun v => { v with state := 2 }).eventE 0x50 n.toNat timeout.toNat) ∧
  (∀ (s : State) (n : Byte) (r : NvmeRead) (good : Bool),
    s.readEnds n r good = (s.modSlot n fun v => { v with reads := v.reads.filter fun y => decide (y.key ≠ r.key) }).remoteData r good) ∧
  (∀ (s : State) (i : BitVec 12) (key : W32) (off : W32) (data : List Byte) (marked : Bool), s.serving →
    ((∀ q, s.qp i = some q → q.state ≠ .rts ∨ qcRole q.ctx ≠ 2) →
      exec (.rdmaWriteReceive i key off data marked) s = .next (s.sendNak i 1).settle) ∧
    (∀ q, s.qp i = some q → q.state = .rts → qcRole q.ctx = 2 →
      let named := s.nvme.find? (fun v => decide (recIo v.rec_ = i) && decide (v.stage = 0) && v.reads.any fun r =>
        decide (r.key = key) && decide (off.toNat + data.length ≤ r.data.length))
      (named = none → exec (.rdmaWriteReceive i key off data marked) s = .next (s.sendNak i 2).settle) ∧
      (∀ v, named = some v →
        let put (r : NvmeRead) : NvmeRead := { r with data := r.data.take off.toNat ++ data ++ r.data.drop (off.toNat + data.length) }
        exec (.rdmaWriteReceive i key off data marked) s =
          .next ((s.modSlot v.slot fun v =>
            { v with reads := updFirst (fun r => decide (r.key = key)) put v.reads }).received i data.length marked).settle)))

/-- R318, R337, R338, R339: a port in service, or training, whose link fails goes DOWN with its counter, event 0x52 and its pairs moved away; one that trained
serves when its link is up; a FEC window over the limit takes a port in service down, and one under it brings a DOWN port with its link up back. REQ 10 drains a port in
service, takes a return back and bypasses a port that is DOWN; REQ 01 asks a draining one to return and trains one that is BYPASSED; no other request does anything. A drained port is BYPASSED, and trains where its return
was asked for. The transmit association whose packet numbers are spent stops
with event 0x51, and a dropped frame counts. -/
def Obligations.Ports : Prop :=
  (∀ (s : State) (e : Fin 8),
    let s1 := s.setFld fJePortCtl_LINK_UP 0 e
    let s2 : State := { s1 with portTrain := s.portTrain.filter fun f => decide (f ≠ e) }
    (s.fld fJePortCtl_STATE e = 0 ∨ e ∈ s.portTrain →
      exec (.portDown e) s = .next ((((s2.setFld fJePortCtl_STATE 3 e).bump fJePortStat_DOWN_EVENTS e).eventE 0x52 e 0).movePairs e).settle) ∧
    (s.fld fJePortCtl_STATE e ≠ 0 → e ∉ s.portTrain → exec (.portDown e) s = .next s1.settle)) ∧
  (∀ (s : State) (e : Fin 8),
    (s.zeroised = false → e ∈ s.portTrain → exec (.portLinkUp e) s = .next ((s.setFld fJePortCtl_LINK_UP 1 e).portServes e).settle) ∧
    (s.zeroised = false → e ∉ s.portTrain → s.fld fJePortCtl_STATE e ≠ 2 → exec (.portLinkUp e) s = .next (s.setFld fJePortCtl_LINK_UP 1 e).settle) ∧
    (s.zeroised = true ∨ (s.fld fJePortCtl_STATE e = 2 ∧ e ∉ s.portTrain) → exec (.portLinkUp e) s = .next s.settle)) ∧
  (∀ (s : State) (e : Fin 8) (k : BitVec 16),
    let s1 := s.bump fJePortStat_FEC_UNCORR e k.toNat
    let limit := s.fld fJePortCtl_FEC_LIMIT e
    (s.fld fJePortCtl_STATE e = 0 → limit ≠ 0 → limit < k.toNat → exec (.fecWindow e k) s = .next (s1.portFails e 1).settle) ∧
    (s.fld fJePortCtl_STATE e = 0 → limit = 0 ∨ k.toNat ≤ limit → exec (.fecWindow e k) s = .next s1.settle) ∧
    (s.fld fJePortCtl_STATE e = 3 → s.fld fJePortCtl_LINK_UP e = 1 → limit = 0 ∨ k.toNat ≤ limit →
      exec (.fecWindow e k) s = .next (s1.portServes e).settle) ∧
    (s.fld fJePortCtl_STATE e ≠ 0 → s.fld fJePortCtl_STATE e ≠ 3 ∨ s.fld fJePortCtl_LINK_UP e ≠ 1 ∨ (limit ≠ 0 ∧ limit < k.toNat) →
      exec (.fecWindow e k) s = .next s1.settle)) ∧
  (∀ (s : State) (e : Fin 8) (cause : Nat),
    let s1 : State := { s with portTrain := s.portTrain.filter fun f => decide (f ≠ e) }
    s.portFails e cause = (((s1.setFld fJePortCtl_STATE 3 e).bump fJePortStat_DOWN_EVENTS e).eventE 0x52 e cause).movePairs e ∧
    s.portServes e = (s.qps.map (·.i)).foldl (fun u i => u.goHome i) (s1.setFld fJePortCtl_STATE 0 e)) ∧
  (∀ (s : State) (e : Fin 8),
    s.movePairs e = (s.qps.filter fun q => decide (q.port = e) && decide (q.state = .rts)).foldl (fun (u : State) q =>
      match u.nextPort q with
      | some f => (u.modQp q.i fun q => { q with port := f }).resend q.i
      | none => u) s) ∧
  (∀ (s : State) (e : Fin 8), s.serving →
    let mask := codeMask (RegId.fields .jePortCtl) .rw ||| codeMask (RegId.fields .jePortCtl) .rwl
    let s1 (v : W64) : State := s.put .jePortCtl e ((s.reg .jePortCtl e &&& mask) ||| v)
    exec (.portBypass e) s = .next ((s1 0x8000000000000000#64).portBypass e).settle ∧
    exec (.portReturn e) s = .next ((s1 0x4000000000000000#64).portReturn e).settle) ∧
  (∀ (s : State) (e : Fin 8),
    (s.fld fJePortCtl_STATE e = 0 → s.portBypass e = (s.setFld fJePortCtl_STATE 1 e).movePairs e ∧ s.portReturn e = s) ∧
    (s.fld fJePortCtl_STATE e = 1 →
      s.portBypass e = s.setFld fJePortCtl_ENABLE_PENDING 0 e ∧ s.portReturn e = s.setFld fJePortCtl_ENABLE_PENDING 1 e) ∧
    (s.fld fJePortCtl_STATE e = 2 → s.portBypass e = s ∧ s.portReturn e = s.portTrains e) ∧
    (s.fld fJePortCtl_STATE e = 3 →
      s.portBypass e = (s.setFld fJePortCtl_STATE 2 e).setFld fJePortCtl_LINK_UP 0 e ∧ s.portReturn e = s)) ∧
  (∀ (s : State) (e : Fin 8),
    (e ∉ s.portTrain → s.zeroised = false →
      s.portTrains e = ({ s with portTrain := s.portTrain ++ [e] } : State).setFld fJePortCtl_LINK_UP 0 e) ∧
    (e ∈ s.portTrain ∨ s.zeroised = true → s.portTrains e = s)) ∧
  (∀ (s : State) (e : Fin 8),
    let s1 := (s.setFld fJePortCtl_STATE 2 e).setFld fJePortCtl_LINK_UP 0 e
    (s.fld fJePortCtl_STATE e = 1 → (∀ q ∈ s.qps, q.port = e → q.state ≠ .rts) → s.fld fJePortCtl_ENABLE_PENDING e = 0 →
      exec (.portDrainDone e) s = .next s1.settle) ∧
    (s.fld fJePortCtl_STATE e = 1 → (∀ q ∈ s.qps, q.port = e → q.state ≠ .rts) → s.fld fJePortCtl_ENABLE_PENDING e = 1 →
      exec (.portDrainDone e) s = .next ((s1.setFld fJePortCtl_ENABLE_PENDING 0 e).portTrains e).settle) ∧
    (s.fld fJePortCtl_STATE e ≠ 1 ∨ (∃ q ∈ s.qps, q.port = e ∧ q.state = .rts) → exec (.portDrainDone e) s = .next s.settle)) ∧
  (∀ (s : State) (e : Fin 8),
    let used := s.sec.saks.find? (fun k => decide (k.port = e) && !k.rx && k.active)
    (used = none → exec (.macsecKeyExhausted e) s = .next s.settle) ∧
    (∀ k, used = some k →
      let s1 : State := { s with sec := { s.sec with saks := updFirst (fun y => decide (y = k)) (fun y => { y with active := false }) s.sec.saks } }
      exec (.macsecKeyExhausted e) s = .next (s1.eventE 0x51 e (k.sc * 16 + k.an)).settle)) ∧
  (∀ (s : State) (e : Fin 8), exec (.macsecFrameDrop e) s = .next (s.bump fJePortStat_MACSEC_DROPS e).settle)

/-- R244, R249, R352, R353, R357: with power good the device secret is what the PUF and the helper record give; the loss of power leaves no register, no buffer
and no key, and the flash as it was; an engine reset, taken while the engine runs, drops every command and every buffered write, and the block then waits for je_rst_n: of every domain reset, the always-on
registers, the remap copy and the device secret stay. A start, where the power is good and the engine stands, samples the pin, takes the flash's density and seeds every slice's generators; a self-test that
failed zeroises. Each of these events where its state is already so changes nothing. -/
def Obligations.PowerAndReset : Prop :=
  (∀ (s : State),
    (s.boot.porGood = false →
      let dev := Config.pufExtract s.sec.pufDraw s.helper
      let s1 : State := { s with boot := { s.boot with porGood := true }, sec := { s.sec with kDev := dev, pufDraw := s.sec.pufDraw + 1 } }
      exec .powerOnReset s = .next (s1.setFld fJeSecStatus_DEV_KEY dev.isSome.toNat).settle) ∧
    (s.boot.porGood = true → exec .powerOnReset s = .next s.settle)) ∧
  (∀ (s : State),
    (s.boot.porGood = false → exec .powerLoss s = .next s.settle) ∧
    (s.boot.porGood = true →
      exec .powerLoss s = .next s.powerLoss.settle ∧ s.powerLoss.regs = [] ∧ s.powerLoss.wcb = [] ∧ s.powerLoss.remapCopy = [] ∧
      s.powerLoss.sec.kDev = none ∧ s.powerLoss.boot.porGood = false ∧ s.powerLoss.boot.running = false ∧ s.powerLoss.flash = s.flash ∧
      s.powerLoss.trackers = [] ∧ s.powerLoss.qps = [])) ∧
  (∀ (s : State),
    (s.boot.running = false → exec .engineReset s = .next s.settle) ∧
    (s.boot.running = true →
      let t := s.countPower.engineReset
      exec .engineReset s = .next t.settle ∧ t.trackers = [] ∧ t.wcb = [] ∧ t.wrQ = [] ∧
      t.trellis = [] ∧ t.qps = [] ∧ t.boot.running = false ∧ t.boot.porGood = true)) ∧
  (∀ (s : State),
    let s1 := s.rowHolds.foldl (fun (u : State) h => u.freeRow h) ((s.settleAdds.settleReset).drainWcb fun _ => true)
    let s2 := (if s1.sec.nvmAction ≠ 0 then s1.nvmSpoil s1.sec.nvmAction s1.sec.nvmAddr else s1).resetDomains
    s.engineReset = (((s2.setFld fJeSecStatus_ZEROISED (s.fld fJeSecStatus_ZEROISED)).setFld fJeSecStatus_DEV_KEY
      (s.fld fJeSecStatus_DEV_KEY)).rekey (s.fld fJePhysMap_ENGINE))) ∧
  (∀ (s : State),
    s.resetDomains.remapCopy = s.remapCopy ∧ s.resetDomains.sec.kDev = s.sec.kDev ∧ s.resetDomains.flash = s.flash ∧
    (∀ r i j, alwaysOnReg r = true → s.resetDomains.reg r i j = s.reg r i j) ∧
    (∀ r i j, alwaysOnReg r = false → s.resetDomains.reg r i j = State.reset.reg r i j)) ∧
  (∀ (s : State) (recover : Bool) (density : BitVec 6),
    (s.boot.porGood = false ∨ s.boot.running = true → ∀ test, exec (.engineStart recover density test) s = .next s.settle) ∧
    (s.boot.porGood = true → s.boot.running = false →
      let s1 : State := { s with boot := { s.boot with running := true, recover := recover, noFlash := decide (density.toNat < 24) } }
      let s2 := (List.finRange 8).foldl (fun s n => s.reseed n) (s1.setFld fJeNvmCtl_DENSITY_LOG2 density.toNat)
      exec (.engineStart recover density 0) s = .next s2.settle ∧
      (∀ test : Byte, test ≠ 0 → exec (.engineStart recover density test) s = .next (s2.secTestFails test.toNat).settle)))

/-- R259, R345, R349, R353, R356, R363: a running engine that has read its flash takes the first acceptable of its two images, the one SLOT names before the other, with
FALLBACK, a reason and event 0x60 for each that it rejects; a load that a zeroisation ended is rejected with 0x0A; with a flash too small there is none. An accepted image's records act in order, the base's and then
its mode's, after its keys. The start ends with STATE 2: of the channels not mapped out by image or by
JE_CHMAPOUT those that train are mapped, and both resynchronisations go out. CONFIG_LOCK locks where every check passes; before that it answers the first check that
failed and the partition, with event 0x61, and while BUSY is set RESULT 10. -/
def Obligations.StartAndLock : Prop :=
  (∀ (s : State),
    (s.boot.running = false ∨ s.fld fJeStart_STATE ≠ 0 → exec .imageCheckDone s = .next s.settle) ∧
    (s.boot.running = true → s.fld fJeStart_STATE = 0 →
      let k := s.fld fJeBootSel_SLOT
      let a := if s.boot.loadEnded then 0x0A else s.imageReason (s.slotByte k)
      let b := s.imageReason (s.slotByte (1 - k))
      let s1 := ((s.setFld fJeStart_FALLBACK 1).setFld fJeStart_FAIL_FIRST a).eventE 0x60 k a
      (a = 0 → exec .imageCheckDone s = .next ((s.acceptImage k).setFld fJeStart_STATE 1).settle) ∧
      (a ≠ 0 → b = 0 → exec .imageCheckDone s = .next ((s1.acceptImage (1 - k)).setFld fJeStart_STATE 1).settle) ∧
      (a ≠ 0 → b ≠ 0 → exec .imageCheckDone s =
        .next (((s1.setFld fJeStart_FAIL_SECOND b).eventE 0x60 (1 - k) b).setFld fJeStart_STATE 1).settle) ∧
      (s.boot.noFlash = true → b = 1 ∧ (s.boot.loadEnded = false → a = 1)))) ∧
  (∀ (s : State) (slot : Nat),
    let rd := s.slotByte slot
    let mode := s.startMode rd
    let s1 := (((s.setFld fJeStart_IMAGE 1).setFld fJeStart_MODE mode).setFld fJeStart_SLOT slot).setFld fJeStart_IMAGE_VERSION (imgNat rd 0xC 4)
    let s2 : State := { s1 with boot := { s1.boot with image := imgBytes rd 0 (imgLen rd) } }
    let s3 := (imgRecords rd 0x01 ++ imgRecords rd (mode + 1)).foldl State.applyRecord (s2.takeKeys rd)
    s.acceptImage slot = if imgBoardKey rd = 0 then s3.forget s3.inCipher else s3) ∧
  (∀ (s : State) (failedSlices : Byte) (failedLanes training test : BitVec 256) (mended : List (SliceId × Fin 512)),
    (s.boot.running = false ∨ s.fld fJeStart_STATE ≠ 1 → exec (.startReady failedSlices failedLanes training test mended) s = .next s.settle) ∧
    (s.boot.running = true → s.fld fJeStart_STATE = 1 →
      let out := startOut failedSlices failedLanes
      let s1 := (s.startUnits failedSlices failedLanes).startChannels out training test
      let t := ((List.finRange 8).foldl (fun u n => u.repair mended n) s1).startEnd
      exec (.startReady failedSlices failedLanes training test mended) s = .next t.settle ∧ t.fld fJeStart_STATE = 2)) ∧
  (∀ (s : State), s.boot.running = true → s.fld fJeStart_STATE = 1 → s.boot.image = [] →
    let s1 := s.fixMapped (s.startTried fun _ => false)
    let s2 := ((((List.finRange 8).foldl (fun u n => u.repair [] n) s1).setFld fJeStart_STATE 2).emit .feedResync).emit .statResync
    exec (.startReady 0 0 0 0 []) s =
      .next (if s2.engineEvents.recs ≠ [] ∧ s2.fld fJeEventStatus_MASK = 0 then s2.emit (.irq 1040) else s2).settle) ∧
  (∀ (s : State), s.serving →
    let mask := codeMask (RegId.fields .jeCfgLock) .rw ||| codeMask (RegId.fields .jeCfgLock) .rwl
    let s1 := s.put .jeCfgLock 0 ((s.reg .jeCfgLock &&& mask) ||| 0x8000000000000000#64)
    (s.fld fJeCfgLock_BUSY = 1 → exec .configLock s = .next (s.setFld fJeCfgLock_RESULT 10).settle) ∧
    (s.fld fJeCfgLock_BUSY = 0 → s1.lockFault = none →
      exec .configLock s = .next (((s1.setFld fJeCfgLock_LOCKED 1).setFld fJeCfgLock_RESULT 0).setFld fJeCfgLock_PART 0).settle) ∧
    (∀ r p, s.fld fJeCfgLock_BUSY = 0 → s1.lockFault = some (r, p) →
      exec .configLock s = .next (((s1.setFld fJeCfgLock_RESULT r).setFld fJeCfgLock_PART p).eventE 0x61 r p).settle))

/-- R358, R363, R364, R414: by register, pin or failed self-test a zeroisation begins, ending a load in progress, and goes on where one runs; its end clears every key, sets ZEROISED, raises event 0x63 and takes every
port's link. An entropy failure counts as a failed self-test and zeroises. An enrolment is open in test and recovery mode or without an image, and refused with RESULT 1
otherwise, and with RESULT 2 while another action runs; it ends with a fresh secret that the helper record in the flash reproduces, or with RESULT 3. While BUSY is set an action answers RESULT 2. -/
def Obligations.SecurityActions : Prop :=
  (∀ (s : State) (why : Nat),
    (1 ≤ s.sec.pending → s.sec.pending ≤ 3 → s.zeroise why = s) ∧
    (s.sec.pending = 0 ∨ 4 ≤ s.sec.pending →
      let loading := s.boot.running && decide (s.fld fJeStart_STATE = 0)
      s.zeroise why =
        { s with sec := { s.sec with pending := why }, boot := { s.boot with loadEnded := s.boot.loadEnded || loading } })) ∧
  (∀ (s : State),
    exec .zeroisePin s = .next (s.zeroise 2).settle ∧
    exec .entropyHealthFail s = .next (((s.setFld fJeSecStatus_SELFTEST_FAIL 1).eventE 0x64 6 0).zeroise 3).settle) ∧
  (∀ (s : State) (flashError : Bool),
    (s.sec.pending = 0 → exec (.securityActionDone flashError) s = .next s.settle) ∧
    (1 ≤ s.sec.pending → s.sec.pending ≤ 3 →
      let s1 : State := { s with sec := { s.sec.clear with pending := 0 } }
      let s2 := (((s1.setFld fJeSecStatus_ZEROISED 1).setFld fJeSecStatus_DEV_KEY 0).setFld fJeSecStatus_TRANSPORT_KEY 0).eventE 0x63 (s.sec.pending - 1) 0
      let s3 := (List.finRange 8).foldl (fun s e => s.linkLost e) s2
      exec (.securityActionDone flashError) s = .next (if s3.fld fJeSecCtl_BUSY = 1 then s3.secEnd 0 else s3).settle) ∧
    (s.sec.pending = 4 →
      let dev := (s.drawN 4).1.flatMap fun w => leBytes 8 w.toNat
      let s1 : State := { (s.drawN 4).2 with sec := { (s.drawN 4).2.sec with pending := 0 } }
      let owner := (List.range 96).map fun k => s.boot.image.getD (0x40 + k) 0
      let s2 := s1.flashPut helperBase ((List.range 4096).map fun k => (Config.pufHelper dev).getD k 0xFF)
      let s3 : State := { s2 with sec := { s2.sec with
        kDev := some dev, kImg := if s.boot.image = [] then none else some (imageKey dev owner) } }
      exec (.securityActionDone flashError) s =
        .next (if flashError then s1.secEnd 3 else (s3.setFld fJeSecStatus_DEV_KEY 1).secEnd 0).settle)) ∧
  (∀ (x : Sec), x.clear.kDev = none ∧ x.clear.kImg = none ∧ x.clear.transport = none ∧ x.clear.board = none ∧ x.clear.saks = []) ∧
  (∀ (s : State), s.serving →
    let mask := codeMask (RegId.fields .jeSecCtl) .rw ||| codeMask (RegId.fields .jeSecCtl) .rwl
    let s1 (v : W64) : State := s.put .jeSecCtl 0 ((s.reg .jeSecCtl &&& mask) ||| v)
    (s.fld fJeSecCtl_BUSY = 1 → exec .zeroise s = .next (s.setFld fJeSecCtl_RESULT 2).settle ∧
      exec .pufEnrol s = .next (s.setFld fJeSecCtl_RESULT 2).settle) ∧
    (s.fld fJeSecCtl_BUSY = 0 →
      exec .zeroise s = .next (((s1 0x4000000000000000#64).zeroise 1).setFld fJeSecCtl_BUSY 1).settle ∧
      (let t := s1 0x8000000000000000#64
       (s.fld fJeStart_MODE = 3 ∨ s.fld fJeStart_IMAGE ≠ 1 → s.sec.pending = 0 →
        exec .pufEnrol s = .next (({ t with sec := { s.sec with pending := 4 } } : State).setFld fJeSecCtl_BUSY 1).settle) ∧
       (s.fld fJeStart_MODE = 3 ∨ s.fld fJeStart_IMAGE ≠ 1 → s.sec.pending ≠ 0 →
        exec .pufEnrol s = .next (s.setFld fJeSecCtl_RESULT 2).settle) ∧
       (s.fld fJeStart_MODE ≠ 3 → s.fld fJeStart_IMAGE = 1 → exec .pufEnrol s = .next (s.setFld fJeSecCtl_RESULT 1).settle))))

/-- R359, R361, R362: a record of KIND 1 ends with its result: 5 without a transport key or once zeroised, 2 where its header is not as the table asks, 3 for the transmit association
in use, 1 where the wrapping does not verify; otherwise its key replaces its association. Records of KIND 2 and 3 are refused with 5, 2 or 4; otherwise the
wrapped entry stands at OUT in HBM. Every record counts, and one that failed raises event 0x62; words that waited are taken. An event for a record of another kind, or without one, changes nothing. -/
def Obligations.KeyImports : Prop :=
  (∀ (s : State),
    (s.sec.rec_ = none → exec .sakImport s = .next s.settle ∧ exec .provisionTransportKey s = .next s.settle ∧
      exec .generateBoardKey s = .next s.settle) ∧
    (∀ r, s.sec.rec_ = some r →
      let kind := bitsOf (recWord r 0) 60 4
      (kind = 2 ∨ kind = 3 → exec .sakImport s = .next s.settle) ∧ (kind ≠ 2 → exec .provisionTransportKey s = .next s.settle) ∧
      (kind ≠ 3 → exec .generateBoardKey s = .next s.settle))) ∧
  (∀ (s : State) (r : List W64), s.sec.rec_ = some r → bitsOf (recWord r 0) 60 4 ≠ 2 → bitsOf (recWord r 0) 60 4 ≠ 3 →
    (∀ res, s.sakResult r = .error res → exec .sakImport s = .next (s.importEnd res).settle) ∧
    (∀ k, s.sakResult r = .ok k →
      let same (y : Sak) : Bool := decide (y.port = k.port) && decide (y.rx = k.rx) && decide (y.sc = k.sc) && decide (y.an = k.an)
      exec .sakImport s =
        .next (({ s with sec := { s.sec with saks := (s.sec.saks.filter fun y => !(same y)) ++ [k] } } : State).importEnd 0).settle)) ∧
  (∀ (s : State) (r : List W64),
    let w := recWord r 0
    let rx := bitOf w 56
    let sc := bitsOf w 52 4
    let e : Fin 8 := Fin.ofNat 8 (bitsOf w 57 3)
    let an := bitsOf w 50 2
    let inUse := !rx && s.sec.saks.any fun k => decide (k.port = e) && !k.rx && decide (k.an = an) && k.active
    let sends := s.sec.saks.any fun k => decide (k.port = e) && !k.rx && k.active
    let well := bitsOf w 60 4 = 1 ∧ bitsOf w 0 49 = 0 ∧ (rx = true ∨ sc = 0)
    (s.zeroised = true → s.sakResult r = .error 5) ∧
    (s.zeroised = false → ¬well → s.sakResult r = .error 2) ∧
    (s.zeroised = false → well → s.sec.transport = none → s.sakResult r = .error 5) ∧
    (∀ kek, s.zeroised = false → well → s.sec.transport = some kek →
      (inUse = true → s.sakResult r = .error 3) ∧
      (inUse = false → Config.kwUnwrap kek (recBytes r 1) = none → s.sakResult r = .error 1) ∧
      (∀ key, inUse = false → Config.kwUnwrap kek (recBytes r 1) = some key →
        s.sakResult r = .ok ⟨e, rx, sc, an, bitOf w 49, key, rx || !sends⟩))) ∧
  (∀ (s : State) (r : List W64), s.sec.rec_ = some r → bitsOf (recWord r 0) 60 4 = 2 →
    (s.provRefused r 5 ≠ 0 → exec .provisionTransportKey s = .next (s.importEnd (s.provRefused r 5)).settle) ∧
    (s.provRefused r 5 = 0 → exec .provisionTransportKey s = .next ((s.putEntry r 2 ((recBytes r 1).take 32)).importEnd 0).settle)) ∧
  (∀ (s : State) (r : List W64), s.sec.rec_ = some r → bitsOf (recWord r 0) 60 4 = 3 →
    (s.provRefused r 1 ≠ 0 → exec .generateBoardKey s = .next (s.importEnd (s.provRefused r 1)).settle) ∧
    (s.provRefused r 1 = 0 → exec .generateBoardKey s =
      .next (((s.drawN 8).2.putEntry r 1 ((s.drawN 8).1.flatMap fun w => leBytes 8 w.toNat)).importEnd 0).settle)) ∧
  (∀ (s : State) (r : List W64) (k : Nat),
    let well := bitsOf (recWord r 0) 46 14 = 0 ∧ (∀ w ∈ r.drop k, w = 0) ∧ recOut r + 128 ≤ s.hbmBound
    (s.zeroised = true → s.provRefused r k = 5) ∧
    (s.zeroised = false → ¬well → s.provRefused r k = 2) ∧
    (s.zeroised = false → well →
      (s.fld fJeStart_MODE ≠ 3 → s.provRefused r k = 4) ∧
      (s.fld fJeStart_MODE = 3 → s.provRefused r k = if s.sec.kImg = none then 5 else 0))) ∧
  (∀ (s : State) (r : List W64) (typ : Nat) (key : List Byte),
    let e := leBytes 8 typ ++ Config.kwWrap (s.sec.kImg.getD []) key
    s.putEntry r typ key = s.poke (s.hbmPhys (recOut r)) ((List.range 128).map fun k => e.getD k 0)) ∧
  (∀ (s : State) (res : Nat),
    let s1 := ({ s with sec := { s.sec with rec_ := none, waiting := [] } } : State).setFld fJeSecStatus_IMPORT_RESULT res
    s.importEnd res = s.sec.waiting.foldl State.keyWord
      (if res = 0 then s1.bump fJeSecStatus_IMPORTS else (s1.bump fJeSecStatus_IMPORT_FAILS).eventE 0x62 res 0))

/-- R366, R414: the flash takes one action at a time, on the address of its write, BUSY until it ends; another meanwhile answers RESULT 2. Programming and erasing the helper record, or the slot loaded at this start outside test and recovery
mode, answers RESULT 1 and a short page buffer RESULT 4, and no other field changes. A read answers eight bytes; a program clears bits of its page and empties the buffer; an erased sector reads 0xFF; an action that
failed answers RESULT 3 and leaves the page or sector it was to change undefined. -/
def Obligations.FlashActions : Prop :=
  (∀ (s : State) (addr : BitVec 24), s.serving →
    let s1 (a : Nat) : State := s.put .jeNvmCtl 0 (BitVec.ofNat 64 (a * 2 ^ 62 + addr.toNat))
    let go (a : Nat) : State := ({ s1 a with sec := { s.sec with nvmAction := a, nvmAddr := addr.toNat } } : State).setFld fJeNvmCtl_BUSY 1
    let closed := s.flashClosed addr.toNat
    (s.fld fJeNvmCtl_BUSY = 1 →
      exec (.nvmRead addr) s = .next (s.setFld fJeNvmCtl_RESULT 2).settle ∧ exec (.nvmProgram addr) s = .next (s.setFld fJeNvmCtl_RESULT 2).settle ∧
      exec (.nvmErase addr) s = .next (s.setFld fJeNvmCtl_RESULT 2).settle) ∧
    (s.fld fJeNvmCtl_BUSY = 0 →
      exec (.nvmRead addr) s = .next (go 1).settle ∧
      (closed = false → 32 ≤ s.sec.pageBuf.length → exec (.nvmProgram addr) s = .next (go 2).settle) ∧
      (closed = false → s.sec.pageBuf.length < 32 → exec (.nvmProgram addr) s = .next (s.setFld fJeNvmCtl_RESULT 4).settle) ∧
      (closed = true → exec (.nvmProgram addr) s = .next (s.setFld fJeNvmCtl_RESULT 1).settle) ∧
      (closed = false → exec (.nvmErase addr) s = .next (go 3).settle) ∧
      (closed = true → exec (.nvmErase addr) s = .next (s.setFld fJeNvmCtl_RESULT 1).settle))) ∧
  (∀ (s : State) (a : Nat),
    s.flashClosed a = true ↔ (0x800000 ≤ a ∧ a < 0x801000) ∨
      (s.fld fJeStart_IMAGE = 1 ∧ s.fld fJeStart_MODE ≠ 3 ∧ a / 0x400000 = s.fld fJeStart_SLOT)) ∧
  (∀ (s : State) (v : W64), s.serving →
    let s1 := s.put .jeNvmBuf 0 v
    (s.sec.pageBuf.length < 32 → exec (.nvmBufWrite v) s = .next ({ s1 with sec := { s.sec with pageBuf := s.sec.pageBuf ++ [v] } } : State).settle) ∧
    (32 ≤ s.sec.pageBuf.length → exec (.nvmBufWrite v) s = .next s1.settle)) ∧
  (∀ (s : State),
    let addr := s.sec.nvmAddr
    let s0 (buf : List W64) : State := ({ s with sec := { s.sec with nvmAction := 0, pageBuf := buf } } : State).setFld fJeNvmCtl_BUSY 0
    let s1 (buf : List W64) : State := (s0 buf).setFld fJeNvmCtl_RESULT 0
    (∀ failed, s.sec.nvmAction = 0 → exec (.nvmActionDone failed) s = .next s.settle) ∧
    (s.sec.nvmAction = 1 →
      exec (.nvmActionDone false) s =
        .next ((s1 s.sec.pageBuf).setReg .jeNvmData (BitVec.ofNat 64 (leNat ((List.range 8).map fun k => s.flashAt (addr / 8 * 8 + k))))).settle ∧
      exec (.nvmActionDone true) s = .next ((s0 s.sec.pageBuf).setFld fJeNvmCtl_RESULT 3).settle) ∧
    (s.sec.nvmAction = 2 →
      exec (.nvmActionDone false) s =
        .next ((s1 []).flashPut (addr / 256 * 256) ((s.sec.pageBuf.flatMap fun w => leBytes 8 w.toNat).mapIdx fun k b =>
          b &&& s.flashAt (addr / 256 * 256 + k))).settle ∧
      exec (.nvmActionDone true) s = .next (((s0 []).nvmSpoil 2 addr).setFld fJeNvmCtl_RESULT 3).settle) ∧
    (s.sec.nvmAction = 3 →
      exec (.nvmActionDone false) s = .next ((s1 s.sec.pageBuf).flashPut (addr / 4096 * 4096) (List.replicate 4096 0xFF)).settle ∧
      exec (.nvmActionDone true) s = .next (((s0 s.sec.pageBuf).nvmSpoil 3 addr).setFld fJeNvmCtl_RESULT 3).settle)) ∧
  (∀ (s : State) (addr : Nat),
    let page := (s.drawN 32)
    let sector := (s.drawN 512)
    s.nvmSpoil 2 addr = page.2.flashPut (addr / 256 * 256) (page.1.flatMap fun w => leBytes 8 w.toNat) ∧
    s.nvmSpoil 3 addr = sector.2.flashPut (addr / 4096 * 4096) (sector.1.flatMap fun w => leBytes 8 w.toNat))

/-- R369 to R374, R25, R298: the limit is the deepest state that MAX_DEPTH, every ENABLED partition's bound and an open queue pair or slot allow. A unit without work is gated where its hold
expires and the limit allows it, and ungated when a command needs it; a unit that works keeps its clock. An idle engine whose limit allows it begins an entry into Dormant, and from there into Overwinter; its
steps send the interrupt messages, flush and drain the buffers, flip the shared pages back and save the ring contexts, each waiting for its work to be done; a trigger before step 4 abandons the entry and counts, at
once while pages flip, and one at step 4 or later is met by a wake as soon as the state is reached. A wake trigger, or the fabric's request in Overwinter or on the way there, begins a wake. It ends Awake with everything
held served in the order of its arrival; from Overwinter the caches, the Graft, the format blocks and the banks of sub-keys are lost. Each event where it cannot apply changes nothing. -/
def Obligations.SleepAndWake : Prop :=
  (∀ (s : State) (k : Nat), k ≤ 3 →
    (k ≤ s.sleepLimit ↔ k ≤ s.fld fJePwrCtl_MAX_DEPTH ∧ (s.netOpen = true → k ≤ 2) ∧
      ∀ p < 16, s.partEnabled p = true → k ≤ depthOf (s.fld fJpPwrCtl_WAKE_BOUND p))) ∧
  (∀ b : Nat, (depthOf b = 0 ↔ b < 4) ∧ (depthOf b = 1 ↔ 4 ≤ b ∧ b < 1500) ∧ (depthOf b = 2 ↔ 1500 ≤ b ∧ b < 30000) ∧ (depthOf b = 3 ↔ 30000 ≤ b)) ∧
  (∀ (s : State) (u : RestUnit),
    (s.ready = true → s.asleep = false → 1 ≤ s.sleepLimit → s.unitIdle u = true → exec (.restHoldExpiry u) s = .next (s.gate u true).settle) ∧
    (s.ready = false ∨ s.asleep = true ∨ s.sleepLimit = 0 ∨ s.unitIdle u = false → exec (.restHoldExpiry u) s = .next s.settle) ∧
    (s.unitNeeded u = true → exec (.restWakeDone u) s = .next (s.gate u false).settle) ∧
    (s.unitNeeded u = false → exec (.restWakeDone u) s = .next s.settle)) ∧
  (∀ (s : State), s.mayEnter = true →
    s.ready = true ∧ s.power.entry = 0 ∧ s.power.waking = false ∧ s.power.held = [] ∧ s.actionBusy = false ∧
    (∀ x ∈ s.trackers, x.admitted = true ∧ x.op = 0x02 ∧ (x.phase = .running ∨ x.phase = .reading)) ∧ s.dbBuf = [] ∧ s.streams = [] ∧ s.sctx = [] ∧
    s.objMoves = [] ∧ s.moves = [] ∧ s.scan = none ∧ s.walks = [] ∧ (∀ p : Part, (s.part p).dcmd = [] ∧ (s.part p).inval = none ∧ (s.part p).initing = false)) ∧
  (∀ (s : State),
    let go (e : Nat) : State := { s with power := { s.power with entry := e, step := 1, trigger := false } }
    (s.mayEnter = true → s.asleep = false → 2 ≤ s.sleepLimit → exec .dormantHoldExpiry s = .next (go 1).settle) ∧
    (s.mayEnter = false ∨ s.asleep = true ∨ s.sleepLimit < 2 → exec .dormantHoldExpiry s = .next s.settle) ∧
    (s.mayEnter = true → s.fld fJePwrStatus_STATE = 2 → 3 ≤ s.sleepLimit → exec .overwinterHoldExpiry s = .next (go 2).settle) ∧
    (s.mayEnter = false ∨ s.fld fJePwrStatus_STATE ≠ 2 ∨ s.sleepLimit < 3 → exec .overwinterHoldExpiry s = .next s.settle)) ∧
  (∀ (s : State), s.power.entry = 0 → exec .sleepEntryStepDone s = .next s.settle) ∧
  (∀ (s s1 : State) (done : Bool), s.power.entry ≠ 0 → s.entryWork = (s1, done) →
    let early := s1.power.trigger = true ∧ s1.power.step < 4
    let flips := s1.power.entry = 2 ∧ s1.power.step = 2
    (early → done = true ∨ flips → exec .sleepEntryStepDone s = .next s1.abandonEntry.settle) ∧
    (done = false → ¬(early ∧ flips) → exec .sleepEntryStepDone s = .next s1.settle) ∧
    (done = true → ¬early → s1.power.step < entrySteps s1.power.entry →
      exec .sleepEntryStepDone s = .next ({ s1 with power := { s1.power with step := s1.power.step + 1 } } : State).settle) ∧
    (done = true → ¬early → entrySteps s1.power.entry ≤ s1.power.step →
      let s2 := ({ s1 with power := { s1.power with entry := 0, step := 0, trigger := false } } : State).setPower (s1.power.entry + 1)
      let s3 := (if s1.power.entry = 2 then s2.emit (.fabReady false) else s2).emit (.ppmReq (s2.request (s1.power.entry + 1)))
      exec .sleepEntryStepDone s = .next (if s1.power.trigger then s3.trigger else s3).settle)) ∧
  (∀ (s : State),
    let s1 := (List.finRange 8).foldl (fun (u : State) (n : SliceId) => u.flushPre n fun _ => true) s
    (s.power.entry = 1 → s.power.step = 1 → s.entryWork = (s.irqFlush, true)) ∧
    (s.power.entry = 1 → s.power.step = 2 → s1.buffersQuiet = true → s.entryWork = (s1.drainWcb fun _ => true, true)) ∧
    (s.power.entry = 1 → s.power.step = 2 → s1.buffersQuiet = false → s.entryWork = (s1, false)) ∧
    (s.power.entry = 2 → s.power.step = 2 → s.entryWork = (s.recallAll, !(s.recallAll.pages.any fun y => decide (y.2 ≠ .device)))) ∧
    (s.power.entry = 2 → s.power.step = 3 → s.entryWork = (s.saveContexts.drainWcb fun _ => true, true)) ∧
    (s.power.entry = 1 → 3 ≤ s.power.step → s.entryWork = (s, true)) ∧
    (s.power.entry = 2 → s.power.step = 1 ∨ 4 ≤ s.power.step → s.entryWork = (s, true)) ∧
    s.abandonEntry =
      (let s2 := (({ s with power := { s.power with entry := 0, step := 0, trigger := false } } : State).bump fJePwrStatus_ENTRY_ABORTS)
       (if s.asleep then s2.emit (.ppmReq (s2.request 0)) else s2).awake.replayAll)) ∧
  (∀ (s : State) (c : Wake),
    (c ≠ .resetPin ∨ s.boot.running = true →
      (s.power.entry ≠ 0 → exec (.wakeTrigger c) s = .next ({ s with power := { s.power with trigger := true } } : State).settle) ∧
      (s.power.entry = 0 → s.asleep = true → exec (.wakeTrigger c) s = .next ({ s with power := { s.power with waking := true } } : State).settle) ∧
      (s.power.entry = 0 → s.asleep = false → exec (.wakeTrigger c) s = .next s.settle)) ∧
    (c = .resetPin → s.boot.running = false → exec (.wakeTrigger c) s = .next s.settle)) ∧
  (∀ (s : State),
    (s.fld fJePwrStatus_STATE = 3 → s.power.entry = 0 →
      exec .fabWakeReq s = .next ({ s with power := { s.power with waking := true } } : State).settle) ∧
    (s.power.entry = 2 → exec .fabWakeReq s = .next ({ s with power := { s.power with trigger := true } } : State).settle) ∧
    (s.fld fJePwrStatus_STATE ≠ 3 → s.power.entry ≠ 2 → exec .fabWakeReq s = .next s.settle)) ∧
  (∀ (s : State),
    (s.power.waking = false → exec .wakeDone s = .next s.settle) ∧
    (s.power.waking = true →
      let s1 := if s.fld fJePwrStatus_STATE = 3 then s.overwinterLoss.emit (.fabReady true) else s
      let s2 := ({ s1 with power := { s1.power with waking := false } } : State).awake
      exec .wakeDone s = .next (((s2.bump fJePwrStatus_WAKES).emit (.ppmReq (s2.request 0))).replayAll).settle)) ∧
  (∀ (s : State),
    (let t := s.awake
     t.fld fJePwrStatus_STATE = 0 ∧ t.fld fJePwrStatus_LANES_GATED = 0 ∧ t.fld fJePwrStatus_WINNOW_GATED = 0) ∧
    (let u := s.power.held.foldl (fun (u : State) c => u.replay c) { s with power := { s.power with held := [], replaying := true } }
     s.replayAll = { u with power := { u.power with replaying := false } }) ∧
    (let t := s.overwinterLoss
     t.rcache = [] ∧ t.graft = [] ∧ t.fmt = [] ∧ t.ctxLru = [] ∧ t.scan = none ∧ t.banks = Vector.replicate 2 Bank.reset ∧
     (∀ x ∈ t.rings, x.cached = false) ∧ t.mem = s.mem ∧ t.trackers = s.trackers))

/-- R370, R375 to R379: the arbiter's grant is what the pin says, and the grant in force the lesser of it, at most 680, and the request. The engine asks for REQ_CAP, between 3 and 680, while it is awake, 48 units in
Dormant and 13 in Overwinter. A window of the awake engine adds its energy to JE_ENERGY; more than 9/8 of the grant in force raises the level by
four, more than the grant by one, less than the grant by the hysteresis lowers it by one, and no level passes 15; a window over the grant at level 15 counts in UNMET, the first of a run with
event 0x70. A window of a sleeping engine changes nothing. -/
def Obligations.PowerArbiter : Prop :=
  (∀ (s : State) (v : BitVec 10), exec (.ppmGrantChange v) s = .next (s.setFld fJePwrArb_GRANT v.toNat).settle) ∧
  (∀ (s : State),
    let cap := max 3 (min 680 (s.fld fJePwrArb_REQ_CAP))
    s.request 0 = cap ∧ s.request 1 = cap ∧ s.request 2 = 48 ∧ s.request 3 = 13 ∧
    s.grantInForce = min (min 680 (s.fld fJePwrArb_GRANT)) cap) ∧
  (∀ (s : State) (e : W32), s.asleep = true → exec (.powerWindow e) s = .next s.settle) ∧
  (∀ (s : State) (e : W32), s.asleep = false →
    let g := s.grantInForce
    let l := s.fld fJePwrArb_LEVEL
    let s1 := s.setReg .jeEnergy (s.reg .jeEnergy + BitVec.ofNat 64 e.toNat)
    let calm (n : Nat) : State := { s1.setFld fJePwrArb_LEVEL n with overLast := false }
    (e.toNat ≤ 320 * g → 64 * e.toNat < 320 * g * (64 - s.fld fJePwrArb_HYST) → 0 < l → exec (.powerWindow e) s = .next (calm (l - 1)).settle) ∧
    (e.toNat ≤ 320 * g → 320 * g * (64 - s.fld fJePwrArb_HYST) ≤ 64 * e.toNat ∨ l = 0 → exec (.powerWindow e) s = .next (calm l).settle) ∧
    (320 * g < e.toNat → e.toNat ≤ 360 * g → l < 15 → exec (.powerWindow e) s = .next (s1.setFld fJePwrArb_LEVEL (l + 1)).settle) ∧
    (360 * g < e.toNat → l < 15 → exec (.powerWindow e) s = .next (s1.setFld fJePwrArb_LEVEL (min (l + 4) 15)).settle) ∧
    (320 * g < e.toNat → l = 15 →
      let s2 := (s1.setFld fJePwrArb_LEVEL 15).bump fJePwrArb_UNMET
      exec (.powerWindow e) s =
        .next (if s2.overLast then s2 else ({ s2 with overLast := true } : State).eventE 0x70 (s2.fld fJePwrArb_GRANT) 15).settle))

/-- R394 to R396, R414: an action on a lane ends at once. In a slice in service a lane goes out of service only while its partner is in service (RESULT 1), and no more than four of a slice are tested
at once (RESULT 5); in any other slice the answer is RESULT 4; a refused action changes RESULT alone, and while BUSY is set every action answers RESULT 2. Taking a lane out begins its drain, and the rows that the Sieve holds in it are let go; one that is drained is OFFLINE with event 0x23, its rows
of accumulators spilled and its cache empty, and goes on to its self-test or its pending return. A return of an offline
lane reinitialises it, unless its last self-test failed (RESULT 3). A self-test that passed returns a lane requested in service; one that failed leaves it OFFLINE with events 0x24
and 0x23. An event for a lane in another state changes nothing. -/
def Obligations.LaneService : Prop :=
  (∀ (s : State) (n : SliceId) (l : Fin 32), s.serving →
    (s.fld fJsLaneCtl_BUSY n = 1 →
      let r := s.setFld fJsLaneCtl_RESULT 2 n
      exec (.laneReturn n l) s = .next r.settle ∧ exec (.laneOffline n l) s = .next r.settle ∧ exec (.laneSelfTest n l) s = .next r.settle) ∧
    (s.fld fJsLaneCtl_BUSY n = 0 →
      let v (a : Nat) : W64 := BitVec.ofNat 64 (a * 2 ^ 62 + l.val)
      let s1 (a : Nat) : State := s.put .jsLaneCtl n (v a)
      exec (.laneReturn n l) s = .next (s.orRefused .jsLaneCtl n (v 1) ((s1 1).laneReturn n l)).settle ∧
      exec (.laneOffline n l) s = .next (s.orRefused .jsLaneCtl n (v 2) ((s1 2).laneOffline n l)).settle ∧
      exec (.laneSelfTest n l) s = .next (s.orRefused .jsLaneCtl n (v 3) ((s1 3).laneSelfTest n l)).settle)) ∧
  (∀ (s : State) (n : SliceId) (l : Fin 32), s.serving → s.fld fJsLaneCtl_BUSY n = 0 →
    let k := laneId n l
    let r (x : Nat) : State := s.setFld fJsLaneCtl_RESULT x n
    (s.sliceState n ≠ 0 →
      exec (.laneReturn n l) s = .next (r 4).settle ∧ exec (.laneOffline n l) s = .next (r 4).settle ∧ exec (.laneSelfTest n l) s = .next (r 4).settle) ∧
    (s.sliceState n = 0 → s.laneState k.val = 0 → s.laneState (partner k).val ≠ 0 →
      exec (.laneOffline n l) s = .next (r 1).settle ∧ exec (.laneSelfTest n l) s = .next (r 1).settle) ∧
    (s.sliceState n = 0 → s.laneState k.val = 0 → s.laneState (partner k).val = 0 → 4 ≤ s.lanesTesting n →
      exec (.laneSelfTest n l) s = .next (r 5).settle) ∧
    (s.sliceState n = 0 → s.laneState k.val = 2 → 4 ≤ s.lanesTesting n → exec (.laneSelfTest n l) s = .next (r 5).settle) ∧
    (s.sliceState n = 0 → s.laneState k.val = 2 → s.laneFailed k = true → exec (.laneReturn n l) s = .next (r 3).settle)) ∧
  (∀ (s : State) (n : SliceId) (k : Nat), s.sliceState n = 0 →
    let l := laneId n k
    (s.laneState l.val = 0 → s.laneReturn n k = s.laneResult n 0) ∧
    (s.laneState l.val = 0 → s.laneState (partner l).val = 0 →
      s.laneOffline n k = (s.laneDrain l).laneResult n 0 ∧
      (s.lanesTesting n < 4 →
        s.laneSelfTest n k = (({ s with laneFrom := s.laneFrom ++ [(l.val, true)] } : State).laneDrain l).laneResult n 0)) ∧
    (s.laneState l.val = 1 →
      s.laneReturn n k = (s.laneBit fJsLaneFail_PENDING l true).laneResult n 0 ∧
      s.laneOffline n k = (s.laneBit fJsLaneFail_PENDING l false).laneResult n 0 ∧ s.laneSelfTest n k = s.laneResult n 0) ∧
    (s.laneState l.val = 2 →
      (s.laneFailed l = false → s.laneReturn n k = (s.laneBack l).laneResult n 0) ∧ s.laneOffline n k = s.laneResult n 0 ∧
      (s.lanesTesting n < 4 →
        s.laneSelfTest n k = (({ s with laneFrom := s.laneFrom ++ [(l.val, false)] } : State).setLaneState l.val 3).laneResult n 0)) ∧
    (s.laneState l.val = 3 →
      s.laneReturn n k = (s.laneBit fJsLaneFail_PENDING l true).laneResult n 0 ∧ s.laneOffline n k = s.laneResult n 0 ∧
      s.laneSelfTest n k = s.laneResult n 0)) ∧
  (∀ (s : State) (l : LaneId),
    let rows := s.heldRows.filter fun e => e.2.lines.any fun x => decide (x.1 = l)
    s.laneDrain l = (rows.foldl (fun (u : State) e => u.releaseRow e.1 e.2.table e.2.key) s).setLaneState l.val 1 ∧
    s.laneBack l = (s.resetCloche l).setLaneState l.val 0) ∧
  (∀ (s : State) (n : SliceId) (k : Fin 32),
    let l := laneId n k
    (s.laneState l.val ≠ 1 ∨ s.laneQuiet l = false → exec (.laneDrainDone n k) s = .next s.settle) ∧
    (s.laneState l.val = 1 → s.laneQuiet l = true →
      let s1 : State := { s with accs := s.accs.map fun (a : Acc) => if a.lane = l then { a with spilled := true } else a }
      let s2 := ((s1.resetCloche l).setLaneState l.val 2).eventE 0x23 l 0
      let s3 := s2.laneBit fJsLaneFail_PENDING l false
      (s2.laneTest l ≠ none → exec (.laneDrainDone n k) s = .next (s2.setLaneState l.val 3).settle) ∧
      (s2.laneTest l = none → s2.lanePending l = false → exec (.laneDrainDone n k) s = .next s2.settle) ∧
      (s2.laneTest l = none → s2.lanePending l = true →
        exec (.laneDrainDone n k) s = .next (if s3.laneFailed l then s3.laneResult n 3 else s3.laneBack l).settle))) ∧
  (∀ (s : State) (n : SliceId) (k : Fin 32),
    let l := laneId n k
    (s.laneState l.val ≠ 3 → ∀ block, exec (.laneSelfTestDone n k block) s = .next s.settle) ∧
    (s.laneState l.val = 3 →
      let s1 := (s.endLaneTest l).laneBit fJsLaneFail_PENDING l false
      (s.laneTest l = some true ∨ s.lanePending l = true →
        exec (.laneSelfTestDone n k 0) s = .next ((s1.laneBit fJsLaneFail_FAILED l false).laneBack l).settle) ∧
      (s.laneTest l ≠ some true → s.lanePending l = false →
        exec (.laneSelfTestDone n k 0) s = .next ((s1.laneBit fJsLaneFail_FAILED l false).setLaneState l.val 2).settle) ∧
      (∀ block : Byte, block ≠ 0 → exec (.laneSelfTestDone n k block) s =
        .next (((((s1.laneBit fJsLaneFail_FAILED l true).setLaneState l.val 2).laneResult n 3).eventE 0x24 l block.toNat).eventE 0x23 l 1).settle)))

/-- R249, R261, R398 to R400: a slice in service drains on request, for the commands admitted before it, unless the window is enabled (RESULT 1) or it is the last (RESULT 3); its drain ends
with its buffers written back, OUT, and event 0x22, or in its return where that is pending; a slice OUT returns through its self-test, with its lanes' caches empty and its channels as never written; a self-test that
fails makes it FAILED. A slice that is RETURNING is taken out by no request (RESULT 2), and one that FAILED answers RESULT 2. Each heartbeat is asked of every slice in service or draining; a fourth in a row unanswered fails the slice. An event for a slice in another state changes nothing. -/
def Obligations.SliceService : Prop :=
  (∀ (s : State) (n : SliceId), s.serving →
    let s1 (a : Nat) : State := s.put .jsSliceCtl n (BitVec.ofNat 64 (a * 2 ^ 62))
    exec (.sliceReturn n) s = .next ((s1 1).sliceReturn n).settle ∧ exec (.sliceTakeOut n) s = .next ((s1 2).sliceTakeOut n).settle) ∧
  (∀ (s : State) (n : SliceId),
    (s.sliceState n = 0 → s.sliceReturn n = s.sliceResult n 0) ∧
    (s.sliceState n = 0 → s.fld fJeWinCtl_ENABLED = 1 → s.sliceTakeOut n = s.sliceResult n 1) ∧
    (s.sliceState n = 0 → s.fld fJeWinCtl_ENABLED = 0 → (∀ m ∈ s.slicesIn, m = n) → s.sliceTakeOut n = s.sliceResult n 3) ∧
    (s.sliceState n = 0 → s.fld fJeWinCtl_ENABLED = 0 → (∃ m ∈ s.slicesIn, m ≠ n) →
      let s1 := ((s.setFld fJsSliceCtl_STATE 1 n).setFld fJsSliceCtl_ENABLE_PENDING 0 n).sliceResult n 0
      s.sliceTakeOut n = ({ s1 with drainFrom := s.drainFrom.set n s.admitted } : State).flushPre n fun _ => true) ∧
    (s.sliceState n = 1 → s.sliceReturn n = (s.setFld fJsSliceCtl_ENABLE_PENDING 1 n).sliceResult n 0 ∧
      s.sliceTakeOut n = (s.setFld fJsSliceCtl_ENABLE_PENDING 0 n).sliceResult n 0) ∧
    (s.sliceState n = 2 → s.sliceReturn n = (s.setFld fJsSliceCtl_STATE 3 n).sliceResult n 0 ∧ s.sliceTakeOut n = s.sliceResult n 0) ∧
    (s.sliceState n = 3 → s.sliceReturn n = s.sliceResult n 0 ∧ s.sliceTakeOut n = s.sliceResult n 2) ∧
    (s.sliceState n = 4 → s.sliceReturn n = s.sliceResult n 2 ∧ s.sliceTakeOut n = s.sliceResult n 2)) ∧
  (∀ (s : State) (n : SliceId),
    (s.sliceState n ≠ 1 ∨ s.sliceQuiet n = false → exec (.sliceDrainDone n) s = .next s.settle) ∧
    (s.sliceState n = 1 → s.sliceQuiet n = true →
      let s1 := ((s.drainWcb fun m => decide (m = n)).setFld fJsSliceCtl_STATE 2 n).eventE 0x22 n 0
      exec (.sliceDrainDone n) s = .next (if s1.fld fJsSliceCtl_ENABLE_PENDING n = 1 then
        (s1.setFld fJsSliceCtl_ENABLE_PENDING 0 n).setFld fJsSliceCtl_STATE 3 n else s1).settle)) ∧
  (∀ (s : State) (n : SliceId),
    (s.sliceState n ≠ 3 → ∀ passed, exec (.sliceReturnDone n passed) s = .next s.settle) ∧
    (s.sliceState n = 3 →
      let mine (a : Nat) : Bool := s.isHbm a && (s.channelOf a).any fun y => decide (y.1 / 32 = n.val)
      let s1 := (s.forget mine).setFld fJsSliceCtl_STATE 0 n
      exec (.sliceReturnDone n true) s = .next (((List.finRange 256).filter fun l => decide (laneSlice l = n)).foldl (fun u l => u.resetCloche l) s1).settle ∧
      exec (.sliceReturnDone n false) s = .next (s.failSlice n 3).settle)) ∧
  (∀ (s : State) (answered : Byte),
    (s.ready = false ∨ s.asleep = true → exec (.sliceHeartbeat answered) s = .next s.settle) ∧
    (s.ready = true → s.asleep = false →
      exec (.sliceHeartbeat answered) s = .next ((List.finRange 8).foldl (fun u n => u.beat n (answered.getLsbD n.val)) s).settle)) ∧
  (∀ (s : State) (n : SliceId),
    (2 ≤ s.sliceState n → ∀ b, s.beat n b = s) ∧
    (s.sliceState n < 2 →
      let beat (k : Nat) : State := ({ s with missedBeats := s.missedBeats.set n k } : State).emit (.heartbeat n)
      s.beat n true = beat 0 ∧
      (s.missedBeats[n] < 3 → s.beat n false = beat (s.missedBeats[n] + 1)) ∧
      (3 ≤ s.missedBeats[n] → s.beat n false = ({ beat 4 with missedBeats := s.missedBeats.set n 0 } : State).failSlice n 1)))

/-- R383, R389, R390, R397, R401, R407, R414: an event FIFO, a partition's or the engine's, is read a word at a time; a whole or high read of the second word frees its place, which the oldest waiting event then
takes with its interrupt, and an empty FIFO repeats its last word and sets UNDERRUN. An injection of a defined class is armed with its class, its partition and its kind, and class 0 answers RESULT 1; a FIFO class whose window passes its threshold in automatic mode is
protected with event 0x26, and the window starts anew; the Winnow tests itself only in BYPASS (RESULT 1), and a block that fails answers RESULT 3 with event 0x25. While BUSY is set an action answers RESULT 2; one that is refused changes RESULT alone. -/
def Obligations.EventsAndTests : Prop :=
  (∀ (s : State) (p : Part) (acc : RegAcc), s.serving →
    exec (.eventRead (some p) acc) s =
      .next ((s.readEvent (some p) acc).1.emit (.readData (viewOf acc (s.readEvent (some p) acc).2) false)).settle ∧
    exec (.eventRead none acc) s = .next ((s.readEvent none acc).1.emit (.readData (viewOf acc (s.readEvent none acc).2) false)).settle) ∧
  (∀ (s : State) (p : Part) (acc : RegAcc),
    let q := (s.part p).events
    let with_ (q' : EventFifo) : State := s.modPart p fun ps => { ps with events := q' }
    (q.recs = [] → s.readEvent (some p) acc = (s.setFld fJpEventStatus_UNDERRUN 1 p, q.last)) ∧
    (∀ r rest, q.recs = r :: rest → acc = .lo → s.readEvent (some p) acc = (with_ { q with last := r.word q.pos }, r.word q.pos)) ∧
    (∀ r rest, q.recs = r :: rest → acc ≠ .lo → q.pos = 0 →
      s.readEvent (some p) acc = (with_ { q with pos := 1, last := r.word 0 }, r.word 0)) ∧
    (∀ r rest, q.recs = r :: rest → acc ≠ .lo → q.pos = 1 → q.waiting = [] →
      s.readEvent (some p) acc = (with_ ⟨rest, 0, r.b, []⟩, r.b)) ∧
    (∀ r rest w ws, q.recs = r :: rest → acc ≠ .lo → q.pos = 1 → q.waiting = w :: ws →
      s.readEvent (some p) acc = ((with_ ⟨rest ++ [w], 0, r.b, ws⟩).partVector p, r.b))) ∧
  (∀ (s : State) (acc : RegAcc),
    let q := s.engineEvents
    let with_ (q' : EventFifo) : State := { s with engineEvents := q' }
    (q.recs = [] → s.readEvent none acc = (s.setFld fJeEventStatus_UNDERRUN 1, q.last)) ∧
    (∀ r rest, q.recs = r :: rest → acc = .lo → s.readEvent none acc = (with_ { q with last := r.word q.pos }, r.word q.pos)) ∧
    (∀ r rest, q.recs = r :: rest → acc ≠ .lo → q.pos = 0 →
      s.readEvent none acc = (with_ { q with pos := 1, last := r.word 0 }, r.word 0)) ∧
    (∀ r rest, q.recs = r :: rest → acc ≠ .lo → q.pos = 1 → q.waiting = [] →
      s.readEvent none acc = (with_ ⟨rest, 0, r.b, []⟩, r.b)) ∧
    (∀ r rest w ws, q.recs = r :: rest → acc ≠ .lo → q.pos = 1 → q.waiting = w :: ws →
      let t := with_ ⟨rest ++ [w], 0, r.b, ws⟩
      s.readEvent none acc = (if s.fld fJeEventStatus_MASK = 0 then t.emit (.irq 1040) else t, r.b))) ∧
  (∀ (s : State) (c : Fin 8) (p : Part) (kind : BitVec 2), s.serving →
    (s.fld fJeInject_BUSY = 1 → exec (.injectArm c p kind) s = .next (s.setFld fJeInject_RESULT 2).settle) ∧
    (s.fld fJeInject_BUSY = 0 →
      let s1 := s.put .jeInject 0 (BitVec.ofNat 64 (1 * 2 ^ 62 + (c.val * 2 ^ 48 + p.val * 2 ^ 40 + kind.toNat * 2 ^ 32)))
      (c = 0 → exec (.injectArm c p kind) s = .next (s.setFld fJeInject_RESULT 1).settle) ∧
      (c ≠ 0 → exec (.injectArm c p kind) s =
        .next ((({ s1 with armed := some (c.val, p, kind.toNat) } : State).setFld fJeInject_BUSY 1).setFld fJeInject_RESULT 0).settle))) ∧
  (∀ (s : State) (c : Fin 8),
    let k := s.fld fJeFifoStat_WINDOW c
    let past := c ≠ 0 ∧ s.fld fJeFifoCtl_AUTO c = 1 ∧ s.fld fJeFifoCtl_MODE c = 0 ∧ s.fld fJeFifoCtl_THRESH c < k
    (past → exec (.fifoErrorWindow c) s = .next ((((s.setFld fJeFifoCtl_MODE 1 c).eventE 0x26 c k)).setFld fJeFifoStat_WINDOW 0 c).settle) ∧
    (¬past → exec (.fifoErrorWindow c) s = .next (s.setFld fJeFifoStat_WINDOW 0 c).settle)) ∧
  (∀ (s : State), s.serving →
    (s.fld fJeUnitTest_BUSY = 1 → exec .winnowSelfTest s = .next (s.setFld fJeUnitTest_RESULT 2).settle) ∧
    (s.fld fJeUnitTest_BUSY = 0 →
      let s1 := s.put .jeUnitTest 0 (BitVec.ofNat 64 (1 * 2 ^ 62))
      (s.fld fJeWinnowCtl_STATE = 2 → exec .winnowSelfTest s = .next (((s1.setFld fJeUnitTest_BUSY 1).setFld fJeUnitTest_RESULT 0).restSync).settle) ∧
      (s.fld fJeWinnowCtl_STATE ≠ 2 → exec .winnowSelfTest s = .next (s.setFld fJeUnitTest_RESULT 1).settle))) ∧
  (∀ (s : State) (block : Byte),
    (s.fld fJeUnitTest_BUSY ≠ 1 → exec (.winnowSelfTestDone block) s = .next s.settle) ∧
    (s.fld fJeUnitTest_BUSY = 1 →
      let s1 := (s.setFld fJeUnitTest_BUSY 0).restSync
      (block = 0 → exec (.winnowSelfTestDone block) s = .next (s1.setFld fJeUnitTest_RESULT 0).settle) ∧
      (block ≠ 0 → exec (.winnowSelfTestDone block) s = .next ((s1.setFld fJeUnitTest_RESULT 3).eventE 0x25 block.toNat 0).settle)))

/-- Every command, of every row of the table, acts on the block as its row says when it comes to the front of the queue, and nothing
else does: a step is the front command on the state with the queue's rest; with no command waiting the block idles (the model's choice:
log entry 2). -/
def Obligations.StepTakesFront : Prop :=
  (∀ (s : State) (c : Instr) (rest : List Instr), step (s.withPending (c :: rest)) = exec c (s.withPending rest)) ∧
  (∀ (s : State), step (s.withPending []) = .next (s.withPending []))

/-- No command is turned away for want of a meaning, and none stops the block but the return of a granule past the end of HBM or of the
board tier (R265), which no memory can send: every other command ends in a next state, from every state. -/
def Obligations.CommandsComplete : Prop :=
  ∀ (c : Instr) (s : State),
    (∃ t, exec c s = .next t) ∨
    (exec c s = .fault .outsideSpace ∧
      ((∃ g r, c = .hbmReadReturn g r ∧ s.hbmBound ≤ g.toNat * 64) ∨
        (∃ g d p w, c = .boardReadReturn g d p w ∧ s.boardBound ≤ g.toNat * 64)))

/-- R42, an invariant of every step: no WAIT stays blocked once the source it names has reached TARGET. Whatever command moved the mark,
by publication, by a register write, by the read of a context or by the abort that a halt brings, the WAITs it releases are released in the
same step. -/
def Obligations.WaitsNeverMissed : Prop :=
  ∀ (s t : State), s.waitsBlocked → step s = .next t → t.waitsBlocked

/-- R42, R60, R216, R352, R357, R407: the block in reset. No WAIT is blocked and no object record due, memory is canonical and reads 0
(the model's choice: log entry 5), every register reads the reset value of its field map, every partition is DISABLED, the block is not at
READY, and nothing waits or has been sent. -/
def Obligations.ResetState : Prop :=
  State.reset.waitsBlocked ∧ State.reset.synced ∧ memOk State.reset ∧ State.reset.pending = [] ∧ State.reset.out = [] ∧
  (∀ (r : RegId) (i j : Nat), State.reset.reg r i j = r.resetVal i) ∧ (∀ a, State.reset.rdByte a = 0) ∧
  (∀ p : Part, State.reset.partDisabled p = true) ∧ State.reset.ready = false ∧ State.reset.locked = false ∧
  State.reset.rings = [] ∧ State.reset.trackers = [] ∧ State.reset.wcb = [] ∧ State.reset.qps = [] ∧ State.reset.nvme = [] ∧ State.reset.cloche = [] ∧
  State.reset.sec.kDev = none ∧ State.reset.sec.transport = none ∧ State.reset.boot.porGood = false ∧ State.reset.boot.running = false ∧
  (∀ n : SliceId, State.reset.sliceState n = 0)

/-- R42, R216: the end of a command, where no object record is due, changes nothing but blocked WAITs that are released: no register, no
byte, no other tracker. A WAIT that is released keeps everything but its phase, and one whose source is short of TARGET stays blocked. -/
def Obligations.SettleFrame : Prop :=
  ∀ (s : State), s.synced →
    s.settle = { s with trackers := s.settle.trackers } ∧
    (∀ r i j, s.settle.reg r i j = s.reg r i j) ∧ (∀ a, s.settle.rdByte a = s.rdByte a) ∧
    s.settle.trackers.length = s.trackers.length ∧
    (∀ (k : Nat) (x : Tracker), s.trackers[k]? = some x →
      ∃ y, s.settle.trackers[k]? = some y ∧ (y = x ∨ y = { x with phase := .done }) ∧
        (x.op ≠ 0x02 ∨ x.phase ≠ .running → y = x) ∧
        (∀ v, x.op = 0x02 → s.waitValue x.cmd = some v → v < cW2 x.cmd → y = x) ∧
        (∀ v, x.op = 0x02 → x.phase = .running → s.waitValue x.cmd = some v → cW2 x.cmd ≤ v → y = { x with phase := .done }))

/-- Memory, as every unit writes it: bytes written at rising addresses read back, every other address reads as before, and the canonical
form stays, so that memories with the same contents are the same data (the model's form: log entry 5). -/
def Obligations.MemoryCells : Prop :=
  ∀ (m : List Host.Cell) (a : Nat) (bs : List Byte), Memory.wf m →
    Memory.wf (memPutList m a bs) ∧
    (∀ k b, bs[k]? = some b → memGet (memPutList m a bs) (a + k) = b) ∧
    (∀ x, x < a ∨ a + bs.length ≤ x → memGet (memPutList m a bs) x = memGet m x) ∧
    (∀ m' : List Host.Cell, Memory.wf m' → (∀ x, memGet m' x = memGet m x) → m' = m)

/-- R246, R247, R248: reads never see a write-back. When the oldest entry of its granules has gone to HBM, whole, and has left the
write-combining buffer, every byte reads as it did before and every granule is poisoned as it was; this holds of a granule's entry and of a whole-line zero write's, and
where the entry's row is being remapped and stands in its hold buffer. -/
def Obligations.WriteBacksUnseen : Prop :=
  ∀ (s : State) (pre post : List WcbEnt) (e : WcbEnt), memOk s → s.wcb = pre ++ e :: post → e.mask = BitVec.allOnes 64 →
    (e.zmask ≠ 0 → e.data = 0) → (∀ f ∈ pre, ∀ g, e.covers g = true → f.covers g = false) →
    let t : State := { s.writeBackEntry e with wcb := pre ++ post }
    (∀ a, t.rdByte a = s.rdByte a) ∧ (∀ g, t.granPoison g = s.granPoison g) ∧ memOk t ∧
    (∀ g, e.covers g = false → t.storedPoison g = s.storedPoison g)

/-- R241: the interleave. A line lies in the channel that the hash picks among the mapped ones, at index L div N there; no two lines lie in
the same place, and every place of every mapped channel holds a line. -/
def Obligations.LinesInterleaved : Prop :=
  ∀ (mapped : List Nat), mapped.Nodup → mapped ≠ [] →
    (∀ L, let m := L / mapped.length
      hashLine mapped L =
        (mapped[(L % mapped.length + (m ^^^ (m >>> 8) ^^^ (m >>> 16) ^^^ (m >>> 24)) % 256) % mapped.length]?).map fun g => (g, m)) ∧
    (∀ L L' y, hashLine mapped L = some y → hashLine mapped L' = some y → L = L') ∧
    (∀ g ∈ mapped, ∀ m, ∃ L, hashLine mapped L = some (g, m))

/-- R408: a 32-bit write to JP_DCMD, JE_KEY_IMPORT or JE_NVM_BUF, of either half, changes nothing and raises event 0x01 with the offset
written. -/
def Obligations.WholeWritesOnly : Prop :=
  ∀ (s : State) (acc : RegAcc) (v : W64), s.serving → acc ≠ .full →
    (∀ p : Part, exec (.registerWrite (BitVec.ofNat 26 (RegId.addr .jpDcmd p + accOff acc)) .w32 v) s =
      .next (s.eventE 0x01 (RegId.addr .jpDcmd p + accOff acc) 65).settle) ∧
    exec (.registerWrite (BitVec.ofNat 26 (RegId.addr .jeKeyImport 0 + accOff acc)) .w32 v) s =
      .next (s.eventE 0x01 (RegId.addr .jeKeyImport 0 + accOff acc) 65).settle ∧
    exec (.registerWrite (BitVec.ofNat 26 (RegId.addr .jeNvmBuf 0 + accOff acc)) .w32 v) s =
      .next (s.eventE 0x01 (RegId.addr .jeNvmBuf 0 + accOff acc) 65).settle

/-- R196: with the sum of MIN of JP_STREAM_QUOTA over the 16 partitions above 128, configuration lock fails: the configuration does not
become locked, RESULT names a failure, the event "lock failed" is raised, and no MIN changes. -/
def Obligations.StreamQuotaLock : Prop :=
  ∀ (s : State), s.serving → s.fld fJeCfgLock_BUSY = 0 →
    128 < ((List.range 16).map fun p => s.fld fJpStreamQuota_MIN p).sum →
    ∃ (u : State) (r p : Nat), exec .configLock s = .next (u.eventE 0x61 r p).settle ∧ r ≠ 0 ∧
      u.fld fJeCfgLock_RESULT = r ∧ u.locked = s.locked ∧ ∀ q : Part, u.fld fJpStreamQuota_MIN q = s.fld fJpStreamQuota_MIN q

/-- R390: no event is lost. A FIFO that takes an event keeps every record it held, in order, and holds no more than its depth; the event is a
new record where there is space, and otherwise waits: as a record of its own, or as one more in the COUNT of the waiting record of its code,
whose A, B and PART stay, until COUNT stands at 0xFFFF. -/
def Obligations.EventsKept : Prop :=
  ∀ (q : EventFifo) (depth : Nat) (r : EventRec),
    let q' := (q.put depth r).1
    let total (q : EventFifo) : Nat := ((q.recs ++ q.waiting).map EventRec.count).sum
    q.recs <+: q'.recs ∧ (q.recs.length ≤ depth → q'.recs.length ≤ depth) ∧
    ((q.put depth r).2 = true ↔ q.recs.length < depth) ∧
    (q.recs.length < depth → q'.recs = q.recs ++ [r] ∧ q'.waiting = q.waiting) ∧
    (depth ≤ q.recs.length → q'.recs = q.recs ∧ ∃ w ∈ q'.waiting, w.code = r.code) ∧
    (depth ≤ q.recs.length → ∀ w ∈ q.waiting, ∃ w' ∈ q'.waiting, w'.code = w.code ∧ w'.a = w.a ∧ w'.b = w.b ∧ w'.part = w.part ∧ min w.count 0xFFFF ≤ w'.count) ∧
    (r.count = 1 → (∀ w ∈ q.waiting, w.count < 0xFFFF) → total q' = total q + 1)
end

