-- ==== Sys2Proof/Laws/Registers.lean ====
section
/-! SUPPORT. The register file: what a read gives after a write, for whole registers and for fields, and that the names of
registers and their offsets in the aperture answer each other. -/
namespace Sys2Proof.Machine

/-! Lists of pairs -/

@[simp] theorem getAssoc_putAssoc_self {κ α : Type} [DecidableEq κ] (l : List (κ × α)) (k : κ) (v d : α) :
    getAssoc (putAssoc l k v) k d = v := by
  induction l with
  | nil => simp [putAssoc, getAssoc]
  | cons x r ih => by_cases h : x.1 = k <;> simp [putAssoc, getAssoc, h, ih]

theorem getAssoc_putAssoc_ne {κ α : Type} [DecidableEq κ] (l : List (κ × α)) {k k' : κ} (v d : α) (h : k ≠ k') :
    getAssoc (putAssoc l k v) k' d = getAssoc l k' d := by
  induction l with
  | nil => simp [putAssoc, getAssoc, h]
  | cons x r ih =>
    by_cases hx : x.1 = k
    · have : x.1 ≠ k' := hx ▸ h
      simp [putAssoc, getAssoc, hx, h]
    · simp only [putAssoc, hx, if_false, getAssoc, ih]

/-- A key whose entries are filtered out answers the default. -/
theorem getAssoc_filter_out {κ α : Type} [DecidableEq κ] (l : List (κ × α)) (q : κ × α → Bool) (k : κ) (d : α) (h : ∀ v, q (k, v) = false) :
    getAssoc (l.filter q) k d = d := by
  induction l with
  | nil => rfl
  | cons x r ih =>
    rw [List.filter_cons]
    split
    · have hx : x.1 ≠ k := by
        rintro rfl
        have := h x.2
        simp_all
      simp only [getAssoc, hx, if_false, ih]
    · exact ih

/-! Whole registers -/

@[simp] theorem State.reg_setReg_self (s : State) (r : RegId) (v : W64) (i j : Nat) : (s.setReg r v i j).reg r i j = v := by
  simp [State.reg, State.setReg]

theorem State.reg_setReg_ne (s : State) {r r' : RegId} (v : W64) {i j i' j' : Nat}
    (h : (⟨r, i, j⟩ : RegRef) ≠ ⟨r', i', j'⟩) : (s.setReg r v i j).reg r' i' j' = s.reg r' i' j' := by
  simp only [State.reg, State.setReg]
  rw [getAssoc_putAssoc_ne _ _ _ h]

/-- Two updates that leave the register file alike read alike. -/
theorem State.reg_congr {s t : State} (h : t.regs = s.regs) (r : RegId) (i j : Nat) : t.reg r i j = s.reg r i j := by
  simp only [State.reg, h]

theorem State.fld_congr {s t : State} (h : t.regs = s.regs) (f : Fld) (i j : Nat) : t.fld f i j = s.fld f i j := by
  simp only [State.fld, State.reg, h]

/-! Fields -/

/-- A field put into a word reads back, cut to its width. -/
theorem bitsOf_putBits_self (w : W64) (lo len v : Nat) (h : lo + len ≤ 64) : bitsOf (putBits w lo len v) lo len = v % 2 ^ len := by
  have hw := w.isLt
  have hb : w.toNat % 2 ^ lo < 2 ^ lo := Nat.mod_lt _ (by positivity)
  have hv : v % 2 ^ len < 2 ^ len := Nat.mod_lt _ (by positivity)
  have ha : w.toNat / 2 ^ (lo + len) < 2 ^ (64 - (lo + len)) := by
    rw [Nat.div_lt_iff_lt_mul (by positivity), ← pow_add]
    simpa [show 64 - (lo + len) + (lo + len) = 64 by omega] using hw
  have h1 : (w.toNat / 2 ^ (lo + len) * 2 ^ len + v % 2 ^ len) * 2 ^ lo + w.toNat % 2 ^ lo < 2 ^ 64 := by
    calc _ < (w.toNat / 2 ^ (lo + len) * 2 ^ len + v % 2 ^ len) * 2 ^ lo + 2 ^ lo := by omega
      _ = (w.toNat / 2 ^ (lo + len) * 2 ^ len + v % 2 ^ len + 1) * 2 ^ lo := by ring
      _ ≤ ((w.toNat / 2 ^ (lo + len) + 1) * 2 ^ len) * 2 ^ lo := by
          apply Nat.mul_le_mul_right; nlinarith
      _ ≤ (2 ^ (64 - (lo + len)) * 2 ^ len) * 2 ^ lo := by
          apply Nat.mul_le_mul_right; apply Nat.mul_le_mul_right; omega
      _ = 2 ^ 64 := by rw [← pow_add, ← pow_add]; congr 1; omega
  unfold bitsOf putBits
  rw [BitVec.toNat_ofNat, Nat.mod_eq_of_lt h1, Nat.shiftRight_eq_div_pow, Nat.mul_comm _ (2 ^ lo),
    Nat.mul_add_div (by positivity), Nat.div_eq_of_lt hb, Nat.add_zero, Nat.mul_comm _ (2 ^ len), Nat.mul_add_mod, Nat.mod_mod]

/-- A field put into a word leaves the bits below it. -/
theorem putBits_mod (w : W64) (lo len v : Nat) (h : lo + len ≤ 64) : (putBits w lo len v).toNat % 2 ^ lo = w.toNat % 2 ^ lo := by
  unfold putBits
  rw [BitVec.toNat_ofNat, Nat.mod_mod_of_dvd _ (pow_dvd_pow 2 (by omega : lo ≤ 64)), Nat.mul_comm _ (2 ^ lo), Nat.mul_add_mod,
    Nat.mod_mod]

/-- The bits of a field. -/
theorem bitsOf_testBit {w : Nat} (v : BitVec w) (lo len i : Nat) :
    (bitsOf v lo len).testBit i = (decide (i < len) && v.toNat.testBit (lo + i)) := by
  unfold bitsOf
  rw [Nat.testBit_mod_two_pow, Nat.testBit_shiftRight]

/-- The bits of a word with a field put into it. -/
theorem putBits_testBit (w : W64) (lo len v i : Nat) :
    (putBits w lo len v).toNat.testBit i =
      (decide (i < 64) && if lo ≤ i ∧ i < lo + len then v.testBit (i - lo) else w.toNat.testBit i) := by
  unfold putBits
  rw [BitVec.toNat_ofNat, Nat.testBit_mod_two_pow, Nat.mul_comm _ (2 ^ lo),
    Nat.testBit_two_pow_mul_add _ (Nat.mod_lt _ (by positivity)), Nat.mul_comm _ (2 ^ len)]
  congr 1
  by_cases h1 : i < lo
  · rw [if_pos h1, if_neg (by omega), Nat.testBit_mod_two_pow]; simp [h1]
  · rw [if_neg h1, Nat.testBit_two_pow_mul_add _ (Nat.mod_lt _ (by positivity))]
    by_cases h2 : i < lo + len
    · rw [if_pos (by omega), if_pos ⟨by omega, h2⟩, Nat.testBit_mod_two_pow]
      simp [show i - lo < len by omega]
    · rw [if_neg (by omega), if_neg (by omega), Nat.testBit_div_two_pow]
      congr 1; omega

/-- A field put into a word leaves the fields beside it. -/
theorem bitsOf_putBits_of_apart (w : W64) {lo len lo' len' : Nat} (v : Nat) (h : lo' + len' ≤ lo ∨ lo + len ≤ lo') :
    bitsOf (putBits w lo len v) lo' len' = bitsOf w lo' len' := by
  apply Nat.eq_of_testBit_eq
  intro i
  rw [bitsOf_testBit, bitsOf_testBit, putBits_testBit]
  by_cases hi : i < len'
  · rw [if_neg (by omega)]
    by_cases h64 : lo' + i < 64
    · simp [h64]
    · have : w.toNat.testBit (lo' + i) = false := Nat.testBit_lt_two_pow (Nat.lt_of_lt_of_le w.isLt (Nat.pow_le_pow_right (by omega) (by omega)))
      simp [this]
  · simp [hi]

/-- A field of the same register that lies beside the one written. -/
theorem State.fld_setFld_of_apart (s : State) {f f' : Fld} (v i j : Nat) (hr : f'.reg = f.reg)
    (h : f'.lo + f'.len ≤ f.lo ∨ f.lo + f.len ≤ f'.lo) : (s.setFld f v i j).fld f' i j = s.fld f' i j := by
  simp only [State.fld, State.setFld, hr, State.reg_setReg_self]
  exact bitsOf_putBits_of_apart _ _ h

@[simp] theorem State.fld_setFld_self (s : State) (f : Fld) (v i j : Nat) (h : f.lo + f.len ≤ 64) :
    (s.setFld f v i j).fld f i j = v % 2 ^ f.len := by
  simp only [State.fld, State.setFld, State.reg_setReg_self]
  exact bitsOf_putBits_self _ _ _ _ h

theorem State.fld_setFld_of_ne (s : State) {f f' : Fld} (v : Nat) {i j i' j' : Nat}
    (h : (⟨f.reg, i, j⟩ : RegRef) ≠ ⟨f'.reg, i', j'⟩) : (s.setFld f v i j).fld f' i' j' = s.fld f' i' j' := by
  simp only [State.fld, State.setFld]
  rw [State.reg_setReg_ne _ _ h]

theorem State.reg_setFld_of_ne (s : State) {f : Fld} {r : RegId} (v : Nat) {i j i' j' : Nat}
    (h : (⟨f.reg, i, j⟩ : RegRef) ≠ ⟨r, i', j'⟩) : (s.setFld f v i j).reg r i' j' = s.reg r i' j' := by
  simp only [State.setFld]
  rw [State.reg_setReg_ne _ _ h]

/-! Names and offsets -/

/-- Every name of the register file is listed. -/
theorem RegId.mem_names (r : RegId) : r ∈ regNames := by cases r <;> decide

/-- Two registers of one range do not overlap, or interleave with one stride (R403, R404). -/
def RegId.apart (r r' : RegId) : Bool :=
  decide (r = r') || decide (r.row.space ≠ r'.row.space) || decide (r.row.base + r.row.count * r.row.stride ≤ r'.row.base) ||
    decide (r'.row.base + r'.row.count * r'.row.stride ≤ r.row.base) ||
    (decide (r.row.stride = r'.row.stride) && decide (r.row.base % r.row.stride ≠ r'.row.base % r'.row.stride))

theorem RegId.apart_all : regNames.all (fun r => regNames.all fun r' => r.apart r') = true := by decide +kernel

theorem RegId.apart_of (r r' : RegId) : r.apart r' = true := by
  have h := List.all_eq_true.mp RegId.apart_all r r.mem_names
  exact List.all_eq_true.mp h r' r'.mem_names

/-- Strides are not zero. -/
theorem RegId.stride_pos (r : RegId) : 0 < r.row.stride := by cases r <;> decide

theorem find?_of_unique {α : Type} {l : List α} {p : α → Bool} {a : α} (hm : a ∈ l) (ha : p a = true)
    (hu : ∀ b ∈ l, p b = true → b = a) : l.find? p = some a := by
  cases h : l.find? p with
  | none => exact absurd ha (by simpa using List.find?_eq_none.mp h a hm)
  | some b => rw [hu b (List.mem_of_find?_eq_some h) (List.find?_some h)]

/-- The local offset of an element finds its register. -/
theorem findLocal_elem (r : RegId) (j : Nat) (hj : j < r.row.count) :
    findLocal r.row.space (r.row.base + j * r.row.stride) = some (r, j) := by
  have hp := r.stride_pos
  have hlt : j * r.row.stride < r.row.count * r.row.stride := Nat.mul_lt_mul_of_pos_right hj hp
  unfold findLocal
  rw [find?_of_unique r.mem_names]
  · simp [Nat.mul_div_cancel _ hp]
  · simp [hlt]
  · intro b _ hb
    simp only [Bool.and_eq_true, decide_eq_true_eq] at hb
    have hd := RegId.apart_of r b
    simp only [RegId.apart, Bool.or_eq_true, decide_eq_true_eq] at hd
    rcases hd with (((h | h) | h) | h) | h
    · exact h.symm
    · exact absurd hb.1.1.1.symm h
    · omega
    · omega
    · exfalso
      simp only [Bool.and_eq_true, decide_eq_true_eq] at h
      obtain ⟨hs, hm⟩ := h
      obtain ⟨⟨⟨-, hle⟩, -⟩, hz⟩ := hb
      apply hm
      rw [← hs] at hz ⊢
      have h1 : (r.row.base + j * r.row.stride) % r.row.stride = r.row.base % r.row.stride := Nat.add_mul_mod_self_right ..
      have h2 : (r.row.base + j * r.row.stride) % r.row.stride = b.row.base % r.row.stride := by
        obtain ⟨q, hq⟩ := Nat.dvd_of_mod_eq_zero hz
        rw [show r.row.base + j * r.row.stride = b.row.base + r.row.stride * q by omega, Nat.add_mul_mod_self_left]
      rw [← h1, h2]

theorem RegId.hub_room (r : RegId) (h : r.row.space = .hub) : r.row.base + r.row.count * r.row.stride ≤ 0x10000 := by
  cases r <;> revert h <;> decide

theorem RegId.slice_room (r : RegId) (h : r.row.space = .slice) : r.row.base + r.row.count * r.row.stride ≤ 0x10000 := by
  cases r <;> revert h <;> decide

theorem RegId.part_room (r : RegId) (h : r.row.space = .part) : r.row.base + r.row.count * r.row.stride ≤ 0x40000 := by
  cases r <;> revert h <;> decide

/-- The offset of an element of a register names it (R5, R403). -/
theorem regAt_addr_hub (r : RegId) (i : Nat) (h : r.row.space = .hub) (hi : i < r.row.count) :
    regAt (r.addr i) = some ⟨r, i, 0⟩ := by
  have hp := r.stride_pos
  have hr := r.hub_room h
  have hlt : i * r.row.stride < r.row.count * r.row.stride := Nat.mul_lt_mul_of_pos_right hi hp
  have hf := findLocal_elem r i hi
  rw [h] at hf
  simp only [RegId.addr, h, regAt]
  rw [if_pos (by omega), hf]; rfl

theorem regAt_addr_slice (r : RegId) (i j : Nat) (h : r.row.space = .slice) (hi : i < 8) (hj : j < r.row.count) :
    regAt (r.addr i j) = some ⟨r, i, j⟩ := by
  have hp := r.stride_pos
  have hr := r.slice_room h
  have hlt : j * r.row.stride < r.row.count * r.row.stride := Nat.mul_lt_mul_of_pos_right hj hp
  have hf := findLocal_elem r j hj
  rw [h] at hf
  simp only [RegId.addr, h, regAt]
  have e : 0x100000 + i * 0x10000 + r.row.base + j * r.row.stride - 0x100000 = r.row.base + j * r.row.stride + i * 0x10000 := by omega
  rw [if_neg (by omega), if_pos (by omega), e, Nat.add_mul_mod_self_right, Nat.mod_eq_of_lt (by omega), hf,
    Nat.add_mul_div_right _ _ (by omega), Nat.div_eq_of_lt (by omega)]
  simp

theorem regAt_addr_part (r : RegId) (i j : Nat) (h : r.row.space = .part) (hi : i < 16) (hj : j < r.row.count) :
    regAt (r.addr i j) = some ⟨r, i, j⟩ := by
  have hp := r.stride_pos
  have hr := r.part_room h
  have hlt : j * r.row.stride < r.row.count * r.row.stride := Nat.mul_lt_mul_of_pos_right hj hp
  have hf := findLocal_elem r j hj
  rw [h] at hf
  simp only [RegId.addr, h, regAt]
  have e : 0x1000000 + i * 0x40000 + r.row.base + j * r.row.stride - 0x1000000 = r.row.base + j * r.row.stride + i * 0x40000 := by omega
  rw [if_neg (by omega), if_neg (by omega), if_neg (by omega), if_pos (by omega), e, Nat.add_mul_mod_self_right,
    Nat.mod_eq_of_lt (by omega), hf, Nat.add_mul_div_right _ _ (by omega), Nat.div_eq_of_lt (by omega)]
  simp

end Sys2Proof.Machine
end

