-- ==== Sys2Proof/Laws/State.lean ====
section
/-! SUPPORT. What each shared update of the state leaves alone, field by field, true by rfl; and what the end of a command
does (`stepTo`): object records that are due, and the WAITs that have reached their TARGET. -/
namespace Sys2Proof.Machine

/-! Fields that an update leaves alone -/

@[simp] theorem State.withPending_regs (s : State) (l : List Instr) : (s.withPending l).regs = s.regs := rfl
@[simp] theorem State.withPending_mem (s : State) (l : List Instr) : (s.withPending l).mem = s.mem := rfl
@[simp] theorem State.withPending_poison (s : State) (l : List Instr) : (s.withPending l).poison = s.poison := rfl
@[simp] theorem State.withPending_out (s : State) (l : List Instr) : (s.withPending l).out = s.out := rfl
@[simp] theorem State.withPending_freeCtr (s : State) (l : List Instr) : (s.withPending l).freeCtr = s.freeCtr := rfl
@[simp] theorem State.withPending_rings (s : State) (l : List Instr) : (s.withPending l).rings = s.rings := rfl
@[simp] theorem State.withPending_heldMarks (s : State) (l : List Instr) : (s.withPending l).heldMarks = s.heldMarks := rfl
@[simp] theorem State.withPending_trackers (s : State) (l : List Instr) : (s.withPending l).trackers = s.trackers := rfl
@[simp] theorem State.withPending_parts (s : State) (l : List Instr) : (s.withPending l).parts = s.parts := rfl
@[simp] theorem State.withPending_engineEvents (s : State) (l : List Instr) : (s.withPending l).engineEvents = s.engineEvents := rfl
@[simp] theorem State.withPending_objs (s : State) (l : List Instr) : (s.withPending l).objs = s.objs := rfl
@[simp] theorem State.withPending_wcb (s : State) (l : List Instr) : (s.withPending l).wcb = s.wcb := rfl
@[simp] theorem State.withPending_boardWrs (s : State) (l : List Instr) : (s.withPending l).boardWrs = s.boardWrs := rfl
@[simp] theorem State.withPending_wrQ (s : State) (l : List Instr) : (s.withPending l).wrQ = s.wrQ := rfl
@[simp] theorem State.withPending_cloche (s : State) (l : List Instr) : (s.withPending l).cloche = s.cloche := rfl
@[simp] theorem State.withPending_streams (s : State) (l : List Instr) : (s.withPending l).streams = s.streams := rfl
@[simp] theorem State.withPending_power (s : State) (l : List Instr) : (s.withPending l).power = s.power := rfl
@[simp] theorem State.withPending_boot (s : State) (l : List Instr) : (s.withPending l).boot = s.boot := rfl
@[simp] theorem State.withPending_sec (s : State) (l : List Instr) : (s.withPending l).sec = s.sec := rfl
@[simp] theorem State.withPending_qps (s : State) (l : List Instr) : (s.withPending l).qps = s.qps := rfl
@[simp] theorem State.withPending_trellis (s : State) (l : List Instr) : (s.withPending l).trellis = s.trellis := rfl
@[simp] theorem State.withPending_pages (s : State) (l : List Instr) : (s.withPending l).pages = s.pages := rfl
@[simp] theorem State.setReg_pending (s : State) (r : RegId) (v : W64) (i j : Nat) : (s.setReg r v i j).pending = s.pending := rfl
@[simp] theorem State.setReg_mem (s : State) (r : RegId) (v : W64) (i j : Nat) : (s.setReg r v i j).mem = s.mem := rfl
@[simp] theorem State.setReg_poison (s : State) (r : RegId) (v : W64) (i j : Nat) : (s.setReg r v i j).poison = s.poison := rfl
@[simp] theorem State.setReg_out (s : State) (r : RegId) (v : W64) (i j : Nat) : (s.setReg r v i j).out = s.out := rfl
@[simp] theorem State.setReg_freeCtr (s : State) (r : RegId) (v : W64) (i j : Nat) : (s.setReg r v i j).freeCtr = s.freeCtr := rfl
@[simp] theorem State.setReg_rings (s : State) (r : RegId) (v : W64) (i j : Nat) : (s.setReg r v i j).rings = s.rings := rfl
@[simp] theorem State.setReg_heldMarks (s : State) (r : RegId) (v : W64) (i j : Nat) : (s.setReg r v i j).heldMarks = s.heldMarks := rfl
@[simp] theorem State.setReg_trackers (s : State) (r : RegId) (v : W64) (i j : Nat) : (s.setReg r v i j).trackers = s.trackers := rfl
@[simp] theorem State.setReg_parts (s : State) (r : RegId) (v : W64) (i j : Nat) : (s.setReg r v i j).parts = s.parts := rfl
@[simp] theorem State.setReg_engineEvents (s : State) (r : RegId) (v : W64) (i j : Nat) : (s.setReg r v i j).engineEvents = s.engineEvents := rfl
@[simp] theorem State.setReg_objs (s : State) (r : RegId) (v : W64) (i j : Nat) : (s.setReg r v i j).objs = s.objs := rfl
@[simp] theorem State.setReg_wcb (s : State) (r : RegId) (v : W64) (i j : Nat) : (s.setReg r v i j).wcb = s.wcb := rfl
@[simp] theorem State.setReg_boardWrs (s : State) (r : RegId) (v : W64) (i j : Nat) : (s.setReg r v i j).boardWrs = s.boardWrs := rfl
@[simp] theorem State.setReg_wrQ (s : State) (r : RegId) (v : W64) (i j : Nat) : (s.setReg r v i j).wrQ = s.wrQ := rfl
@[simp] theorem State.setReg_cloche (s : State) (r : RegId) (v : W64) (i j : Nat) : (s.setReg r v i j).cloche = s.cloche := rfl
@[simp] theorem State.setReg_streams (s : State) (r : RegId) (v : W64) (i j : Nat) : (s.setReg r v i j).streams = s.streams := rfl
@[simp] theorem State.setReg_power (s : State) (r : RegId) (v : W64) (i j : Nat) : (s.setReg r v i j).power = s.power := rfl
@[simp] theorem State.setReg_boot (s : State) (r : RegId) (v : W64) (i j : Nat) : (s.setReg r v i j).boot = s.boot := rfl
@[simp] theorem State.setReg_sec (s : State) (r : RegId) (v : W64) (i j : Nat) : (s.setReg r v i j).sec = s.sec := rfl
@[simp] theorem State.setReg_qps (s : State) (r : RegId) (v : W64) (i j : Nat) : (s.setReg r v i j).qps = s.qps := rfl
@[simp] theorem State.setReg_trellis (s : State) (r : RegId) (v : W64) (i j : Nat) : (s.setReg r v i j).trellis = s.trellis := rfl
@[simp] theorem State.setReg_pages (s : State) (r : RegId) (v : W64) (i j : Nat) : (s.setReg r v i j).pages = s.pages := rfl
@[simp] theorem State.setFld_pending (s : State) (f : Fld) (v i j : Nat) : (s.setFld f v i j).pending = s.pending := rfl
@[simp] theorem State.setFld_mem (s : State) (f : Fld) (v i j : Nat) : (s.setFld f v i j).mem = s.mem := rfl
@[simp] theorem State.setFld_poison (s : State) (f : Fld) (v i j : Nat) : (s.setFld f v i j).poison = s.poison := rfl
@[simp] theorem State.setFld_out (s : State) (f : Fld) (v i j : Nat) : (s.setFld f v i j).out = s.out := rfl
@[simp] theorem State.setFld_freeCtr (s : State) (f : Fld) (v i j : Nat) : (s.setFld f v i j).freeCtr = s.freeCtr := rfl
@[simp] theorem State.setFld_rings (s : State) (f : Fld) (v i j : Nat) : (s.setFld f v i j).rings = s.rings := rfl
@[simp] theorem State.setFld_heldMarks (s : State) (f : Fld) (v i j : Nat) : (s.setFld f v i j).heldMarks = s.heldMarks := rfl
@[simp] theorem State.setFld_trackers (s : State) (f : Fld) (v i j : Nat) : (s.setFld f v i j).trackers = s.trackers := rfl
@[simp] theorem State.setFld_parts (s : State) (f : Fld) (v i j : Nat) : (s.setFld f v i j).parts = s.parts := rfl
@[simp] theorem State.setFld_engineEvents (s : State) (f : Fld) (v i j : Nat) : (s.setFld f v i j).engineEvents = s.engineEvents := rfl
@[simp] theorem State.setFld_objs (s : State) (f : Fld) (v i j : Nat) : (s.setFld f v i j).objs = s.objs := rfl
@[simp] theorem State.setFld_wcb (s : State) (f : Fld) (v i j : Nat) : (s.setFld f v i j).wcb = s.wcb := rfl
@[simp] theorem State.setFld_boardWrs (s : State) (f : Fld) (v i j : Nat) : (s.setFld f v i j).boardWrs = s.boardWrs := rfl
@[simp] theorem State.setFld_wrQ (s : State) (f : Fld) (v i j : Nat) : (s.setFld f v i j).wrQ = s.wrQ := rfl
@[simp] theorem State.setFld_cloche (s : State) (f : Fld) (v i j : Nat) : (s.setFld f v i j).cloche = s.cloche := rfl
@[simp] theorem State.setFld_streams (s : State) (f : Fld) (v i j : Nat) : (s.setFld f v i j).streams = s.streams := rfl
@[simp] theorem State.setFld_power (s : State) (f : Fld) (v i j : Nat) : (s.setFld f v i j).power = s.power := rfl
@[simp] theorem State.setFld_boot (s : State) (f : Fld) (v i j : Nat) : (s.setFld f v i j).boot = s.boot := rfl
@[simp] theorem State.setFld_sec (s : State) (f : Fld) (v i j : Nat) : (s.setFld f v i j).sec = s.sec := rfl
@[simp] theorem State.setFld_qps (s : State) (f : Fld) (v i j : Nat) : (s.setFld f v i j).qps = s.qps := rfl
@[simp] theorem State.setFld_trellis (s : State) (f : Fld) (v i j : Nat) : (s.setFld f v i j).trellis = s.trellis := rfl
@[simp] theorem State.setFld_pages (s : State) (f : Fld) (v i j : Nat) : (s.setFld f v i j).pages = s.pages := rfl
@[simp] theorem State.bump_pending (s : State) (f : Fld) (i n : Nat) : (s.bump f i n).pending = s.pending := rfl
@[simp] theorem State.bump_mem (s : State) (f : Fld) (i n : Nat) : (s.bump f i n).mem = s.mem := rfl
@[simp] theorem State.bump_poison (s : State) (f : Fld) (i n : Nat) : (s.bump f i n).poison = s.poison := rfl
@[simp] theorem State.bump_out (s : State) (f : Fld) (i n : Nat) : (s.bump f i n).out = s.out := rfl
@[simp] theorem State.bump_freeCtr (s : State) (f : Fld) (i n : Nat) : (s.bump f i n).freeCtr = s.freeCtr := rfl
@[simp] theorem State.bump_rings (s : State) (f : Fld) (i n : Nat) : (s.bump f i n).rings = s.rings := rfl
@[simp] theorem State.bump_heldMarks (s : State) (f : Fld) (i n : Nat) : (s.bump f i n).heldMarks = s.heldMarks := rfl
@[simp] theorem State.bump_trackers (s : State) (f : Fld) (i n : Nat) : (s.bump f i n).trackers = s.trackers := rfl
@[simp] theorem State.bump_parts (s : State) (f : Fld) (i n : Nat) : (s.bump f i n).parts = s.parts := rfl
@[simp] theorem State.bump_engineEvents (s : State) (f : Fld) (i n : Nat) : (s.bump f i n).engineEvents = s.engineEvents := rfl
@[simp] theorem State.bump_objs (s : State) (f : Fld) (i n : Nat) : (s.bump f i n).objs = s.objs := rfl
@[simp] theorem State.bump_wcb (s : State) (f : Fld) (i n : Nat) : (s.bump f i n).wcb = s.wcb := rfl
@[simp] theorem State.bump_boardWrs (s : State) (f : Fld) (i n : Nat) : (s.bump f i n).boardWrs = s.boardWrs := rfl
@[simp] theorem State.bump_wrQ (s : State) (f : Fld) (i n : Nat) : (s.bump f i n).wrQ = s.wrQ := rfl
@[simp] theorem State.bump_cloche (s : State) (f : Fld) (i n : Nat) : (s.bump f i n).cloche = s.cloche := rfl
@[simp] theorem State.bump_streams (s : State) (f : Fld) (i n : Nat) : (s.bump f i n).streams = s.streams := rfl
@[simp] theorem State.bump_power (s : State) (f : Fld) (i n : Nat) : (s.bump f i n).power = s.power := rfl
@[simp] theorem State.bump_boot (s : State) (f : Fld) (i n : Nat) : (s.bump f i n).boot = s.boot := rfl
@[simp] theorem State.bump_sec (s : State) (f : Fld) (i n : Nat) : (s.bump f i n).sec = s.sec := rfl
@[simp] theorem State.bump_qps (s : State) (f : Fld) (i n : Nat) : (s.bump f i n).qps = s.qps := rfl
@[simp] theorem State.bump_trellis (s : State) (f : Fld) (i n : Nat) : (s.bump f i n).trellis = s.trellis := rfl
@[simp] theorem State.bump_pages (s : State) (f : Fld) (i n : Nat) : (s.bump f i n).pages = s.pages := rfl
@[simp] theorem State.emit_pending (s : State) (o : Out) : (s.emit o).pending = s.pending := rfl
@[simp] theorem State.emit_regs (s : State) (o : Out) : (s.emit o).regs = s.regs := rfl
@[simp] theorem State.emit_mem (s : State) (o : Out) : (s.emit o).mem = s.mem := rfl
@[simp] theorem State.emit_poison (s : State) (o : Out) : (s.emit o).poison = s.poison := rfl
@[simp] theorem State.emit_freeCtr (s : State) (o : Out) : (s.emit o).freeCtr = s.freeCtr := rfl
@[simp] theorem State.emit_rings (s : State) (o : Out) : (s.emit o).rings = s.rings := rfl
@[simp] theorem State.emit_heldMarks (s : State) (o : Out) : (s.emit o).heldMarks = s.heldMarks := rfl
@[simp] theorem State.emit_trackers (s : State) (o : Out) : (s.emit o).trackers = s.trackers := rfl
@[simp] theorem State.emit_parts (s : State) (o : Out) : (s.emit o).parts = s.parts := rfl
@[simp] theorem State.emit_engineEvents (s : State) (o : Out) : (s.emit o).engineEvents = s.engineEvents := rfl
@[simp] theorem State.emit_objs (s : State) (o : Out) : (s.emit o).objs = s.objs := rfl
@[simp] theorem State.emit_wcb (s : State) (o : Out) : (s.emit o).wcb = s.wcb := rfl
@[simp] theorem State.emit_boardWrs (s : State) (o : Out) : (s.emit o).boardWrs = s.boardWrs := rfl
@[simp] theorem State.emit_wrQ (s : State) (o : Out) : (s.emit o).wrQ = s.wrQ := rfl
@[simp] theorem State.emit_cloche (s : State) (o : Out) : (s.emit o).cloche = s.cloche := rfl
@[simp] theorem State.emit_streams (s : State) (o : Out) : (s.emit o).streams = s.streams := rfl
@[simp] theorem State.emit_power (s : State) (o : Out) : (s.emit o).power = s.power := rfl
@[simp] theorem State.emit_boot (s : State) (o : Out) : (s.emit o).boot = s.boot := rfl
@[simp] theorem State.emit_sec (s : State) (o : Out) : (s.emit o).sec = s.sec := rfl
@[simp] theorem State.emit_qps (s : State) (o : Out) : (s.emit o).qps = s.qps := rfl
@[simp] theorem State.emit_trellis (s : State) (o : Out) : (s.emit o).trellis = s.trellis := rfl
@[simp] theorem State.emit_pages (s : State) (o : Out) : (s.emit o).pages = s.pages := rfl
@[simp] theorem State.modPart_pending (s : State) (p : Part) (f : PartSt → PartSt) : (s.modPart p f).pending = s.pending := rfl
@[simp] theorem State.modPart_regs (s : State) (p : Part) (f : PartSt → PartSt) : (s.modPart p f).regs = s.regs := rfl
@[simp] theorem State.modPart_mem (s : State) (p : Part) (f : PartSt → PartSt) : (s.modPart p f).mem = s.mem := rfl
@[simp] theorem State.modPart_poison (s : State) (p : Part) (f : PartSt → PartSt) : (s.modPart p f).poison = s.poison := rfl
@[simp] theorem State.modPart_out (s : State) (p : Part) (f : PartSt → PartSt) : (s.modPart p f).out = s.out := rfl
@[simp] theorem State.modPart_freeCtr (s : State) (p : Part) (f : PartSt → PartSt) : (s.modPart p f).freeCtr = s.freeCtr := rfl
@[simp] theorem State.modPart_rings (s : State) (p : Part) (f : PartSt → PartSt) : (s.modPart p f).rings = s.rings := rfl
@[simp] theorem State.modPart_heldMarks (s : State) (p : Part) (f : PartSt → PartSt) : (s.modPart p f).heldMarks = s.heldMarks := rfl
@[simp] theorem State.modPart_trackers (s : State) (p : Part) (f : PartSt → PartSt) : (s.modPart p f).trackers = s.trackers := rfl
@[simp] theorem State.modPart_engineEvents (s : State) (p : Part) (f : PartSt → PartSt) : (s.modPart p f).engineEvents = s.engineEvents := rfl
@[simp] theorem State.modPart_objs (s : State) (p : Part) (f : PartSt → PartSt) : (s.modPart p f).objs = s.objs := rfl
@[simp] theorem State.modPart_wcb (s : State) (p : Part) (f : PartSt → PartSt) : (s.modPart p f).wcb = s.wcb := rfl
@[simp] theorem State.modPart_boardWrs (s : State) (p : Part) (f : PartSt → PartSt) : (s.modPart p f).boardWrs = s.boardWrs := rfl
@[simp] theorem State.modPart_wrQ (s : State) (p : Part) (f : PartSt → PartSt) : (s.modPart p f).wrQ = s.wrQ := rfl
@[simp] theorem State.modPart_cloche (s : State) (p : Part) (f : PartSt → PartSt) : (s.modPart p f).cloche = s.cloche := rfl
@[simp] theorem State.modPart_streams (s : State) (p : Part) (f : PartSt → PartSt) : (s.modPart p f).streams = s.streams := rfl
@[simp] theorem State.modPart_power (s : State) (p : Part) (f : PartSt → PartSt) : (s.modPart p f).power = s.power := rfl
@[simp] theorem State.modPart_boot (s : State) (p : Part) (f : PartSt → PartSt) : (s.modPart p f).boot = s.boot := rfl
@[simp] theorem State.modPart_sec (s : State) (p : Part) (f : PartSt → PartSt) : (s.modPart p f).sec = s.sec := rfl
@[simp] theorem State.modPart_qps (s : State) (p : Part) (f : PartSt → PartSt) : (s.modPart p f).qps = s.qps := rfl
@[simp] theorem State.modPart_trellis (s : State) (p : Part) (f : PartSt → PartSt) : (s.modPart p f).trellis = s.trellis := rfl
@[simp] theorem State.modPart_pages (s : State) (p : Part) (f : PartSt → PartSt) : (s.modPart p f).pages = s.pages := rfl
@[simp] theorem State.modTrk_pending (s : State) (t : TrackerId) (f : Tracker → Tracker) : (s.modTrk t f).pending = s.pending := rfl
@[simp] theorem State.modTrk_regs (s : State) (t : TrackerId) (f : Tracker → Tracker) : (s.modTrk t f).regs = s.regs := rfl
@[simp] theorem State.modTrk_mem (s : State) (t : TrackerId) (f : Tracker → Tracker) : (s.modTrk t f).mem = s.mem := rfl
@[simp] theorem State.modTrk_poison (s : State) (t : TrackerId) (f : Tracker → Tracker) : (s.modTrk t f).poison = s.poison := rfl
@[simp] theorem State.modTrk_out (s : State) (t : TrackerId) (f : Tracker → Tracker) : (s.modTrk t f).out = s.out := rfl
@[simp] theorem State.modTrk_freeCtr (s : State) (t : TrackerId) (f : Tracker → Tracker) : (s.modTrk t f).freeCtr = s.freeCtr := rfl
@[simp] theorem State.modTrk_rings (s : State) (t : TrackerId) (f : Tracker → Tracker) : (s.modTrk t f).rings = s.rings := rfl
@[simp] theorem State.modTrk_heldMarks (s : State) (t : TrackerId) (f : Tracker → Tracker) : (s.modTrk t f).heldMarks = s.heldMarks := rfl
@[simp] theorem State.modTrk_parts (s : State) (t : TrackerId) (f : Tracker → Tracker) : (s.modTrk t f).parts = s.parts := rfl
@[simp] theorem State.modTrk_engineEvents (s : State) (t : TrackerId) (f : Tracker → Tracker) : (s.modTrk t f).engineEvents = s.engineEvents := rfl
@[simp] theorem State.modTrk_objs (s : State) (t : TrackerId) (f : Tracker → Tracker) : (s.modTrk t f).objs = s.objs := rfl
@[simp] theorem State.modTrk_wcb (s : State) (t : TrackerId) (f : Tracker → Tracker) : (s.modTrk t f).wcb = s.wcb := rfl
@[simp] theorem State.modTrk_boardWrs (s : State) (t : TrackerId) (f : Tracker → Tracker) : (s.modTrk t f).boardWrs = s.boardWrs := rfl
@[simp] theorem State.modTrk_wrQ (s : State) (t : TrackerId) (f : Tracker → Tracker) : (s.modTrk t f).wrQ = s.wrQ := rfl
@[simp] theorem State.modTrk_cloche (s : State) (t : TrackerId) (f : Tracker → Tracker) : (s.modTrk t f).cloche = s.cloche := rfl
@[simp] theorem State.modTrk_streams (s : State) (t : TrackerId) (f : Tracker → Tracker) : (s.modTrk t f).streams = s.streams := rfl
@[simp] theorem State.modTrk_power (s : State) (t : TrackerId) (f : Tracker → Tracker) : (s.modTrk t f).power = s.power := rfl
@[simp] theorem State.modTrk_boot (s : State) (t : TrackerId) (f : Tracker → Tracker) : (s.modTrk t f).boot = s.boot := rfl
@[simp] theorem State.modTrk_sec (s : State) (t : TrackerId) (f : Tracker → Tracker) : (s.modTrk t f).sec = s.sec := rfl
@[simp] theorem State.modTrk_qps (s : State) (t : TrackerId) (f : Tracker → Tracker) : (s.modTrk t f).qps = s.qps := rfl
@[simp] theorem State.modTrk_trellis (s : State) (t : TrackerId) (f : Tracker → Tracker) : (s.modTrk t f).trellis = s.trellis := rfl
@[simp] theorem State.modTrk_pages (s : State) (t : TrackerId) (f : Tracker → Tracker) : (s.modTrk t f).pages = s.pages := rfl
@[simp] theorem State.mark_pending (s : State) (t : TrackerId) (f : Marks → Marks) : (s.mark t f).pending = s.pending := rfl
@[simp] theorem State.mark_regs (s : State) (t : TrackerId) (f : Marks → Marks) : (s.mark t f).regs = s.regs := rfl
@[simp] theorem State.mark_mem (s : State) (t : TrackerId) (f : Marks → Marks) : (s.mark t f).mem = s.mem := rfl
@[simp] theorem State.mark_poison (s : State) (t : TrackerId) (f : Marks → Marks) : (s.mark t f).poison = s.poison := rfl
@[simp] theorem State.mark_out (s : State) (t : TrackerId) (f : Marks → Marks) : (s.mark t f).out = s.out := rfl
@[simp] theorem State.mark_freeCtr (s : State) (t : TrackerId) (f : Marks → Marks) : (s.mark t f).freeCtr = s.freeCtr := rfl
@[simp] theorem State.mark_rings (s : State) (t : TrackerId) (f : Marks → Marks) : (s.mark t f).rings = s.rings := rfl
@[simp] theorem State.mark_heldMarks (s : State) (t : TrackerId) (f : Marks → Marks) : (s.mark t f).heldMarks = s.heldMarks := rfl
@[simp] theorem State.mark_parts (s : State) (t : TrackerId) (f : Marks → Marks) : (s.mark t f).parts = s.parts := rfl
@[simp] theorem State.mark_engineEvents (s : State) (t : TrackerId) (f : Marks → Marks) : (s.mark t f).engineEvents = s.engineEvents := rfl
@[simp] theorem State.mark_objs (s : State) (t : TrackerId) (f : Marks → Marks) : (s.mark t f).objs = s.objs := rfl
@[simp] theorem State.mark_wcb (s : State) (t : TrackerId) (f : Marks → Marks) : (s.mark t f).wcb = s.wcb := rfl
@[simp] theorem State.mark_boardWrs (s : State) (t : TrackerId) (f : Marks → Marks) : (s.mark t f).boardWrs = s.boardWrs := rfl
@[simp] theorem State.mark_wrQ (s : State) (t : TrackerId) (f : Marks → Marks) : (s.mark t f).wrQ = s.wrQ := rfl
@[simp] theorem State.mark_cloche (s : State) (t : TrackerId) (f : Marks → Marks) : (s.mark t f).cloche = s.cloche := rfl
@[simp] theorem State.mark_streams (s : State) (t : TrackerId) (f : Marks → Marks) : (s.mark t f).streams = s.streams := rfl
@[simp] theorem State.mark_power (s : State) (t : TrackerId) (f : Marks → Marks) : (s.mark t f).power = s.power := rfl
@[simp] theorem State.mark_boot (s : State) (t : TrackerId) (f : Marks → Marks) : (s.mark t f).boot = s.boot := rfl
@[simp] theorem State.mark_sec (s : State) (t : TrackerId) (f : Marks → Marks) : (s.mark t f).sec = s.sec := rfl
@[simp] theorem State.mark_qps (s : State) (t : TrackerId) (f : Marks → Marks) : (s.mark t f).qps = s.qps := rfl
@[simp] theorem State.mark_trellis (s : State) (t : TrackerId) (f : Marks → Marks) : (s.mark t f).trellis = s.trellis := rfl
@[simp] theorem State.mark_pages (s : State) (t : TrackerId) (f : Marks → Marks) : (s.mark t f).pages = s.pages := rfl
@[simp] theorem State.run_pending (s : State) (t : TrackerId) : (s.run t).pending = s.pending := rfl
@[simp] theorem State.run_regs (s : State) (t : TrackerId) : (s.run t).regs = s.regs := rfl
@[simp] theorem State.run_mem (s : State) (t : TrackerId) : (s.run t).mem = s.mem := rfl
@[simp] theorem State.run_poison (s : State) (t : TrackerId) : (s.run t).poison = s.poison := rfl
@[simp] theorem State.run_out (s : State) (t : TrackerId) : (s.run t).out = s.out := rfl
@[simp] theorem State.run_freeCtr (s : State) (t : TrackerId) : (s.run t).freeCtr = s.freeCtr := rfl
@[simp] theorem State.run_rings (s : State) (t : TrackerId) : (s.run t).rings = s.rings := rfl
@[simp] theorem State.run_heldMarks (s : State) (t : TrackerId) : (s.run t).heldMarks = s.heldMarks := rfl
@[simp] theorem State.run_parts (s : State) (t : TrackerId) : (s.run t).parts = s.parts := rfl
@[simp] theorem State.run_engineEvents (s : State) (t : TrackerId) : (s.run t).engineEvents = s.engineEvents := rfl
@[simp] theorem State.run_objs (s : State) (t : TrackerId) : (s.run t).objs = s.objs := rfl
@[simp] theorem State.run_wcb (s : State) (t : TrackerId) : (s.run t).wcb = s.wcb := rfl
@[simp] theorem State.run_boardWrs (s : State) (t : TrackerId) : (s.run t).boardWrs = s.boardWrs := rfl
@[simp] theorem State.run_wrQ (s : State) (t : TrackerId) : (s.run t).wrQ = s.wrQ := rfl
@[simp] theorem State.run_cloche (s : State) (t : TrackerId) : (s.run t).cloche = s.cloche := rfl
@[simp] theorem State.run_streams (s : State) (t : TrackerId) : (s.run t).streams = s.streams := rfl
@[simp] theorem State.run_power (s : State) (t : TrackerId) : (s.run t).power = s.power := rfl
@[simp] theorem State.run_boot (s : State) (t : TrackerId) : (s.run t).boot = s.boot := rfl
@[simp] theorem State.run_sec (s : State) (t : TrackerId) : (s.run t).sec = s.sec := rfl
@[simp] theorem State.run_qps (s : State) (t : TrackerId) : (s.run t).qps = s.qps := rfl
@[simp] theorem State.run_trellis (s : State) (t : TrackerId) : (s.run t).trellis = s.trellis := rfl
@[simp] theorem State.run_pages (s : State) (t : TrackerId) : (s.run t).pages = s.pages := rfl
@[simp] theorem State.finish_pending (s : State) (t : TrackerId) : (s.finish t).pending = s.pending := rfl
@[simp] theorem State.finish_regs (s : State) (t : TrackerId) : (s.finish t).regs = s.regs := rfl
@[simp] theorem State.finish_mem (s : State) (t : TrackerId) : (s.finish t).mem = s.mem := rfl
@[simp] theorem State.finish_poison (s : State) (t : TrackerId) : (s.finish t).poison = s.poison := rfl
@[simp] theorem State.finish_out (s : State) (t : TrackerId) : (s.finish t).out = s.out := rfl
@[simp] theorem State.finish_freeCtr (s : State) (t : TrackerId) : (s.finish t).freeCtr = s.freeCtr := rfl
@[simp] theorem State.finish_rings (s : State) (t : TrackerId) : (s.finish t).rings = s.rings := rfl
@[simp] theorem State.finish_heldMarks (s : State) (t : TrackerId) : (s.finish t).heldMarks = s.heldMarks := rfl
@[simp] theorem State.finish_parts (s : State) (t : TrackerId) : (s.finish t).parts = s.parts := rfl
@[simp] theorem State.finish_engineEvents (s : State) (t : TrackerId) : (s.finish t).engineEvents = s.engineEvents := rfl
@[simp] theorem State.finish_objs (s : State) (t : TrackerId) : (s.finish t).objs = s.objs := rfl
@[simp] theorem State.finish_wcb (s : State) (t : TrackerId) : (s.finish t).wcb = s.wcb := rfl
@[simp] theorem State.finish_boardWrs (s : State) (t : TrackerId) : (s.finish t).boardWrs = s.boardWrs := rfl
@[simp] theorem State.finish_wrQ (s : State) (t : TrackerId) : (s.finish t).wrQ = s.wrQ := rfl
@[simp] theorem State.finish_cloche (s : State) (t : TrackerId) : (s.finish t).cloche = s.cloche := rfl
@[simp] theorem State.finish_streams (s : State) (t : TrackerId) : (s.finish t).streams = s.streams := rfl
@[simp] theorem State.finish_power (s : State) (t : TrackerId) : (s.finish t).power = s.power := rfl
@[simp] theorem State.finish_boot (s : State) (t : TrackerId) : (s.finish t).boot = s.boot := rfl
@[simp] theorem State.finish_sec (s : State) (t : TrackerId) : (s.finish t).sec = s.sec := rfl
@[simp] theorem State.finish_qps (s : State) (t : TrackerId) : (s.finish t).qps = s.qps := rfl
@[simp] theorem State.finish_trellis (s : State) (t : TrackerId) : (s.finish t).trellis = s.trellis := rfl
@[simp] theorem State.finish_pages (s : State) (t : TrackerId) : (s.finish t).pages = s.pages := rfl
@[simp] theorem State.only_pending (s : State) (t : TrackerId) (st : Byte) : (s.only t st).pending = s.pending := rfl
@[simp] theorem State.only_regs (s : State) (t : TrackerId) (st : Byte) : (s.only t st).regs = s.regs := rfl
@[simp] theorem State.only_mem (s : State) (t : TrackerId) (st : Byte) : (s.only t st).mem = s.mem := rfl
@[simp] theorem State.only_poison (s : State) (t : TrackerId) (st : Byte) : (s.only t st).poison = s.poison := rfl
@[simp] theorem State.only_out (s : State) (t : TrackerId) (st : Byte) : (s.only t st).out = s.out := rfl
@[simp] theorem State.only_freeCtr (s : State) (t : TrackerId) (st : Byte) : (s.only t st).freeCtr = s.freeCtr := rfl
@[simp] theorem State.only_rings (s : State) (t : TrackerId) (st : Byte) : (s.only t st).rings = s.rings := rfl
@[simp] theorem State.only_heldMarks (s : State) (t : TrackerId) (st : Byte) : (s.only t st).heldMarks = s.heldMarks := rfl
@[simp] theorem State.only_parts (s : State) (t : TrackerId) (st : Byte) : (s.only t st).parts = s.parts := rfl
@[simp] theorem State.only_engineEvents (s : State) (t : TrackerId) (st : Byte) : (s.only t st).engineEvents = s.engineEvents := rfl
@[simp] theorem State.only_objs (s : State) (t : TrackerId) (st : Byte) : (s.only t st).objs = s.objs := rfl
@[simp] theorem State.only_wcb (s : State) (t : TrackerId) (st : Byte) : (s.only t st).wcb = s.wcb := rfl
@[simp] theorem State.only_boardWrs (s : State) (t : TrackerId) (st : Byte) : (s.only t st).boardWrs = s.boardWrs := rfl
@[simp] theorem State.only_wrQ (s : State) (t : TrackerId) (st : Byte) : (s.only t st).wrQ = s.wrQ := rfl
@[simp] theorem State.only_cloche (s : State) (t : TrackerId) (st : Byte) : (s.only t st).cloche = s.cloche := rfl
@[simp] theorem State.only_streams (s : State) (t : TrackerId) (st : Byte) : (s.only t st).streams = s.streams := rfl
@[simp] theorem State.only_power (s : State) (t : TrackerId) (st : Byte) : (s.only t st).power = s.power := rfl
@[simp] theorem State.only_boot (s : State) (t : TrackerId) (st : Byte) : (s.only t st).boot = s.boot := rfl
@[simp] theorem State.only_sec (s : State) (t : TrackerId) (st : Byte) : (s.only t st).sec = s.sec := rfl
@[simp] theorem State.only_qps (s : State) (t : TrackerId) (st : Byte) : (s.only t st).qps = s.qps := rfl
@[simp] theorem State.only_trellis (s : State) (t : TrackerId) (st : Byte) : (s.only t st).trellis = s.trellis := rfl
@[simp] theorem State.only_pages (s : State) (t : TrackerId) (st : Byte) : (s.only t st).pages = s.pages := rfl
@[simp] theorem State.modRing_pending (s : State) (r : RingNo) (f : Ring → Ring) : (s.modRing r f).pending = s.pending := rfl
@[simp] theorem State.modRing_regs (s : State) (r : RingNo) (f : Ring → Ring) : (s.modRing r f).regs = s.regs := rfl
@[simp] theorem State.modRing_mem (s : State) (r : RingNo) (f : Ring → Ring) : (s.modRing r f).mem = s.mem := rfl
@[simp] theorem State.modRing_poison (s : State) (r : RingNo) (f : Ring → Ring) : (s.modRing r f).poison = s.poison := rfl
@[simp] theorem State.modRing_out (s : State) (r : RingNo) (f : Ring → Ring) : (s.modRing r f).out = s.out := rfl
@[simp] theorem State.modRing_freeCtr (s : State) (r : RingNo) (f : Ring → Ring) : (s.modRing r f).freeCtr = s.freeCtr := rfl
@[simp] theorem State.modRing_heldMarks (s : State) (r : RingNo) (f : Ring → Ring) : (s.modRing r f).heldMarks = s.heldMarks := rfl
@[simp] theorem State.modRing_trackers (s : State) (r : RingNo) (f : Ring → Ring) : (s.modRing r f).trackers = s.trackers := rfl
@[simp] theorem State.modRing_parts (s : State) (r : RingNo) (f : Ring → Ring) : (s.modRing r f).parts = s.parts := rfl
@[simp] theorem State.modRing_engineEvents (s : State) (r : RingNo) (f : Ring → Ring) : (s.modRing r f).engineEvents = s.engineEvents := rfl
@[simp] theorem State.modRing_objs (s : State) (r : RingNo) (f : Ring → Ring) : (s.modRing r f).objs = s.objs := rfl
@[simp] theorem State.modRing_wcb (s : State) (r : RingNo) (f : Ring → Ring) : (s.modRing r f).wcb = s.wcb := rfl
@[simp] theorem State.modRing_boardWrs (s : State) (r : RingNo) (f : Ring → Ring) : (s.modRing r f).boardWrs = s.boardWrs := rfl
@[simp] theorem State.modRing_wrQ (s : State) (r : RingNo) (f : Ring → Ring) : (s.modRing r f).wrQ = s.wrQ := rfl
@[simp] theorem State.modRing_cloche (s : State) (r : RingNo) (f : Ring → Ring) : (s.modRing r f).cloche = s.cloche := rfl
@[simp] theorem State.modRing_streams (s : State) (r : RingNo) (f : Ring → Ring) : (s.modRing r f).streams = s.streams := rfl
@[simp] theorem State.modRing_power (s : State) (r : RingNo) (f : Ring → Ring) : (s.modRing r f).power = s.power := rfl
@[simp] theorem State.modRing_boot (s : State) (r : RingNo) (f : Ring → Ring) : (s.modRing r f).boot = s.boot := rfl
@[simp] theorem State.modRing_sec (s : State) (r : RingNo) (f : Ring → Ring) : (s.modRing r f).sec = s.sec := rfl
@[simp] theorem State.modRing_qps (s : State) (r : RingNo) (f : Ring → Ring) : (s.modRing r f).qps = s.qps := rfl
@[simp] theorem State.modRing_trellis (s : State) (r : RingNo) (f : Ring → Ring) : (s.modRing r f).trellis = s.trellis := rfl
@[simp] theorem State.modRing_pages (s : State) (r : RingNo) (f : Ring → Ring) : (s.modRing r f).pages = s.pages := rfl
@[simp] theorem State.wake_pending (s : State) : (s.wake).pending = s.pending := rfl
@[simp] theorem State.wake_regs (s : State) : (s.wake).regs = s.regs := rfl
@[simp] theorem State.wake_mem (s : State) : (s.wake).mem = s.mem := rfl
@[simp] theorem State.wake_poison (s : State) : (s.wake).poison = s.poison := rfl
@[simp] theorem State.wake_out (s : State) : (s.wake).out = s.out := rfl
@[simp] theorem State.wake_freeCtr (s : State) : (s.wake).freeCtr = s.freeCtr := rfl
@[simp] theorem State.wake_rings (s : State) : (s.wake).rings = s.rings := rfl
@[simp] theorem State.wake_heldMarks (s : State) : (s.wake).heldMarks = s.heldMarks := rfl
@[simp] theorem State.wake_parts (s : State) : (s.wake).parts = s.parts := rfl
@[simp] theorem State.wake_engineEvents (s : State) : (s.wake).engineEvents = s.engineEvents := rfl
@[simp] theorem State.wake_objs (s : State) : (s.wake).objs = s.objs := rfl
@[simp] theorem State.wake_wcb (s : State) : (s.wake).wcb = s.wcb := rfl
@[simp] theorem State.wake_boardWrs (s : State) : (s.wake).boardWrs = s.boardWrs := rfl
@[simp] theorem State.wake_wrQ (s : State) : (s.wake).wrQ = s.wrQ := rfl
@[simp] theorem State.wake_cloche (s : State) : (s.wake).cloche = s.cloche := rfl
@[simp] theorem State.wake_streams (s : State) : (s.wake).streams = s.streams := rfl
@[simp] theorem State.wake_power (s : State) : (s.wake).power = s.power := rfl
@[simp] theorem State.wake_boot (s : State) : (s.wake).boot = s.boot := rfl
@[simp] theorem State.wake_sec (s : State) : (s.wake).sec = s.sec := rfl
@[simp] theorem State.wake_qps (s : State) : (s.wake).qps = s.qps := rfl
@[simp] theorem State.wake_trellis (s : State) : (s.wake).trellis = s.trellis := rfl
@[simp] theorem State.wake_pages (s : State) : (s.wake).pages = s.pages := rfl

/-! Events -/

theorem State.eventE_eq (s : State) (code a b part : Nat) :
    s.eventE code a b part = { s with engineEvents := (s.eventE code a b part).engineEvents, out := (s.eventE code a b part).out } := by
  unfold State.eventE
  simp only [State.emit]
  split <;> rfl

theorem State.partVector_eq (s : State) (p : Part) : s.partVector p = { s with out := (s.partVector p).out } := by
  unfold State.partVector
  simp only [State.emit]
  split <;> rfl

theorem State.eventP_eq (s : State) (p : Part) (code a b : Nat) :
    s.eventP p code a b = { s with parts := (s.eventP p code a b).parts, out := (s.eventP p code a b).out } := by
  unfold State.eventP
  dsimp only
  split
  · rw [State.partVector_eq]; rfl
  · rfl

@[simp] theorem State.eventE_regs (s : State) (c a b k : Nat) : (s.eventE c a b k).regs = s.regs := by rw [State.eventE_eq]
@[simp] theorem State.eventE_mem (s : State) (c a b k : Nat) : (s.eventE c a b k).mem = s.mem := by rw [State.eventE_eq]
@[simp] theorem State.eventE_objs (s : State) (c a b k : Nat) : (s.eventE c a b k).objs = s.objs := by rw [State.eventE_eq]
@[simp] theorem State.eventE_trackers (s : State) (c a b k : Nat) : (s.eventE c a b k).trackers = s.trackers := by rw [State.eventE_eq]
@[simp] theorem State.eventE_parts (s : State) (c a b k : Nat) : (s.eventE c a b k).parts = s.parts := by rw [State.eventE_eq]
@[simp] theorem State.eventE_rings (s : State) (c a b k : Nat) : (s.eventE c a b k).rings = s.rings := by rw [State.eventE_eq]
@[simp] theorem State.eventP_regs (s : State) (p : Part) (c a b : Nat) : (s.eventP p c a b).regs = s.regs := by rw [State.eventP_eq]
@[simp] theorem State.eventP_mem (s : State) (p : Part) (c a b : Nat) : (s.eventP p c a b).mem = s.mem := by rw [State.eventP_eq]
@[simp] theorem State.eventP_objs (s : State) (p : Part) (c a b : Nat) : (s.eventP p c a b).objs = s.objs := by rw [State.eventP_eq]
@[simp] theorem State.eventP_trackers (s : State) (p : Part) (c a b : Nat) : (s.eventP p c a b).trackers = s.trackers := by rw [State.eventP_eq]
@[simp] theorem State.eventP_rings (s : State) (p : Part) (c a b : Nat) : (s.eventP p c a b).rings = s.rings := by rw [State.eventP_eq]

/-! The end of a command -/

/-- With no object record due, nothing is written. -/
theorem State.syncObjs_of_none_due (s : State) (h : ∀ o ∈ s.objs, o.due = false) : s.syncObjs = s := by
  have : s.objs.filter (·.due) = [] := List.filter_eq_nil_iff.mpr fun o ho => by simp [h o ho]
  simp [State.syncObjs, this]

/-- A command answers its state with the WAITs that are due done, where no object record is due. -/
theorem stepTo_of_none_due (s : State) (h : ∀ o ∈ s.objs, o.due = false) : stepTo s = .next s.wake := by
  rw [stepTo, State.syncObjs_of_none_due s h]

/-- Every command that ends so answers a next state. -/
theorem stepTo_next (s : State) : ∃ t, stepTo s = .next t := ⟨_, rfl⟩

/-- What the end of a command does to one tracker. -/
theorem State.wake_trk (s : State) : s.wake.trackers = s.trackers.map fun x =>
    if x.op = 0x02 ∧ x.phase = .running ∧ (s.waitValue x.cmd).any (fun v => decide (cW2 x.cmd ≤ v)) then
      { x with phase := .done } else x := rfl

/-- The value a WAIT compares with does not change at the end of a command. -/
@[simp] theorem State.wake_waitValue (s : State) (c : Cmd) : s.wake.waitValue c = s.waitValue c := rfl

/-! Trackers by their numbers -/

theorem updFirst_find? {α : Type} (q : α → Bool) (f : α → α) (l : List α) (a : α) (h : l.find? q = some a) (hf : q (f a) = true) :
    (updFirst q f l).find? q = some (f a) := by
  induction l with
  | nil => simp at h
  | cons x r ih =>
    by_cases hx : q x = true
    · rw [List.find?_cons_of_pos hx] at h
      cases h
      simp [updFirst, hx, hf]
    · rw [List.find?_cons_of_neg hx] at h
      simp only [updFirst, hx]
      simp [hx, ih h]

/-- A changed tracker reads back changed. -/
theorem State.trk_modTrk (s : State) (t : TrackerId) (f : Tracker → Tracker) (x : Tracker) (h : s.trk t = some x)
    (hf : (f x).id = x.id) : (s.modTrk t f).trk t = some (f x) := by
  have hx : x.id = t := by simpa using List.find?_some h
  exact updFirst_find? _ f s.trackers x h (by simp [hf, hx])

/-- What the end of a command does to the tracker of a number. -/
theorem State.trk_wake (s : State) (t : TrackerId) : s.wake.trk t = (s.trk t).map fun x =>
    if x.op = 0x02 ∧ x.phase = .running ∧ (s.waitValue x.cmd).any (fun v => decide (cW2 x.cmd ≤ v)) then
      { x with phase := .done } else x := by
  have : ∀ l : List Tracker, (l.map fun x => if x.op = 0x02 ∧ x.phase = .running ∧ (s.waitValue x.cmd).any (fun v => decide (cW2 x.cmd ≤ v)) then
      { x with phase := .done } else x).find? (fun x => decide (x.id = t)) = (l.find? (fun x => decide (x.id = t))).map fun x =>
    if x.op = 0x02 ∧ x.phase = .running ∧ (s.waitValue x.cmd).any (fun v => decide (cW2 x.cmd ≤ v)) then
      { x with phase := .done } else x := by
    intro l
    induction l with
    | nil => rfl
    | cons x r ih =>
      simp only [List.map_cons]
      by_cases hx : x.id = t
      · rw [List.find?_cons_of_pos (by split <;> simpa using hx), List.find?_cons_of_pos (by simpa using hx)]; rfl
      · rw [List.find?_cons_of_neg (by split <;> simpa using hx), List.find?_cons_of_neg (by simpa using hx), ih]
  exact this s.trackers

end Sys2Proof.Machine
end

