-- ==== Sys2Proof/Laws/Access.lean ====
section
/-! SUPPORT. The access path (R5 to R9, R353): while the block serves its aperture, a well-formed access of a register reaches exactly
that register. -/
namespace Sys2Proof.Machine

/-- What every command ends in, by its name. -/
theorem stepTo_eq (s : State) : stepTo s = .next s.settle := rfl

/-- With no record due, the end of a command is the wake of the waits. -/
theorem State.settle_of_synced (s : State) (h : s.synced) : s.settle = s.wake := by
  rw [State.settle, State.syncObjs_of_none_due s h]

theorem regAt_addr {x : RegRef} (h : x.valid) : regAt x.addr = some x := by
  obtain ⟨r, i, j⟩ := x
  obtain ⟨hj, h⟩ := h
  simp only [RegRef.addr]
  split at h
  · rename_i hs
    obtain ⟨hi, h0⟩ := h
    simp only at hs hi h0
    subst h0
    have e : r.addr i 0 = r.addr i := rfl
    rw [e]; exact regAt_addr_hub r i hs hi
  · exact regAt_addr_slice r i j ‹_› h hj
  · exact regAt_addr_part r i j ‹_› h hj

theorem RegId.base_aligned (r : RegId) : r.row.base % 8 = 0 ∧ r.row.stride % 8 = 0 := by cases r <;> decide

theorem RegRef.addr_aligned (x : RegRef) : x.addr % 8 = 0 := by
  obtain ⟨h1, h2⟩ := x.reg.base_aligned
  have h3 : x.i * x.reg.row.stride % 8 = 0 := by rw [Nat.mul_mod, h2]; simp
  have h4 : x.j * x.reg.row.stride % 8 = 0 := by rw [Nat.mul_mod, h2]; simp
  simp only [RegRef.addr, RegId.addr]
  split <;> omega

theorem RegRef.addr_lt {x : RegRef} (h : x.valid) : x.addr < 0x1400000 := by
  have := regAt_addr h
  unfold regAt at this
  split at this
  · omega
  · split at this
    · omega
    · split at this
      · cases this
      · split at this
        · assumption
        · cases this

/-- The offset of a well-formed access. -/
theorem acc_place {x : RegRef} (h : x.valid) (acc : RegAcc) :
    (BitVec.ofNat 26 (x.addr + accOff acc)).toNat = x.addr + accOff acc ∧ (x.addr + accOff acc) / 8 * 8 = x.addr ∧
      accOf (x.addr + accOff acc) (accWidth acc) = some acc := by
  have h1 := RegRef.addr_lt h
  have h2 := x.addr_aligned
  have h3 : accOff acc = 0 ∨ accOff acc = 4 := by cases acc <;> simp [accOff]
  refine ⟨?_, by omega, ?_⟩
  · rw [BitVec.toNat_ofNat, Nat.mod_eq_of_lt (by omega)]
  · cases acc
    · simp [accOf, accWidth, accOff, h2]
    · simp [accOf, accWidth, accOff, h2]
    · have h5 : (x.addr + 4) % 8 = 4 := by omega
      simp [accOf, accWidth, accOff, h5]

/-- While the block serves, an access is neither held nor does it end an entry. -/
theorem State.orHold_of_serving {s : State} (h : s.serving) (c : Instr) (f : State → State) : s.orHold c f = f s := by
  obtain ⟨-, -, h3, h4, h5, -⟩ := h
  simp only [State.orHold, h3, h4]
  rw [if_neg (by simp; omega), if_neg (by simp)]

theorem State.enabling_of_serving {s : State} (h : s.serving) : s.enabling = false := h.2.2.2.2.2

theorem State.apWrite_of_serving {s : State} (h : s.serving) (off : BitVec 26) (w : AccW) (v : W64) :
    s.apWrite off w v = s.busWrite off.toNat w v := by
  simp only [State.apWrite, h.1, State.enabling_of_serving h, State.orHold_of_serving h]
  simp

theorem State.apRead_of_serving {s : State} (h : s.serving) (off : BitVec 26) (w : AccW) :
    s.apRead off w = (s.busRead off.toNat w).1.emit (.readData (s.busRead off.toNat w).2 false) := by
  simp only [State.apRead, h.1, State.enabling_of_serving h, State.orHold_of_serving h]
  simp

theorem State.reach_of_serving {s : State} (h : s.serving) {x : RegRef} (hx : x.valid) (hg : s.sliceGone x = false) (acc : RegAcc) (wr : Bool) :
    s.reach (x.addr + accOff acc) wr = some x := by
  obtain ⟨-, h2, -⟩ := acc_place hx acc
  simp only [State.reach, h2, regAt_addr hx, h.2.1, hg]
  simp

/-- A well-formed write of a register reaches it (R5, R6). -/
theorem State.putReg_of_serving {s : State} (h : s.serving) (r : RegId) (i j : Nat) (acc : RegAcc) (v : W64)
    (hx : RegRef.valid ⟨r, i, j⟩) (hg : s.sliceGone ⟨r, i, j⟩ = false) (hw : wholeOnly r = false ∨ acc = .full) :
    s.putReg r i j acc v = s.writeReg (r.addr i j + accOff acc) ⟨r, i, j⟩ acc v := by
  obtain ⟨h1, h2, h3⟩ := acc_place hx acc
  have hlt := RegRef.addr_lt hx
  have h4 : accOff acc ≤ 4 := by cases acc <;> simp [accOff]
  have hr := State.reach_of_serving h hx hg acc true
  simp only [RegRef.addr] at h1 h2 h3 hr hlt
  simp only [State.putReg, State.apWrite_of_serving h, h1, State.busWrite]
  rw [if_neg (by omega), h3]
  simp only [hr]
  rw [if_neg (by rcases hw with hw | hw <;> simp [hw])]

/-- A well-formed read of a register reaches it, and its value goes out (R5, R6). -/
theorem State.getReg_of_serving {s : State} (h : s.serving) (r : RegId) (i j : Nat) (acc : RegAcc)
    (hx : RegRef.valid ⟨r, i, j⟩) (hg : s.sliceGone ⟨r, i, j⟩ = false) :
    s.getReg r i j acc = (s.readReg ⟨r, i, j⟩ acc).1.emit (.readData (viewOf acc (s.readReg ⟨r, i, j⟩ acc).2) false) := by
  obtain ⟨h1, h2, h3⟩ := acc_place hx acc
  have hlt := RegRef.addr_lt hx
  have h4 : accOff acc ≤ 4 := by cases acc <;> simp [accOff]
  have hr := State.reach_of_serving h hx hg acc false
  simp only [RegRef.addr] at h1 h2 h3 hr hlt
  simp only [State.getReg, State.apRead_of_serving h, h1, State.busRead]
  rw [if_neg (by omega), h3]
  simp only [hr]

/-- Registers of the hub and of partitions are never gone (R398). -/
@[simp] theorem State.sliceGone_of_space (s : State) (x : RegRef) (h : x.reg.row.space ≠ .slice) : s.sliceGone x = false := by
  simp [State.sliceGone, h]

theorem State.sliceGone_reg (s : State) (r : RegId) (i j : Nat) (h : r.row.space ≠ .slice) : s.sliceGone ⟨r, i, j⟩ = false :=
  State.sliceGone_of_space s ⟨r, i, j⟩ h

/-- A register of a partition, by its name. -/
theorem RegRef.valid_part (r : RegId) (p : Part) (h : r.row.space = .part) (hc : 0 < r.row.count) : RegRef.valid ⟨r, p, 0⟩ := by
  refine ⟨hc, ?_⟩; simp only [h]; exact p.isLt

/-- What a plain register is not. -/
theorem RegId.plain_facts (r : RegId) (h : r.plain = true) : isDir r = false ∧ r ≠ .jpXmark ∧ (∀ pos, actionOf r pos = 0) ∧ r ≠ .jpXlatIndex ∧
   wholeOnly r = false ∧ (∀ (s old : State) i j pos, s.wrote old ⟨r, i, j⟩ pos = s) ∧ (∀ (s : State) i j pos, s.act ⟨r, i, j⟩ 0 pos = s) := by
  refine ⟨?_, ?_, ?_, ?_, ?_, ?_, ?_⟩
  · cases r <;> first | rfl | (revert h; decide)
  · rintro rfl; revert h; decide
  · cases r <;> first | (intro; rfl) | (exfalso; revert h; decide)
  · rintro rfl; revert h; decide
  · cases r <;> first | rfl | (exfalso; revert h; decide)
  · cases r <;> first | (intros; rfl) | (exfalso; revert h; decide)
  · cases r <;> (intros; rfl)

/-- A well-formed write from outside reaches its register. -/
theorem State.apWrite_reg {s : State} (h : s.serving) {x : RegRef} (hx : x.valid) (hg : s.sliceGone x = false) (acc : RegAcc) (v : W64)
    (hw : wholeOnly x.reg = false ∨ acc = .full) :
    s.apWrite (BitVec.ofNat 26 (x.addr + accOff acc)) (accWidth acc) v = s.writeReg (x.addr + accOff acc) x acc v :=
  State.putReg_of_serving h x.reg x.i x.j acc v hx hg hw

/-! An event changes no register and no byte -/

theorem State.reg_eventE (s : State) (c a b k : Nat) (r : RegId) (i j : Nat) : (s.eventE c a b k).reg r i j = s.reg r i j := by
  rw [State.eventE_eq]; rfl
theorem State.rdByte_eventE (s : State) (c a b k a' : Nat) : (s.eventE c a b k).rdByte a' = s.rdByte a' := by
  rw [State.eventE_eq]; rfl

/-! Fields that a write sets -/

/-- A write that covers no field it may set changes nothing. -/
theorem State.stored_of_no_fields (s : State) (x : RegRef) (acc : RegAcc) (v : W64)
    (h1 : codeMask (x.reg.fieldsAt x.i) .rw &&& accMask acc = 0) (h2 : codeMask (x.reg.fieldsAt x.i) .rwl &&& accMask acc = 0)
    (h3 : accPos acc v &&& codeMask (x.reg.fieldsAt x.i) .w1c = 0) : s.stored x acc v = s := by
  have hz : ∀ w : W64, w &&& ~~~(0 : W64) = w := fun w => by
    show w &&& ~~~(0#64) = w
    rw [BitVec.not_zero, BitVec.and_allOnes]
  have ho : ∀ w : W64, w ||| (0 : W64) = w := fun w => BitVec.or_zero
  have ha : ∀ w : W64, w &&& (0 : W64) = 0 := fun w => BitVec.and_zero
  simp only [State.stored, State.storeFields, State.newFields, h1, h2, h3, ite_self, ho, ha, hz, ne_eq, not_true_eq_false, false_and,
    if_false, if_true]

theorem State.ite_event_reg (c : Prop) [Decidable c] (s : State) (a b d e : Nat) (r : RegId) (i j : Nat) :
    (if c then s.eventE a b d e else s).reg r i j = s.reg r i j := by split <;> simp [State.reg_eventE]

theorem State.ite_set_reg_ne (s : State) (r r' : RegId) (i j i' j' : Nat) (new : W64) (h : (⟨r, i, j⟩ : RegRef) ≠ ⟨r', i', j'⟩) :
    (if new = s.reg r i j then s else s.setReg r new i j).reg r' i' j' = s.reg r' i' j' := by
  split
  · rfl
  · exact State.reg_setReg_ne _ _ h

/-- A register without RWL fields: only the register itself changes. -/
theorem State.stored_regs (s : State) (x : RegRef) (acc : RegAcc) (v : W64)
    (h : codeMask (x.reg.fieldsAt x.i) .rwl &&& accMask acc = 0) : s.stored x acc v = { s with regs := (s.stored x acc v).regs } := by
  simp only [State.stored, State.storeFields, h]
  simp only [ne_eq, not_true_eq_false, false_and, if_false]
  split <;> rfl

theorem State.reg_stored_ne (s : State) (x : RegRef) (acc : RegAcc) (v : W64) (r : RegId) (i j : Nat) (h : x ≠ ⟨r, i, j⟩) :
    (s.stored x acc v).reg r i j = s.reg r i j := by
  simp only [State.stored, State.storeFields, State.ite_event_reg]
  exact State.ite_set_reg_ne _ _ _ _ _ _ _ _ h

theorem State.fld_stored_ne (s : State) (x : RegRef) (acc : RegAcc) (v : W64) (f : Fld) (i j : Nat) (h : x ≠ ⟨f.reg, i, j⟩) :
    (s.stored x acc v).fld f i j = s.fld f i j := by
  simp only [State.fld, State.reg_stored_ne s x acc v f.reg i j h]

/-- The bits of a register after a write without RWL fields. -/
theorem State.reg_stored_self (s : State) (x : RegRef) (acc : RegAcc) (v : W64)
    (h : codeMask (x.reg.fieldsAt x.i) .rwl &&& accMask acc = 0) :
    (s.stored x acc v).reg x.reg x.i x.j =
      ((s.reg x.reg x.i x.j &&& ~~~(codeMask (x.reg.fieldsAt x.i) .rw &&& accMask acc)) |||
        (accPos acc v &&& (codeMask (x.reg.fieldsAt x.i) .rw &&& accMask acc))) &&&
      ~~~(accPos acc v &&& codeMask (x.reg.fieldsAt x.i) .w1c) := by
  simp only [State.stored, State.storeFields, State.newFields, h]
  simp only [ne_eq, not_true_eq_false, false_and, if_false, ite_self, show ∀ w : W64, w ||| (0 : W64) = w from fun w => BitVec.or_zero]
  split
  · exact Eq.symm ‹_›
  · exact State.reg_setReg_self ..

/-- An RW field that a write covers takes the written bits. -/
theorem State.fld_stored_at (s : State) (f : Fld) (i j : Nat) (acc : RegAcc) (v : W64)
    (h : codeMask (f.reg.fieldsAt i) .rwl &&& accMask acc = 0)
    (hf : ∀ b < f.len, (codeMask (f.reg.fieldsAt i) .rw &&& accMask acc &&& ~~~(codeMask (f.reg.fieldsAt i) .w1c)).getLsbD (f.lo + b) = true) :
    (s.stored ⟨f.reg, i, j⟩ acc v).fld f i j = bitsOf (accPos acc v) f.lo f.len := by
  simp only [State.fld]
  have hr := State.reg_stored_self s ⟨f.reg, i, j⟩ acc v h
  simp only at hr
  rw [hr]
  apply Nat.eq_of_testBit_eq
  intro b
  rw [bitsOf_testBit, bitsOf_testBit]
  by_cases hb : b < f.len
  · have := hf b hb
    simp only [BitVec.getLsbD_and, BitVec.getLsbD_not, Bool.and_eq_true, decide_eq_true_eq, Bool.not_eq_true'] at this
    obtain ⟨⟨h1, h2⟩, h64, h3⟩ := this
    simp only [hb, decide_true, Bool.true_and, BitVec.testBit_toNat]
    simp only [BitVec.getLsbD_and, BitVec.getLsbD_or, BitVec.getLsbD_not, h1, h2, h3, h64]
    simp
  · simp [hb]

theorem RegId.fieldsAt_eq (r : RegId) (i : Nat) (h : r ≠ .jeFifoCtl) : r.fieldsAt i = r.fields := by
  cases r <;> first | rfl | exact absurd rfl h

/-- A write of a register without RWL fields, by its name. -/
theorem State.stored_only (s : State) (r : RegId) (i j : Nat) (acc : RegAcc) (v : W64) (hr : r ≠ .jeFifoCtl)
    (h : codeMask r.fields .rwl = 0) : s.stored ⟨r, i, j⟩ acc v = { s with regs := (s.stored ⟨r, i, j⟩ acc v).regs } :=
  State.stored_regs s ⟨r, i, j⟩ acc v (by simp only [RegId.fieldsAt_eq _ _ hr, h]; exact BitVec.zero_and)

/-- The same, with the fields of the register named. -/
theorem State.fld_stored_self (s : State) (f : Fld) (i j : Nat) (acc : RegAcc) (v : W64) (hr : f.reg ≠ .jeFifoCtl)
    (h : codeMask f.reg.fields .rwl &&& accMask acc = 0)
    (hf : ∀ b < f.len, (codeMask f.reg.fields .rw &&& accMask acc &&& ~~~(codeMask f.reg.fields .w1c)).getLsbD (f.lo + b) = true) :
    (s.stored ⟨f.reg, i, j⟩ acc v).fld f i j = bitsOf (accPos acc v) f.lo f.len :=
  State.fld_stored_at s f i j acc v (by rw [RegId.fieldsAt_eq _ _ hr]; exact h) (by rw [RegId.fieldsAt_eq _ _ hr]; exact hf)

/-- An action that is taken (R355, R414). -/
theorem State.writeReg_act (s : State) (x : RegRef) (acc : RegAcc) (v : W64) (hd : isDir x.reg = false) (hx : x.reg ≠ .jpXmark)
    (hn : needsLock x.reg = true → s.locked = true) (hi : x.reg ≠ .jpXlatIndex) (hb : s.regBusy x = false)
    (ha : actionOf x.reg (accPos acc v) ≠ 0) (hr : (s.tried x acc v).actRefused x = false) :
    s.writeReg (x.addr + accOff acc) x acc v =
      ((s.stored x acc v).wrote s x (accPos acc v)).act x (actionOf x.reg (accPos acc v)) (accPos acc v) := by
  simp only [State.writeReg]
  rw [if_neg (by simp [hd]), if_neg hx, if_neg (by intro hc; simp [hn hc.2.1] at hc), if_neg (by intro hc; exact hi hc.1),
    if_neg (by simp [hb]), if_neg ha, if_neg (by simp [hr])]
  rfl

/-- An action that its rule refuses leaves its RESULT alone (R414). -/
theorem State.writeReg_refused (s : State) (x : RegRef) (acc : RegAcc) (v : W64) (hd : isDir x.reg = false) (hx : x.reg ≠ .jpXmark)
    (hn : needsLock x.reg = true → s.locked = true) (hi : x.reg ≠ .jpXlatIndex) (hb : s.regBusy x = false)
    (ha : actionOf x.reg (accPos acc v) ≠ 0) (hr : (s.tried x acc v).actRefused x = true) :
    s.writeReg (x.addr + accOff acc) x acc v = (s.tried x acc v).unstore s x := by
  simp only [State.writeReg]
  rw [if_neg (by simp [hd]), if_neg hx, if_neg (by intro hc; simp [hn hc.2.1] at hc), if_neg (by intro hc; exact hi hc.1),
    if_neg (by simp [hb]), if_neg ha, if_pos (by simpa using hr)]

/-- A write of a served register whose action is taken. -/
theorem State.putReg_act {s : State} (h : s.serving) (r : RegId) (i j : Nat) (acc : RegAcc) (v : W64) (hx : RegRef.valid ⟨r, i, j⟩)
    (hg : s.sliceGone ⟨r, i, j⟩ = false) (hw : wholeOnly r = false ∨ acc = .full) (hd : isDir r = false) (hm : r ≠ .jpXmark)
    (hn : needsLock r = true → s.locked = true) (hi : r ≠ .jpXlatIndex) (hb : s.regBusy ⟨r, i, j⟩ = false)
    (ha : actionOf r (accPos acc v) ≠ 0) (hr : (s.tried ⟨r, i, j⟩ acc v).actRefused ⟨r, i, j⟩ = false) :
    s.putReg r i j acc v =
      ((s.stored ⟨r, i, j⟩ acc v).wrote s ⟨r, i, j⟩ (accPos acc v)).act ⟨r, i, j⟩ (actionOf r (accPos acc v)) (accPos acc v) := by
  rw [State.putReg_of_serving h r i j acc v hx hg hw]
  exact State.writeReg_act s ⟨r, i, j⟩ acc v hd hm hn hi hb ha hr

/-- A write without an action. -/
theorem State.writeReg_plain (s : State) (x : RegRef) (acc : RegAcc) (v : W64) (ha : actionOf x.reg (accPos acc v) = 0)
    (hd : isDir x.reg = false) (hx : x.reg ≠ .jpXmark) (hi : x.reg ≠ .jpXlatIndex) :
    s.writeReg (x.addr + accOff acc) x acc v = (s.stored x acc v).wrote s x (accPos acc v) := by
  simp only [State.writeReg, ha]
  rw [if_neg (by simp [hd]), if_neg hx, if_neg (by simp), if_neg (by intro hc; exact hi hc.1), if_neg (by simp), if_pos trivial]
  rfl

/-- Two changes of a partition's own state, one after the other. -/
@[simp] theorem State.modPart_modPart (s : State) (p : Part) (f g : PartSt → PartSt) :
    (s.modPart p f).modPart p g = s.modPart p fun x => g (f x) := by
  simp [State.modPart]

@[simp] theorem State.part_modPart (s : State) (p : Part) (f : PartSt → PartSt) : (s.modPart p f).part p = f (s.part p) := by
  simp [State.modPart, State.part]

/-- A change of a partition's own state depends on what it does there alone. -/
theorem State.modPart_congr (s : State) (p : Part) (f g : PartSt → PartSt) (h : f (s.part p) = g (s.part p)) :
    s.modPart p f = s.modPart p g := by
  simp only [State.part] at h
  simp only [State.modPart, h]

end Sys2Proof.Machine
end

