-- ==== Sys2Proof/Laws/Ops.lean ====
section
/-! SUPPORT. What the shared operations do where nothing stands in their way: an injection that is not armed, commands none of
which aborted, registers that an address reaches, and fields an operation never writes. -/
namespace Sys2Proof.Machine

theorem State.inject_idle (s : State) (c : Nat) (p : Part) (h : s.armed = none) : s.inject c p = (s, false) := by
  simp only [State.inject, h]

/-- A word without an error, and without an injection for it, goes on as it is. -/
theorem State.fifoWord_clean (s : State) (c : Nat) (p : Part) (h : s.armed = none) : s.fifoWord c p .clean = (s, false) := by
  simp only [State.fifoWord, State.inject_idle s c p h]

theorem State.drainAborted_none (s : State) (h : ∀ y ∈ s.trackers, y.marks.aborted = false) : s.drainAborted = s := by
  simp only [State.drainAborted]
  rw [List.filter_eq_nil_iff.mpr (by intro a ha; simp [h a ha])]; rfl

theorem RegRef.valid_hub (r : RegId) (h : r.row.space = .hub) (hc : 0 < r.row.count) : RegRef.valid ⟨r, 0, 0⟩ := by
  refine ⟨hc, ?_⟩; simp only [h]; exact ⟨hc, trivial⟩

theorem RegRef.valid_slice (r : RegId) (n : SliceId) (h : r.row.space = .slice) (hc : 0 < r.row.count) : RegRef.valid ⟨r, n, 0⟩ := by
  refine ⟨hc, ?_⟩; simp only [h]; exact n.isLt

theorem State.sliceGone_served (s : State) (r : RegId) (n : SliceId) (h : s.sliceState n < 2) : s.sliceGone ⟨r, n, 0⟩ = false := by
  simp only [State.sliceGone]; simp; intro _ _; omega

/-- A fold keeps what each of its steps keeps. -/
theorem foldl_keeps {α β γ : Type} (f : β → α → β) (g : β → γ) (h : ∀ b a, g (f b a) = g b) (l : List α) (b : β) :
    g (l.foldl f b) = g b := by
  induction l generalizing b with
  | nil => rfl
  | cons a r ih => simp only [List.foldl_cons]; rw [ih, h]

theorem State.closeSlices_pipes (s : State) (t : TrackerId) (b : Nat) : (s.closeSlices t b).pipes = s.pipes := by
  unfold State.closeSlices
  refine foldl_keeps _ (fun s : State => s.pipes) ?_ _ _
  intro u n
  simp only [State.closeSlice]
  repeat' split
  all_goals rfl

theorem State.windowOver_pipes (s : State) (t : TrackerId) : (s.windowOver t).pipes = s.pipes := by
  unfold State.windowOver
  split
  · rfl
  · split
    · rfl
    · rfl

theorem State.preloadEnd_pipes (s : State) (t : TrackerId) (b : Nat) : (s.preloadEnd t b).pipes = s.pipes := by
  unfold State.preloadEnd
  cases s.batch t with
  | none => rfl
  | some bt =>
    cases s.bag t b with
    | none => rfl
    | some g => dsimp only; split <;> rfl

theorem State.tokenBag_pipes (s : State) (t : TrackerId) (b : Nat) : (s.tokenBag t b).pipes = s.pipes := by
  unfold State.tokenBag
  dsimp only
  split
  · rfl
  · rw [State.preloadEnd_pipes, State.windowOver_pipes, State.closeSlices_pipes]; rfl

/-- A field that software does not write stays as it is. -/
theorem State.fld_stored_kept (s : State) (f : Fld) (i j : Nat) (acc : RegAcc) (v : W64) (hr : f.reg ≠ .jeFifoCtl)
    (h : codeMask f.reg.fields .rwl = 0)
    (hf : ∀ b < f.len, (codeMask f.reg.fields .rw ||| codeMask f.reg.fields .w1c).getLsbD (f.lo + b) = false) :
    (s.stored ⟨f.reg, i, j⟩ acc v).fld f i j = s.fld f i j := by
  simp only [State.fld]
  have hr' := State.reg_stored_self s ⟨f.reg, i, j⟩ acc v (by
    simp only [RegId.fieldsAt_eq _ _ hr, h]; exact BitVec.zero_and)
  simp only at hr'
  rw [hr', RegId.fieldsAt_eq _ _ hr]
  apply Nat.eq_of_testBit_eq
  intro b
  rw [bitsOf_testBit, bitsOf_testBit]
  by_cases hb : b < f.len
  · have := hf b hb
    simp only [BitVec.getLsbD_or, Bool.or_eq_false_iff] at this
    obtain ⟨h1, h3⟩ := this
    simp only [hb, decide_true, Bool.true_and, BitVec.testBit_toNat]
    simp only [BitVec.getLsbD_and, BitVec.getLsbD_or, BitVec.getLsbD_not, h1, h3]
    by_cases h64 : f.lo + b < 64
    · simp [h64]
    · simp [h64, BitVec.getLsbD_of_ge _ _ (Nat.le_of_not_lt h64)]
  · simp [hb]

/-! A start (R258, R259) -/

theorem State.setReg_each_boot (r : RegId) (F : Nat → W64) (ks : List Nat) (u : State) :
    (ks.foldl (fun (s : State) k => s.setReg r (F k) k) u).boot = u.boot :=
  foldl_keeps (fun (s : State) k => s.setReg r (F k) k) (fun s : State => s.boot) (fun b _ => State.setReg_boot b _ _ _ _) ks u

theorem State.setFld_each_boot (f : Fld) (F : SliceId → Nat) (ks : List SliceId) (u : State) :
    (ks.foldl (fun (s : State) n => s.setFld f (F n) n) u).boot = u.boot :=
  foldl_keeps (fun (s : State) (n : SliceId) => s.setFld f (F n) n) (fun s : State => s.boot) (fun b _ => State.setFld_boot b _ _ _ _) ks u

theorem State.forget_boot (s : State) (f : Nat → Bool) : (s.forget f).boot = s.boot := rfl

theorem State.showMapped_boot (s : State) (l : List Nat) : (s.showMapped l).boot = s.boot := by
  unfold State.showMapped
  dsimp only
  rw [State.setFld_boot, State.setFld_boot]
  refine Eq.trans (State.setFld_each_boot fJsHbmStat_MAPPED _ _ _) ?_
  exact State.setReg_each_boot .jeChMapped _ _ _

theorem State.fixMapped_image (s : State) (l : List Nat) : (s.fixMapped l).boot.image = s.boot.image := by
  have key : ∀ u t : State, u.boot = s.boot → t.boot = u.boot → ({ t with boot := { t.boot with lastMapped := l } } : State).boot.image = s.boot.image :=
    fun u t h1 h2 => (congrArg Boot.image (h2.trans h1) : t.boot.image = s.boot.image)
  refine key (s.showMapped l) _ (State.showMapped_boot s l) ?_
  split
  · exact State.forget_boot _ _
  · rfl

theorem State.repair_boot (s : State) (m : List (SliceId × Fin 512)) (n : SliceId) : (s.repair m n).boot = s.boot := by
  unfold State.repair
  dsimp only
  rw [State.setFld_boot]
  exact foldl_keeps (fun (s : State) (x : Nat × W64) => s.setReg .jsRemap x.2 n.val x.1) (fun s : State => s.boot)
    (fun b _ => State.setReg_boot b _ _ _ _) _ _

/-- What another ENGINE number does not touch. -/
theorem State.rekey_keeps {γ : Type} (g : State → γ) (hg : ∀ (s : State) m p b, g { s with mem := m, poison := p, badReads := b } = g s) (s : State) (e : Nat) :
    g (s.rekey e) = g s := by
  simp only [State.rekey]
  split
  · rfl
  · exact hg _ _ _ _

/-! Actions (R414) -/

/-- The action code of a written word. -/
theorem action_bits (a op : Nat) (ha : a < 4) (ho : op < 2 ^ 62) : bitsOf (accPos .full (BitVec.ofNat 64 (a * 2 ^ 62 + op))) 62 2 = a := by
  simp only [bitsOf, accPos, BitVec.toNat_ofNat, Nat.shiftRight_eq_div_pow]
  omega

/-- The operand beside an action code. -/
theorem operand_bits (a op lo len : Nat) (ha : a < 4) (ho : op < 2 ^ 62) (h : lo + len ≤ 62) :
    bitsOf (accPos .full (BitVec.ofNat 64 (a * 2 ^ 62 + op))) lo len = op / 2 ^ lo % 2 ^ len := by
  simp only [bitsOf, accPos, BitVec.toNat_ofNat, Nat.shiftRight_eq_div_pow]
  rw [Nat.mod_eq_of_lt (show a * 2 ^ 62 + op < 2 ^ 64 by omega)]
  have e : a * 2 ^ 62 = a * 2 ^ (62 - lo - len) * 2 ^ len * 2 ^ lo := by
    rw [Nat.mul_assoc, Nat.mul_assoc, ← Nat.pow_add, ← Nat.pow_add, show 62 - lo - len + (len + lo) = 62 by omega]
  rw [e, Nat.add_comm, Nat.add_mul_div_right _ _ (by positivity), Nat.add_mul_mod_self_right]

/-- An action row is the write of its register, whose action is then taken. -/
theorem State.putAct_act {s : State} (h : s.serving) (r : RegId) (i a op : Nat) (hx : RegRef.valid ⟨r, i, 0⟩)
    (hg : s.sliceGone ⟨r, i, 0⟩ = false) (hd : isDir r = false) (hm : r ≠ .jpXmark)
    (hn : needsLock r = true → s.locked = true) (hi : r ≠ .jpXlatIndex) (hb : s.regBusy ⟨r, i, 0⟩ = false)
    (ha : actionOf r (accPos .full (BitVec.ofNat 64 (a * 2 ^ 62 + op))) ≠ 0)
    (hr : (s.tried ⟨r, i, 0⟩ .full (BitVec.ofNat 64 (a * 2 ^ 62 + op))).actRefused ⟨r, i, 0⟩ = false) :
    s.putAct r i a op = ((s.put r i (BitVec.ofNat 64 (a * 2 ^ 62 + op))).wrote s ⟨r, i, 0⟩ (accPos .full (BitVec.ofNat 64 (a * 2 ^ 62 + op)))).act
      ⟨r, i, 0⟩ (actionOf r (accPos .full (BitVec.ofNat 64 (a * 2 ^ 62 + op)))) (accPos .full (BitVec.ofNat 64 (a * 2 ^ 62 + op))) := by
  rw [State.putAct, State.putReg_act h r i 0 .full _ hx hg (.inr rfl) hd hm hn hi hb ha hr]

/-- An action row whose register does nothing beside its action. -/
theorem State.putAct_plain {s : State} (h : s.serving) (r : RegId) (i a op : Nat) (hx : RegRef.valid ⟨r, i, 0⟩)
    (hg : s.sliceGone ⟨r, i, 0⟩ = false) (hd : isDir r = false) (hm : r ≠ .jpXmark)
    (hn : needsLock r = true → s.locked = true) (hi : r ≠ .jpXlatIndex) (hb : s.regBusy ⟨r, i, 0⟩ = false)
    (hw : ∀ t old pos, State.wrote t old ⟨r, i, 0⟩ pos = t)
    (ha : actionOf r (accPos .full (BitVec.ofNat 64 (a * 2 ^ 62 + op))) = a) (h0 : a ≠ 0)
    (hr : (s.tried ⟨r, i, 0⟩ .full (BitVec.ofNat 64 (a * 2 ^ 62 + op))).actRefused ⟨r, i, 0⟩ = false) :
    s.putAct r i a op = (s.put r i (BitVec.ofNat 64 (a * 2 ^ 62 + op))).act ⟨r, i, 0⟩ a (accPos .full (BitVec.ofNat 64 (a * 2 ^ 62 + op))) := by
  rw [State.putAct_act h r i a op hx hg hd hm hn hi hb (by rw [ha]; exact h0) hr, hw, ha]

/-- A write that keeps the fields beside the action bits it sets. -/
theorem State.putKeep_plain {s : State} (h : s.serving) (r : RegId) (i a : Nat) (v : W64) (hx : RegRef.valid ⟨r, i, 0⟩)
    (hg : s.sliceGone ⟨r, i, 0⟩ = false) (hd : isDir r = false) (hm : r ≠ .jpXmark)
    (hn : needsLock r = true → s.locked = true) (hi : r ≠ .jpXlatIndex) (hb : s.regBusy ⟨r, i, 0⟩ = false)
    (hw : ∀ t old pos, State.wrote t old ⟨r, i, 0⟩ pos = t)
    (ha : ∀ w : W64, actionOf r (accPos .full ((w &&& (codeMask (r.fieldsAt i) .rw ||| codeMask (r.fieldsAt i) .rwl)) ||| v)) = a) (h0 : a ≠ 0)
    (hr : (s.tried ⟨r, i, 0⟩ .full ((s.reg r i &&& (codeMask (r.fieldsAt i) .rw ||| codeMask (r.fieldsAt i) .rwl)) ||| v)).actRefused
      ⟨r, i, 0⟩ = false) :
    s.putKeep r i v =
      (s.put r i ((s.reg r i &&& (codeMask (r.fieldsAt i) .rw ||| codeMask (r.fieldsAt i) .rwl)) ||| v)).act ⟨r, i, 0⟩ a
        (accPos .full ((s.reg r i &&& (codeMask (r.fieldsAt i) .rw ||| codeMask (r.fieldsAt i) .rwl)) ||| v)) := by
  rw [State.putKeep, State.putReg_act h r i 0 .full _ hx hg (.inr rfl) hd hm hn hi hb (by rw [ha]; exact h0) hr, hw, ha]

/-- A whole write of a register without RWL fields changes that register alone. -/
theorem State.put_only (s : State) (r : RegId) (i : Nat) (v : W64) (hr : r ≠ .jeFifoCtl) (h : codeMask r.fields .rwl = 0) :
    s.put r i v = { s with regs := (s.put r i v).regs } := State.stored_only s r i 0 .full v hr h

theorem State.put_fld_ne (s : State) (r : RegId) (i : Nat) (v : W64) (f : Fld) (i' j' : Nat) (h : (⟨r, i, 0⟩ : RegRef) ≠ ⟨f.reg, i', j'⟩) :
    (s.put r i v).fld f i' j' = s.fld f i' j' := State.fld_stored_ne s _ _ v f i' j' h

/-- REQ of JE_WINNOW_CTL, beside the fields it keeps. -/
theorem winnow_action (w : W64) (a : Nat) (h : a < 3) :
    actionOf .jeWinnowCtl (accPos .full ((w &&& codeMask (RegId.fields .jeWinnowCtl) .rw) ||| BitVec.ofNat 64 a)) = a := by
  have hm : bitsOf (accPos .full ((w &&& codeMask (RegId.fields .jeWinnowCtl) .rw) ||| BitVec.ofNat 64 a)) 0 2 = a := by
    have : codeMask (RegId.fields .jeWinnowCtl) .rw = 16#64 := by decide
    rw [this]
    simp only [bitsOf, accPos, Nat.shiftRight_zero, BitVec.toNat_or, BitVec.toNat_and, Nat.or_mod_two_pow, Nat.and_mod_two_pow]
    have : (16#64).toNat % 2 ^ 2 = 0 := by decide
    rw [this, Nat.and_zero, Nat.zero_or, BitVec.toNat_ofNat]
    omega
  simp only [actionOf]
  rw [hm]
  rw [if_neg (by omega)]

end Sys2Proof.Machine
end

