-- ==== Sys2Proof/Laws/Actions.lean ====
section
/-! SUPPORT. Actions (R414): what a write that asks for an action does where the action is rejected because BUSY is set, where its rule
refuses it, and where it is taken; and the context cache (R25). -/
namespace Sys2Proof.Machine

/-! The register file under two writes of one register -/

theorem putAssoc_putAssoc_self {κ α : Type} [DecidableEq κ] (l : List (κ × α)) (k : κ) (v w : α) :
    putAssoc (putAssoc l k v) k w = putAssoc l k w := by
  induction l with
  | nil => simp [putAssoc]
  | cons x r ih => by_cases h : x.1 = k <;> simp [putAssoc, h, ih]

@[simp] theorem State.setReg_setReg_self (s : State) (r : RegId) (v w : W64) (i j : Nat) : (s.setReg r v i j).setReg r w i j = s.setReg r w i j := by
  simp only [State.setReg, putAssoc_putAssoc_self]

/-- A key whose entries the filter keeps answers as before. -/
theorem getAssoc_filter_in {κ α : Type} [DecidableEq κ] (l : List (κ × α)) (q : κ × α → Bool) (k : κ) (d : α) (h : ∀ v, q (k, v) = true) :
    getAssoc (l.filter q) k d = getAssoc l k d := by
  induction l with
  | nil => rfl
  | cons x r ih =>
    obtain ⟨y, v⟩ := x
    by_cases hk : y = k
    · subst hk
      rw [List.filter_cons, if_pos (h v)]
      simp only [getAssoc, if_true]
    · rw [List.filter_cons]
      split <;> simp only [getAssoc, hk, if_false, ih]

/-- A field takes the low bits of a number. -/
theorem putBits_mod_len (w : W64) (lo len v : Nat) : putBits w lo len (v % 2 ^ len) = putBits w lo len v := by
  simp only [putBits, Nat.mod_mod]

theorem State.setFld_mod (s : State) (f : Fld) (v i j : Nat) : s.setFld f (v % 2 ^ f.len) i j = s.setFld f v i j := by
  simp only [State.setFld, putBits_mod_len]

/-- Setting a field of a register that has just been written is one write of the register. -/
theorem State.setFld_setReg (s : State) (f : Fld) (w : W64) (v i j : Nat) :
    (s.setReg f.reg w i j).setFld f v i j = s.setReg f.reg (putBits w f.lo f.len v) i j := by
  simp only [State.setFld, State.reg_setReg_self, State.setReg_setReg_self]

/-- A field of another register. -/
theorem State.fld_setReg_ne (s : State) {r : RegId} {f : Fld} (v : W64) {i j i' j' : Nat} (h : (⟨r, i, j⟩ : RegRef) ≠ ⟨f.reg, i', j'⟩) :
    (s.setReg r v i j).fld f i' j' = s.fld f i' j' := by
  simp only [State.fld, State.reg_setReg_ne _ _ h]

theorem State.fld_setFld_ne (s : State) (f g : Fld) (v : Nat) {i j i' j' : Nat} (h : (⟨f.reg, i, j⟩ : RegRef) ≠ ⟨g.reg, i', j'⟩) :
    (s.setFld f v i j).fld g i' j' = s.fld g i' j' := State.fld_setReg_ne s _ h

/-- Bits put back where they were read change nothing. -/
theorem putBits_bitsOf (w : W64) (lo len : Nat) : putBits w lo len (bitsOf w lo len) = w := by
  apply BitVec.eq_of_toNat_eq
  have h1 := Nat.div_add_mod' (w.toNat / 2 ^ lo) (2 ^ len)
  have h2 := Nat.div_add_mod' w.toNat (2 ^ lo)
  simp only [putBits, bitsOf, Nat.shiftRight_eq_div_pow, Nat.mod_mod, Nat.pow_add, ← Nat.div_div_eq_div_mul, h1, h2, BitVec.toNat_ofNat]
  exact Nat.mod_eq_of_lt w.isLt

/-- A field set to the value it has. -/
theorem State.setFld_fld_self (s : State) (f : Fld) (w : W64) (i j : Nat) :
    (s.setReg f.reg w i j).setFld f ((s.setReg f.reg w i j).fld f i j) i j = s.setReg f.reg w i j := by
  rw [State.setFld_setReg]
  simp only [State.fld, State.reg_setReg_self, putBits_bitsOf]

/-- The fields of a register just after a write read as the write left them. -/
theorem State.fld_newFields (s : State) (x : RegRef) (acc : RegAcc) (v : W64) (f : Fld) (h : f.reg = x.reg) :
    (s.setReg x.reg (s.newFields x acc (accPos acc v)) x.i x.j).fld f x.i x.j = (s.stored x acc v).fld f x.i x.j := by
  simp only [State.fld, h, State.stored, State.storeFields, State.reg_setReg_self, State.ite_event_reg]
  split
  · rename_i he; rw [← he]
  · rw [State.reg_setReg_self]

/-- A write leaves the bits that no write sets or clears. -/
theorem State.newFields_bit (s : State) (x : RegRef) (acc : RegAcc) (pos : W64) (n : Nat)
    (h : (codeMask (x.reg.fieldsAt x.i) .rw ||| codeMask (x.reg.fieldsAt x.i) .rwl ||| codeMask (x.reg.fieldsAt x.i) .w1c).getLsbD n = false) :
    (s.newFields x acc pos).getLsbD n = (s.reg x.reg x.i x.j).getLsbD n := by
  simp only [BitVec.getLsbD_or, Bool.or_eq_false_iff] at h
  obtain ⟨⟨h1, h2⟩, h3⟩ := h
  by_cases hn : n < 64
  · cases hl : s.locked <;>
      simp only [State.newFields, hl, BitVec.getLsbD_and, BitVec.getLsbD_or, BitVec.getLsbD_not, h1, h3, hn] <;> simp [h2]
  · rw [BitVec.getLsbD_of_ge _ _ (by omega), BitVec.getLsbD_of_ge _ _ (by omega)]

/-- A field of RO bits after a write that asks for an action. -/
theorem State.bitsOf_newFields (s : State) (f : Fld) (i : Nat) (acc : RegAcc) (pos : W64)
    (h : ∀ n < f.len, (codeMask (f.reg.fieldsAt i) .rw ||| codeMask (f.reg.fieldsAt i) .rwl ||| codeMask (f.reg.fieldsAt i) .w1c).getLsbD (f.lo + n) = false) :
    bitsOf (s.newFields ⟨f.reg, i, 0⟩ acc pos) f.lo f.len = s.fld f i := by
  simp only [State.fld]
  apply Nat.eq_of_testBit_eq
  intro n
  rw [bitsOf_testBit, bitsOf_testBit]
  by_cases hn : n < f.len
  · simp only [BitVec.testBit_toNat]
    rw [State.newFields_bit s ⟨f.reg, i, 0⟩ acc pos _ (h n hn)]
  · simp [hn]

/-- A served register written without an action: its fields are stored, and what the write of that register brings happens. -/
theorem State.putReg_plain {s : State} (h : s.serving) (r : RegId) (i j : Nat) (acc : RegAcc) (v : W64) (hx : RegRef.valid ⟨r, i, j⟩)
    (hg : s.sliceGone ⟨r, i, j⟩ = false) (hw : wholeOnly r = false ∨ acc = .full) (ha : actionOf r (accPos acc v) = 0) (hd : isDir r = false)
    (hm : r ≠ .jpXmark) (hi : r ≠ .jpXlatIndex) :
    s.putReg r i j acc v = (s.stored ⟨r, i, j⟩ acc v).wrote s ⟨r, i, j⟩ (accPos acc v) := by
  rw [State.putReg_of_serving h r i j acc v hx hg hw]
  exact State.writeReg_plain s ⟨r, i, j⟩ acc v ha hd hm hi

/-! Refused and rejected actions -/

/-- An action rejected because BUSY is set (R414). -/
theorem State.putReg_busy {s : State} (h : s.serving) (r : RegId) (i : Nat) (acc : RegAcc) (v : W64) (hx : RegRef.valid ⟨r, i, 0⟩)
    (hg : s.sliceGone ⟨r, i, 0⟩ = false) (hw : wholeOnly r = false ∨ acc = .full) (hd : isDir r = false) (hm : r ≠ .jpXmark)
    (hn : needsLock r = true → s.locked = true) (hi : r ≠ .jpXlatIndex) (hb : s.regBusy ⟨r, i, 0⟩ = true)
    (ha : actionOf r (accPos acc v) ≠ 0) : s.putReg r i 0 acc v = s.rejectBusy ⟨r, i, 0⟩ := by
  rw [State.putReg_of_serving h r i 0 acc v hx hg hw]
  simp only [State.writeReg]
  rw [if_neg (by simp [hd]), if_neg hm, if_neg (by intro hc; simp [hn hc.2.1] at hc), if_neg (by intro hc; exact hi hc.1),
    if_pos ⟨ha, hb⟩]

/-- An action that needs configuration lock and is asked for before it (R355). -/
theorem State.putReg_early {s : State} (h : s.serving) (r : RegId) (i : Nat) (acc : RegAcc) (v : W64) (hx : RegRef.valid ⟨r, i, 0⟩)
    (hg : s.sliceGone ⟨r, i, 0⟩ = false) (hw : wholeOnly r = false ∨ acc = .full) (hd : isDir r = false) (hm : r ≠ .jpXmark)
    (hn : needsLock r = true) (hl : s.locked = false) (ha : actionOf r (accPos acc v) ≠ 0) :
    s.putReg r i 0 acc v = s.eventE 0x03 (r.addr i + accOff acc) (busValue acc v) := by
  rw [State.putReg_of_serving h r i 0 acc v hx hg hw]
  simp only [State.writeReg]
  rw [if_neg (by simp [hd]), if_neg hm, if_pos ⟨ha, hn, by simp [hl]⟩]
  rfl

/-- An action that its rule refuses changes RESULT alone (R414). -/
theorem State.putReg_refused {s : State} (h : s.serving) (r : RegId) (i : Nat) (acc : RegAcc) (v : W64) (hx : RegRef.valid ⟨r, i, 0⟩)
    (hg : s.sliceGone ⟨r, i, 0⟩ = false) (hw : wholeOnly r = false ∨ acc = .full) (hd : isDir r = false) (hm : r ≠ .jpXmark)
    (hn : needsLock r = true → s.locked = true) (hi : r ≠ .jpXlatIndex) (hc : r ≠ .jeCfgLock) (b f : Fld) (rej k : Nat)
    (hf : busyOf r = some (b, some (f, rej))) (hb : s.fld b i = 0) (ha : actionOf r (accPos acc v) ≠ 0)
    (hr : b.reg = r ∧ f.reg = r) (hap : b.lo + b.len ≤ f.lo ∨ f.lo + f.len ≤ b.lo) (hl : f.lo + f.len ≤ 64) (hz : codeMask r.fields .rwl = 0)
    (hk : ∀ n < b.len, (codeMask r.fields .rw ||| codeMask r.fields .w1c).getLsbD (b.lo + n) = false) (hj : r ≠ .jeFifoCtl)
    (ht : s.tried ⟨r, i, 0⟩ acc v = (s.setReg r (s.newFields ⟨r, i, 0⟩ acc (accPos acc v)) i 0).setFld f k i) (h0 : k % 2 ^ f.len ≠ 0) :
    s.putReg r i 0 acc v = s.setFld f k i := by
  obtain ⟨hr1, hr2⟩ := hr
  have hbusy : (s.setReg r (s.newFields ⟨r, i, 0⟩ acc (accPos acc v)) i 0).fld b i = 0 := by
    have := State.fld_newFields s ⟨r, i, 0⟩ acc v b hr1
    simp only at this
    rw [this]
    subst hr1
    rw [State.fld_stored_kept s b i 0 acc v hj hz hk, hb]
  have hres : (s.tried ⟨r, i, 0⟩ acc v).fld f i = k % 2 ^ f.len := by rw [ht]; exact State.fld_setFld_self _ _ _ _ _ hl
  have href : (s.tried ⟨r, i, 0⟩ acc v).actRefused ⟨r, i, 0⟩ = true := by
    simp only [State.actRefused, hf, hres]
    rw [ht, State.fld_setFld_of_apart _ _ _ _ (hr1.trans hr2.symm) hap, hbusy]
    simp [hc, h0]
  rw [State.putReg_of_serving h r i 0 acc v hx hg hw]
  refine (State.writeReg_refused s ⟨r, i, 0⟩ acc v hd hm hn hi (by simp [State.regBusy, hf, hb]) ha href).trans ?_
  simp only [State.unstore, hf, hres, State.setFld_mod]
  rw [ht]
  subst hr2
  simp only [State.setFld, State.setReg_setReg_self, State.reg_setReg_self]

/-- An action of a register that is not busy (R414). -/
theorem State.putReg_action {s : State} (h : s.serving) (r : RegId) (i : Nat) (v : W64) (hx : RegRef.valid ⟨r, i, 0⟩)
    (hg : s.sliceGone ⟨r, i, 0⟩ = false) (hd : isDir r = false) (hm : r ≠ .jpXmark)
    (hn : needsLock r = true → s.locked = true) (hi : r ≠ .jpXlatIndex) (hb : s.regBusy ⟨r, i, 0⟩ = false)
    (hw : ∀ t old pos, State.wrote t old ⟨r, i, 0⟩ pos = t) (a : Nat) (ha : actionOf r (accPos .full v) = a) (h0 : a ≠ 0) :
    s.putReg r i 0 .full v = s.orRefused r i v ((s.put r i v).act ⟨r, i, 0⟩ a (accPos .full v)) := by
  subst ha
  unfold State.orRefused
  split
  · rename_i hr
    rw [State.putReg_of_serving h r i 0 .full v hx hg (.inr rfl)]
    exact State.writeReg_refused s ⟨r, i, 0⟩ .full v hd hm hn hi hb h0 hr
  · rename_i hr
    rw [State.putReg_act h r i 0 .full v hx hg (.inr rfl) hd hm hn hi hb h0 (by simpa using hr), hw]

/-- A refused action that changed nothing of the register file but its own register: RESULT alone stays changed. -/
theorem State.unstore_setReg {u s : State} {r : RegId} {i k : Nat} {b f : Fld} (w : W64) (hf : busyOf r = some (b, some (f, k)))
    (hr : f.reg = r) (hu : u.reg r i 0 = s.reg r i 0) :
    (u.setReg r w i 0).unstore s ⟨r, i, 0⟩ = u.setFld f (bitsOf w f.lo f.len) i 0 := by
  subst hr
  simp only [State.unstore, hf, State.setReg_setReg_self, State.setFld_setReg, State.fld, State.reg_setReg_self]
  simp only [State.setFld, hu]

/-- Whether it is refused is in that register. -/
theorem State.actRefused_setReg {u : State} {r : RegId} {i k : Nat} {b f : Fld} (w : W64) (hf : busyOf r = some (b, some (f, k)))
    (hr : b.reg = r ∧ f.reg = r) (hc : r ≠ .jeCfgLock) (hb : bitsOf w b.lo b.len = 0) (hk : bitsOf w f.lo f.len ≠ 0) :
    (u.setReg r w i 0).actRefused ⟨r, i, 0⟩ = true := by
  obtain ⟨h1, h2⟩ := hr
  simp only [State.actRefused, hf, State.fld, h1, h2, State.reg_setReg_self, hb]
  simp [hc, hk]

/-- An action that ends at once with RESULT k, whatever it did beside its register: RESULT alone changes there. -/
theorem State.orRefused_ends {s u t : State} {r : RegId} {i k k0 : Nat} {v : W64} {b f : Fld} (w : W64) (hf : busyOf r = some (b, some (f, k0)))
    (hr : b.reg = r ∧ f.reg = r) (hc : r ≠ .jeCfgLock) (ht : s.tried ⟨r, i, 0⟩ .full v = u.setReg r w i 0)
    (hb : bitsOf w b.lo b.len = 0) (hk : bitsOf w f.lo f.len = k) (h0 : k ≠ 0) (hu : u.reg r i 0 = s.reg r i 0) :
    s.orRefused r i v t = u.setFld f k i 0 := by
  unfold State.orRefused
  rw [ht, if_pos (State.actRefused_setReg w hf hr hc hb (by rw [hk]; exact h0)), State.unstore_setReg w hf hr.2 hu, hk]

/-- An action that leaves BUSY set, or RESULT 0, is taken. -/
theorem State.orRefused_taken {s t : State} {r : RegId} {i : Nat} {v : W64} (h : (s.tried ⟨r, i, 0⟩ .full v).actRefused ⟨r, i, 0⟩ = false) :
    s.orRefused r i v t = t := by
  unfold State.orRefused
  rw [if_neg (by simp [h])]

/-- An action with work to do, or whose RESULT is 0, is not refused. -/
theorem State.actRefused_of_busy {t : State} {x : RegRef} {b f : Fld} {k : Nat} (hf : busyOf x.reg = some (b, some (f, k)))
    (h : t.fld b x.i ≠ 0) : t.actRefused x = false := by
  simp [State.actRefused, hf, h]

theorem State.actRefused_of_zero {t : State} {x : RegRef} {b f : Fld} {k : Nat} (hf : busyOf x.reg = some (b, some (f, k)))
    (h : t.fld f x.i = 0) : t.actRefused x = false := by
  simp [State.actRefused, hf, h]

/-! Reads of memory under a write of a register that says nothing about memory -/

/-- The registers that say where memory lies and whether it answers. -/
def memRegs : List RegId := [.jePhysMap, .jeChMapped, .jsSliceCtl, .jeFabStatus, .jeSecStatus, .jeSecCtl]

theorem State.granPoison_setReg (s : State) (r : RegId) (w : W64) (i j g : Nat) (h : r ∉ memRegs) :
    (s.setReg r w i j).granPoison g = s.granPoison g := by
  simp only [memRegs, List.mem_cons, List.not_mem_nil, or_false, not_or] at h
  obtain ⟨h1, h2, h3, h4, h5, h6⟩ := h
  have hr : ∀ (r' : RegId) (i' j' : Nat), r ≠ r' → (s.setReg r w i j).reg r' i' j' = s.reg r' i' j' :=
    fun r' i' j' hn => State.reg_setReg_ne _ _ (fun he => hn (congrArg RegRef.reg he))
  have hf : ∀ (f : Fld) (i' j' : Nat), r ≠ f.reg → (s.setReg r w i j).fld f i' j' = s.fld f i' j' :=
    fun f i' j' hn => by simp only [State.fld, hr f.reg i' j' hn]
  have hm : (s.setReg r w i j).chMapped = s.chMapped := by funext c; simp only [State.chMapped, hr _ _ _ h2]
  have hs : ∀ n k, (s.setReg r w i j).sliceServes n k = s.sliceServes n k := by
    intro n k; simp only [State.sliceServes, State.sliceState, hf fJsSliceCtl_STATE _ _ h3]; rfl
  have he : ∀ o, (s.setReg r w i j).encrypted o = s.encrypted o := by
    intro o; simp only [State.encrypted, hf fJeSecStatus_BOARD_KEY _ _ h5, hf fJeSecCtl_PLAIN_GIB _ _ h6]
  simp only [State.granPoison, State.isHbm, State.isBoard, State.channelOf, State.mappedList, hm, hs, he, hf fJePhysMap_ENGINE _ _ h1,
    hf fJeFabStatus_STATE _ _ h4, hf fJeSecStatus_ZEROISED _ _ h5]
  rfl

theorem State.rdPoison_setReg (s : State) (r : RegId) (w : W64) (i j a n : Nat) (h : r ∉ memRegs) :
    (s.setReg r w i j).rdPoison a n = s.rdPoison a n := by
  simp only [State.rdPoison, State.granPoison_setReg s r w i j _ h]

theorem State.rdNat_setReg (s : State) (r : RegId) (w : W64) (i j a n : Nat) : (s.setReg r w i j).rdNat a n = s.rdNat a n := rfl

/-! The context cache (R25) and doorbells -/

theorem updFirst_id {α : Type} (p : α → Bool) (f : α → α) (l : List α) (h : ∀ x, l.find? p = some x → f x = x) : updFirst p f l = l := by
  induction l with
  | nil => rfl
  | cons a r ih =>
    simp only [updFirst]
    split
    · rename_i hp; rw [h a (by simp [hp])]
    · rename_i hp; rw [ih]; intro x hx; exact h x (by simp [hp, hx])

/-- A context enters the cache without one leaving it. -/
theorem State.cacheCtx_short (s : State) (r : RingNo) (h : (s.ctxLru.filter fun y => decide (y ≠ r)).length < 4096) :
    s.cacheCtx r = { s.ctxUsed r with rings := updFirst (fun y => decide (y.no = r)) (fun y => { y with cached := true }) s.rings } := by
  have h4 : (r :: s.ctxLru.filter fun y => decide (y ≠ r)).drop 4096 = [] := by
    apply List.drop_eq_nil_of_le; simp only [List.length_cons]; omega
  have h5 : (r :: s.ctxLru.filter fun y => decide (y ≠ r)).take 4096 = (r :: s.ctxLru.filter fun y => decide (y ≠ r)) := by
    apply List.take_of_length_le; simp only [List.length_cons]; omega
  simp only [State.cacheCtx, h4, h5]; rfl

/-- A use of a cached context makes it the most recently used. -/
theorem State.needCtx_ctxAt (s : State) (r : RingNo) (x : Ring) (h : s.ctxAt r x) : s.needCtx r = (s.ctxUsed r, true) := by
  obtain ⟨h1, h2, h3⟩ := h
  simp only [State.needCtx, h1, h2, if_true]
  rw [State.cacheCtx_short s r h3, updFirst_id]
  · rfl
  · intro y hy
    have : s.ring r = some y := hy
    rw [h1] at this; cases this
    cases x; simp at h2; simp [h2]

/-- A doorbell written while the block serves (R26). -/
theorem exec_doorbellWrite {s : State} (h : s.serving) (r : RingNo) (w : AccW) (v : W64) (hw : w = .w32 ∨ w = .w64) :
    exec (.doorbellWrite (BitVec.ofNat 25 (r.toNat * 128)) w v) s = .next (s.dbArrive r (BitVec.ofNat 32 v.toNat)).settle := by
  show stepTo _ = _
  have hr := r.isLt
  have e : (BitVec.ofNat 25 (r.toNat * 128)).toNat = r.toNat * 128 := by rw [BitVec.toNat_ofNat, Nat.mod_eq_of_lt (by omega)]
  simp only [h.1, State.enabling_of_serving h, State.orHold_of_serving h, State.doorbell, e, h.2.1, Nat.mul_mod_left]
  rw [stepTo_eq, if_neg (by simp), if_neg (by simp), if_neg (by simp), if_pos ⟨trivial, hw.symm⟩, Nat.mul_div_cancel _ (by omega)]
  simp

end Sys2Proof.Machine
end

