-- ==== Sys2Proof/Laws/Memory.lean ====
section
/-! SUPPORT. Memory: a read after a write, the canonical form, and that every operation keeps it. -/
namespace Sys2Proof.Machine

theorem Memory.wf_nil : Memory.wf [] := ⟨List.Pairwise.nil, by simp⟩

/-- The rest of a canonical memory is canonical. -/
theorem Memory.wf_tail {c : Host.Cell} {r : List Host.Cell} (h : Memory.wf (c :: r)) : Memory.wf r :=
  ⟨(List.pairwise_cons.mp h.1).2, fun x hx => h.2 x (List.mem_cons_of_mem _ hx)⟩

/-- Memory right after reset is canonical. -/
theorem Memory.wf_reset : Memory.wf State.reset.mem := Memory.wf_nil

/-- A cell of a written memory is the written one or stood there before. -/
theorem mem_memPut {m : List Host.Cell} {a : Nat} {v : Byte} {c : Host.Cell} (h : c ∈ memPut m a v) : c = (a, v) ∧ v ≠ unwritten ∨ c ∈ m := by
  induction m with
  | nil =>
    by_cases hv : v = unwritten <;> simp_all [memPut]
  | cons x r ih =>
    obtain ⟨k, w⟩ := x
    simp only [memPut] at h
    split at h
    · split at h
      · exact .inr h
      · rcases List.mem_cons.mp h with h | h
        · exact .inl ⟨h, ‹_›⟩
        · exact .inr h
    · split at h
      · split at h
        · exact .inr (List.mem_cons_of_mem _ h)
        · rcases List.mem_cons.mp h with h | h
          · exact .inl ⟨h, ‹_›⟩
          · exact .inr (List.mem_cons_of_mem _ h)
      · rcases List.mem_cons.mp h with h | h
        · exact .inr (h ▸ List.mem_cons_self)
        · rcases ih h with h | h
          · exact .inl h
          · exact .inr (List.mem_cons_of_mem _ h)

/-- A write keeps the canonical form. -/
theorem Memory.wf_memPut {m : List Host.Cell} (a : Nat) (v : Byte) (h : Memory.wf m) : Memory.wf (memPut m a v) := by
  induction m with
  | nil =>
    by_cases hv : v = unwritten
    · simp [memPut, hv, Memory.wf]
    · simp [memPut, hv, Memory.wf]
  | cons x r ih =>
    obtain ⟨k, w⟩ := x
    obtain ⟨h1, h2⟩ := List.pairwise_cons.mp h.1
    have ht := Memory.wf_tail h
    have hr := ih ht
    simp only [memPut]
    split
    · split
      · exact h
      · refine ⟨List.pairwise_cons.mpr ⟨fun y hy => ?_, h.1⟩, fun c hc => ?_⟩
        · rcases List.mem_cons.mp hy with rfl | hy
          · assumption
          · exact Nat.lt_trans ‹_› (h1 y hy)
        · rcases List.mem_cons.mp hc with rfl | hc
          · assumption
          · exact h.2 c hc
    · split
      · rename_i hk
        subst hk
        split
        · exact ht
        · refine ⟨List.pairwise_cons.mpr ⟨h1, h2⟩, fun c hc => ?_⟩
          rcases List.mem_cons.mp hc with rfl | hc
          · assumption
          · exact ht.2 c hc
      · refine ⟨List.pairwise_cons.mpr ⟨fun y hy => ?_, hr.1⟩, fun c hc => ?_⟩
        · rcases mem_memPut hy with ⟨rfl, -⟩ | hy
          · show k < a; omega
          · exact h1 y hy
        · rcases List.mem_cons.mp hc with rfl | hc
          · exact h.2 _ List.mem_cons_self
          · exact hr.2 c hc

/-- Writing bytes in a row keeps the canonical form. -/
theorem Memory.wf_memPutList {m : List Host.Cell} (a : Nat) (bs : List Byte) (h : Memory.wf m) : Memory.wf (memPutList m a bs) := by
  induction bs generalizing m a with
  | nil => exact h
  | cons b r ih => exact ih (a + 1) (Memory.wf_memPut a b h)

/-- What lies past an address reads as unwritten below the first cell. -/
theorem memGet_of_lt {m : List Host.Cell} {a : Nat} (h : ∀ c ∈ m, a < c.1) : memGet m a = unwritten := by
  cases m with
  | nil => rfl
  | cons c r =>
    have := h c List.mem_cons_self
    simp only [memGet]
    rw [if_neg (by omega), if_pos this]

/-- A byte reads what was written to it. -/
theorem memGet_memPut_self {m : List Host.Cell} (a : Nat) (v : Byte) (h : Memory.wf m) : memGet (memPut m a v) a = v := by
  induction m with
  | nil => by_cases hv : v = unwritten <;> simp [memPut, memGet, hv]
  | cons x r ih =>
    obtain ⟨k, w⟩ := x
    obtain ⟨h1, h2⟩ := List.pairwise_cons.mp h.1
    simp only [memPut]
    split
    · split
      · subst v; simp only [memGet]; rw [if_neg (by omega), if_pos ‹_›]
      · simp [memGet]
    · split
      · subst a
        split
        · subst v; exact memGet_of_lt h1
        · simp [memGet]
      · simp only [memGet]
        rw [if_neg (by omega), if_neg (by omega)]
        exact ih (Memory.wf_tail h)

/-- A write leaves every other byte. -/
theorem memGet_memPut_ne {m : List Host.Cell} {a b : Nat} (v : Byte) (h : Memory.wf m) (hab : b ≠ a) : memGet (memPut m a v) b = memGet m b := by
  induction m with
  | nil =>
    by_cases hv : v = unwritten
    · simp [memPut, hv]
    · simp only [memPut, hv, if_false, memGet]
      rw [if_neg (Ne.symm hab)]; split <;> rfl
  | cons x r ih =>
    obtain ⟨k, w⟩ := x
    obtain ⟨h1, h2⟩ := List.pairwise_cons.mp h.1
    simp only [memPut]
    split
    · split
      · rfl
      · simp only [memGet]
        rw [if_neg (Ne.symm hab)]
        split
        · rw [if_neg (by omega), if_pos (by omega)]
        · rfl
    · split
      · subst a
        split
        · simp only [memGet]
          rw [if_neg (Ne.symm hab)]
          split
          · exact memGet_of_lt fun c hc => Nat.lt_trans ‹_› (h1 c hc)
          · rfl
        · simp only [memGet]
          rw [if_neg (Ne.symm hab), if_neg (Ne.symm hab)]
      · simp only [memGet]
        split
        · rfl
        · split
          · rfl
          · exact ih (Memory.wf_tail h)

end Sys2Proof.Machine
end

