-- ==== Sys2Proof/WellFormed.lean ====
section
/-! DEFINITION. What makes a command well formed: the bounds that its operands' types do not say. -/
namespace Sys2Proof

/-- A message of a queue pair: at least a 32 B header, at most 131,072 B (R330), in whole bytes. -/
def msgOk (m : List Byte) : Bool := decide (32 ≤ m.length) && decide (m.length ≤ 131072)

/-- The 256 B of a line (R287). -/
def lineOk (d : List Byte) : Bool := decide (d.length = 256)

/-- An atomic's address is aligned to its operand (R306). -/
def atomicOk (x : BitVec 36) : AtomicOp → Bool
  | .addI32 _ => decide (x.toNat % 4 = 0)
  | .addF32 _ => decide (x.toNat % 4 = 0)
  | .addI64 _ => decide (x.toNat % 8 = 0)
  | .swap64 _ => decide (x.toNat % 8 = 0)
  | .cas64 _ _ => decide (x.toNat % 8 = 0)

/-- A command is well formed. -/
def Instr.wf : Instr → Bool
  | .wbDirty _ _ d => lineOk d
  | .wrLine _ _ d _ => lineOk d
  | .wrPart _ _ _ d _ => lineOk d
  | .atomic _ x op _ => atomicOk x op
  | .snoopAck _ _ (some d) => lineOk d
  | .boardReadReturn _ d _ _ => decide (d.length = 64)
  | .gatherReq _ m _ => msgOk m
  | .gatherReply _ m _ => msgOk m
  | .addReq _ m _ => msgOk m
  | .addAccept _ m _ => msgOk m
  | .push _ m _ => msgOk m
  | .pushAccept _ m _ => msgOk m
  | .rdmaWriteReceive _ _ _ d _ => decide (1 ≤ d.length)
  | .startReady _ _ _ _ l => decide (l.length ≤ 4096)
  | _ => true

end Sys2Proof
end

