-- ==== Sys2Proof/Laws/PerInstr.lean ====
section
/-! SUPPORT. Facts of the commands as syntax, one lemma for each constructor. Family Syntax: no word of the opcode table spells
the command (the table gives the rows no bits), and its messages and lines, where it is well formed, have the lengths
that the ports give them. -/
namespace Sys2Proof.Laws

namespace Syntax

/-- The bytes that a command brings with it. -/
def payload : Instr → Option (List Byte)
  | .wbDirty _ _ d => some d
  | .wrLine _ _ d _ => some d
  | .wrPart _ _ _ d _ => some d
  | .snoopAck _ _ d => d
  | .boardReadReturn _ d _ _ => some d
  | .gatherReq _ m _ => some m
  | .gatherReply _ m _ => some m
  | .addReq _ m _ => some m
  | .addAccept _ m _ => some m
  | .push _ m _ => some m
  | .pushAccept _ m _ => some m
  | .rdmaWriteReceive _ _ _ d _ => some d
  | _ => none

/-- No word spells the command, and what a well-formed command brings is at least one byte and at most 131,072 bytes long, except an
RDMA write, which the message port bounds. -/
def Statement (i : Instr) : Prop :=
  (∀ n w, decodeTableWord n w ≠ some i) ∧
  (i.wf = true → ∀ d ∈ payload i, 1 ≤ d.length ∧ (d.length ≤ 131072 ∨ ∃ q k o e, i = .rdmaWriteReceive q k o d e))

theorem no_word (i : Instr) (n w : Nat) : decodeTableWord n w ≠ some i := by simp [decodeTableWord]

/-- A command that brings nothing with it. -/
theorem bare (i : Instr) (h : payload i = none) : Statement i := ⟨no_word i, fun _ d hd => by simp [h] at hd⟩

theorem registerWrite (off : BitVec 26) (w : AccW) (v : W64) : Statement (.registerWrite off w v) := bare _ rfl
theorem registerReadClear (off : BitVec 26) (acc : RegAcc) : Statement (.registerReadClear off acc) := bare _ rfl
theorem doorbellWrite (off : BitVec 25) (w : AccW) (v : W64) : Statement (.doorbellWrite off w v) := bare _ rfl
theorem doorbellSpaceFreed : Statement .doorbellSpaceFreed := bare _ rfl
theorem doorbellBufferTake : Statement .doorbellBufferTake := bare _ rfl
theorem contextReadReturn (ring : RingNo) : Statement (.contextReadReturn ring) := bare _ rfl
theorem commandFetchReturn (ring : RingNo) : Statement (.commandFetchReturn ring) := bare _ rfl
theorem admissionReadReturn (src : Src) : Statement (.admissionReadReturn src) := bare _ rfl
theorem admitCommand : Statement .admitCommand := bare _ rfl
theorem nop (t : TrackerId) : Statement (.nop t) := bare _ rfl
theorem mark (t : TrackerId) : Statement (.mark t) := bare _ rfl
theorem markPublish (t : TrackerId) : Statement (.markPublish t) := bare _ rfl
theorem wait (t : TrackerId) : Statement (.wait t) := bare _ rfl
theorem waitLimitTick (t : TrackerId) : Statement (.waitLimitTick t) := bare _ rfl
theorem waitLimitWrite (p : Part) (acc : RegAcc) (v : W64) : Statement (.waitLimitWrite p acc v) := bare _ rfl
theorem gatherPool (t : TrackerId) : Statement (.gatherPool t) := bare _ rfl
theorem keyedLookup (t : TrackerId) : Statement (.keyedLookup t) := bare _ rfl
theorem scatterAdd (t : TrackerId) : Statement (.scatterAdd t) := bare _ rfl
theorem scatterApply (t : TrackerId) : Statement (.scatterApply t) := bare _ rfl
theorem stream (t : TrackerId) : Statement (.stream t) := bare _ rfl
theorem versionSwitch (t : TrackerId) : Statement (.versionSwitch t) := bare _ rfl
theorem objectMove (t : TrackerId) : Statement (.objectMove t) := bare _ rfl
theorem clochePreload (t : TrackerId) : Statement (.clochePreload t) := bare _ rfl
theorem clocheUnlock (t : TrackerId) : Statement (.clocheUnlock t) := bare _ rfl
theorem completionRecordWrite (src : Src) : Statement (.completionRecordWrite src) := bare _ rfl
theorem irqHoldoffExpiry (p : Part) (g : Fin 64) : Statement (.irqHoldoffExpiry p g) := bare _ rfl
theorem xmarkWrite (p : Part) (i : BitVec 8) (acc : RegAcc) (v : W64) : Statement (.xmarkWrite p i acc v) := bare _ rfl
theorem arrXmarkWr (p : Part) (i : BitVec 8) (v : W64) : Statement (.arrXmarkWr p i v) := bare _ rfl
theorem partitionEnable (p : Part) : Statement (.partitionEnable p) := bare _ rfl
theorem partitionDisableDrain (p : Part) : Statement (.partitionDisableDrain p) := bare _ rfl
theorem partitionDisableStop (p : Part) : Statement (.partitionDisableStop p) := bare _ rfl
theorem partitionInitDone (p : Part) : Statement (.partitionInitDone p) := bare _ rfl
theorem partitionQuiesceDone (p : Part) : Statement (.partitionQuiesceDone p) := bare _ rfl
theorem ringEnable (p : Part) (ring : RingNo) : Statement (.ringEnable p ring) := bare _ rfl
theorem ringEnableDone (p : Part) : Statement (.ringEnableDone p) := bare _ rfl
theorem ringDisable (p : Part) (ring : RingNo) : Statement (.ringDisable p ring) := bare _ rfl
theorem ringDisableDone (p : Part) : Statement (.ringDisableDone p) := bare _ rfl
theorem dcmdWordWrite (p : Part) (v : W64) : Statement (.dcmdWordWrite p v) := bare _ rfl
theorem dcmdSpaceFreed (p : Part) : Statement (.dcmdSpaceFreed p) := bare _ rfl
theorem dcmdCplRead (p : Part) (acc : RegAcc) : Statement (.dcmdCplRead p acc) := bare _ rfl
theorem dcmdResync (p : Part) : Statement (.dcmdResync p) := bare _ rfl
theorem dcmdResume (p : Part) : Statement (.dcmdResume p) := bare _ rfl
theorem indexStreamLineReturn (t : TrackerId) (k : IdxStream) (line : BitVec 32) : Statement (.indexStreamLineReturn t k line) := bare _ rfl
theorem sieveEntryIntake (pipe : Fin 32) (word : EccErr) : Statement (.sieveEntryIntake pipe word) := bare _ rfl
theorem remapReadReturn (t : TrackerId) (x : W64) : Statement (.remapReadReturn t x) := bare _ rfl
theorem fanOutQueueFreed (pipe : Fin 32) : Statement (.fanOutQueueFreed pipe) := bare _ rfl
theorem sieveCtlWrite (acc : RegAcc) (v : W64) : Statement (.sieveCtlWrite acc v) := bare _ rfl
theorem formatBlockLoadDone (src : Src) : Statement (.formatBlockLoadDone src) := bare _ rfl
theorem srReseed (n : SliceId) (v : W64) : Statement (.srReseed n v) := bare _ rfl
theorem popCountReturn : Statement .popCountReturn := bare _ rfl
theorem epochScan : Statement .epochScan := bare _ rfl
theorem classMoveDone (k : Fin 64) : Statement (.classMoveDone k) := bare _ rfl
theorem slotReturn : Statement .slotReturn := bare _ rfl
theorem laneRowReference (lane : LaneId) (parityError : Bool) (word : EccErr) : Statement (.laneRowReference lane parityError word) := bare _ rfl
theorem laneFillReturn (lane : LaneId) (line : BitVec 48) (parityError : Bool) (word : EccErr) : Statement (.laneFillReturn lane line parityError word) := bare _ rfl
theorem fanOutEntry (lane : LaneId) (headerError parityError : Bool) (word : EccErr) : Statement (.fanOutEntry lane headerError parityError word) := bare _ rfl
theorem slicePartialArrive (n : SliceId) (word : EccErr) : Statement (.slicePartialArrive n word) := bare _ rfl
theorem rerunPlaceFreed : Statement .rerunPlaceFreed := bare _ rfl
theorem clocheAgeTick (n : SliceId) : Statement (.clocheAgeTick n) := bare _ rfl
theorem clocheFlush (n : SliceId) : Statement (.clocheFlush n) := bare _ rfl
theorem feedEnable (mask : W64) : Statement (.feedEnable mask) := bare _ rfl
theorem feedCredit (q : Fin 64) (count : BitVec 8) : Statement (.feedCredit q count) := bare _ rfl
theorem feedTileSend (q : Fin 64) : Statement (.feedTileSend q) := bare _ rfl
theorem feedTileAck (q : Fin 64) : Statement (.feedTileAck q) := bare _ rfl
theorem winnowBind (t : TrackerId) : Statement (.winnowBind t) := bare _ rfl
theorem winnowQueryReturn (t : TrackerId) : Statement (.winnowQueryReturn t) := bare _ rfl
theorem winnowSetScored (t : TrackerId) : Statement (.winnowSetScored t) := bare _ rfl
theorem winnowPairsSelected (t : TrackerId) : Statement (.winnowPairsSelected t) := bare _ rfl
theorem winnowWeightsDone (t : TrackerId) : Statement (.winnowWeightsDone t) := bare _ rfl
theorem subkeyFillStart : Statement .subkeyFillStart := bare _ rfl
theorem subkeyFillEnd (b : Fin 2) : Statement (.subkeyFillEnd b) := bare _ rfl
theorem winnowBypass : Statement .winnowBypass := bare _ rfl
theorem winnowReturn : Statement .winnowReturn := bare _ rfl
theorem winnowDrainDone : Statement .winnowDrainDone := bare _ rfl
theorem winnowReinitDone : Statement .winnowReinitDone := bare _ rfl
theorem gradientReadReturn (t : TrackerId) (bag : BitVec 21) (err : EccErr) : Statement (.gradientReadReturn t bag err) := bare _ rfl
theorem rakeMessageArrive (n : SliceId) (poisoned : Bool) (err word : EccErr) : Statement (.rakeMessageArrive n poisoned err word) := bare _ rfl
theorem rakeAck (n : SliceId) (lost : Bool) : Statement (.rakeAck n lost) := bare _ rfl
theorem rakeResendRequest (n : SliceId) : Statement (.rakeResendRequest n) := bare _ rfl
theorem rakeEndToken (n : SliceId) (err : EccErr) : Statement (.rakeEndToken n err) := bare _ rfl
theorem adderReadReturn (n : SliceId) : Statement (.adderReadReturn n) := bare _ rfl
theorem landingReport (n : SliceId) (t : TrackerId) : Statement (.landingReport n t) := bare _ rfl
theorem applyStateReturn (t : TrackerId) : Statement (.applyStateReturn t) := bare _ rfl
theorem streamSourceReturn (t : TrackerId) (parityError : Bool) (word : EccErr) : Statement (.streamSourceReturn t parityError word) := bare _ rfl
theorem streamReceiverAccept (t : TrackerId) (r : Fin 64) (parity : Option (Fin 4096)) (rereadError : Bool) : Statement (.streamReceiverAccept t r parity rereadError) := bare _ rfl
theorem catchupSlotBoundary (t : TrackerId) (r : Fin 64) : Statement (.catchupSlotBoundary t r) := bare _ rfl
theorem statBankFree (b : Fin 64) (k : Fin 2) : Statement (.statBankFree b k) := bare _ rfl
theorem statBankReadyAck (b : Fin 64) (k : Fin 2) : Statement (.statBankReadyAck b k) := bare _ rfl
theorem tokenWaitExpiry (t : TrackerId) (r : Fin 64) : Statement (.tokenWaitExpiry t r) := bare _ rfl
theorem earlyWorkStart (ring : RingNo) : Statement (.earlyWorkStart ring) := bare _ rfl
theorem objectRegister (p : Part) (h : W32) : Statement (.objectRegister p h) := bare _ rfl
theorem objectRetire (p : Part) (h : W32) : Statement (.objectRetire p h) := bare _ rfl
theorem objectRetireDone (p : Part) : Statement (.objectRetireDone p) := bare _ rfl
theorem objectClearTorn (p : Part) (h : W32) : Statement (.objectClearTorn p h) := bare _ rfl
theorem objectMoveChunkDone (t : TrackerId) : Statement (.objectMoveChunkDone t) := bare _ rfl
theorem objectMoveFinish (t : TrackerId) : Statement (.objectMoveFinish t) := bare _ rfl
theorem hbmReadReturn (granule : BitVec 46) (r : CheckResult) : Statement (.hbmReadReturn granule r) := bare _ rfl
theorem rowRemapDone (n : SliceId) (i : Fin 512) : Statement (.rowRemapDone n i) := bare _ rfl
theorem wcbWriteAccept (n : SliceId) : Statement (.wcbWriteAccept n) := bare _ rfl
theorem wcbAgeExpiry (n : SliceId) (granule : BitVec 46) : Statement (.wcbAgeExpiry n granule) := bare _ rfl
theorem mergeReadReturn (n : SliceId) (granule : BitVec 46) : Statement (.mergeReadReturn n granule) := bare _ rfl
theorem stackTempHigh (n : SliceId) : Statement (.stackTempHigh n) := bare _ rfl
theorem stackTempNormal (n : SliceId) : Statement (.stackTempNormal n) := bare _ rfl
theorem testAccessRequest (n : SliceId) : Statement (.testAccessRequest n) := bare _ rfl
theorem walkReadReturn (k : Fin 16) : Statement (.walkReadReturn k) := bare _ rfl
theorem faultRead (p : Part) (acc : RegAcc) : Statement (.faultRead p acc) := bare _ rfl
theorem faultRetry (p : Part) (id : BitVec 16) : Statement (.faultRetry p id) := bare _ rfl
theorem faultAbort (p : Part) (id : BitVec 16) : Statement (.faultAbort p id) := bare _ rfl
theorem xlatIndexPublish (p : Part) (v : W64) : Statement (.xlatIndexPublish p v) := bare _ rfl
theorem xlatInvalRange (p : Part) (gen : BitVec 16) (irq : Bool) : Statement (.xlatInvalRange p gen irq) := bare _ rfl
theorem xlatInvalAll (p : Part) (gen : BitVec 16) (irq : Bool) : Statement (.xlatInvalAll p gen irq) := bare _ rfl
theorem xlatInvalDone (p : Part) : Statement (.xlatInvalDone p) := bare _ rfl
theorem rdShared (a : Byte) (x : BitVec 36) (lost : Bool) : Statement (.rdShared a x lost) := bare _ rfl
theorem rdOwn (a : Byte) (x : BitVec 36) (lost : Bool) : Statement (.rdOwn a x lost) := bare _ rfl
theorem upgrade (a : Byte) (x : BitVec 36) (lost : Bool) : Statement (.upgrade a x lost) := bare _ rfl
theorem wbDirty (a : Byte) (x : BitVec 36) (data : List Byte) : Statement (.wbDirty a x data) := ⟨no_word _, fun h d hd => by
    simp only [Instr.wf, lineOk, decide_eq_true_eq] at h
    cases hd; omega⟩
theorem rdCur (a : Byte) (x : BitVec 36) (lost : Bool) : Statement (.rdCur a x lost) := bare _ rfl
theorem wrLine (a : Byte) (x : BitVec 36) (data : List Byte) (lost : Bool) : Statement (.wrLine a x data lost) := ⟨no_word _, fun h d hd => by
    simp only [Instr.wf, lineOk, decide_eq_true_eq] at h
    cases hd; omega⟩
theorem wrPart (a : Byte) (x : BitVec 36) (mask : BitVec 256) (data : List Byte) (lost : Bool) : Statement (.wrPart a x mask data lost) := ⟨no_word _, fun h d hd => by
    simp only [Instr.wf, lineOk, decide_eq_true_eq] at h
    cases hd; omega⟩
theorem atomic (a : Byte) (x : BitVec 36) (op : AtomicOp) (lost : Bool) : Statement (.atomic a x op lost) := bare _ rfl
theorem snoopAck (a : Byte) (x : BitVec 36) (data : Option (List Byte)) : Statement (.snoopAck a x data) := ⟨no_word _, fun h d hd => by
    cases hd
    simp only [Instr.wf, lineOk, decide_eq_true_eq] at h
    omega⟩
theorem snoopAbsent (a : Byte) (x : BitVec 36) : Statement (.snoopAbsent a x) := bare _ rfl
theorem grantHoldExpiry (x : BitVec 36) : Statement (.grantHoldExpiry x) := bare _ rfl
theorem flipToSharedDone (page : BitVec 15) : Statement (.flipToSharedDone page) := bare _ rfl
theorem flipToDeviceDone (page : BitVec 15) : Statement (.flipToDeviceDone page) := bare _ rfl
theorem windowEnable (base : BitVec 11) : Statement (.windowEnable base) := bare _ rfl
theorem windowDisable : Statement .windowDisable := bare _ rfl
theorem windowMove (base : BitVec 11) : Statement (.windowMove base) := bare _ rfl
theorem windowActionDone : Statement .windowActionDone := bare _ rfl
theorem biasFlipPage (page : BitVec 15) : Statement (.biasFlipPage page) := bare _ rfl
theorem biasReadPage (page : BitVec 15) : Statement (.biasReadPage page) := bare _ rfl
theorem biasFlipAll : Statement .biasFlipAll := bare _ rfl
theorem snoopTimeout (a : Byte) (x : BitVec 36) : Statement (.snoopTimeout a x) := bare _ rfl
theorem declareAgentDead (a : Byte) : Statement (.declareAgentDead a) := bare _ rfl
theorem deadAgentScanDone : Statement .deadAgentScanDone := bare _ rfl
theorem fabRetrain (high : Bool) : Statement (.fabRetrain high) := bare _ rfl
theorem fabHostReset : Statement .fabHostReset := bare _ rfl
theorem fabLinkLoss : Statement .fabLinkLoss := bare _ rfl
theorem fabResetScanDone : Statement .fabResetScanDone := bare _ rfl
theorem fabLinkReturn : Statement .fabLinkReturn := bare _ rfl
theorem boardReadReturn (granule : BitVec 46) (data : List Byte) (poisoned : Bool) (word : EccErr) : Statement (.boardReadReturn granule data poisoned word) := ⟨no_word _, fun h d hd => by
    simp only [Instr.wf, decide_eq_true_eq] at h
    cases hd; omega⟩
theorem boardWriteAck : Statement .boardWriteAck := bare _ rfl
theorem gatherReq (qp : BitVec 12) (msg : List Byte) (marked : Bool) : Statement (.gatherReq qp msg marked) := ⟨no_word _, fun h d hd => by
    simp only [Instr.wf, msgOk, Bool.and_eq_true, decide_eq_true_eq] at h
    cases hd; omega⟩
theorem gatherReply (qp : BitVec 12) (msg : List Byte) (marked : Bool) : Statement (.gatherReply qp msg marked) := ⟨no_word _, fun h d hd => by
    simp only [Instr.wf, msgOk, Bool.and_eq_true, decide_eq_true_eq] at h
    cases hd; omega⟩
theorem addReq (qp : BitVec 12) (msg : List Byte) (marked : Bool) : Statement (.addReq qp msg marked) := ⟨no_word _, fun h d hd => by
    simp only [Instr.wf, msgOk, Bool.and_eq_true, decide_eq_true_eq] at h
    cases hd; omega⟩
theorem addAccept (qp : BitVec 12) (msg : List Byte) (marked : Bool) : Statement (.addAccept qp msg marked) := ⟨no_word _, fun h d hd => by
    simp only [Instr.wf, msgOk, Bool.and_eq_true, decide_eq_true_eq] at h
    cases hd; omega⟩
theorem push (qp : BitVec 12) (msg : List Byte) (marked : Bool) : Statement (.push qp msg marked) := ⟨no_word _, fun h d hd => by
    simp only [Instr.wf, msgOk, Bool.and_eq_true, decide_eq_true_eq] at h
    cases hd; omega⟩
theorem pushAccept (qp : BitVec 12) (msg : List Byte) (marked : Bool) : Statement (.pushAccept qp msg marked) := ⟨no_word _, fun h d hd => by
    simp only [Instr.wf, msgOk, Bool.and_eq_true, decide_eq_true_eq] at h
    cases hd; omega⟩
theorem roceAckReceive (qp : BitVec 12) (psn : BitVec 24) : Statement (.roceAckReceive qp psn) := bare _ rfl
theorem roceNakReceive (qp : BitVec 12) (psn : BitVec 24) : Statement (.roceNakReceive qp psn) := bare _ rfl
theorem roceCnpReceive (qp : BitVec 12) : Statement (.roceCnpReceive qp) := bare _ rfl
theorem rdmaWriteReceive (qp : BitVec 12) (key : W32) (off : W32) (data : List Byte) (marked : Bool) : Statement (.rdmaWriteReceive qp key off data marked) := ⟨no_word _, fun h d hd => by
    simp only [Instr.wf, decide_eq_true_eq] at h
    cases hd; exact ⟨h, .inr ⟨_, _, _, _, rfl⟩⟩⟩
theorem ackTimeout (qp : BitVec 12) : Statement (.ackTimeout qp) := bare _ rfl
theorem cnpRateRecovery (qp : BitVec 12) : Statement (.cnpRateRecovery qp) := bare _ rfl
theorem qpEnable (qp : BitVec 12) : Statement (.qpEnable qp) := bare _ rfl
theorem qpReset (qp : BitVec 12) : Statement (.qpReset qp) := bare _ rfl
theorem nvmeConnect (slot : Byte) : Statement (.nvmeConnect slot) := bare _ rfl
theorem nvmeDisconnect (slot : Byte) : Statement (.nvmeDisconnect slot) := bare _ rfl
theorem nvmeResponse (slot : Byte) (key : W32) (status : BitVec 16) (lbaLog2 : BitVec 4) (nsBytes : W64) : Statement (.nvmeResponse slot key status lbaLog2 nsBytes) := bare _ rfl
theorem nvmeKeepAlive (slot : Byte) : Statement (.nvmeKeepAlive slot) := bare _ rfl
theorem nvmeTimeout (slot : Byte) (key : W32) : Statement (.nvmeTimeout slot key) := bare _ rfl
theorem portDown (e : Fin 8) : Statement (.portDown e) := bare _ rfl
theorem fecWindow (e : Fin 8) (codewords : BitVec 16) : Statement (.fecWindow e codewords) := bare _ rfl
theorem portLinkUp (e : Fin 8) : Statement (.portLinkUp e) := bare _ rfl
theorem portBypass (e : Fin 8) : Statement (.portBypass e) := bare _ rfl
theorem portReturn (e : Fin 8) : Statement (.portReturn e) := bare _ rfl
theorem portDrainDone (e : Fin 8) : Statement (.portDrainDone e) := bare _ rfl
theorem macsecKeyExhausted (e : Fin 8) : Statement (.macsecKeyExhausted e) := bare _ rfl
theorem sakImport : Statement .sakImport := bare _ rfl
theorem provisionTransportKey : Statement .provisionTransportKey := bare _ rfl
theorem generateBoardKey : Statement .generateBoardKey := bare _ rfl
theorem powerOnReset : Statement .powerOnReset := bare _ rfl
theorem engineReset : Statement .engineReset := bare _ rfl
theorem engineStart (recover : Bool) (sfdpDensity : BitVec 6) (failedTest : Byte) : Statement (.engineStart recover sfdpDensity failedTest) := bare _ rfl
theorem imageCheckDone : Statement .imageCheckDone := bare _ rfl
theorem startReady (failedSlices : Byte) (failedLanes : BitVec 256) (failedTraining failedTest : BitVec 256) (hardRepaired : List (SliceId × Fin 512)) : Statement (.startReady failedSlices failedLanes failedTraining failedTest hardRepaired) := bare _ rfl
theorem configLock : Statement .configLock := bare _ rfl
theorem nvmRead (addr : BitVec 24) : Statement (.nvmRead addr) := bare _ rfl
theorem nvmProgram (addr : BitVec 24) : Statement (.nvmProgram addr) := bare _ rfl
theorem nvmErase (addr : BitVec 24) : Statement (.nvmErase addr) := bare _ rfl
theorem nvmActionDone (flashError : Bool) : Statement (.nvmActionDone flashError) := bare _ rfl
theorem nvmBufWrite (v : W64) : Statement (.nvmBufWrite v) := bare _ rfl
theorem zeroise : Statement .zeroise := bare _ rfl
theorem zeroisePin : Statement .zeroisePin := bare _ rfl
theorem pufEnrol : Statement .pufEnrol := bare _ rfl
theorem entropyHealthFail : Statement .entropyHealthFail := bare _ rfl
theorem restHoldExpiry (u : RestUnit) : Statement (.restHoldExpiry u) := bare _ rfl
theorem dormantHoldExpiry : Statement .dormantHoldExpiry := bare _ rfl
theorem overwinterHoldExpiry : Statement .overwinterHoldExpiry := bare _ rfl
theorem sleepEntryStepDone : Statement .sleepEntryStepDone := bare _ rfl
theorem wakeTrigger (c : Wake) : Statement (.wakeTrigger c) := bare _ rfl
theorem fabWakeReq : Statement .fabWakeReq := bare _ rfl
theorem wakeDone : Statement .wakeDone := bare _ rfl
theorem ppmGrantChange (v : BitVec 10) : Statement (.ppmGrantChange v) := bare _ rfl
theorem powerWindow (energyNj : W32) : Statement (.powerWindow energyNj) := bare _ rfl
theorem fifoErrorWindow (c : Fin 8) : Statement (.fifoErrorWindow c) := bare _ rfl
theorem eventRead (fifo : Option Part) (acc : RegAcc) : Statement (.eventRead fifo acc) := bare _ rfl
theorem injectArm (cls : Fin 8) (p : Part) (kind : BitVec 2) : Statement (.injectArm cls p kind) := bare _ rfl
theorem winnowSelfTest : Statement .winnowSelfTest := bare _ rfl
theorem winnowSelfTestDone (failedBlock : Byte) : Statement (.winnowSelfTestDone failedBlock) := bare _ rfl
theorem laneReturn (n : SliceId) (l : Fin 32) : Statement (.laneReturn n l) := bare _ rfl
theorem laneOffline (n : SliceId) (l : Fin 32) : Statement (.laneOffline n l) := bare _ rfl
theorem laneSelfTest (n : SliceId) (l : Fin 32) : Statement (.laneSelfTest n l) := bare _ rfl
theorem laneDrainDone (n : SliceId) (l : Fin 32) : Statement (.laneDrainDone n l) := bare _ rfl
theorem laneSelfTestDone (n : SliceId) (l : Fin 32) (failedBlock : Byte) : Statement (.laneSelfTestDone n l failedBlock) := bare _ rfl
theorem sliceTakeOut (n : SliceId) : Statement (.sliceTakeOut n) := bare _ rfl
theorem sliceReturn (n : SliceId) : Statement (.sliceReturn n) := bare _ rfl
theorem sliceDrainDone (n : SliceId) : Statement (.sliceDrainDone n) := bare _ rfl
theorem sliceReturnDone (n : SliceId) (passed : Bool) : Statement (.sliceReturnDone n passed) := bare _ rfl
theorem sliceHeartbeat (answered : Byte) : Statement (.sliceHeartbeat answered) := bare _ rfl
theorem wcbWriteBackDone (n : SliceId) (granule : BitVec 46) (eccError : Bool) : Statement (.wcbWriteBackDone n granule eccError) := bare _ rfl
theorem waitMarkReadReturn (t : TrackerId) : Statement (.waitMarkReadReturn t) := bare _ rfl
theorem malformedRegisterRead (off : BitVec 26) (w : AccW) : Statement (.malformedRegisterRead off w) := bare _ rfl
theorem restWakeDone (u : RestUnit) : Statement (.restWakeDone u) := bare _ rfl
theorem fabLinkUpChange (up : Bool) : Statement (.fabLinkUpChange up) := bare _ rfl
theorem securityActionDone (flashError : Bool) : Statement (.securityActionDone flashError) := bare _ rfl
theorem powerLoss : Statement .powerLoss := bare _ rfl
theorem invalidRequestPacket (qp : BitVec 12) : Statement (.invalidRequestPacket qp) := bare _ rfl
theorem malformedMessage (qp : BitVec 12) (msg : List Byte) (marked : Bool) : Statement (.malformedMessage qp msg marked) := bare _ rfl
theorem macsecFrameDrop (e : Fin 8) : Statement (.macsecFrameDrop e) := bare _ rfl

end Syntax

end Sys2Proof.Laws
end

