-- ==== Sys2Proof/Tests/Slice0.lean ====
section
/-! SUPPORT. Tests of the model on small states: the ill-formed commands that the check refuses, small checks whose expected values are
worked out by hand from the spec's rules, and, for each clause of a statement that has hypotheses, a state and operands that meet all of
them. -/

namespace Sys2Proof.Tests

set_option linter.unusedVariables false
set_option Elab.async false

open Sys2Proof Sys2Proof.Machine

/-! Small states -/

/-- The block at READY, with channel 0 mapped. -/
def on : State :=
  { State.reset with
    boot := ⟨true, true, false, [], false, false, []⟩
    regs := [(⟨.jeStart, 0, 0⟩, 0x4000000000000000#64), (⟨.jeChMapped, 0, 0⟩, 1#64)] }

/-- A word of a command from fields: bit position and value. -/
def fields (l : List (Nat × Nat)) : Nat := l.foldl (fun n f => n + f.2 * 2 ^ f.1) 0

/-- A command from fields. -/
def cmd (l : List (Nat × Nat)) : Cmd := BitVec.ofNat 512 (fields l)

/-- Ring 0 of partition 0 with 64 slots, its context cached. -/
def ring0 : Ring := ⟨0, 0, .enabled, ⟨0x10000, 0x20000, 6, 0, 0, 0, false, 0, 0, 0, 0, 0⟩, true, 0, [], none, false, []⟩

/-- Partition 0's first gibibyte at the bottom of HBM. -/
def range0 : RangeEnt := ⟨0, 0, 0, 0, 2 ^ 30, 0, false, true, true, true, 0⟩

/-- Partition 0 ENABLED, with rings 0 to 31, ring 0 enabled, and a range cached. -/
def live : State := { ((on.setFld fJpStatus_STATE 1 0).setFld fJpRingRange_GROUPS 1 0) with rings := [ring0], rcache := [range0] }

/-- A command of partition 0's direct path in a tracker. -/
def trk (c : Cmd) (ph : TPhase) : Tracker :=
  ⟨0, 0, .direct 0, 0, c, true, ph, Marks.none, false, 0, 0, [], 0, 0, 0, false, [], [], 0, 0⟩

/-- The same command of ring 0. -/
def trkR (c : Cmd) (ph : TPhase) : Tracker := { trk c ph with src := .ring 0 }

/-- Partition 0 live with one command. -/
def withTrk (x : Tracker) : State := { live with trackers := [x] }

/-- Changes what partition 0 has for itself. -/
def withPart (f : PartSt → PartSt) : State := live.modPart 0 f

/-! Witnesses -/

/-- The value of an engine access that goes on. -/
def okOf {ε α : Type} {e : Except ε α} (h : e.toBool = true) : α :=
  match e, h with
  | .ok a, _ => a

theorem okGot {ε α : Type} {e : Except ε α} (h : e.toBool = true) : e = .ok (okOf h) := by
  cases e with
  | ok a => rfl
  | error a => cases h

theorem errGot {ε α : Type} [DecidableEq ε] {e : Except ε α} {x : ε}
    (h : (match e with | .error y => decide (y = x) | .ok _ => false) = true) : e = .error x := by
  cases e with
  | ok a => cases h
  | error a => rw [of_decide_eq_true h]

/-- A pair by its second part. -/
theorem pair {α β : Type} {p : α × β} {b : β} (h : p.2 = b) : p = (p.1, b) := Prod.ext rfl h

theorem okPair {ε α β : Type} {e : Except ε (α × β)} {b : β} (h : e.toBool = true) (hb : (okOf h).2 = b) : e = .ok ((okOf h).1, b) := by
  rw [← hb]; exact okGot h

theorem got {α : Type} {o : Option α} (h : o.isSome = true) : o = some (o.get h) := by
  cases o with
  | some a => rfl
  | none => cases h

/-- The block held in reset by its pin. -/
def off : State := { on with boot := { on.boot with running := false } }

/-! Worked examples and hand calculations from the spec's rules -/

/-- The placement example under R241: HBM offset 0x1234567800 with all 256 channels mapped. -/
theorem test_hash_all_channels : hashLine (List.range 256) 0x12345678 = some (232, 1193046) := by decide +kernel

/-- The same offset with global channel 100 mapped out. -/
theorem test_hash_channel_out : hashLine ((List.range 256).eraseIdx 100) 0x12345678 = some (223, 1197725) := by decide +kernel

/-- The doorbell example of the rings chapter: ring 70,000 of 1,024 slots, C at 0xFFFFFE80 and P at 0xFFFFFF00. -/
def ring70000 (p : W32) : State :=
  { ((((on.setFld fJpStatus_STATE 1 1).setFld fJpRingRange_FIRST_GROUP 2048 1).setFld fJpRingRange_GROUPS 2048 1)) with
    rings := [⟨70000, 1, .enabled, ⟨0, 0, 10, 0, 0, 0, false, 0, p, p, 0xFFFFFE80, 0⟩, true, p, [], none, false, []⟩] }

/-- The first two doorbells are accepted, the second to exactly 1,024 commands outstanding. -/
theorem test_doorbell_accepted :
    (((ring70000 0xFFFFFF00).dbApply 70000 0x230).ring 70000).map (fun r => r.ctx.produced) = some 0x230 ∧
    (((ring70000 0x230).dbApply 70000 0x280).ring 70000).map (fun r => r.ctx.produced) = some 0x280 := by decide +kernel

/-- The third would leave 1,025 outstanding: it is discarded and counted. -/
theorem test_doorbell_overrun :
    (((ring70000 0x280).dbApply 70000 0x281).ring 70000).map (fun r => r.ctx.produced) = some 0x280 ∧
    ((ring70000 0x280).dbApply 70000 0x281).fld fJpDbStat_OVERRUN 1 = 1 := by decide +kernel

/-- The quotient and remainder example under R75. -/
theorem test_quotient_remainder :
    Desc.mapIndex (BitVec.ofNat 1024 (fields [(59, 2), (64, 4096), (128, 10000000)])) 9876543 = .rows [(0, 0, 2411), (1, 0, 1087)] ∧
    Desc.mapIndex (BitVec.ofNat 1024 (fields [(59, 2), (64, 4096), (128, 10000000)])) 10000000 = .outOfRange := by decide +kernel

/-- The table of the integer pooling example under R101: one CB4 class, DIM 96, ESC_SLOTS 2, WFRAC 8, OFRAC 4. -/
def tabInt : Desc := BitVec.ofNat 1024 (fields [(63, 1), (384, 96), (400, 1), (404, 2), (408, 8), (414, 4), (512, 1), (516, 6)])

/-- Its format block: codes 0x2 and 0xD, column 40, group 1. -/
def blockInt : List Byte :=
  (((((((List.replicate 2264 0).set 0x42 0xD8).set 0x4D 64).set (0x840 + 40) 200).set (0x840 + 138) 0x80).set (0x840 + 139) 0x39).set
    (0x840 + 140) 1).set (0x840 + 142) 16

/-- 104 columns fit a granule, so a row is one granule. -/
theorem test_columns_of_granule : tabInt.segCols 0 64 = 104 ∧ tabInt.stride 0 = 64 := by decide +kernel

/-- The three products of column 40, the escape's among them, sum to -44,032. -/
theorem test_integer_pooling :
    ([(128, ColVal.code 0xD), (320, .code 2), (-512, .esc 0x40700000)].foldl
      (fun acc e => (accStep true 0 0 e.1 (tabInt.gridVal 0 blockInt 40 e.2) acc).1) 0).toInt = -44032 := by decide +kernel

/-- The rescale gives -134. -/
theorem test_rescale : rescale blockInt 96 40 (BitVec.ofInt 32 (-44032)) = (BitVec.ofInt 32 (-134), false) := by decide +kernel

/-- The stochastic rounding example under R105: 1 + 8,389 / 2^23 goes to BF16 1.0078125 for draws below 8,389 and to 1.0 else. -/
theorem test_stochastic_rounding :
    stochRound fmtBf16 0x3F8020C5 8388 = 0x3F81 ∧ stochRound fmtBf16 0x3F8020C5 8389 = 0x3F80 := by decide +kernel

/-- One step of R106's generator from state 1, by hand: 1 + 2^13, with 2^6 for the shift right, and both again 17 up. -/
theorem test_generator_step : xorshift 1 = 0x40822041 := by decide +kernel

/-- The mean square of the SCATTER_APPLY example under R185. -/
theorem test_mean_square : meanSquare [0x3F000000, 0xBF800000, 0x3E800000, 0] = 0x3EA80000 := by decide +kernel

/-- Its state becomes 1.0, and its factor is LR itself: 10^-8 is lost beside the square root. -/
theorem test_apply_factor : fadd 0x3F2C0000 0x3EA80000 = 0x3F800000 ∧
    fdiv 0x3C23D70A (fadd (fsqrt 0x3F800000) 0x322BCC77) = 0x3C23D70A := by decide +kernel

/-- The selection example under R158: the two greatest of four pairs, with their value indices. -/
theorem test_winnow_selection :
    topK 2 (pairsOf 4096 [(17, 0x41100000), (1203, 0x41000000)] [(300, 0x40D00000), (2048, 0x40C00000)]) =
      [(69932, 0x41780000), (71680, 0x41700000)] := by decide +kernel

/-- Of two indices, the one half the range ahead or more is behind (R28). -/
theorem test_behind : behind 0x80000000 0 = true ∧ behind 0x7FFFFFFF 0 = false ∧ behind 0 1 = true := by decide +kernel

/-! Ill-formed commands, one for each check -/

theorem test_line_short : (Instr.wbDirty 0 0 (List.replicate 255 0)).wf = false ∧ (Instr.wrLine 0 0 (List.replicate 257 0) false).wf = false ∧
    (Instr.wrPart 0 0 0 [] false).wf = false ∧ (Instr.snoopAck 0 0 (some [])).wf = false := by decide +kernel
theorem test_atomic_unaligned : (Instr.atomic 0 2 (.addI32 0) false).wf = false ∧ (Instr.atomic 0 6 (.addF32 0) false).wf = false ∧
    (Instr.atomic 0 4 (.addI64 0) false).wf = false ∧ (Instr.atomic 0 12 (.swap64 0) false).wf = false ∧ (Instr.atomic 0 1 (.cas64 0 0) false).wf = false := by
  decide +kernel
theorem test_granule_short : (Instr.boardReadReturn 0 (List.replicate 63 0) false .clean).wf = false := by decide +kernel
theorem test_message_short : (Instr.gatherReq 0 (List.replicate 31 0) false).wf = false ∧ (Instr.gatherReply 0 [] false).wf = false ∧
    (Instr.addReq 0 [] false).wf = false ∧ (Instr.addAccept 0 [] false).wf = false ∧ (Instr.push 0 [] false).wf = false ∧ (Instr.pushAccept 0 [] false).wf = false := by
  decide +kernel
theorem test_message_long : (Instr.push 0 (List.replicate 131073 0) false).wf = false := by
  simp only [Instr.wf, msgOk, List.length_replicate]; decide +kernel
theorem test_write_empty : (Instr.rdmaWriteReceive 0 0 0 [] false).wf = false := by decide +kernel
theorem test_repairs_too_many : (Instr.startReady 0 0 0 0 (List.replicate 4097 (0, 0))).wf = false := by
  simp only [Instr.wf, List.length_replicate]; decide +kernel

/-! States that the witnesses start from -/
/-- A table descriptor from fields. -/
def dsc (l : List (Nat × Nat)) : Desc := BitVec.ofNat 1024 (fields l)

/-- A table of 8 rows of two FP32 columns. -/
def tab0 : Desc := dsc [(0, 8), (63, 1), (384, 2), (512, 1), (520, 0x1000)]

/-- A mixed-width table: its rows are found through the remap array. -/
def tab4 : Desc := dsc [(0, 8), (59, 4), (63, 1), (64, 0x2000), (384, 2), (512, 1), (520, 0x1000), (576, 4)]

/-- A gather of one bag of two entries. -/
def gather : Cmd := cmd [(0, 0x10), (96, 1), (192, 0x3000), (384, 2)]

/-- The gather in its tracker, with its table pinned. -/
def gTrk (d : Desc) (ph : TPhase) : Tracker := { trk gather ph with pins := [⟨0, 0, d⟩], total := 2 }

/-- The gather's batch, its entries given. -/
def gBatch : Batch := newBatch 0 gather .pool true

/-- Its bag, of the entries given. -/
def gBag (l : List (W64 × W32)) : Bag := { newBag 0 0 0 l.length l true with reserved := true, slices := 1 }

/-- The gather of a table running, with its bag at the head of pipeline 0. -/
def pooling (d : Desc) (l : List (W64 × W32)) (next : Nat) : State :=
  { withTrk (gTrk d .running) with
    batches := [gBatch], bags := [gBag l], pipes := live.pipes.set 0 [⟨0, 0, next, false⟩] }

/-- Work for lane 0: the first row of the table. -/
def work0 (fan : Bool) : LaneWork := ⟨0, fan, 0, 0, ⟨0x100000, 64, 1, 0, 2, 0, 0, none⟩, 0x3F800000, [], [(0x100000, 1)], false, false⟩

/-- Its line in lane 0's Cloche. -/
def cloche0 : ClocheEnt := ⟨0, 0, 0, 0x1000, 1, none, false, 0, 0⟩

/-- The gather running with work for lane 0. -/
def laning (fan : Bool) (cl : List ClocheEnt) : State := { pooling tab0 [(0, 0x3F800000)] 0 with laneQ := [work0 fan], cloche := cl }

/-- A keyed layer: two sets of two sub-keys of 32 values, a temperature of 1, one head to a bag. -/
def layer0 : BitVec 512 := BitVec.ofNat 512 (fields [(0, 2), (16, 2), (32, 32), (63, 1), (72, 0x40), (128, 0x3F800000)])

/-- The lookup in the Winnow. -/
def keyed0 (bank : Option (Fin 2)) (st : HeadStage) : KeyedCmd := ⟨0, 5, layer0, 2, 0x6000, 2, bank, false, 0, st, [], [], [], [], [], false, []⟩

/-- Its tracker. -/
def kTrk : Tracker := { trk (cmd [(0, 0x18)]) .running with pins := [⟨0, 0, tab0⟩], total := 2 }

/-- The block with the lookup and a bank in a state. -/
def keying (k : KeyedCmd) (st : BankState) : State :=
  { withTrk kTrk with keyed := [k], banks := live.banks.set 1 ⟨st, 0, 5, 0x4000, List.replicate 128 0x3F80, [], false⟩ }

/-- A stream of one run of 64 bytes. -/
def strm : BitVec 1024 := BitVec.ofNat 1024 (fields [(6, 0x1000), (64, 64), (96, 1), (100, 3), (108, 16)])

/-- A receiver of a kind. -/
def rcv (kind : Nat) : Receiver := ⟨kind, 0x50000, 63, 0, 0, none, false, false, false, false, false, false, false, none, false, none, []⟩

/-- The stream's command with receivers and slots. -/
def strmCmd (t : Option TrackerId) (rs : List Receiver) (sl : List SSlot) : StreamCmd := ⟨t, none, 0, 5, strm, rs, sl, 0, 0, false, false, none, false, []⟩

/-- Its tracker. -/
def sTrk (ph : TPhase) : Tracker := trk (cmd [(0, 0x30), (64, 5)]) ph

/-- The block with the stream running. -/
def streaming (rs : List Receiver) (sl : List SSlot) : State := { withTrk (sTrk .running) with streams := [strmCmd (some 0) rs sl] }

/-- A SCATTER_ADD of one bag, its gradients at 0x7000. -/
def scat : Cmd := cmd [(0, 0x20), (96, 1), (320, 0x7000), (384, 1)]

/-- The same in its tracker. -/
def scTrk : Tracker := { trk scat .running with pins := [⟨0, 0, tab0⟩], total := 2 }

/-- The Rake's command. -/
def scatter0 : Scatter := ⟨0, false, [], [], [], true, 128, 128, 0, false, [], []⟩

/-- The scatter running, its one bag whole. -/
def scattering : State := { withTrk scTrk with batches := [newBatch 0 scat .scatter true], bags := [{ gBag [] with token := true }], scatters := [scatter0] }

/-- A SCATTER_APPLY of one row. -/
def apTrk : Tracker := { trk (cmd [(0, 0x21), (192, 0x7000), (256, 0x8000), (320, 1)]) .running with pins := [⟨0, 0, tab0⟩], total := 2 }

/-- The Rake's apply with its row. -/
def apply0 (r : ApplyRow) : Apply := ⟨0, 0, 0, 0, 0, 0, [r], false⟩

/-- A mixed-width table with popularity counts. -/
def tabP : Desc := tab4 ||| dsc [(401, 1), (454, 0x240), (608, 5)]

/-- The engine's own move of a row within class 0. -/
def move0 : RowMove := ⟨63, 0, 0, 7, 0, 1, 0, 2, true, tabP⟩

/-- An object of one page. -/
def obj0 : Obj := ⟨0, 0, 0, 4096, 0, 0, false, false, 0, 0, false, false, false⟩

/-- An object move of it. -/
def objMove (issued finishing : Bool) : Move := ⟨0, 0, 0, 0, issued, finishing, 0, 0, []⟩

/-- The move in its tracker. -/
def mTrk (ph : TPhase) : Tracker := trk (cmd [(0, 0x41)]) ph

/-- A write of 64 bytes to HBM. -/
def write0 : WrReq := ⟨0x5000, List.replicate 64 1, false, 0, none, 0, false, true, false, none, [], false, false, false, false⟩

/-- An entry of the write-combining buffer on its way. -/
def wcb0 : WcbEnt := ⟨0, 0x140, BitVec.allOnes 64, 0, false, some 0, false, .writing, true, 0⟩

/-- An open fault record. -/
def fault0 : FaultRec := ⟨9, 1, 0, .noRange, 0x10, 0, true, 0, 0, 0, 0, true, 0⟩

/-- A whole invalidation. -/
def invAll : Inval := ⟨none, [], 0, false⟩


/-- Remap entries of slice 0, each ACTIVE and for bank 0 of channel 0. -/
def activeEntries (l : List Nat) : List (RegRef × W64) := l.map fun i => (⟨.jsRemap, 0, i⟩, 0x8000000000000000)

/-- Every remap entry of slice 0 is such an entry. -/
def remapped : State := { State.reset with regs := activeEntries (List.range 512) }

theorem activeEntries_get (j : Nat) (d : W64) (l : List Nat) (h : j ∈ l) : getAssoc (activeEntries l) ⟨.jsRemap, 0, j⟩ d = 0x8000000000000000 := by
  induction l with
  | nil => cases h
  | cons a l ih =>
    by_cases ha : a = j
    · subst ha; simp [activeEntries, getAssoc]
    · have hj : j ∈ l := by simpa [Ne.symm ha] using h
      simpa [activeEntries, getAssoc, ha] using ih hj

theorem withRegs (s : State) (l : List (RegRef × W64)) : ({ s with regs := l } : State).regs = l := rfl

theorem reset_remap (j : Nat) : State.reset.reg .jsRemap 0 j = 0 := rfl

theorem remapped_bits (j : Nat) (h : j < 512) : bitsOf (remapped.reg .jsRemap 0 j) 62 2 = 2 := by
  rw [State.reg, remapped, withRegs, activeEntries_get j _ _ (List.mem_range.2 h)]; decide +kernel

theorem neOf {α : Type} {a b c : α} (h : a = b) (hn : b ≠ c) : a ≠ c := fun e => hn (h.symm.trans e)

theorem reset_entry {v : W64} (hv : v ∈ (List.range 512).map fun i => State.reset.reg .jsRemap 0 i) : bitsOf v 62 2 ≠ 1 := by
  obtain ⟨j, _, rfl⟩ := List.mem_map.1 hv
  exact neOf (congrArg (bitsOf · 62 2) (reset_remap j)) (by decide)

theorem remapped_entry {v : W64} (hv : v ∈ (List.range 512).map fun i => remapped.reg .jsRemap 0 i) : bitsOf v 62 2 ≠ 1 := by
  obtain ⟨j, hj, rfl⟩ := List.mem_map.1 hv
  exact neOf (remapped_bits j (List.mem_range.1 hj)) (by decide)
/-- The coherent window enabled at the bottom of HBM, every agent a caching agent, page 0 with a bias. -/
def window (b : Bias) : State :=
  { (live.setFld fJeWinCtl_ENABLED 1) with
    regs := (live.setFld fJeWinCtl_ENABLED 1).regs ++ (List.range 4).map fun k => (⟨.jeFabAgents, k, 0⟩, BitVec.allOnes 64)
    pages := [(0, b)] }

/-- Line 0 owned by agent 255. -/
def owned : TrEnt := ⟨0, 0, 0, 0, .x, false, [255], none, [], 0⟩

/-- A transaction on line 0 that waits for agent 255. -/
def txn0 : Txn := ⟨0, some 1, .rdShared, [(255, .share)], false, false, false, some 255, 0, false⟩

/-- A configured block. -/
def lockedOn : State := live.setFld fJeCfgLock_LOCKED 1

/-- A queue pair's context with a role. -/
def qctx (role : Nat) : BitVec 1024 := BitVec.ofNat 1024 (fields [(32, 1), (61, role), (63, 1), (285, 1), (288, 1)])

/-- A queue pair in use. -/
def qp0 (i : BitVec 12) (role : Nat) (out : List RemoteReq) : QP := ⟨i, qctx role, .rts, 0, 5, 3, 0, 0, 0, out⟩

/-- A message of one header. -/
def msg (typ status flags : Byte) : List Byte := [typ, 1, status, flags] ++ List.replicate 28 0

/-- A request that is not answered. -/
def req0 (typ : Nat) : RemoteReq := ⟨0, typ, 0, 0, [], 0, 0, 0, false⟩

/-- The block with a queue pair for requests. -/
def paired (out : List RemoteReq) : State := { live with qps := [qp0 4095 0 out] }

/-- A namespace slot at a connect step. -/
def slot0 (state stage : Nat) (reads : List NvmeRead) : NvmeSlot := ⟨255, BitVec.ofNat 512 (fields [(0, 9), (12, 2), (24, 1), (63, 1)]), state, stage, reads, 0⟩

/-- A Read outstanding. -/
def read0 : NvmeRead := ⟨7, 0, 0, 64, List.replicate 64 0, 0, false, none⟩

/-- The block with a namespace slot and its two queue pairs. -/
def remote (l : List NvmeSlot) : State := { lockedOn with qps := [qp0 1 1 [], qp0 2 2 []], nvme := l }

/-- A walk of partition 0 for address 0, over key lines from 0x4000 up. -/
def walk0 (lo hi : Nat) (entry : Option Nat) : Walk := ⟨0, 0, 0, [], 0x4000, lo, hi, entry, false⟩

/-- Partition 0 with such a walk over some memory. -/
def walking (lo hi : Nat) (entry : Option Nat) (m : List Host.Cell) : State := { live with walks := [walk0 lo hi entry], mem := m }

/-- The block with a key record to act on. -/
def importing (s : State) (r : List W64) : State := { s with sec := { s.sec with rec_ := some r } }

/-- A grant of 300 half watts is in force, with hysteresis 0, at a level. -/
def arbiter (l : Nat) : State :=
  (((on.setFld fJePwrArb_GRANT 300).setFld fJePwrArb_HYST 0).setFld fJePwrArb_LEVEL l).setFld fJePwrArb_REQ_CAP 680

/-- Flash bytes of a small image, as the flash stores them, in the slot at an address. -/
def image0 (a : Nat) : List Host.Cell :=
  [(0, 0xC3), (1, 0xA5), (2, 0x13), (3, 0x1E), (4, 1), (5, 0), (6, 1), (7, 0), (8, 0), (9, 4), (10, 0), (11, 0), (16, 0), (168, 0)].map fun y =>
    (a + y.1, ~~~(BitVec.ofNat 8 y.2))

/-- The block at its start, with the image in the slot at an address. -/
def starting (a : Nat) : State := { on.setFld fJeStart_STATE 0 with flash := image0 a }

/-- The image is accepted where its two signatures verify. -/
theorem starting_accepts (s : State) (rd : Nat → Byte) (hc : imgCertOk rd = true) (hs : imgSigOk rd = true)
    (h : s.boot.noFlash = false ∧ s.fld fJeSecStatus_SELFTEST_FAIL ≠ 1 ∧ imgHeaderOk rd = true ∧ imgSectionsOk rd = true ∧
      imgBoardKey rd = 0 ∧ (regTypes.flatMap (imgRecords rd)).all recordOk = true ∧ (imgRepairs rd).all repairOk = true ∧
      imgKeys rd = [] ∧ imgNat rd 0xA8 1 % 2 = 0) : s.imageReason rd = 0 := by
  obtain ⟨hf, ht, hh, hsec, hb, hr, hp, hk, hm⟩ := h
  have hko : imgKeysOk rd s.sec.kDev = true := by simp [imgKeysOk, hk]
  unfold State.imageReason
  simp [hf, ht, hh, hc, hs, hsec, hb, hr, hp, hk, hko, hm]

/-- A record whose key unwraps brings that key. -/
theorem sak_of_key (s : State) (r : List W64) (kek key : List Byte) (hz : s.zeroised = false)
    (hw : ¬(bitsOf (recWord r 0) 60 4 ≠ 1 ∨ bitsOf (recWord r 0) 0 49 ≠ 0 ∨ ((!bitOf (recWord r 0) 56) ∧ bitsOf (recWord r 0) 52 4 ≠ 0)))
    (ht : s.sec.transport = some kek) (hs : s.sec.saks = []) (hk : Config.kwUnwrap kek (recBytes r 1) = some key) :
    ∃ k, s.sakResult r = .ok k := by
  have hw' : bitsOf (recWord r 0) 60 4 = 1 ∧ bitsOf (recWord r 0) 0 49 = 0 ∧ (bitOf (recWord r 0) 56 = false → bitsOf (recWord r 0) 52 4 = 0) := by
    simpa using hw
  unfold State.sakResult
  simp only [hz, ht, hs, hk, hw'.1, hw'.2.1]
  cases hb : bitOf (recWord r 0) 56
  · simp [hw'.2.2 hb]
  · simp

/-- The lock checks pass. -/
theorem lock_ok (s : State)
    (h : s.fld fJeStart_IMAGE ≠ 0 ∧ s.locked = false ∧ s.badRange = none ∧ sumParts (fun p => max 4096 (s.fld fJpSieveQuota_MIN p)) ≤ 1048576 ∧
      sumParts (fun p => s.fld fJpClocheLock_LIMIT p) ≤ 32 ∧ sumParts (fun p => s.fld fJpStreamQuota_MIN p) ≤ 128 ∧
      sumParts (fun p => min 256 (s.fld fJpBwCtl_FG_SHARE p)) + s.fld fJeBwCtl_HOST_SHARE + s.fld fJeBwCtl_BG_MIN ≤ 256 ∧
      sumParts (fun p => s.fld fJpXlatCtl_CACHE_MIN p) ≤ 256 ∧ s.fld fJeSecCtl_PLAIN_GIB ≤ s.fld fJePhysMap_BOARD_GIB) :
    s.lockFault = none := by
  obtain ⟨h8, h9, h1, h2, h3, h4, h5, h6, h7⟩ := h
  unfold State.lockFault
  rw [if_neg h8, if_neg (by simp [h9]), h1]
  simp only [Nat.not_lt.2 h2, Nat.not_lt.2 h3, Nat.not_lt.2 h4, Nat.not_lt.2 h5, Nat.not_lt.2 h6, Nat.not_lt.2 h7, if_false]

/-- A WAIT of partition 0 for external mark 7 to reach 5, and the write of that mark queued. -/
def waiting : State :=
  { withTrk (trk (cmd [(0, 2), (68, 1), (96, 7), (128, 5)]) .running) with pending := [.xmarkWrite 0 7 .full 5] }

theorem waiting_blocked : waiting.waitsBlocked := by
  intro x hx _ _ v hv
  have hx : x = trk (cmd [(0, 2), (68, 1), (96, 7), (128, 5)]) .running := List.mem_singleton.1 hx
  subst hx
  have hw : waiting.waitValue (trk (cmd [(0, 2), (68, 1), (96, 7), (128, 5)]) .running).cmd = some 0 := by decide +kernel
  rw [hw] at hv
  cases hv
  decide +kernel

/-- The same state with the mark at a value. -/
def marked (v : W64) : State := waiting.setReg .jpXmark v 0 7

/-- The same state while page 0 of the window, at the bottom of HBM, flips to SHARED. -/
def flips (s : State) : State := { s with regs := (window .toShared).regs, pages := [(0, .toShared)] }

/-! Each clause of a statement that has hypotheses is met -/

/-- States and operands that meet the hypotheses of Obligations.RegisterAccesses, clause by clause. -/
theorem meets_registerAccesses :
    (∃ (s : State) (x : RegRef), x.valid ∧ s.serving ∧ s.sliceGone x = false ∧ x.reg.plain = true) ∧
    (∃ (s : State) (r : RegId), s.serving ∧ isDir r = true) ∧
    (∃ (s : State) (x : RegRef), x.valid ∧ s.serving ∧ s.sliceGone x = false ∧ x.reg.fifo = false ∧ x.reg.timed = false) ∧
    (∃ (s : State) (off : BitVec 26) (w : AccW), s.serving ∧ off.toNat < 0x2000000 ∧ accOf off.toNat w = none) :=
  ⟨⟨on, ⟨.jeBwCtl, 0, 0⟩, ⟨by decide, (by decide : (0 : Nat) < 1 ∧ (0 : Nat) = 0)⟩, by decide +kernel⟩,
   ⟨on, .jpShardDir, by decide +kernel⟩,
   ⟨on, ⟨.jsRemap, 7, 511⟩, ⟨by decide, (by decide : (7 : Nat) < 8)⟩, by decide +kernel⟩,
   ⟨on, 0, .w8, by decide +kernel⟩⟩

/-- States and operands that meet the hypotheses of Obligations.FieldsStored, clause by clause. -/
theorem meets_fieldsStored :
    (∃ (s : State) (x : RegRef) (acc : RegAcc) (v : W64), x.valid ∧ s.serving ∧ s.sliceGone x = false ∧
      (wholeOnly x.reg = false ∨ acc = .full) ∧ isDir x.reg = false ∧ x.reg ≠ .jpXmark ∧ x.reg ≠ .jpXlatIndex ∧
      (needsLock x.reg = true → s.locked = true) ∧ actionOf x.reg (accPos acc v) ≠ 0 ∧ s.regBusy x = true) ∧
    (∃ (s : State) (x : RegRef) (acc : RegAcc) (v : W64),
    let y := s.tried x acc v
    x.valid ∧ s.serving ∧ s.sliceGone x = false ∧ (wholeOnly x.reg = false ∨ acc = .full) ∧ isDir x.reg = false ∧ x.reg ≠ .jpXmark ∧
      x.reg ≠ .jpXlatIndex ∧ (needsLock x.reg = true → s.locked = true) ∧ actionOf x.reg (accPos acc v) ≠ 0 ∧ s.regBusy x = false ∧
      y.actRefused x = true) ∧
    (∃ (s : State) (x : RegRef) (acc : RegAcc) (v : W64),
    let y := s.tried x acc v
    x.valid ∧ s.serving ∧ s.sliceGone x = false ∧ (wholeOnly x.reg = false ∨ acc = .full) ∧ isDir x.reg = false ∧ x.reg ≠ .jpXmark ∧
      x.reg ≠ .jpXlatIndex ∧ (needsLock x.reg = true → s.locked = true) ∧ actionOf x.reg (accPos acc v) ≠ 0 ∧ s.regBusy x = false ∧
      y.actRefused x = false) ∧
    (∃ (x : RegRef) (b f : Fld) (k : Nat) (g : Fld), busyOf x.reg = some (b, some (f, k)) ∧ x.j = 0 ∧ g.reg = x.reg ∧
      (g.lo + g.len ≤ f.lo ∨ f.lo + f.len ≤ g.lo)) ∧
    (∃ x y : RegRef, y ≠ x) ∧
    (∃ s : State, s.locked = false) :=
  ⟨⟨on.setFld fJeInject_BUSY 1, ⟨.jeInject, 0, 0⟩, .hi, 0x40000000, ⟨by decide, (by decide : (0 : Nat) < 1 ∧ (0 : Nat) = 0)⟩,
    by decide +kernel⟩,
   ⟨on, ⟨.jeInject, 0, 0⟩, .full, 0x4000000000000000, ⟨by decide, (by decide : (0 : Nat) < 1 ∧ (0 : Nat) = 0)⟩, by decide +kernel⟩,
   ⟨on, ⟨.jeInject, 0, 0⟩, .full, 0x4007000000000000, ⟨by decide, (by decide : (0 : Nat) < 1 ∧ (0 : Nat) = 0)⟩, by decide +kernel⟩,
   ⟨⟨.jeInject, 0, 0⟩, fJeInject_BUSY, fJeInject_RESULT, 2, fJeInject_BUSY, by decide +kernel⟩,
   ⟨⟨.jeSieveCtl, 0, 0⟩, ⟨.jeSieveCtl, 1, 0⟩, by decide +kernel⟩,
   ⟨on, by decide +kernel⟩⟩

/-- States and operands that meet the hypotheses of Obligations.Doorbells, clause by clause. -/
theorem meets_doorbells :
    (∃ (s : State) (r : RingNo) (w : AccW), s.serving ∧ (w = .w32 ∨ w = .w64) ∧ s.ringOwner r.toNat = none) ∧
    (∃ (s : State) (r : RingNo) (w : AccW) (p : _), s.serving ∧ (w = .w32 ∨ w = .w64) ∧ s.ringOwner r.toNat = some p ∧
      (s.partEnabled p = false ∨ s.ring r = none)) ∧
    (∃ (s : State) (r : RingNo) (w : AccW) (p x : _), s.serving ∧ (w = .w32 ∨ w = .w64) ∧ s.ringOwner r.toNat = some p ∧
      s.partEnabled p = true ∧ s.ring r = some x ∧ x.cached = false) ∧
    (∃ (s : State) (r : RingNo) (w : AccW) (p x : _), s.serving ∧ (w = .w32 ∨ w = .w64) ∧ s.ringOwner r.toNat = some p ∧
      s.partEnabled p = true ∧ s.ctxAt r x) ∧
    (∃ (s : State) (off : BitVec 25), s.serving ∧ 8 ≤ off.toNat % 128) ∧
    (∃ (s : State) (off : BitVec 25) (w : AccW), s.serving ∧ off.toNat % 128 < 8 ∧ ¬(off.toNat % 128 = 0 ∧ (w = .w64 ∨ w = .w32))) ∧
    (∃ (s : State) (r : RingNo) (n : W32), s.dbWait.find? (fun e => (s.ring e.1).any (·.cached)) = some (r, n) ∧
      (s.dbBuf.length < 8192 ∨ ∃ e ∈ s.dbBuf, e.1 = r)) ∧
    (∃ (s : State) (r : RingNo) (n : W32) (rest : List (RingNo × W32)) (p : _), s.dbBuf = (r, n) :: rest ∧ s.ringOwner r.toNat = some p ∧
      s.ring r = none) ∧
    (∃ (s : State) (r : RingNo) (n : W32) (rest : List (RingNo × W32)) (x : _), s.dbBuf = (r, n) :: rest ∧ s.ring r = some x ∧
      x.cached = false) ∧
    (∃ (s : State) (r : RingNo) (n : W32) (rest : List (RingNo × W32)) (p x : _), s.dbBuf = (r, n) :: rest ∧ s.ringOwner r.toNat = some p ∧
      s.ctxAt r x) :=
  ⟨⟨on, 0, .w32, by decide +kernel⟩,
   ⟨live, 31, .w32, 0, by decide +kernel⟩,
   ⟨{ live with rings := [{ ring0 with cached := false }] }, 0, .w64, 0, { ring0 with cached := false }, by decide +kernel⟩,
   ⟨live, 0, .w32, 0, ring0, by decide +kernel⟩,
   ⟨on, 33554431, by decide +kernel⟩,
   ⟨on, 0, .w8, by decide +kernel⟩,
   ⟨{ live with dbWait := [(0, 1)], dbBuf := List.replicate 8192 (0, 5) }, 0, 1, by decide +kernel⟩,
   ⟨{ live with dbBuf := [(31, 1)] }, 31, 1, [], 0, by decide +kernel⟩,
   ⟨{ live with dbBuf := [(0, 1)], rings := [{ ring0 with cached := false }] }, 0, 1, [], { ring0 with cached := false },
     by decide +kernel⟩,
   ⟨{ live with dbBuf := [(0, 64)] }, 0, 64, [], 0, ring0, by decide +kernel⟩⟩

/-- States and operands that meet the hypotheses of Obligations.ContextAndCommandFetch, clause by clause. -/
theorem meets_contextAndCommandFetch :
    (∃ (s : State) (r : RingNo) (x : Ring),
    let s1 : State := { s with ctxReads := s.ctxReads.filter fun q => decide (q ≠ r) }
    r ∈ s.ctxReads ∧ s.ring r = some x ∧ s1.jReadOk (.fetch r) (s1.ctxAddr r) = (s1, true) ∧ s1.rdPoison (s1.ctxAddr r) 64 = true) ∧
    (∃ (s : State) (r : RingNo) (x : Ring),
    let s1 : State := { s with ctxReads := s.ctxReads.filter fun q => decide (q ≠ r) }
    r ∈ s.ctxReads ∧ s.ring r = some x ∧ s1.jReadOk (.fetch r) (s1.ctxAddr r) = (s1, true) ∧ s1.rdPoison (s1.ctxAddr r) 64 = false ∧
      (s.ctxLru.filter fun y => decide (y ≠ r)).length < 4096) ∧
    (∃ (s : State) (r v : RingNo) (l : List RingNo) (y : Ring),
    let s1 : State := { s with
      ctxLru := r :: l
      rings := updFirst (fun y => decide (y.no = r)) (fun y => { y with cached := true }) s.rings }
    s.ctxLru.filter (fun y => decide (y ≠ r)) = l ++ [v] ∧ l.length = 4095 ∧ s1.ring v = some y) ∧
    (∃ (s t : State) (r : RingNo) (x : Ring) (ph : Nat) (h : W32), s.ctxAt r x ∧ x.fetchCount ≠ 0 ∧ x.ctx.halted = false ∧
      x.phase = .enabled ∧ s.srcParked x.part (.ring r) = false ∧
      (s.ctxUsed r).look x.part (.fetch r) (x.ctx.cmdBase.toNat + x.nextFetch.toNat % x.ctx.size * 64) .read = (t, some (ph, h)) ∧ (∀ i,
      i < x.fetchCount → t.granPoison (ph / 64 + i) = false)) :=
  ⟨⟨{ live with ctxReads := [0], poison := [0] }, 0, ring0, by decide +kernel⟩,
   ⟨{ live with ctxReads := [0], ctxLru := [5, 0, 7] }, 0, ring0, by decide +kernel⟩,
   ⟨{ live with ctxLru := List.replicate 4096 0 }, 1, 0, List.replicate 4095 0, ring0,
     (List.filter_replicate_of_pos (by decide +kernel)).trans List.replicate_succ', List.length_replicate, by decide +kernel⟩,
   (let s : State := { live with rings := [{ ring0 with ctx := { ring0.ctx with produced := 3 } }] }
    let r : RingNo := 0
    let x : Ring := { ring0 with ctx := { ring0.ctx with produced := 3 } }
    let t : State := ((s.ctxUsed r).look x.part (.fetch r) (x.ctx.cmdBase.toNat + x.nextFetch.toNat % x.ctx.size * 64) .read).1
    ⟨s, t, r, x, 0x10000, 0, by decide +kernel⟩)⟩

/-- States and operands that meet the hypotheses of Obligations.PartitionControl, clause by clause. -/
theorem meets_partitionControl :
    (∃ (s : State), s.serving ∧ s.locked = false) ∧
    (∃ (s : State) (p : Part), s.serving ∧ s.locked = true ∧ s.partDisabled p = true) ∧
    (∃ (s : State) (p : Part), s.serving ∧ s.locked = true ∧ s.partQuiescing p = true) ∧
    (∃ (s : State) (p : Part), s.serving ∧ s.locked = true ∧ s.partEnabled p = true) ∧
    (∃ (s : State) (p : Part), (s.part p).parked = []) ∧
    (∃ (s : State) (p : Part), (∀ x ∈ s.trackers, x.part ≠ p) ∧ (∀ a ∈ s.admReads, a.aborted = false)) ∧
    (∃ (s : State) (p : Part), s.partQuiescing p = true ∧ (∀ x ∈ s.trackers, x.part ≠ p) ∧ (s.part p).dcmd = [] ∧ (∀ x ∈ s.rings,
      x.part = p → x.drained = true ∧ s.recordOut x.no = false)) ∧
    (∃ (s : State) (p : Part), s.partQuiescing p = true ∧ ((∃ x ∈ s.trackers, x.part = p) ∨ (s.part p).dcmd ≠ [] ∨ (∃ x ∈ s.rings,
      x.part = p ∧ (x.drained = false ∨ s.recordOut x.no = true)))) ∧
    (∃ (s : State) (p : Part), (s.part p).initing = true) :=
  ⟨⟨on, by decide +kernel⟩,
   ⟨lockedOn, 15, by decide +kernel⟩,
   ⟨lockedOn.setFld fJpStatus_STATE 2, 0, by decide +kernel⟩,
   ⟨lockedOn, 0, by decide +kernel⟩,
   ⟨on, 0, by decide +kernel⟩,
   ⟨on, 0, by decide +kernel⟩,
   ⟨({ live with rings := [{ ring0 with phase := .disabling }] } : State).setFld fJpStatus_STATE 2, 0, by decide +kernel⟩,
   ⟨(withTrk (trk (cmd []) .running)).setFld fJpStatus_STATE 2, 0, by decide +kernel⟩,
   ⟨withPart fun ps => { ps with initing := true }, 0, by decide +kernel⟩⟩

/-- States and operands that meet the hypotheses of Obligations.RingControl, clause by clause. -/
theorem meets_ringControl :
    (∃ (s : State) (p : Part), s.serving ∧ s.fld fJpRingCmd_BUSY p = 1) ∧
    (∃ (s : State) (p : Part), s.serving ∧ s.fld fJpRingCmd_BUSY p = 0 ∧ s.partEnabled p = false) ∧
    (∃ (s : State) (p : Part) (r : RingNo), s.serving ∧ s.fld fJpRingCmd_BUSY p = 0 ∧ s.partEnabled p = true ∧ s.ringIn p r.toNat = false) ∧
    (∃ (s : State) (p : Part) (r : RingNo), s.serving ∧ s.fld fJpRingCmd_BUSY p = 0 ∧ s.partEnabled p = true ∧ s.ringIn p r.toNat = true) ∧
    (∃ (s : State) (p : Part) (r : RingNo), (s.part p).ringAct = some (r, true) ∧ s.partEnabled p = false) ∧
    (∃ (s t : State) (p : Part) (r : RingNo),
    let u : State := { t with jreads := t.jreads.filter fun y => decide (y.2 ≠ .fetch r) }
    (s.part p).ringAct = some (r, true) ∧ s.partEnabled p = true ∧ s.jReadOk (.fetch r) (s.ctxAddr r) = (t, true) ∧
      u.rdPoison (u.ctxAddr r) 64 = false ∧ (u.readCtx r).valid = true) ∧
    (∃ (s t : State) (p : Part) (r : RingNo),
    let u : State := { t with jreads := t.jreads.filter fun y => decide (y.2 ≠ .fetch r) }
    (s.part p).ringAct = some (r, true) ∧ s.partEnabled p = true ∧ s.jReadOk (.fetch r) (s.ctxAddr r) = (t, true) ∧
      (u.rdPoison (u.ctxAddr r) 64 = true ∨ (u.readCtx r).valid = false)) ∧
    (∃ (s : State) (p : Part) (r : RingNo), (s.part p).ringAct = some (r, false) ∧ (s.srcBusy (.ring r) = true ∨ s.recordOut r = true)) ∧
    (∃ (s : State) (p : Part) (r : RingNo) (x : _), (s.part p).ringAct = some (r, false) ∧ s.srcBusy (.ring r) = false ∧
      s.recordOut r = false ∧ s.ring r = some x) :=
  ⟨⟨on.setFld fJpRingCmd_BUSY 1 0, 0, by decide +kernel⟩,
   ⟨on, 0, by decide +kernel⟩,
   ⟨live, 0, 32, by decide +kernel⟩,
   ⟨live, 0, 0, by decide +kernel⟩,
   ⟨(withPart fun ps => { ps with ringAct := some (1, true) }).setFld fJpStatus_STATE 2, 0, 1, by decide +kernel⟩,
   (let s : State := (withPart fun ps => { ps with ringAct := some (1, true) }).writeCtx 1 ring0.ctx
    let r : RingNo := 1
    let t : State := (s.jReadOk (.fetch r) (s.ctxAddr r)).1
    ⟨s, t, 0, r, by decide +kernel⟩),
   (let s : State := withPart fun ps => { ps with ringAct := some (1, true) }
    let r : RingNo := 1
    let t : State := (s.jReadOk (.fetch r) (s.ctxAddr r)).1
    ⟨s, t, 0, r, by decide +kernel⟩),
   ⟨{ withPart fun ps => { ps with ringAct := some (0, false) } with trackers := [trkR (cmd []) .running] }, 0, 0, by decide +kernel⟩,
   ⟨withPart fun ps => { ps with ringAct := some (0, false) }, 0, 0, ring0, by decide +kernel⟩⟩

/-- States and operands that meet the hypotheses of Obligations.DirectPath, clause by clause. -/
theorem meets_directPath :
    (∃ (s : State) (p : Part), s.serving ∧ s.dcmdClosed p = false ∧ (s.part p).dcmd.length < 32 ∧ (s.part p).dcmdWait = []) ∧
    (∃ (s : State) (p : Part), s.serving ∧ s.dcmdClosed p = false ∧ (32 ≤ (s.part p).dcmd.length ∨ (s.part p).dcmdWait ≠ [])) ∧
    (∃ (s : State) (p : Part), s.serving ∧ s.dcmdClosed p = true) ∧
    (∃ (s : State) (p : Part) (v : W64) (rest : List W64), (s.part p).dcmdWait = v :: rest ∧ s.dcmdClosed p = false ∧
      (s.part p).dcmd.length < 32) ∧
    (∃ (s : State) (p : Part) (v : W64) (rest : List W64), (s.part p).dcmdWait = v :: rest ∧ s.dcmdClosed p = true) ∧
    (∃ (s : State) (p : Part) (r : BitVec 128) (rest : List (BitVec 128)), s.serving ∧ (s.part p).dcpl = r :: rest) ∧
    (∃ (s : State) (p : Part), s.serving ∧ (s.part p).dcpl = []) :=
  ⟨⟨live, 0, by decide +kernel⟩,
   ⟨withPart fun ps => { ps with dcmd := List.replicate 32 0 }, 0, by decide +kernel⟩,
   ⟨on, 0, by decide +kernel⟩,
   ⟨withPart fun ps => { ps with dcmdWait := [7] }, 0, 7, [], by decide +kernel⟩,
   ⟨(withPart fun ps => { ps with dcmdWait := [7] }).setFld fJpStatus_STATE 2, 0, 7, [], by decide +kernel⟩,
   ⟨withPart fun ps => { ps with dcpl := [5] }, 0, 5, [], by decide +kernel⟩,
   ⟨on, 0, by decide +kernel⟩⟩

/-- States and operands that meet the hypotheses of Obligations.Admission, clause by clause. -/
theorem meets_admission :
    (∃ (s s1 : State) (y : Cand) (rest : List Cand) (c : Cmd) (r : AdmRes) (st : _), (∀ q, y.src ≠ .remote q) ∧ s.ready = true ∧
      s.fld fJePwrStatus_STATE < 2 ∧ s.cands = y :: rest ∧ s.offers y.part y.src = true ∧ s.headCmd y.src = some c ∧
      s.trackers.length < 16384 ∧ s.admCheck y.part y.src c = (s1, r) ∧ r = .fail st) ∧
    (∃ (s s1 : State) (y : Cand) (rest : List Cand) (c : Cmd) (r : AdmRes), (∀ q, y.src ≠ .remote q) ∧ (∀ st, r ≠ .fail st) ∧
      s.ready = true ∧ s.fld fJePwrStatus_STATE < 2 ∧ s.cands = y :: rest ∧ s.offers y.part y.src = true ∧ s.headCmd y.src = some c ∧
      s.trackers.length < 16384 ∧ s.admCheck y.part y.src c = (s1, r) ∧ r ≠ .wait ∧ s1.inFlight y.part < 8192) ∧
    (∃ (s : State) (y : Cand) (rest : List Cand) (c : Cmd), (∀ q, y.src ≠ .remote q) ∧ s.ready = true ∧ s.fld fJePwrStatus_STATE < 2 ∧
      s.cands = y :: rest ∧ s.offers y.part y.src = true ∧ s.headCmd y.src = some c ∧ cOp c ≤ 2 ∧ cmdFieldsOk c (isDirect y.src) = true ∧
      s.trackers.length < 16384 ∧ (∀ a ∈ s.admReads, a.src ≠ y.src) ∧ s.inFlight y.part < 8192) ∧
    (∃ (s : State) (y : Cand) (rest : List Cand) (c : Cmd), (∀ q, y.src ≠ .remote q) ∧ s.ready = true ∧ s.fld fJePwrStatus_STATE < 2 ∧
      s.cands = y :: rest ∧ s.offers y.part y.src = true ∧ s.headCmd y.src = some c ∧ cOp c ∉ opcodes ∧ s.trackers.length < 16384) ∧
    (∃ (s s1 : State) (src : Src) (p : Part) (c : Cmd) (a : AdmRead) (got : Option (List Byte × Bool)),
      s.admReads.find? (fun a => decide (a.src = src) && !a.ready) = some a ∧ s.srcPart src = some p ∧ s.headCmd src = some c ∧
      (match admReadOf c with | some n => s.readPart p (.admission src) n.1 n.2 | none => s.readPart p (.admission src) (s.fld fJpShardDir_BASE p * 4096 + 8 * cTable c) 8) = (s1,
      got) ∧ got = none) ∧
    (∃ (s s1 : State) (src : Src) (p : Part) (c : Cmd) (a : AdmRead) (got : Option (List Byte × Bool)) (bs poison : _),
    let t : State := { s1 with admReads := s1.admReads.map fun a => if a.src = src then { a with ready := true, poisoned := poison } else a }
    s.admReads.find? (fun a => decide (a.src = src) && !a.ready) = some a ∧ s.srcPart src = some p ∧ s.headCmd src = some c ∧
      (match admReadOf c with | some n => s.readPart p (.admission src) n.1 n.2 | none => s.readPart p (.admission src) (s.fld fJpShardDir_BASE p * 4096 + 8 * cTable c) 8) = (s1,
      got) ∧ got = some (bs, poison) ∧ t.offers p src = false) ∧
    (∃ (s s1 : State) (src : Src) (p : Part) (c : Cmd) (a : AdmRead) (got : Option (List Byte × Bool)) (bs poison u st : _),
    let t : State := { s1 with admReads := s1.admReads.map fun a => if a.src = src then { a with ready := true, poisoned := poison } else a }
    s.admReads.find? (fun a => decide (a.src = src) && !a.ready) = some a ∧ s.srcPart src = some p ∧ s.headCmd src = some c ∧
      (match admReadOf c with | some n => s.readPart p (.admission src) n.1 n.2 | none => s.readPart p (.admission src) (s.fld fJpShardDir_BASE p * 4096 + 8 * cTable c) 8) = (s1,
      got) ∧ got = some (bs, poison) ∧ t.offers p src = true ∧ t.trackers.length < 16384 ∧ t.admCheck p src c = (u, .fail st)) :=
  ⟨(let s : State := withPart fun ps => { ps with dcmd := [cmd [(0, 0xFF)]] }
    let y : Cand := ⟨0, 0, 262144, .direct 0⟩
    let c : Cmd := cmd [(0, 0xFF)]
    let s1 : State := (s.admCheck y.part y.src c).1
    let rest : List Cand := (s.cands).tail
    let r : AdmRes := (s.admCheck y.part y.src c).2
    ⟨s, s1, y, rest, c, r, 0x10, (fun _ h => by cases h), by decide +kernel⟩),
   (let s : State := withPart fun ps => { ps with dcmd := [cmd []] }
    let y : Cand := ⟨0, 0, 262144, .direct 0⟩
    let c : Cmd := cmd []
    let s1 : State := (s.admCheck y.part y.src c).1
    let rest : List Cand := (s.cands).tail
    ⟨s, s1, y, rest, c, .ok [] 0 [] 0 0, (fun _ h => by cases h), (fun _ h => by cases h), by decide +kernel⟩),
   (let s : State := withPart fun ps => { ps with dcmd := [cmd []] }
    let rest : List Cand := (s.cands).tail
    ⟨s, ⟨0, 0, 262144, .direct 0⟩, rest, cmd [], (fun _ h => by cases h), by decide +kernel⟩),
   (let s : State := withPart fun ps => { ps with dcmd := [cmd [(0, 0xFF)]] }
    let rest : List Cand := (s.cands).tail
    ⟨s, ⟨0, 0, 262144, .direct 0⟩, rest, cmd [(0, 0xFF)], (fun _ h => by cases h), by decide +kernel⟩),
   (let s : State := { { withPart fun ps => { ps with dcmd := [cmd [(0, 0x40), (128, 0x1000)]] } with admReads := [⟨.direct 0, false, false, false⟩] } with rcache := [] }
    let src : Src := .direct 0
    let p : Part := 0
    let c : Cmd := cmd [(0, 0x40), (128, 0x1000)]
    let s1 : State := ((match admReadOf c with | some n => s.readPart p (.admission src) n.1 n.2 | none => s.readPart p (.admission src) (s.fld fJpShardDir_BASE p * 4096 + 8 * cTable c) 8)).1
    let got : Option (List Byte × Bool) := ((match admReadOf c with | some n => s.readPart p (.admission src) n.1 n.2 | none => s.readPart p (.admission src) (s.fld fJpShardDir_BASE p * 4096 + 8 * cTable c) 8)).2
    ⟨s, s1, src, p, c, ⟨.direct 0, false, false, false⟩, got, by decide +kernel⟩),
   (let s : State := ({ withPart fun ps => { ps with dcmd := [cmd [(0, 0x40), (128, 0x1000)]] } with admReads := [⟨.direct 0, false, false, false⟩] }).setFld fJpStatus_STATE 0
    let src : Src := .direct 0
    let p : Part := 0
    let c : Cmd := cmd [(0, 0x40), (128, 0x1000)]
    let s1 : State := ((match admReadOf c with | some n => s.readPart p (.admission src) n.1 n.2 | none => s.readPart p (.admission src) (s.fld fJpShardDir_BASE p * 4096 + 8 * cTable c) 8)).1
    let got : Option (List Byte × Bool) := ((match admReadOf c with | some n => s.readPart p (.admission src) n.1 n.2 | none => s.readPart p (.admission src) (s.fld fJpShardDir_BASE p * 4096 + 8 * cTable c) 8)).2
    ⟨s, s1, src, p, c, ⟨.direct 0, false, false, false⟩, got, List.replicate 128 0, false, by decide +kernel⟩),
   (let s : State := { { withPart fun ps => { ps with dcmd := [cmd [(0, 0x40), (128, 0x1000)]] } with admReads := [⟨.direct 0, false, false, false⟩] } with poison := [0x40] }
    let src : Src := .direct 0
    let p : Part := 0
    let c : Cmd := cmd [(0, 0x40), (128, 0x1000)]
    let a : AdmRead := ⟨.direct 0, false, false, false⟩
    let poison := true
    let s1 : State := ((match admReadOf c with | some n => s.readPart p (.admission src) n.1 n.2 | none => s.readPart p (.admission src) (s.fld fJpShardDir_BASE p * 4096 + 8 * cTable c) 8)).1
    let got : Option (List Byte × Bool) := ((match admReadOf c with | some n => s.readPart p (.admission src) n.1 n.2 | none => s.readPart p (.admission src) (s.fld fJpShardDir_BASE p * 4096 + 8 * cTable c) 8)).2
    let t : State := { s1 with admReads := s1.admReads.map fun a => if a.src = src then { a with ready := true, poisoned := poison } else a }
    let u := (t.admCheck p src c).1
    ⟨s, s1, src, p, c, a, got, List.replicate 128 0, poison, u, 0x40, by decide +kernel⟩)⟩

/-- States and operands that meet the hypotheses of Obligations.ControlCommands, clause by clause. -/
theorem meets_controlCommands :
    (∃ (s : State) (t : TrackerId) (x : Tracker), s.startable t 0x00 = some x) ∧
    (∃ (s : State) (t : TrackerId) (x : Tracker), s.startable t 0x01 = some x) ∧
    (∃ (s : State) (t : TrackerId) (x : Tracker), s.startable t 0x02 = some x ∧ s.waitAllowed x.part x.cmd = false) ∧
    (∃ (s : State) (t : TrackerId) (x : Tracker), s.startable t 0x02 = some x ∧ s.waitAllowed x.part x.cmd = true) ∧
    (∃ (s : State) (t : TrackerId) (x : Tracker),
    let r : RingNo := BitVec.ofNat 18 (cSrcIndex x.cmd)
    s.trk t = some x ∧ x.op = 0x02 ∧ x.phase = .reading ∧ s.ring r ≠ none) ∧
    (∃ (s : State) (t : TrackerId) (x : Tracker) (u : _),
    let r : RingNo := BitVec.ofNat 18 (cSrcIndex x.cmd)
    s.trk t = some x ∧ x.op = 0x02 ∧ x.phase = .reading ∧ s.ring r = none ∧ s.jReadOk (.cmd t) (s.ctxAddr r) = (u, false)) ∧
    (∃ (s : State) (t : TrackerId) (x : Tracker) (u : _),
    let r : RingNo := BitVec.ofNat 18 (cSrcIndex x.cmd)
    s.trk t = some x ∧ x.op = 0x02 ∧ x.phase = .reading ∧ s.ring r = none ∧ s.jReadOk (.cmd t) (s.ctxAddr r) = (u, true)) :=
  ⟨⟨withTrk (trk (cmd []) .handed), 0, trk (cmd []) .handed, by decide +kernel⟩,
   ⟨withTrk (trk (cmd [(0, 1)]) .handed), 0, trk (cmd [(0, 1)]) .handed, by decide +kernel⟩,
   ⟨withTrk (trk (cmd [(0, 2), (72, 1)]) .handed), 0, trk (cmd [(0, 2), (72, 1)]) .handed, by decide +kernel⟩,
   ⟨withTrk (trk (cmd [(0, 2)]) .handed), 0, trk (cmd [(0, 2)]) .handed, by decide +kernel⟩,
   ⟨withTrk (trk (cmd [(0, 2)]) .reading), 0, trk (cmd [(0, 2)]) .reading, by decide +kernel⟩,
   (let s : State := { window .toShared with trackers := [trk (cmd [(0, 2), (96, 31)]) .reading] }
    let t : TrackerId := 0
    let x : Tracker := trk (cmd [(0, 2), (96, 31)]) .reading
    let r : RingNo := BitVec.ofNat 18 (cSrcIndex x.cmd)
    let u := (s.jReadOk (.cmd t) (s.ctxAddr r)).1
    ⟨s, t, x, u, by decide +kernel⟩),
   (let s : State := withTrk (trk (cmd [(0, 2), (96, 31)]) .reading)
    let t : TrackerId := 0
    let x : Tracker := trk (cmd [(0, 2), (96, 31)]) .reading
    let r : RingNo := BitVec.ofNat 18 (cSrcIndex x.cmd)
    let u := (s.jReadOk (.cmd t) (s.ctxAddr r)).1
    ⟨s, t, x, u, by decide +kernel⟩)⟩

/-- States and operands that meet the hypotheses of Obligations.WaitsAndExternalMarks, clause by clause. -/
theorem meets_waitsAndExternalMarks :
    (∃ (s : State), s.serving) ∧
    (∃ (s : State) (t : TrackerId) (x : Tracker), s.trk t = some x ∧ x.op = 0x02 ∧ x.admitted = true ∧ x.phase ≠ .done) :=
  ⟨⟨on, by decide +kernel⟩,
   ⟨withTrk (trk (cmd [(0, 2)]) .running), 0, trk (cmd [(0, 2)]) .running, by decide +kernel⟩⟩

/-- States and operands that meet the hypotheses of Obligations.CompletionRecords, clause by clause. -/
theorem meets_completionRecords :
    (∃ (s : State) (src : Src) (x y : Tracker),
    let u := ((s.drainAborted.settlePool x.id).settleScatter x.id).settleApply x.id
    s.oldest src = some x ∧ u.trk x.id = some y) ∧
    (∃ (x : Tracker), x.phase ≠ .done) ∧
    (∃ (s : State) (x : Tracker) (p : _), x.phase = .done ∧ s.trk x.id = some x ∧ s.batch x.id = none ∧ x.marks.status ≠ stFaultAborted ∧
      s.outstanding x.id = false ∧ x.src = .direct p) ∧
    (∃ (s : State) (x : Tracker) (r z t ph h : _),
    let y := { x with torn := x.torn || s.touchesTorn x }
    let w : WrReq := ⟨ph, leBytes 16 (recordNat y y.version (z.ctx.phase x.count)), false, x.part, none, h, false, true, false,
      some (r, x.count), if cIrq x.cmd then [z.ctx.irqGroup] else [], false, false, false, false⟩
    x.phase = .done ∧ s.trk x.id = some x ∧ s.batch x.id = none ∧ x.marks.status ≠ stFaultAborted ∧ s.outstanding x.id = false ∧
      x.src = .ring r ∧ s.ctxAt r z ∧ z.mute = false ∧
      (s.ctxUsed r).look x.part (.record x.src) ((z.ctx.cplBase.toNat + x.count.toNat % z.ctx.size * 16) % 2 ^ 64) .write = (t, some (ph,
      h)) ∧ t.joinRecord w = none ∧ t.recordOut r = false) ∧
    (∃ (s : State) (x : Tracker) (r z t ph h : _),
    let y := { x with torn := x.torn || s.touchesTorn x }
    let w : WrReq := ⟨ph, leBytes 16 (recordNat y y.version (z.ctx.phase x.count)), false, x.part, none, h, false, true, false,
      some (r, x.count), if cIrq x.cmd then [z.ctx.irqGroup] else [], false, false, false, false⟩
    x.phase = .done ∧ s.trk x.id = some x ∧ s.batch x.id = none ∧ x.marks.status ≠ stFaultAborted ∧ s.outstanding x.id = false ∧
      x.src = .ring r ∧ s.ctxAt r z ∧ z.mute = false ∧
      (s.ctxUsed r).look x.part (.record x.src) ((z.ctx.cplBase.toNat + x.count.toNat % z.ctx.size * 16) % 2 ^ 64) .write = (t, some (ph,
      h)) ∧ t.joinRecord w = none ∧ t.recordOut r = true) ∧
    (∃ (s : State) (x : Tracker) (r z t ph h u : _),
    let y := { x with torn := x.torn || s.touchesTorn x }
    let w : WrReq := ⟨ph, leBytes 16 (recordNat y y.version (z.ctx.phase x.count)), false, x.part, none, h, false, true, false,
      some (r, x.count), if cIrq x.cmd then [z.ctx.irqGroup] else [], false, false, false, false⟩
    x.phase = .done ∧ s.trk x.id = some x ∧ s.batch x.id = none ∧ x.marks.status ≠ stFaultAborted ∧ s.outstanding x.id = false ∧
      x.src = .ring r ∧ s.ctxAt r z ∧ z.mute = false ∧
      (s.ctxUsed r).look x.part (.record x.src) ((z.ctx.cplBase.toNat + x.count.toNat % z.ctx.size * 16) % 2 ^ 64) .write = (t, some (ph,
      h)) ∧ t.joinRecord w = some u) ∧
    (∃ (s t : State) (x y : Tracker), s.trk x.id = some x ∧ x.op = 0x01 ∧ x.phase = .running ∧ s.oldest x.src = some x ∧
      (s.publish x).trk x.id = some y ∧ (s.publish x).completeNow y = (t, true)) ∧
    (∃ (x : Tracker), cExternal x.cmd = true) ∧
    (∃ (s : State) (x : Tracker) (r : RingNo) (z : Ring), cExternal x.cmd = false ∧ x.src = .ring r ∧ s.ring r = some z) ∧
    (∃ (s : State) (p : Part) (g : Fin 64) (ig : IrqGroup), (s.part p).irq[g.val]? = some ig ∧ ig.count ≠ 0 ∧ ig.elapsed = true ∧
      natBits (s.fld fJpIrqPend_PEND p) g 1 = 1 ∧ natBits (s.fld fJpIrqMask_MASK p) g 1 = 0) ∧
    (∃ (s : State) (p : Part) (g : Fin 64) (ig : IrqGroup), (s.part p).irq[g.val]? = some ig ∧ ig.count = 0) :=
  ⟨(let s : State := withTrk (trk (cmd []) .done)
    let x : Tracker := trk (cmd []) .done
    let u := ((s.drainAborted.settlePool x.id).settleScatter x.id).settleApply x.id
    let y : Tracker := (u.trk x.id).get (by decide +kernel)
    ⟨s, .direct 0, x, y, by decide +kernel⟩),
   ⟨trk (cmd []) .running, by decide +kernel⟩,
   ⟨withTrk (trk (cmd []) .done), trk (cmd []) .done, 0, by decide +kernel⟩,
   (let s : State := withTrk (trkR (cmd []) .done)
    let x : Tracker := trkR (cmd []) .done
    let r := 0
    let z := ring0
    let t := ((s.ctxUsed r).look x.part (.record x.src) ((z.ctx.cplBase.toNat + x.count.toNat % z.ctx.size * 16) % 2 ^ 64) .write).1
    ⟨s, x, r, z, t, 0x20000, 0, by decide +kernel⟩),
   (let s : State := { withTrk (trkR (cmd []) .done) with wrQ := [⟨0x20040, List.replicate 16 0, false, 0, none, 0, false, true, false, some (0, 4), [], false, false, false, false⟩] }
    let x : Tracker := trkR (cmd []) .done
    let r := 0
    let z := ring0
    let t := ((s.ctxUsed r).look x.part (.record x.src) ((z.ctx.cplBase.toNat + x.count.toNat % z.ctx.size * 16) % 2 ^ 64) .write).1
    ⟨s, x, r, z, t, 0x20000, 0, by decide +kernel⟩),
   (let s : State := { live with trackers := [{ trkR (cmd []) .done with count := 1 }], wrQ := [⟨0x20000, List.replicate 16 0, false, 0, none, 0, false, true, false, some (0, 0), [], false, false, false, false⟩] }
    let x : Tracker := { trkR (cmd []) .done with count := 1 }
    let r := 0
    let z := ring0
    let ph := 0x20010
    let h := 0
    let t := ((s.ctxUsed r).look x.part (.record x.src) ((z.ctx.cplBase.toNat + x.count.toNat % z.ctx.size * 16) % 2 ^ 64) .write).1
    let y := { x with torn := x.torn || s.touchesTorn x }
    let w : WrReq := ⟨ph, leBytes 16 (recordNat y y.version (z.ctx.phase x.count)), false, x.part, none, h, false, true, false,
        some (r, x.count), if cIrq x.cmd then [z.ctx.irqGroup] else [], false, false, false, false⟩
    let u := (t.joinRecord w).get (by decide +kernel)
    ⟨s, x, r, z, t, ph, h, u, by decide +kernel⟩),
   (let s : State := withTrk (trk (cmd [(0, 1), (65, 1), (128, 7)]) .running)
    let x : Tracker := trk (cmd [(0, 1), (65, 1), (128, 7)]) .running
    let y : Tracker := ((s.publish x).trk x.id).get (by decide +kernel)
    let t : State := ((s.publish x).completeNow y).1
    ⟨s, t, x, y, by decide +kernel⟩),
   ⟨trk (cmd [(0, 1), (65, 1), (128, 7)]) .running, by decide +kernel⟩,
   ⟨live, trkR (cmd [(0, 1)]) .running, 0, ring0, by decide +kernel⟩,
   ⟨((withPart fun ps => { ps with irq := List.replicate 64 ⟨2, true, false⟩ }).setFld fJpIrqPend_PEND (2 ^ 63) 0).setFld fJpIrqMask_MASK 0 0,
     0, 63, ⟨2, true, false⟩, by decide +kernel⟩,
   ⟨live, 0, 63, ⟨0, true, false⟩, by decide +kernel⟩⟩

/-- States and operands that meet the hypotheses of Obligations.SieveIntake, clause by clause. -/
theorem meets_sieveIntake :
    (∃ (s s1 : State) (t : TrackerId) (k : IdxStream) (line : BitVec 32) (bt : Batch) (x : Tracker) (lo hi : Nat) (phs : List (Nat × W32)),
      s.batch t = some bt ∧ s.trk t = some x ∧ bt.given = false ∧ x.marks.aborted = false ∧ bt.lineSpan k line.toNat = (lo, hi) ∧ lo < hi ∧
      (∀ l ∈ bt.lines, l.kind ≠ k ∨ l.line ≠ line.toNat) ∧ s.lookAll x.part (.cmd t) .read (granAddrs lo (hi - lo)) = (s1, some phs)) ∧
    (∃ (s s1 s2 : State) (k : Fin 32) (it : PipeItem) (rest : List PipeItem) (x : Tracker) (bt : Batch) (g : Bag) (d : Desc) (e : Ent),
      s.pipes[k] = it :: rest ∧ s.trk it.t = some x ∧ s.batch it.t = some bt ∧ s.bag it.t it.bag = some g ∧ x.desc = some d ∧
      ((bt.kind = .pool ∨ bt.kind = .keyed) → g.reserved = true) ∧ it.next < g.stop ∧ bt.entry g it.next = some e ∧ s.armed = none ∧
      s.takeEntry x d bt g it.next e = (s1, true) ∧
      s2 = { s1 with pipes := s1.pipes.set k (updFirst (fun i => decide (i.t = it.t) && decide (i.bag = it.bag)) (fun i => { i with next := it.next + 1 }) s1.pipes[k]) } ∧
      it.next + 1 < g.stop) ∧
    (∃ (s s1 s2 : State) (k : Fin 32) (it : PipeItem) (rest : List PipeItem) (x : Tracker) (bt : Batch) (g : Bag) (d : Desc) (e : Ent),
      s.pipes[k] = it :: rest ∧ s.trk it.t = some x ∧ s.batch it.t = some bt ∧ s.bag it.t it.bag = some g ∧ x.desc = some d ∧
      ((bt.kind = .pool ∨ bt.kind = .keyed) → g.reserved = true) ∧ it.next < g.stop ∧ bt.entry g it.next = some e ∧ s.armed = none ∧
      s.takeEntry x d bt g it.next e = (s1, true) ∧
      s2 = { s1 with pipes := s1.pipes.set k (updFirst (fun i => decide (i.t = it.t) && decide (i.bag = it.bag)) (fun i => { i with next := it.next + 1 }) s1.pipes[k]) } ∧
      it.next + 1 = g.stop ∧ g.whole = true ∧ (∀ y ∈ s.trackers, y.marks.aborted = false) ∧ s.rowWaits = [] ∧
      (s2.endBag k g.t g.bag).pipes[k] = []) ∧
    (∃ (g : Bag) (e : Ent), g.rerun ≠ .running ∧ e.poison = true) ∧
    (∃ (bt : Batch) (g : Bag) (e : Ent), g.rerun ≠ .running ∧ e.poison = false ∧ bt.isPad e.x = true) ∧
    (∃ (d : Desc) (bt : Batch) (g : Bag) (e : Ent), g.rerun ≠ .running ∧ e.poison = false ∧ bt.isPad e.x = false ∧
      d.mapIndex e.x.toNat = .outOfRange) ∧
    (∃ (d : Desc) (bt : Batch) (g : Bag) (e : Ent), g.rerun ≠ .running ∧ e.poison = false ∧ bt.isPad e.x = false ∧
      d.mapIndex e.x.toNat ≠ .outOfRange ∧ d.mapIndex e.x.toNat ≠ .remap) ∧
    (∃ (x : Tracker), x.op ≠ 0x21) ∧
    (∃ (s s1 : State) (t : TrackerId) (v : W64) (x : Tracker) (bt : Batch) (d : Desc) (w : RemapWait) (bs : List Byte) (poison : Bool),
    let val : Option (Option (Nat × Nat)) := if poison then none else some (d.remapSlot (leNat bs))
    let s2 := s1.modBatch t fun b => { b with remaps := b.remaps ++ [(v, val)] }
    s.readPart x.part (.cmd t) (d.remapBase + 4 * v.toNat) 4 = (s1, some (bs, poison)) ∧ (∀ y ∈ s.trackers, y.marks.aborted = false) ∧
      s.trk t = some x ∧ s.batch t = some bt ∧ x.desc = some d ∧ s.remapWaits.filter (fun w => decide (w.t = t) && decide (w.x = v)) = [w] ∧
      (∀ m ∈ bt.remaps, m.1 ≠ v) ∧ (s2.bag x.id w.bag).any (fun g => decide (g.rerun = .running)) = false ∧ poison = true) ∧
    (∃ (s s1 : State) (t : TrackerId) (v : W64) (x : Tracker) (bt : Batch) (d : Desc) (w : RemapWait) (bs : List Byte) (poison : Bool),
    let val : Option (Option (Nat × Nat)) := if poison then none else some (d.remapSlot (leNat bs))
    let s2 := s1.modBatch t fun b => { b with remaps := b.remaps ++ [(v, val)] }
    s.readPart x.part (.cmd t) (d.remapBase + 4 * v.toNat) 4 = (s1, some (bs, poison)) ∧ (∀ y ∈ s.trackers, y.marks.aborted = false) ∧
      s.trk t = some x ∧ s.batch t = some bt ∧ x.desc = some d ∧ s.remapWaits.filter (fun w => decide (w.t = t) && decide (w.x = v)) = [w] ∧
      (∀ m ∈ bt.remaps, m.1 ≠ v) ∧ (s2.bag x.id w.bag).any (fun g => decide (g.rerun = .running)) = false ∧ poison = false ∧
      d.remapSlot (leNat bs) = none) ∧
    (∃ (s s1 : State) (t : TrackerId) (v : W64) (x : Tracker) (bt : Batch) (d : Desc) (w : RemapWait) (bs : List Byte) (poison : Bool) (c i s3 : _),
    let val : Option (Option (Nat × Nat)) := if poison then none else some (d.remapSlot (leNat bs))
    let s2 := s1.modBatch t fun b => { b with remaps := b.remaps ++ [(v, val)] }
    s.readPart x.part (.cmd t) (d.remapBase + 4 * v.toNat) 4 = (s1, some (bs, poison)) ∧ s2.mapped x d bt w.bag w.i ⟨w.x, w.w,
      false⟩ false [⟨0, w.x.toNat, c, i, none⟩] = (s3, true) ∧ (∀ y ∈ s.trackers, y.marks.aborted = false) ∧ s.trk t = some x ∧
      s.batch t = some bt ∧ x.desc = some d ∧ s.remapWaits.filter (fun w => decide (w.t = t) && decide (w.x = v)) = [w] ∧ (∀ m ∈ bt.remaps,
      m.1 ≠ v) ∧ (s2.bag x.id w.bag).any (fun g => decide (g.rerun = .running)) = false ∧ poison = false ∧ d.remapSlot (leNat bs) = some (c,
      i)) ∧
    (∃ (s : State), s.serving) :=
  ⟨(let s : State := { withTrk (gTrk tab0 .running) with batches := [newBatch 0 gather .pool false] }
    let t : TrackerId := 0
    let x : Tracker := gTrk tab0 .running
    let lo : Nat := 0x3000
    let hi : Nat := 0x3008
    let s1 : State := (s.lookAll x.part (.cmd t) .read (granAddrs lo (hi - lo))).1
    ⟨s, s1, t, .index, 0, newBatch 0 gather .pool false, x, lo, hi, [(0x3000, 0)], by decide +kernel⟩),
   (let s : State := pooling tab0 [(8, 0x3F800000), (0, 0x3F800000)] 0
    let k : Fin 32 := 0
    let it : PipeItem := ⟨0, 0, 0, false⟩
    let x : Tracker := gTrk tab0 .running
    let bt : Batch := gBatch
    let g : Bag := gBag [(8, 0x3F800000), (0, 0x3F800000)]
    let d : Desc := tab0
    let e : Ent := ⟨8, 0x3F800000, false⟩
    let s1 : State := (s.takeEntry x d bt g it.next e).1
    let s2 : State := { s1 with pipes := s1.pipes.set k (updFirst (fun i => decide (i.t = it.t) && decide (i.bag = it.bag)) (fun i => { i with next := it.next + 1 }) s1.pipes[k]) }
    ⟨s, s1, s2, k, it, [], x, bt, g, d, e, by decide +kernel⟩),
   (let s : State := pooling tab0 [(8, 0x3F800000)] 0
    let k : Fin 32 := 0
    let it : PipeItem := ⟨0, 0, 0, false⟩
    let x : Tracker := gTrk tab0 .running
    let bt : Batch := gBatch
    let g : Bag := gBag [(8, 0x3F800000)]
    let d : Desc := tab0
    let e : Ent := ⟨8, 0x3F800000, false⟩
    let s1 : State := (s.takeEntry x d bt g it.next e).1
    let s2 : State := { s1 with pipes := s1.pipes.set k (updFirst (fun i => decide (i.t = it.t) && decide (i.bag = it.bag)) (fun i => { i with next := it.next + 1 }) s1.pipes[k]) }
    ⟨s, s1, s2, k, it, [], x, bt, g, d, e, by decide +kernel⟩),
   ⟨gBag [], ⟨7, 0, true⟩, by decide +kernel⟩,
   ⟨{ gBatch with idxFmt := 1 }, gBag [], ⟨0xFFFFFFFFFFFFFFFF, 0, false⟩, by decide +kernel⟩,
   ⟨tab0, gBatch, gBag [], ⟨8, 0, false⟩, by decide +kernel⟩,
   ⟨tab0, gBatch, gBag [], ⟨7, 0, false⟩, by decide +kernel⟩,
   ⟨gTrk tab0 .running, by decide +kernel⟩,
   (let s : State := { pooling tab4 [(7, 0x3F800000)] 1 with remapWaits := [⟨0, 0, 0, 7, 0x3F800000⟩], poison := [0x80] }
    let t : TrackerId := 0
    let v : W64 := 7
    let x : Tracker := gTrk tab4 .running
    let d : Desc := tab4
    let poison : Bool := true
    let s1 : State := (s.readPart x.part (.cmd t) (d.remapBase + 4 * v.toNat) 4).1
    ⟨s, s1, t, v, x, gBatch, d, ⟨0, 0, 0, 7, 0x3F800000⟩, [0, 0, 0, 0], poison, pair (by decide +kernel), by decide +kernel⟩),
   (let s : State := { pooling tab4 [(7, 0x3F800000)] 1 with remapWaits := [⟨0, 0, 0, 7, 0x3F800000⟩], mem := [(0x201C, 0xFF), (0x201D, 0xFF), (0x201E, 0xFF), (0x201F, 0xFF)] }
    let t : TrackerId := 0
    let v : W64 := 7
    let x : Tracker := gTrk tab4 .running
    let d : Desc := tab4
    let s1 : State := (s.readPart x.part (.cmd t) (d.remapBase + 4 * v.toNat) 4).1
    ⟨s, s1, t, v, x, gBatch, d, ⟨0, 0, 0, 7, 0x3F800000⟩, [0xFF, 0xFF, 0xFF, 0xFF], false, pair (by decide +kernel), by decide +kernel⟩),
   (let s : State := { pooling tab4 [(7, 0x3F800000)] 1 with remapWaits := [⟨0, 0, 0, 7, 0x3F800000⟩], mem := [(0x201C, 3)] }
    let t : TrackerId := 0
    let v : W64 := 7
    let x : Tracker := gTrk tab4 .running
    let bt : Batch := gBatch
    let d : Desc := tab4
    let w : RemapWait := ⟨0, 0, 0, 7, 0x3F800000⟩
    let bs : List Byte := [3, 0, 0, 0]
    let poison : Bool := false
    let c := 0
    let i := 3
    let s1 : State := (s.readPart x.part (.cmd t) (d.remapBase + 4 * v.toNat) 4).1
    let val : Option (Option (Nat × Nat)) := if poison then none else some (d.remapSlot (leNat bs))
    let s2 := s1.modBatch t fun b => { b with remaps := b.remaps ++ [(v, val)] }
    let s3 := (s2.mapped x d bt w.bag w.i ⟨w.x, w.w, false⟩ false [⟨0, w.x.toNat, c, i, none⟩]).1
    ⟨s, s1, t, v, x, bt, d, w, bs, poison, c, i, s3, pair (by decide +kernel), pair (by decide +kernel), by decide +kernel⟩),
   ⟨on, by decide +kernel⟩⟩

/-- States and operands that meet the hypotheses of Obligations.PoolingStarts, clause by clause. -/
theorem meets_poolingStarts :
    (∃ (s : State) (t : TrackerId) (x : Tracker), s.startable t 0x10 = some x ∧ s.servedOf t = none) ∧
    (∃ (s : State) (t : TrackerId) (x : Tracker) (y : _), s.startable t 0x10 = some x ∧ s.servedOf t = some y) ∧
    (∃ (s : State) (t : TrackerId) (x : Tracker), s.startable t 0x50 = some x) ∧
    (∃ (s : State) (t : TrackerId) (x : Tracker), s.startable t 0x51 = some x) ∧
    (∃ (s s1 : State) (src : Src) (l : FmtLoad) (bs : List Byte) (poison : Bool),
      s.fmtLoads.find? (fun l => l.srcs.any fun y => decide (y.1 = src)) = some l ∧
      s.readPart l.part (.admission src) l.base (fmtBlockSize l.dim) = (s1, some (bs, poison)) ∧ poison = true) ∧
    (∃ (s s1 : State) (src : Src) (l : FmtLoad) (bs : List Byte) (poison : Bool),
    let s2 : State := { s1 with fmtLoads := eraseFirst (fun x => decide (x = l)) s1.fmtLoads }
    s.fmtLoads.find? (fun l => l.srcs.any fun y => decide (y.1 = src)) = some l ∧
      s.readPart l.part (.admission src) l.base (fmtBlockSize l.dim) = (s1, some (bs, poison)) ∧ poison = false ∧ (∀ y ∈ l.srcs,
      Desc.blockOk y.2 bs = true) ∧ s2.blockRoom (ceilDiv bs.length 512) = true) ∧
    (∃ (s : State) (n : SliceId), s.serving ∧ s.sliceState n < 2) :=
  ⟨⟨withTrk (gTrk tab0 .handed), 0, gTrk tab0 .handed, by decide +kernel⟩,
   ⟨{ withTrk (gTrk tab0 .handed) with served := [⟨4095, 5, 1, [], some 0⟩] }, 0, gTrk tab0 .handed, ⟨4095, 5, 1, [], some 0⟩,
     by decide +kernel⟩,
   ⟨withTrk (trk (cmd [(0, 0x50)]) .handed), 0, trk (cmd [(0, 0x50)]) .handed, by decide +kernel⟩,
   ⟨withTrk (trk (cmd [(0, 0x51)]) .handed), 0, trk (cmd [(0, 0x51)]) .handed, by decide +kernel⟩,
   (let s : State := { live with fmtLoads := [⟨0, 0x8000, 0, 2, [(.direct 0, tab0 ||| dsc [(326, 0x200)])]⟩], poison := [0x200] }
    let src : Src := .direct 0
    let l : FmtLoad := ⟨0, 0x8000, 0, 2, [(.direct 0, tab0 ||| dsc [(326, 0x200)])]⟩
    let poison : Bool := true
    let s1 : State := (s.readPart l.part (.admission src) l.base (fmtBlockSize l.dim)).1
    ⟨s, s1, src, l, List.replicate 0x888 0, poison, by decide +kernel⟩),
   (let s : State := { live with fmtLoads := [⟨0, 0x8000, 0, 2, [(.direct 0, tab0 ||| dsc [(326, 0x200)])]⟩], mem := [(0x8882, 0x80), (0x8883, 0x3F)] }
    let src : Src := .direct 0
    let l : FmtLoad := ⟨0, 0x8000, 0, 2, [(.direct 0, tab0 ||| dsc [(326, 0x200)])]⟩
    let s1 : State := (s.readPart l.part (.admission src) l.base (fmtBlockSize l.dim)).1
    ⟨s, s1, src, l, List.replicate 0x882 0 ++ [0x80, 0x3F] ++ List.replicate 4 0, false, by decide +kernel⟩),
   ⟨on, 7, by decide +kernel⟩⟩

/-- States and operands that meet the hypotheses of Obligations.LanesAndCloches, clause by clause. -/
theorem meets_lanesAndCloches :
    (∃ (s : State) (l : LaneId) (w : LaneWork) (a : Nat) (mask : BitVec 4) (rest : List (Nat × BitVec 4)) (par : Bool) (c : Instr),
      ((c = .laneRowReference l par .clean ∧
      s.laneQ.find? (fun w => decide (w.lane = l) && !w.fan) = some w) ∨ (c = .fanOutEntry l false par .clean ∧
      s.laneQ.find? (fun w => decide (w.lane = l) && w.fan) = some w)) ∧ w.todo = (a, mask) :: rest ∧
      (s.laneGated l = true ∨ s.laneFull l = true)) ∧
    (∃ (s : State) (l : LaneId) (w : LaneWork) (a : Nat) (mask : BitVec 4) (rest : List (Nat × BitVec 4)) (par : Bool) (c : Instr),
    let u : State := { s with laneQ := eraseFirst (fun y => decide (y = w)) s.laneQ }
    ((c = .laneRowReference l par .clean ∧
      s.laneQ.find? (fun w => decide (w.lane = l) && !w.fan) = some w) ∨ (c = .fanOutEntry l false par .clean ∧
      s.laneQ.find? (fun w => decide (w.lane = l) && w.fan) = some w)) ∧ w.todo = (a, mask) :: rest ∧ s.laneGated l = false ∧
      s.laneFull l = false ∧ s.armed = none ∧ u.laneWaits l a = true) ∧
    (∃ (s : State) (l : LaneId) (w : LaneWork) (a : Nat) (mask : BitVec 4) (rest : List (Nat × BitVec 4)) (par : Bool) (c : Instr) (v : _),
    let u : State := { s with laneQ := eraseFirst (fun y => decide (y = w)) s.laneQ }
    ((c = .laneRowReference l par .clean ∧
      s.laneQ.find? (fun w => decide (w.lane = l) && !w.fan) = some w) ∨ (c = .fanOutEntry l false par .clean ∧
      s.laneQ.find? (fun w => decide (w.lane = l) && w.fan) = some w)) ∧ w.todo = (a, mask) :: rest ∧ s.laneGated l = false ∧
      s.laneFull l = false ∧ s.armed = none ∧ u.laneWaits l a = false ∧
      (u.clocheAt l (lineKey a) ≠ none ∨ u.holdWanted l (lineKey a) = false) ∧ u.clocheLookup l (lineKey a) mask par = (v, true) ∧
      rest = []) ∧
    (∃ (s : State) (l : LaneId) (w : LaneWork) (a : Nat) (mask : BitVec 4) (rest : List (Nat × BitVec 4)) (par : Bool) (c : Instr) (v : _),
    let u : State := { s with laneQ := eraseFirst (fun y => decide (y = w)) s.laneQ }
    ((c = .laneRowReference l par .clean ∧
      s.laneQ.find? (fun w => decide (w.lane = l) && !w.fan) = some w) ∨ (c = .fanOutEntry l false par .clean ∧
      s.laneQ.find? (fun w => decide (w.lane = l) && w.fan) = some w)) ∧ w.todo = (a, mask) :: rest ∧ s.laneGated l = false ∧
      s.laneFull l = false ∧ s.armed = none ∧ u.laneWaits l a = false ∧
      (u.clocheAt l (lineKey a) ≠ none ∨ u.holdWanted l (lineKey a) = false) ∧ u.clocheLookup l (lineKey a) mask par = (v, false)) ∧
    (∃ (s : State) (w : LaneWork) (a : Nat),
    let mine (m : Miss) : Bool := decide (m.lane = w.lane) && decide (m.line = lineKey a)
    s.isHbm a = true ∧ s.misses.any mine = true) ∧
    (∃ (s : State) (w : LaneWork) (a : Nat),
    let mine (m : Miss) : Bool := decide (m.lane = w.lane) && decide (m.line = lineKey a)
    s.isHbm a = true ∧ s.misses.any mine = false ∧ (s.trk w.t).any (·.background) = false ∧ s.isBoard (a / 256 * 256) = false) ∧
    (∃ (s : State) (l : LaneId) (w : LaneWork) (x : Tracker), s.laneQ.find? (fun w => decide (w.lane = l) && w.fan) = some w ∧
      s.laneGated l = false ∧ s.trk w.t = some x) ∧
    (∃ (s : State) (l : LaneId) (line : BitVec 48) (m : Miss) (w : LaneWork) (rest : List LaneWork) (x : Tracker) (u : _),
      s.misses.find? (fun m => decide (m.lane = l) && decide (m.line = line.toNat)) = some m ∧ m.work = w :: rest ∧ s.trk w.t = some x ∧
      s.fillOk m = (u, false)) ∧
    (∃ (s s1 : State) (l : LaneId) (line : BitVec 48) (m : Miss) (w : LaneWork) (rest : List LaneWork) (x : Tracker),
    let s2 : State := { s1 with misses := eraseFirst (fun y => decide (y = m)) s1.misses }
    s.misses.find? (fun m => decide (m.lane = l) && decide (m.line = line.toNat)) = some m ∧ m.work = w :: rest ∧ s.trk w.t = some x ∧
      s.fillOk m = (s1, true) ∧ s1.armed = none ∧ (∀ k, k < 4 → s2.granPoison (m.base / 64 + k) (some x.serial) = false)) ∧
    (∃ (s : State) (n : SliceId) (q : Partial) (x : Tracker) (bt : Batch) (d : Desc), s.partials.find? (fun q => decide (q.n = n)) = some q ∧
      s.trk q.t = some x ∧ s.batch q.t = some bt ∧ x.desc = some d ∧ s.armed = none) ∧
    (∃ (s : State) (g : Bag), s.bags.find? (fun g => decide (g.rerun = .waiting)) = some g) ∧
    (∃ (s : State) (n : SliceId), s.serving ∧ s.sliceState n < 2) :=
  ⟨⟨({ laning false [] with misses := List.replicate 128 ⟨0, 0x5000, 0x500000, 1, []⟩ } : State), 0, work0 false, 0x100000, 1, [], false,
    .laneRowReference 0 false .clean, by decide +kernel⟩,
   ⟨flips (laning false []), 0, work0 false, 0x100000, 1, [], false, .laneRowReference 0 false .clean, by decide +kernel⟩,
   (let s : State := laning true [cloche0]
    let l : LaneId := 0
    let w : LaneWork := work0 true
    let a : Nat := 0x100000
    let mask : BitVec 4 := 1
    let par : Bool := false
    let u : State := { s with laneQ := eraseFirst (fun y => decide (y = w)) s.laneQ }
    let v := (u.clocheLookup l (lineKey a) mask par).1
    ⟨s, l, w, a, mask, [], par, .fanOutEntry 0 false false .clean, v, by decide +kernel⟩),
   (let s : State := laning false []
    let l : LaneId := 0
    let w : LaneWork := work0 false
    let a : Nat := 0x100000
    let mask : BitVec 4 := 1
    let par : Bool := false
    let u : State := { s with laneQ := eraseFirst (fun y => decide (y = w)) s.laneQ }
    let v := (u.clocheLookup l (lineKey a) mask par).1
    ⟨s, l, w, a, mask, [], par, .laneRowReference 0 false .clean, v, by decide +kernel⟩),
   ⟨{ laning false [] with misses := [⟨0, 0x1000, 0x100000, 1, [work0 false]⟩] }, work0 false, 0x100000, by decide +kernel⟩,
   ⟨laning false [], work0 false, 0x100000, by decide +kernel⟩,
   ⟨laning true [cloche0], 0, work0 true, gTrk tab0 .running, by decide +kernel⟩,
   (let s : State := flips { laning false [] with laneQ := [], misses := [⟨0, 0x1000, 0x100000, 1, [work0 false]⟩] }
    let m : Miss := ⟨0, 0x1000, 0x100000, 1, [work0 false]⟩
    let u := (s.fillOk m).1
    ⟨s, 0, 0x1000, m, work0 false, [], gTrk tab0 .running, u, by decide +kernel⟩),
   (let s : State := { laning false [] with laneQ := [], misses := [⟨0, 0x1000, 0x100000, 1, [work0 false]⟩] }
    let m : Miss := ⟨0, 0x1000, 0x100000, 1, [work0 false]⟩
    let s1 : State := (s.fillOk m).1
    ⟨s, s1, 0, 0x1000, m, work0 false, [], gTrk tab0 .running, by decide +kernel⟩),
   ⟨{ pooling tab0 [(0, 0x3F800000)] 1 with partials := [⟨7, 0, 0, some [1, 2]⟩] }, 7, ⟨7, 0, 0, some [1, 2]⟩, gTrk tab0 .running, gBatch,
     tab0, by decide +kernel⟩,
   ⟨{ pooling tab0 [(0, 0x3F800000)] 1 with bags := [{ gBag [(0, 0x3F800000)] with rerun := .waiting }] },
     { gBag [(0, 0x3F800000)] with rerun := .waiting }, by decide +kernel⟩,
   ⟨on, 7, by decide +kernel⟩⟩

/-- States and operands that meet the hypotheses of Obligations.FeederQueues, clause by clause. -/
theorem meets_feederQueues :
    (∃ (s : State) (q : Fin 64), (s.credits[q] = 0 ∨ natBits (s.fld fJeFeedEn_ENABLED) q 1 = 0)) ∧
    (∃ (s : State) (q : Fin 64) (dl : Delivery) (rest : List Delivery) (x : Tracker) (bt : Batch) (d : Desc) (rows : List (List Nat)) (pois : List Bool) (clips : List Nat),
      s.credits[q] ≠ 0 ∧ natBits (s.fld fJeFeedEn_ENABLED) q 1 = 1 ∧
      s.deliveries.filter (fun dl => decide (dl.kind = 1) && decide (fdQueue dl.dest = q.val) && !dl.tilesDone) = dl :: rest ∧
      s.trk dl.t = some x ∧ s.batch dl.t = some bt ∧ dl.over bt = false ∧ x.desc = some d ∧ s.tileOf x d bt dl = some (rows, pois, clips)) ∧
    (∃ (s : State) (q : Fin 64) (y : TileSent) (x : Tracker) (dl : Delivery), s.tiles.find? (fun y => decide (y.q = q)) = some y ∧
      s.trk y.t = some x ∧ s.deliveries.find? (fun dl => decide (dl.t = y.t)) = some dl) :=
  ⟨⟨on, 63, by decide +kernel⟩,
   (let s : State := { (pooling tab0 [(0, 0x3F800000)] 0).setFld fJeFeedEn_ENABLED (2 ^ 63) with deliveries := [⟨0, 1, BitVec.ofNat 64 (63 * 2 ^ 58 + 8), 0, false, 0, 0, false⟩], credits := live.credits.set 63 1 }
    let dl : Delivery := ⟨0, 1, BitVec.ofNat 64 (63 * 2 ^ 58 + 8), 0, false, 0, 0, false⟩
    let x : Tracker := gTrk tab0 .running
    let bt : Batch := gBatch
    let d : Desc := tab0
    let clips : List Nat := ((s.tileOf x d bt dl).get (by decide +kernel)).2.2
    ⟨s, 63, dl, [], x, bt, d, List.replicate 8 (List.replicate 256 0), List.replicate 8 false, clips, by decide +kernel⟩),
   ⟨{ pooling tab0 [(0, 0x3F800000)] 0 with deliveries := [⟨0, 1, BitVec.ofNat 64 (63 * 2 ^ 58 + 8), 0, false, 0, 0, true⟩], tiles := [⟨63, 0, 0, true⟩] },
     63, ⟨63, 0, 0, true⟩, gTrk tab0 .running, ⟨0, 1, BitVec.ofNat 64 (63 * 2 ^ 58 + 8), 0, false, 0, 0, true⟩, by decide +kernel⟩⟩

/-- States and operands that meet the hypotheses of Obligations.KeyedHeads, clause by clause. -/
theorem meets_keyedHeads :
    (∃ (s : State) (t : TrackerId) (x : Tracker), s.startable t 0x18 = some x) ∧
    (∃ (s : State) (t : TrackerId) (k : KeyedCmd) (x : Tracker) (b : Fin 2),
    let base := BitVec.ofNat 64 (kBase k.desc)
    let some_ (b : Fin 2) (st : BankState) : Prop := s.banks[b].holds x.part k.layer base = true ∧ s.banks[b].state = st
    s.keyedOf t = some k ∧ s.trk t = some x ∧ x.phase = .running ∧ s.winnowGated = false ∧ k.bank = none ∧ k.stage ≠ .aborted ∧
      some_ b .resident ∧ (∀ c : Fin 2, c < b → s.banks[c].holds x.part k.layer base = false) ∧ s.bankUsers b < 64 ∧ s.demandOf t = none) ∧
    (∃ (s : State) (t : TrackerId) (k : KeyedCmd) (x : Tracker) (b : Fin 2),
    let base := BitVec.ofNat 64 (kBase k.desc)
    let some_ (b : Fin 2) (st : BankState) : Prop := s.banks[b].holds x.part k.layer base = true ∧ s.banks[b].state = st
    s.keyedOf t = some k ∧ s.trk t = some x ∧ x.phase = .running ∧ s.winnowGated = false ∧ k.bank = none ∧ k.stage ≠ .aborted ∧
      (∀ b : Fin 2, ¬ some_ b .resident ∧ ¬ some_ b .poisoned) ∧ s.demandOf t = none ∧ some_ b .filling) ∧
    (∃ (s : State) (t : TrackerId) (k : KeyedCmd) (x : Tracker),
    let base := BitVec.ofNat 64 (kBase k.desc)
    let some_ (b : Fin 2) (st : BankState) : Prop := s.banks[b].holds x.part k.layer base = true ∧ s.banks[b].state = st
    s.keyedOf t = some k ∧ s.trk t = some x ∧ x.phase = .running ∧ s.winnowGated = false ∧ k.bank = none ∧ k.stage ≠ .aborted ∧
      (∀ b : Fin 2, ¬ some_ b .resident ∧ ¬ some_ b .poisoned) ∧ s.demandOf t = none ∧ (∀ b : Fin 2, ¬ some_ b .filling) ∧
      s.fld fJeWinnowCtl_DEMAND = 1 ∧ 16 ≤ s.streamMax x.part) ∧
    (∃ (s : State) (t : TrackerId) (k : KeyedCmd) (x : Tracker),
    let base := BitVec.ofNat 64 (kBase k.desc)
    let some_ (b : Fin 2) (st : BankState) : Prop := s.banks[b].holds x.part k.layer base = true ∧ s.banks[b].state = st
    s.keyedOf t = some k ∧ s.trk t = some x ∧ x.phase = .running ∧ s.winnowGated = false ∧ k.bank = none ∧ k.stage ≠ .aborted ∧
      (∀ b : Fin 2, ¬ some_ b .resident ∧ ¬ some_ b .poisoned) ∧ s.demandOf t = none ∧ (∀ b : Fin 2, ¬ some_ b .filling) ∧
      (s.fld fJeWinnowCtl_DEMAND = 0 ∨ s.streamMax x.part < 16)) ∧
    (∃ (s s1 : State) (t : TrackerId) (k : KeyedCmd) (x : Tracker) (bs : List Byte) (poison : Bool),
      s.readPart x.part (.cmd t) ((k.query.toNat + 2 * (2 * kDim k.desc) * k.taken) % 2 ^ 64) (2 * (2 * kDim k.desc)) = (s1, some (bs,
      poison)) ∧ s.keyedOf t = some k ∧ s.trk t = some x ∧ s.winnowGated = false ∧ k.ahead = [] ∧ s.headTurn k x.part = true) ∧
    (∃ (s : State) (x : Tracker) (k : KeyedCmd) (q : Query) (rest : List Query), s.keyedOf x.id = some k ∧ k.stage = .idle ∧
      k.ahead = q :: rest ∧ q.poison = false ∧ q.reject = false) ∧
    (∃ (s s1 : State) (x : Tracker) (k : KeyedCmd) (q : Query) (rest : List Query), s.keyedOf x.id = some k ∧ k.stage = .idle ∧
      k.ahead = q :: rest ∧ q.poison = false ∧ q.reject = true ∧ s.rejectHead x k = (s1, true)) ∧
    (∃ (s s1 : State) (x : Tracker) (k : KeyedCmd) (q : Query) (rest : List Query), s.keyedOf x.id = some k ∧ k.stage = .idle ∧
      k.ahead = q :: rest ∧ q.poison = true ∧ s.endHead x k [] (List.replicate k.k noSel) true = (s1, true)) ∧
    (∃ (s : State) (t : TrackerId) (k : KeyedCmd) (b : Fin 2), s.keyedOf t = some k ∧ k.bank = some b ∧ s.winnowGated = false ∧
      k.stage = .query) ∧
    (∃ (s : State) (t : TrackerId) (k : KeyedCmd) (b : Fin 2), s.keyedOf t = some k ∧ k.bank = some b ∧ s.winnowGated = false ∧
      k.stage = .setA) ∧
    (∃ (s : State) (t : TrackerId) (k : KeyedCmd) (b : Fin 2), s.keyedOf t = some k ∧ k.bank = some b ∧ s.winnowGated = false ∧
      k.stage = .setB) ∧
    (∃ (s : State) (t : TrackerId) (k : KeyedCmd) (x : Tracker) (ws : _), softmax (kTemp k.desc) k.pairs = some ws ∧ s.keyedOf t = some k ∧
      s.trk t = some x ∧ k.stage = .pairs ∧ s.winnowGated = false) ∧
    (∃ (s : State) (t : TrackerId) (k : KeyedCmd) (x : Tracker), s.keyedOf t = some k ∧ s.trk t = some x ∧ k.stage = .pairs ∧
      s.winnowGated = false ∧ softmax (kTemp k.desc) k.pairs = none) :=
  ⟨⟨withTrk (trk (cmd [(0, 0x18)]) .handed), 0, trk (cmd [(0, 0x18)]) .handed, by decide +kernel⟩,
   ⟨keying (keyed0 none .idle) .resident, 0, keyed0 none .idle, kTrk, 1, by decide +kernel⟩,
   ⟨keying (keyed0 none .idle) .filling, 0, keyed0 none .idle, kTrk, 1, by decide +kernel⟩,
   ⟨(keying (keyed0 none .idle) .empty).setFld fJeWinnowCtl_DEMAND 1, 0, keyed0 none .idle, kTrk, by decide +kernel⟩,
   ⟨(keying (keyed0 none .idle) .empty).setFld fJeWinnowCtl_DEMAND 0, 0, keyed0 none .idle, kTrk, by decide +kernel⟩,
   (let s : State := keying (keyed0 (some 1) .idle) .resident
    let t : TrackerId := 0
    let k : KeyedCmd := keyed0 (some 1) .idle
    let x : Tracker := kTrk
    let s1 : State := (s.readPart x.part (.cmd t) ((k.query.toNat + 2 * (2 * kDim k.desc) * k.taken) % 2 ^ 64) (2 * (2 * kDim k.desc))).1
    ⟨s, s1, t, k, x, List.replicate 128 0, false, pair (by decide +kernel), by decide +kernel⟩),
   ⟨keying { keyed0 (some 1) .idle with ahead := [⟨[], false, false⟩] } .resident, kTrk,
     { keyed0 (some 1) .idle with ahead := [⟨[], false, false⟩] }, ⟨[], false, false⟩, [], by decide +kernel⟩,
   (let s : State := keying { keyed0 (some 1) .idle with ahead := [⟨[], false, true⟩] } .resident
    let x : Tracker := kTrk
    let k : KeyedCmd := { keyed0 (some 1) .idle with ahead := [⟨[], false, true⟩] }
    let s1 : State := (s.rejectHead x k).1
    ⟨s, s1, x, k, ⟨[], false, true⟩, [], by decide +kernel⟩),
   (let s : State := keying { keyed0 (some 1) .idle with ahead := [⟨[], true, false⟩] } .resident
    let x : Tracker := kTrk
    let k : KeyedCmd := { keyed0 (some 1) .idle with ahead := [⟨[], true, false⟩] }
    let s1 : State := (s.endHead x k [] (List.replicate k.k noSel) true).1
    ⟨s, s1, x, k, ⟨[], true, false⟩, [], by decide +kernel⟩),
   ⟨keying (keyed0 (some 1) .query) .resident, 0, keyed0 (some 1) .query, 1, by decide +kernel⟩,
   ⟨keying (keyed0 (some 1) .setA) .resident, 0, keyed0 (some 1) .setA, 1, by decide +kernel⟩,
   ⟨keying (keyed0 (some 1) .setB) .resident, 0, keyed0 (some 1) .setB, 1, by decide +kernel⟩,
   (let k : KeyedCmd := { keyed0 (some 1) .pairs with desc := layer0 ||| BitVec.ofNat 512 (fields [(48, 1), (62, 1)]), pairs := [(3, 0)] }
    let ws := (softmax (kTemp k.desc) k.pairs).get (by decide +kernel)
    ⟨keying { keyed0 (some 1) .pairs with desc := layer0 ||| BitVec.ofNat 512 (fields [(48, 1), (62, 1)]), pairs := [(3, 0)] } .resident, 0,
      k, kTrk, ws, rfl, by decide +kernel⟩),
   ⟨keying { keyed0 (some 1) .pairs with pairs := [(3, 0x7FC00000)] } .resident, 0,
     { keyed0 (some 1) .pairs with pairs := [(3, 0x7FC00000)] }, kTrk, by decide +kernel⟩⟩

/-- States and operands that meet the hypotheses of Obligations.SubkeyBanks, clause by clause. -/
theorem meets_subkeyBanks :
    (∃ (s : State), s.fld fJeWinnowCtl_STATE ≠ 0) ∧
    (∃ (s s1 : State) (f : Fill), s.fillStream f = (s1, false)) ∧
    (∃ (s s1 : State) (f : Fill), s.fillStream f = (s1, true) ∧ (0 < s1.bankUsers f.target ∨ s1.banks[f.target].state = .filling)) ∧
    (∃ (s s1 : State) (f : Fill), s.fillStream f = (s1, true) ∧ s1.bankUsers f.target = 0 ∧ s1.banks[f.target].state ≠ .filling) ∧
    (∃ (s : State) (f : Fill), (f.demand = false ∨ (s.streamOf f.t).isSome = true)) ∧
    (∃ (s : State) (f : Fill),
    let u := s.makeRoom f.part 16 s.streams.length
    f.demand = true ∧ s.streamOf f.t = none ∧ u.streamRoom f.part 16 = false) ∧
    (∃ (s : State) (f : Fill),
    let u := s.makeRoom f.part 16 s.streams.length
    f.demand = true ∧ s.streamOf f.t = none ∧ u.streamRoom f.part 16 = true) ∧
    (∃ (s : State) (b : Fin 2) (f : Fill), s.fills.find? (fun f => decide (f.bank = some b)) = some f ∧
      2 * s.banks[b].keys.length < f.bytes) ∧
    (∃ (s : State) (b : Fin 2) (f : Fill), s.fills.find? (fun f => decide (f.bank = some b)) = some f ∧
      f.bytes ≤ 2 * s.banks[b].keys.length) ∧
    (∃ (s : State), s.serving ∧ s.fld fJeWinnowCtl_STATE = 0) ∧
    (∃ (s : State), s.serving ∧ s.fld fJeWinnowCtl_STATE = 1) ∧
    (∃ (s : State), s.serving ∧ s.fld fJeWinnowCtl_STATE = 2) ∧
    (∃ (s : State), s.fld fJeWinnowCtl_STATE = 1 ∧ s.keyed.all (fun k => decide (k.bank = none)) = true ∧
      s.fld fJeWinnowCtl_ENABLE_PENDING = 0) ∧
    (∃ (s : State), s.fld fJeWinnowCtl_STATE = 1 ∧ s.keyed.all (fun k => decide (k.bank = none)) = true ∧
      s.fld fJeWinnowCtl_ENABLE_PENDING = 1) ∧
    (∃ (s : State), s.winnowInit = true ∧ s.fld fJeUnitTest_BUSY = 0) :=
  ⟨⟨on.setFld fJeWinnowCtl_STATE 1, by decide +kernel⟩,
   (let s : State := ((live.setFld fJpStreamQuota_MAX 0).setFld fJpStreamQuota_MIN 0)
    let f : Fill := ⟨0, 5, 0x4000, 256, 2, 32, 1, true, 1, none⟩
    let s1 : State := (s.fillStream f).1
    ⟨s, s1, f, by decide +kernel⟩),
   (let s : State := keying (keyed0 (some 1) .idle) .resident
    let f : Fill := ⟨0, 5, 0x4000, 256, 2, 32, 1, true, 1, none⟩
    let s1 : State := (s.fillStream f).1
    ⟨s, s1, f, by decide +kernel⟩),
   (let s : State := live
    let f : Fill := ⟨0, 5, 0x4000, 256, 2, 32, 1, true, 1, none⟩
    let s1 : State := (s.fillStream f).1
    ⟨s, s1, f, by decide +kernel⟩),
   ⟨live, ⟨0, 5, 0x4000, 256, 2, 32, 1, false, 1, none⟩, by decide +kernel⟩,
   ⟨((live.setFld fJpStreamQuota_MAX 0).setFld fJpStreamQuota_MIN 0), ⟨0, 5, 0x4000, 256, 2, 32, 1, true, 1, none⟩, by decide +kernel⟩,
   ⟨live, ⟨0, 5, 0x4000, 256, 2, 32, 1, true, 1, none⟩, by decide +kernel⟩,
   ⟨{ live with fills := [⟨0, 5, 0x4000, 256, 2, 32, 0, false, 1, some 1⟩], banks := live.banks.set 1 ⟨.filling, 0, 5, 0x4000, List.replicate 127 0, [], false⟩ },
     1, ⟨0, 5, 0x4000, 256, 2, 32, 0, false, 1, some 1⟩, by decide +kernel⟩,
   ⟨{ live with fills := [⟨0, 5, 0x4000, 256, 2, 32, 0, false, 1, some 1⟩], banks := live.banks.set 1 ⟨.filling, 0, 5, 0x4000, List.replicate 128 0, [], false⟩ },
     1, ⟨0, 5, 0x4000, 256, 2, 32, 0, false, 1, some 1⟩, by decide +kernel⟩,
   ⟨on, by decide +kernel⟩,
   ⟨on.setFld fJeWinnowCtl_STATE 1, by decide +kernel⟩,
   ⟨on.setFld fJeWinnowCtl_STATE 2, by decide +kernel⟩,
   ⟨(on.setFld fJeWinnowCtl_STATE 1).setFld fJeWinnowCtl_ENABLE_PENDING 0, by decide +kernel⟩,
   ⟨(on.setFld fJeWinnowCtl_STATE 1).setFld fJeWinnowCtl_ENABLE_PENDING 1, by decide +kernel⟩,
   ⟨{ on with winnowInit := true }, by decide +kernel⟩⟩

/-- States and operands that meet the hypotheses of Obligations.Streams, clause by clause. -/
theorem meets_streams :
    (∃ (s : State) (t : TrackerId) (x : Tracker) (c : StreamCmd), s.startable t 0x30 = some x ∧ s.streamOf t = some c ∧ (∀ r ∈ c.rcvs,
      r.kind ≠ 2)) ∧
    (∃ (s s1 : State) (t : TrackerId) (x : Tracker) (c : StreamCmd) (k a : Nat) (e : Option RangeEnt),
    let o := k * sSlotBytes c.desc + 64 * c.filledIn k
    let pa := sAddr c.desc o
    s.trk t = some x ∧ s.streamOf t = some c ∧ c.fillSlot = some k ∧ x.phase = .running ∧ s.mayFill c k = true ∧
      s.streamLook x c.range (srcAccess x) pa = (s1, some (a, e)) ∧ physSpace a = 2) ∧
    (∃ (s s1 : State) (t : TrackerId) (par : Bool) (x : Tracker) (c : StreamCmd) (k a : Nat) (e : Option RangeEnt),
    let o := k * sSlotBytes c.desc + 64 * c.filledIn k
    let pa := sAddr c.desc o
    let s2 := s1.modStream (fun y => decide (y.t = some t)) fun y => { y with range := e }
    let n := min (4 - pa / 64 % 4) (sPiece c.desc k o / 64)
    let s3 := ((if par then s2.bump fJePathStat_PARITY else s2).bwRead x.part (some t) a (64 * n)).jReadDone (.cmd t)
    s.trk t = some x ∧ s.streamOf t = some c ∧ c.fillSlot = some k ∧ x.phase = .running ∧ s.mayFill c k = true ∧
      s.streamLook x c.range (srcAccess x) pa = (s1, some (a, e)) ∧ physSpace a ≠ 2 ∧ s3.armed = none) ∧
    (∃ (s s1 s2 : State) (t : TrackerId) (r : Fin 64) (par : Option (Fin 4096)) (fails : Bool) (x : Tracker) (c : StreamCmd) (v : Receiver) (sl : SSlot) (gs : List (BitVec 512 × Bool)),
      s.trk t = some x ∧ s.streamOf t = some c ∧ c.rcvs[r.val]? = some v ∧ (v.kind = 1 → v.claim ≠ none) ∧ x.phase = .running ∧
      s.claimsHeld t c = true ∧ v.done = false ∧ v.readySent = false ∧ v.slots < sSlotCount c.desc ∧ v.atBound = false ∧ v.dropped = false ∧
      c.slots.find? (fun sl => decide (sl.k = v.slots) && sl.full c.desc) = some sl ∧ s.stagingRead x c r v sl par fails = (s1, some gs) ∧
      s1.deliverSlot x c.desc v (v.slots * sSlotBytes c.desc) gs = (s2, true)) ∧
    (∃ (s : State) (x : Tracker) (c : StreamCmd) (i : Fin 64) (v : Receiver) (sl : SSlot) (j : Fin 4096),
    let gs := sl.data.zip sl.poison
    let n := min 4 (sSlotGrans c.desc sl.k - 4 * j.val)
    let u := ((s.modRcv x.id i.val fun r => { r with again := some j.val }).bump fJePathStat_PARITY).fetchFor x i sl.k (4 * j.val) n 4
    let line := u.bufOf x.id i
    v.again = none ∧ 4 * j.val < gs.length ∧ n ≤ line.length) ∧
    (∃ (s : State) (t : TrackerId) (r : Fin 64) (x : Tracker) (c : StreamCmd) (v : Receiver), s.trk t = some x ∧ s.streamOf t = some c ∧
      c.rcvs[r.val]? = some v ∧ v.dropped = true ∧ v.atBound = true) :=
  ⟨⟨{ withTrk (sTrk .handed) with streams := [strmCmd (some 0) [rcv 1] []] }, 0, sTrk .handed, strmCmd (some 0) [rcv 1] [],
    by decide +kernel⟩,
   (let s : State := { streaming [rcv 0] [] with rcache := [{ range0 with phys := 2 ^ 53 }] }
    let x : Tracker := sTrk .running
    let c : StreamCmd := strmCmd (some 0) [rcv 0] []
    let k : Nat := 0
    let o := k * sSlotBytes c.desc + 64 * c.filledIn k
    let pa := sAddr c.desc o
    let s1 : State := (s.streamLook x c.range (srcAccess x) pa).1
    let a : Nat := (((s.streamLook x c.range (srcAccess x) pa).2).get (by decide +kernel)).1
    let e : Option RangeEnt := (((s.streamLook x c.range (srcAccess x) pa).2).get (by decide +kernel)).2
    ⟨s, s1, 0, x, c, k, a, e, by decide +kernel⟩),
   (let s : State := streaming [rcv 0] []
    let x : Tracker := sTrk .running
    let c : StreamCmd := strmCmd (some 0) [rcv 0] []
    let k : Nat := 0
    let o := k * sSlotBytes c.desc + 64 * c.filledIn k
    let pa := sAddr c.desc o
    let s1 : State := (s.streamLook x c.range (srcAccess x) pa).1
    let e : Option RangeEnt := (((s.streamLook x c.range (srcAccess x) pa).2).get (by decide +kernel)).2
    ⟨s, s1, 0, true, x, c, k, 0x40000, e, by decide +kernel⟩),
   (let s : State := streaming [{ rcv 1 with claim := some 1 }] [⟨0, [5], [false], false, []⟩]
    let r : Fin 64 := 0
    let par : Option (Fin 4096) := none
    let fails : Bool := false
    let x : Tracker := sTrk .running
    let c : StreamCmd := strmCmd (some 0) [{ rcv 1 with claim := some 1 }] [⟨0, [5], [false], false, []⟩]
    let v : Receiver := { rcv 1 with claim := some 1 }
    let sl : SSlot := ⟨0, [5], [false], false, []⟩
    let gs : List (BitVec 512 × Bool) := [(5, false)]
    let s1 : State := (s.stagingRead x c r v sl par fails).1
    let s2 : State := (s1.deliverSlot x c.desc v (v.slots * sSlotBytes c.desc) gs).1
    ⟨s, s1, s2, 0, r, par, fails, x, c, v, sl, gs, by decide +kernel⟩),
   ⟨streaming [rcv 0] [⟨0, [5], [false], false, []⟩], sTrk .running, strmCmd (some 0) [rcv 0] [⟨0, [5], [false], false, []⟩], 0, rcv 0, ⟨0,
     [5], [false], false, []⟩, 0, by decide +kernel⟩,
   ⟨streaming [{ rcv 0 with dropped := true, atBound := true }] [], 0, 0, sTrk .running,
     strmCmd (some 0) [{ rcv 0 with dropped := true, atBound := true }] [], { rcv 0 with dropped := true, atBound := true },
     by decide +kernel⟩⟩

/-- States and operands that meet the hypotheses of Obligations.StationaryBanks, clause by clause. -/
theorem meets_stationaryBanks :
    (∃ (s : State) (b : Fin 64) (k : Fin 2) (t : TrackerId) (c : StreamCmd),
    let mine (r : Receiver) : Bool :=
      decide (r.kind = 1) && decide (r.buffer = b) && decide (r.claim = some k) && r.readySent && !r.done
    s.streams.find? (fun c => c.rcvs.any mine) = some c ∧ c.t = some t) ∧
    (∃ (s : State) (t : TrackerId) (r : Fin 64) (x : Tracker) (c : StreamCmd) (v : Receiver), s.trk t = some x ∧ s.streamOf t = some c ∧
      c.rcvs[r.val]? = some v ∧ v.waited = true ∧ v.claim = none ∧ s.fld fJeStreamCtl_TOKEN_EVENT ≠ 0) ∧
    (∃ (s : State) (r : RingNo) (x : Ring) (y u : _),
    let cand := (lookAhead s x.ctx.runahead x.admitAt (s.softPending r) x.fetched).filter fun y => decide (cOp y.2.1 = 0x30)
    s.ring r = some x ∧ s.fld fJeStreamCtl_EARLY ≠ 0 ∧ x.ctx.halted = false ∧ x.phase ≠ .disabling ∧ s.partEnabled x.part = true ∧
      s.hardPending r = false ∧ cand.find? (fun y => (s.earlyOf (.ring r) y.1).isNone && !(y.1 ∈ x.noEarly)) = some y ∧
      s.earlyStart x.part r y.1 y.2.1 y.2.2 = (u, true)) ∧
    (∃ (s : State) (r : RingNo) (x : Ring) (c : _),
    let cand := (lookAhead s x.ctx.runahead x.admitAt (s.softPending r) x.fetched).filter fun y => decide (cOp y.2.1 = 0x30)
    s.ring r = some x ∧ s.fld fJeStreamCtl_EARLY ≠ 0 ∧ x.ctx.halted = false ∧ x.phase ≠ .disabling ∧ s.partEnabled x.part = true ∧
      s.hardPending r = false ∧ cand.find? (fun y => (s.earlyOf (.ring r) y.1).isNone && !(y.1 ∈ x.noEarly)) = none ∧
      (cand.filterMap fun y => s.earlyOf (.ring r) y.1).find? (fun c => decide (c.fillSlot ≠ none) && !c.paused) = some c) ∧
    (∃ (s : State) (r : RingNo) (x : Ring),
    let cand := (lookAhead s x.ctx.runahead x.admitAt (s.softPending r) x.fetched).filter fun y => decide (cOp y.2.1 = 0x30)
    s.ring r = some x ∧ s.fld fJeStreamCtl_EARLY ≠ 0 ∧ x.ctx.halted = false ∧ x.phase ≠ .disabling ∧ s.partEnabled x.part = true ∧
      s.hardPending r = false ∧ cand.find? (fun y => (s.earlyOf (.ring r) y.1).isNone && !(y.1 ∈ x.noEarly)) = none ∧
      (cand.filterMap fun y => s.earlyOf (.ring r) y.1).find? (fun c => decide (c.fillSlot ≠ none) && !c.paused) = none) ∧
    (∃ (s s1 : State) (c : StreamCmd) (k : Nat),
    let o := k * sSlotBytes c.desc + 64 * c.filledIn k
    let pa := sAddr c.desc o
    c.fillSlot = some k ∧ s.mayFill c k = true ∧ s.earlyAddr c.part c.range pa = (s1, .pause)) ∧
    (∃ (s s1 : State) (c : StreamCmd) (k : Nat) (a e : _),
    let o := k * sSlotBytes c.desc + 64 * c.filledIn k
    let pa := sAddr c.desc o
    c.fillSlot = some k ∧ s.mayFill c k = true ∧ s.earlyAddr c.part c.range pa = (s1, .read a e) ∧ s1.filterUse < 16384) :=
  ⟨⟨streaming [{ rcv 1 with claim := some 1, readySent := true }] [], 63, 1, 0,
    strmCmd (some 0) [{ rcv 1 with claim := some 1, readySent := true }] [], by decide +kernel⟩,
   ⟨streaming [{ rcv 1 with waited := true }] [], 0, 0, sTrk .running, strmCmd (some 0) [{ rcv 1 with waited := true }] [],
     { rcv 1 with waited := true }, by decide +kernel⟩,
   (let s : State := { live with rings := [{ ring0 with ctx := { ring0.ctx with runahead := 15 }, fetched := [cmd [(0, 0x30), (64, 5), (128, 0x1000)]] }], mem := memPutList [] 0x1000 (leBytes 160 strm.toNat) }
    let r : RingNo := 0
    let x : Ring := { ring0 with ctx := { ring0.ctx with runahead := 15 }, fetched := [cmd [(0, 0x30), (64, 5), (128, 0x1000)]] }
    let y := (0, cmd [(0, 0x30), (64, 5), (128, 0x1000)], false)
    let u := (s.earlyStart x.part r y.1 y.2.1 y.2.2).1
    ⟨s, r, x, y, u, by decide +kernel⟩),
   ⟨{ live with rings := [{ ring0 with ctx := { ring0.ctx with runahead := 15 }, fetched := [cmd [(0, 0x30), (64, 5), (128, 0x1000)]] }], streams := [{ strmCmd none [rcv 0] [] with ring := some (0, 0) }] },
     0, { ring0 with ctx := { ring0.ctx with runahead := 15 }, fetched := [cmd [(0, 0x30), (64, 5), (128, 0x1000)]] },
     { strmCmd none [rcv 0] [] with ring := some (0, 0) }, by decide +kernel⟩,
   ⟨{ live with rings := [{ ring0 with ctx := { ring0.ctx with runahead := 15 }, fetched := [cmd [(0, 0x30), (64, 5), (128, 0x1000)]] }], streams := [{ strmCmd none [rcv 0] [] with ring := some (0, 0), paused := true }] },
     0, { ring0 with ctx := { ring0.ctx with runahead := 15 }, fetched := [cmd [(0, 0x30), (64, 5), (128, 0x1000)]] }, by decide +kernel⟩,
   (let s : State := { live with streams := [strmCmd none [rcv 0] []], rcache := [{ range0 with read := false }] }
    let c : StreamCmd := strmCmd none [rcv 0] []
    let k : Nat := 0
    let o := k * sSlotBytes c.desc + 64 * c.filledIn k
    let pa := sAddr c.desc o
    let s1 : State := (s.earlyAddr c.part c.range pa).1
    ⟨s, s1, c, k, by decide +kernel⟩),
   ⟨{ live with streams := [strmCmd none [rcv 0] []] }, { live with streams := [strmCmd none [rcv 0] []] }, strmCmd none [rcv 0] [], 0,
     0x40000, range0, by decide +kernel⟩⟩

/-- States and operands that meet the hypotheses of Obligations.ScatterCommands, clause by clause. -/
theorem meets_scatterCommands :
    (∃ (s : State) (t : TrackerId) (x : Tracker), s.startable t 0x20 = some x ∧ s.servedOf t = none) ∧
    (∃ (s : State) (t : TrackerId) (x : Tracker) (y : _), s.startable t 0x20 = some x ∧ s.servedOf t = some y) ∧
    (∃ (s : State) (t : TrackerId) (x : Tracker), s.startable t 0x21 = some x) ∧
    (∃ (s : State) (t : TrackerId) (bag : BitVec 21) (x : Tracker) (c : Scatter) (g : Bag) (d : Desc) (s1 grad : _),
    let n := if x.shards = [] then d.dim else x.total
    let stride := if cStride x.cmd = 0 then 4 * n else cStride x.cmd
    s.trk t = some x ∧ x.op = 0x20 ∧ s.scatterOf t = some c ∧ s.bag t bag.toNat = some g ∧ x.desc = some d ∧ g.token = true ∧
      g.bag ∉ c.gradsDone ∧ x.marks.aborted = false ∧ x.phase = .running ∧ c.grads.find? (fun z => decide (z.1 = bag.toNat)) = none ∧
      s.servedOf t = none ∧ s.readCols x.part t ((cW5 x.cmd).toNat + bag.toNat * stride) n = (s1, some grad)) ∧
    (∃ (s : State) (t : TrackerId) (bag : BitVec 21) (x : Tracker) (c : Scatter) (g : Bag) (d : Desc) (y : _), s.trk t = some x ∧
      x.op = 0x20 ∧ s.scatterOf t = some c ∧ s.bag t bag.toNat = some g ∧ x.desc = some d ∧ g.token = true ∧ g.bag ∉ c.gradsDone ∧
      x.marks.aborted = false ∧ x.phase = .running ∧ c.grads.find? (fun z => decide (z.1 = bag.toNat)) = none ∧ s.servedOf t = some y) ∧
    (∃ (s : State) (t : TrackerId) (bag : BitVec 21) (x : Tracker) (c : Scatter) (g : Bag) (d : Desc) (z : _), s.trk t = some x ∧
      x.op = 0x20 ∧ s.scatterOf t = some c ∧ s.bag t bag.toNat = some g ∧ x.desc = some d ∧ g.token = true ∧ g.bag ∉ c.gradsDone ∧
      x.marks.aborted = false ∧ x.phase = .running ∧ c.grads.find? (fun z => decide (z.1 = bag.toNat)) = some z) ∧
    (∃ (s s1 : State) (t : TrackerId) (i : BitVec 21) (x : Tracker) (a : Apply) (d : Desc) (r : ApplyRow) (g : List (W32 × Bool)),
      s.trk t = some x ∧ x.op = 0x21 ∧ s.applyOf t = some a ∧ x.desc = some d ∧
      a.rows.find? (fun r => decide (r.i = i.toNat) && decide (r.grad = none)) = some r ∧ s.localShard x = true ∧
      s.readCols x.part t ((cW3 x.cmd).toNat + 4 * d.dim * i.toNat) d.dim = (s1, some g) ∧ g.any (·.2) = true) ∧
    (∃ (s s1 : State) (t : TrackerId) (i : BitVec 21) (x : Tracker) (a : Apply) (d : Desc) (r : ApplyRow) (g : List (W32 × Bool)),
      s.trk t = some x ∧ x.op = 0x21 ∧ s.applyOf t = some a ∧ x.desc = some d ∧
      a.rows.find? (fun r => decide (r.i = i.toNat) && decide (r.grad = none)) = some r ∧ s.localShard x = true ∧
      s.readCols x.part t ((cW3 x.cmd).toNat + 4 * d.dim * i.toNat) d.dim = (s1, some g) ∧ g.any (·.2) = false ∧ a.rule = 0) ∧
    (∃ (s s1 : State) (t : TrackerId) (i : BitVec 21) (x : Tracker) (a : Apply) (d : Desc) (r : ApplyRow) (g : List (W32 × Bool)) (st s2 ph h : _),
      s.trk t = some x ∧ x.op = 0x21 ∧ s.applyOf t = some a ∧ x.desc = some d ∧
      a.rows.find? (fun r => decide (r.i = i.toNat) && decide (r.grad = none)) = some r ∧ s.localShard x = true ∧
      s.readCols x.part t ((cW3 x.cmd).toNat + 4 * d.dim * i.toNat) d.dim = (s1, some g) ∧ g.any (·.2) = false ∧ a.rule ≠ 0 ∧
      x.desc2 = some st ∧ s1.look x.part (.cmd t) (st.rowBase 0 + r.x / 16 * st.stride 0 + 4 * (r.x % 16)) .add = (s2, some (ph, h))) ∧
    (∃ (s : State) (t : TrackerId) (x : Tracker) (a : Apply) (d : Desc) (r : ApplyRow) (v : W32), s.trk t = some x ∧ s.applyOf t = some a ∧
      a.rows.find? (fun r => r.state.isSome) = some r ∧ r.state = some v ∧ x.desc = some d) ∧
    (∃ (s : State) (n : SliceId) (t : TrackerId) (x : Tracker) (c : Scatter),
    let mine := c.places.filter fun y => decide (y.n = n)
    s.trk t = some x ∧ s.scatterOf t = some c ∧ c.ended.getLsbD n = true ∧ c.reported.getLsbD n = false ∧ s.adding n t = false ∧
      mine = []) ∧
    (∃ (s : State) (n : SliceId) (t : TrackerId) (x : Tracker) (c : Scatter) (s1 l : _),
    let mine := c.places.filter fun y => decide (y.n = n)
    s.trk t = some x ∧ s.scatterOf t = some c ∧ c.ended.getLsbD n = true ∧ c.reported.getLsbD n = false ∧ s.adding n t = false ∧ mine ≠ [] ∧
      s.sgradOps x mine = (s1, some l)) ∧
    (∃ (s : State) (e : PreAgg) (x : Tracker), s.trk e.c.t = some x) :=
  ⟨⟨withTrk (trk scat .handed), 0, trk scat .handed, by decide +kernel⟩,
   ⟨{ withTrk (trk scat .handed) with served := [⟨4095, 5, 3, [], some 0⟩] }, 0, trk scat .handed, ⟨4095, 5, 3, [], some 0⟩,
     by decide +kernel⟩,
   ⟨withTrk ({ apTrk with phase := .handed }), 0, { apTrk with phase := .handed }, by decide +kernel⟩,
   (let s : State := scattering
    let t : TrackerId := 0
    let bag : BitVec 21 := 0
    let x : Tracker := scTrk
    let d : Desc := tab0
    let n := if x.shards = [] then d.dim else x.total
    let stride := if cStride x.cmd = 0 then 4 * n else cStride x.cmd
    let s1 := (s.readCols x.part t ((cW5 x.cmd).toNat + bag.toNat * stride) n).1
    ⟨s, t, bag, x, scatter0, { gBag [] with token := true }, d, s1, [(0, false), (0, false)], by decide +kernel⟩),
   ⟨{ scattering with served := [⟨4095, 5, 3, [], some 0⟩] }, 0, 0, scTrk, scatter0, { gBag [] with token := true }, tab0, ⟨4095, 5, 3, [],
     some 0⟩, by decide +kernel⟩,
   ⟨{ scattering with scatters := [{ scatter0 with grads := [(0, [(5, false), (6, false)])] }] }, 0, 0, scTrk,
     { scatter0 with grads := [(0, [(5, false), (6, false)])] }, { gBag [] with token := true }, tab0, (0, [(5, false), (6, false)]),
     by decide +kernel⟩,
   (let s : State := { withTrk (apTrk) with applies := [apply0 ⟨0, 7, 0, 7, none, none⟩], poison := [0x1C0] }
    let t : TrackerId := 0
    let i : BitVec 21 := 0
    let x : Tracker := apTrk
    let d : Desc := tab0
    let s1 : State := (s.readCols x.part t ((cW3 x.cmd).toNat + 4 * d.dim * i.toNat) d.dim).1
    ⟨s, s1, t, i, x, apply0 ⟨0, 7, 0, 7, none, none⟩, d, ⟨0, 7, 0, 7, none, none⟩, [(0, true), (0, true)], by decide +kernel⟩),
   (let s : State := { withTrk (apTrk) with applies := [apply0 ⟨0, 7, 0, 7, none, none⟩] }
    let t : TrackerId := 0
    let i : BitVec 21 := 0
    let x : Tracker := apTrk
    let d : Desc := tab0
    let s1 : State := (s.readCols x.part t ((cW3 x.cmd).toNat + 4 * d.dim * i.toNat) d.dim).1
    ⟨s, s1, t, i, x, apply0 ⟨0, 7, 0, 7, none, none⟩, d, ⟨0, 7, 0, 7, none, none⟩, [(0, false), (0, false)], by decide +kernel⟩),
   (let s : State := { withTrk ({ apTrk with pins := [⟨0, 0, tab0⟩, ⟨0, 1, tab0⟩] }) with applies := [{ apply0 ⟨0, 7, 0, 7, none, none⟩ with rule := 1 }] }
    let t : TrackerId := 0
    let i : BitVec 21 := 0
    let x : Tracker := { apTrk with pins := [⟨0, 0, tab0⟩, ⟨0, 1, tab0⟩] }
    let d : Desc := tab0
    let r : ApplyRow := ⟨0, 7, 0, 7, none, none⟩
    let st := tab0
    let s1 : State := (s.readCols x.part t ((cW3 x.cmd).toNat + 4 * d.dim * i.toNat) d.dim).1
    let s2 := (s1.look x.part (.cmd t) (st.rowBase 0 + r.x / 16 * st.stride 0 + 4 * (r.x % 16)) .add).1
    ⟨s, s1, t, i, x, { apply0 ⟨0, 7, 0, 7, none, none⟩ with rule := 1 }, d, r, [(0, false), (0, false)], st, s2, 0x10001C, 0,
      by decide +kernel⟩),
   ⟨{ withTrk apTrk with applies := [apply0 ⟨0, 7, 0, 7, some [0, 0], some 5⟩] }, 0, apTrk, apply0 ⟨0, 7, 0, 7, some [0, 0], some 5⟩, tab0,
     ⟨0, 7, 0, 7, some [0, 0], some 5⟩, 5, by decide +kernel⟩,
   ⟨scattering, 7, 0, scTrk, scatter0, by decide +kernel⟩,
   (let s : State := { scattering with scatters := [{ scatter0 with places := [⟨7, 0, 1, 5⟩] }] }
    let n : SliceId := 7
    let x : Tracker := scTrk
    let c : Scatter := { scatter0 with places := [⟨7, 0, 1, 5⟩] }
    let mine := c.places.filter fun y => decide (y.n = n)
    let s1 := (s.sgradOps x mine).1
    let l := ((s.sgradOps x mine).2).get (by decide +kernel)
    ⟨s, n, 0, x, c, s1, l, by decide +kernel⟩),
   ⟨{ scattering with preagg := [⟨7, ⟨0, 0x100000, 0, 0, 0, 0, 0, [some 5], false⟩, 3⟩] }, ⟨7, ⟨0, 0x100000, 0, 0, 0, 0, 0, [some 5],
     false⟩, 3⟩, scTrk, by decide +kernel⟩⟩

/-- States and operands that meet the hypotheses of Obligations.RakeLinks, clause by clause. -/
theorem meets_rakeLinks :
    (∃ (s : State) (n : SliceId) (m : RakeMsg) (rest : List RakeMsg),
    let l : RakeLink := { s.links[n] with flight := rest }
    s.links[n].flight = m :: rest ∧ s.armed = none ∧ m.seq = l.expect) ∧
    (∃ (s : State) (n : SliceId) (m : RakeMsg) (rest : List RakeMsg),
    let l : RakeLink := { s.links[n] with flight := rest }
    s.links[n].flight = m :: rest ∧ s.armed = none ∧ m.seq ≠ l.expect) ∧
    (∃ (s : State) (n : SliceId) (q : BitVec 12) (rest : List (BitVec 12)), s.links[n].acks = q :: rest) ∧
    (∃ (s : State) (n : SliceId) (q : BitVec 12) (rest : List (BitVec 12)), s.links[n].resend = q :: rest) ∧
    (∃ (s : State) (n : SliceId) (t : TrackerId), (n, t) ∈ s.endTokens ∧ s.links[n].owes t = false ∧ (∀ y ∈ s.endTokens, y.1 = n → y = (n,
      t))) ∧
    (∃ (s : State) (e : PreAgg) (x : Tracker), s.trk e.c.t = some x) ∧
    (∃ (s s1 : State) (n : SliceId) (o : AddOp),
      ({ s with addQ := eraseFirst (fun y => decide (y = o)) s.addQ } : State).addHbm (sliceGens n) o = some s1 ∧
      s.addQ.find? (fun o => decide (o.n = n) && !(s.isBoard o.addr) && (o.issued || !(s.flipping o.addr)) && !(s.bankWaits (o.addr / 64))) = some o ∧
      s.tracked o.addr = false) :=
  ⟨⟨{ live with links := live.links.set 7 { RakeLink.reset with flight := [⟨0, []⟩] } }, 7, ⟨0, []⟩, [], by decide +kernel⟩,
   ⟨{ live with links := live.links.set 7 { RakeLink.reset with flight := [⟨4095, []⟩] } }, 7, ⟨4095, []⟩, [], by decide +kernel⟩,
   ⟨{ live with links := live.links.set 7 { RakeLink.reset with acks := [4095] } }, 7, 4095, [], by decide +kernel⟩,
   ⟨{ live with links := live.links.set 7 { RakeLink.reset with resend := [4095] } }, 7, 4095, [], by decide +kernel⟩,
   ⟨{ scattering with endTokens := [(7, 0)] }, 7, 0, by decide +kernel, by decide +kernel, fun _ h _ => List.mem_singleton.1 h⟩,
   ⟨{ scattering with mergeStore := [⟨7, ⟨0, 0x100000, 0, 0, 0, 0, 0, [some 5], false⟩, 3⟩] }, ⟨7, ⟨0, 0x100000, 0, 0, 0, 0, 0, [some 5],
     false⟩, 3⟩, scTrk, by decide +kernel⟩,
   (let s : State := { live with addQ := [⟨0, 0, none, 0, 0x5000, .int64 5, false, false, false⟩] }
    let n : SliceId := 0
    let o : AddOp := ⟨0, 0, none, 0, 0x5000, .int64 5, false, false, false⟩
    let s1 : State := (({ s with addQ := eraseFirst (fun y => decide (y = o)) s.addQ } : State).addHbm (sliceGens n) o).get (by decide +kernel)
    ⟨s, s1, n, o, got (by decide +kernel), by decide +kernel⟩)⟩

/-- States and operands that meet the hypotheses of Obligations.MixedWidthTables, clause by clause. -/
theorem meets_mixedWidthTables :
    (∃ (s s1 : State) (q : PopAdd) (r : List PopAdd), ({ s with popAdds := r } : State).popTake q = .ok s1 ∧ s.popAdds = q :: r) ∧
    (∃ (s s1 s2 : State) (q : PopAdd) (c : Nat) (bad : Bool),
    let old : W32 := BitVec.ofNat 32 c
    let new : Int := min (toI32 old + 1) (2 ^ 31 - 1)
    s.popCount q.part q.desc q.x = .ok (s1, c, bad) ∧ s1.putCount q.part q.desc q.x (BitVec.ofInt 32 new).toNat = .ok s2 ∧ bad = true) ∧
    (∃ (s s1 s2 : State) (q : PopAdd) (c : Nat) (bad : Bool),
    let old : W32 := BitVec.ofNat 32 c
    let new : Int := min (toI32 old + 1) (2 ^ 31 - 1)
    s.popCount q.part q.desc q.x = .ok (s1, c, bad) ∧ s1.putCount q.part q.desc q.x (BitVec.ofInt 32 new).toNat = .ok s2 ∧ bad = false ∧
      toI32 old < (Desc.upThresh q.desc q.cls : Int)) ∧
    (∃ (s s1 s2 : State) (q : PopAdd) (c : Nat) (bad : Bool) (s3 : _),
    let old : W32 := BitVec.ofNat 32 c
    let new : Int := min (toI32 old + 1) (2 ^ 31 - 1)
    s.popCount q.part q.desc q.x = .ok (s1, c, bad) ∧ s1.putCount q.part q.desc q.x (BitVec.ofInt 32 new).toNat = .ok s2 ∧
      s2.promote q = .ok s3 ∧ bad = false ∧ (Desc.upThresh q.desc q.cls : Int) ≤ toI32 old) ∧
    (∃ (s : State), s.fld fJePopCtl_ENABLE = 0) ∧
    (∃ (s : State), s.fld fJePopCtl_EPOCH = 0) ∧
    (∃ (s : State), s.fld fJePopCtl_ENABLE ≠ 0 ∧ s.fld fJePopCtl_EPOCH ≠ 0 ∧ s.scan = none) ∧
    (∃ (s : State) (c : _), s.fld fJePopCtl_ENABLE ≠ 0 ∧ s.fld fJePopCtl_EPOCH ≠ 0 ∧ s.scan = some c) ∧
    (∃ (s s1 : State) (k : Fin 64) (m : RowMove), s.doMove m = .ok s1 ∧ s.moves.find? (fun m => decide (m.id = k)) = some m) ∧
    (∃ (s : State) (k : Fin 64) (m : RowMove) (a : Nat) (acc : XAcc), s.doMove m = .error (.fault a acc) ∧
      s.moves.find? (fun m => decide (m.id = k)) = some m) ∧
    (∃ (s s1 s2 : State) (b : SlotBack) (f : FreeRing), s.ringRec b.part b.desc b.cls = .ok (s1, f) ∧
      s1.ringAppend b.part f [b.slot] = .ok s2 ∧
      s.slotBacks.find? (fun b => s.trackers.all fun x => !x.admitted || decide (b.before ≤ x.serial)) = some b) ∧
    (∃ (s s1 : State) (t : TrackerId) (x : Tracker) (g : Current), s.startable t 0x40 = some x ∧
      s.graft.find? (fun g => decide (g.part = x.part) && decide (g.table = cTable x.cmd)) = some g ∧
      s.writePart x.part (.cmd t) (s.fld fJpTableDir_BASE x.part * 4096 + 128 * cTable x.cmd) (leBytes 128 g.desc.toNat) false (some t) = (s1,
      true)) :=
  ⟨(let s : State := { live with popAdds := [⟨0, 0, 7, 0, 3, tabP⟩] }
    let q : PopAdd := ⟨0, 0, 7, 0, 3, tabP⟩
    let r : List PopAdd := []
    let s1 : State := okOf (e := ({ s with popAdds := r } : State).popTake q) (by decide +kernel)
    ⟨s, s1, q, r, okGot (by decide +kernel), by decide +kernel⟩),
   (let s : State := { live with poison := [0x244] }
    let q : PopAdd := ⟨0, 0, 7, 0, 3, tabP⟩
    let c : Nat := 0
    let s1 : State := (okOf (e := s.popCount q.part q.desc q.x) (by decide +kernel)).1
    let old : W32 := BitVec.ofNat 32 c
    let new : Int := min (toI32 old + 1) (2 ^ 31 - 1)
    let s2 : State := okOf (e := s1.putCount q.part q.desc q.x (BitVec.ofInt 32 new).toNat) (by decide +kernel)
    ⟨s, s1, s2, q, c, true, okPair (by decide +kernel) (by decide +kernel), okGot (by decide +kernel), by decide +kernel⟩),
   (let s : State := live
    let q : PopAdd := ⟨0, 0, 7, 0, 3, tabP⟩
    let c : Nat := 0
    let s1 : State := (okOf (e := s.popCount q.part q.desc q.x) (by decide +kernel)).1
    let old : W32 := BitVec.ofNat 32 c
    let new : Int := min (toI32 old + 1) (2 ^ 31 - 1)
    let s2 : State := okOf (e := s1.putCount q.part q.desc q.x (BitVec.ofInt 32 new).toNat) (by decide +kernel)
    ⟨s, s1, s2, q, c, false, okPair (by decide +kernel) (by decide +kernel), okGot (by decide +kernel), by decide +kernel⟩),
   (let s : State := { live with mem := [(0x911C, 5)] }
    let q : PopAdd := ⟨0, 0, 7, 0, 3, tabP⟩
    let c : Nat := 5
    let s1 : State := (okOf (e := s.popCount q.part q.desc q.x) (by decide +kernel)).1
    let old : W32 := BitVec.ofNat 32 c
    let new : Int := min (toI32 old + 1) (2 ^ 31 - 1)
    let s2 : State := okOf (e := s1.putCount q.part q.desc q.x (BitVec.ofInt 32 new).toNat) (by decide +kernel)
    let s3 := okOf (e := s2.promote q) (by decide +kernel)
    ⟨s, s1, s2, q, c, false, s3, okPair (by decide +kernel) (by decide +kernel), okGot (by decide +kernel), okGot (by decide +kernel),
      by decide +kernel⟩),
   ⟨on, by decide +kernel⟩,
   ⟨on.setFld fJePopCtl_EPOCH 0, by decide +kernel⟩,
   ⟨(on.setFld fJePopCtl_ENABLE 1).setFld fJePopCtl_EPOCH 1, by decide +kernel⟩,
   ⟨{ (on.setFld fJePopCtl_ENABLE 1).setFld fJePopCtl_EPOCH 1 with scan := some ⟨0, 0, 0, 0, false⟩ }, ⟨0, 0, 0, 0, false⟩,
     by decide +kernel⟩,
   (let s : State := { live with moves := [move0] }
    let m : RowMove := move0
    let s1 : State := okOf (e := s.doMove m) (by decide +kernel)
    ⟨s, s1, 63, m, okGot (by decide +kernel), by decide +kernel⟩),
   ⟨{ live with moves := [move0], engAborted := [(0, 0x100040)] }, 63, move0, 0x100040, .read, errGot (by decide +kernel),
     by decide +kernel⟩,
   (let s : State := { live with slotBacks := [⟨0, 0, 0, 3, 0, tabP⟩], mem := [(0x9001, 0xA0), (0x9008, 2)] }
    let b : SlotBack := ⟨0, 0, 0, 3, 0, tabP⟩
    let f : FreeRing := ⟨0x9000, 0xA000, 2, 0, 0, false⟩
    let s1 : State := (okOf (e := s.ringRec b.part b.desc b.cls) (by decide +kernel)).1
    let s2 : State := okOf (e := s1.ringAppend b.part f [b.slot]) (by decide +kernel)
    ⟨s, s1, s2, b, f, okPair (by decide +kernel) (by decide +kernel), okGot (by decide +kernel), by decide +kernel⟩),
   (let s : State := { withTrk (trk (cmd [(0, 0x40), (128, 0x1000)]) .handed) with graft := [⟨0, 0, tab0⟩] }
    let t : TrackerId := 0
    let x : Tracker := trk (cmd [(0, 0x40), (128, 0x1000)]) .handed
    let g : Current := ⟨0, 0, tab0⟩
    let s1 : State := (s.writePart x.part (.cmd t) (s.fld fJpTableDir_BASE x.part * 4096 + 128 * cTable x.cmd) (leBytes 128 g.desc.toNat) false (some t)).1
    ⟨s, s1, t, x, g, by decide +kernel⟩)⟩

/-- States and operands that meet the hypotheses of Obligations.ObjectActions, clause by clause. -/
theorem meets_objectActions :
    (∃ (s : State) (p : Part) (k : _), s.serving ∧ (k = 1 ∨ k = 2 ∨ k = 3) ∧ s.fld fJpObjCtl_BUSY p = 1) ∧
    (∃ (s : State) (p : Part) (k : _), s.serving ∧ (k = 1 ∨ k = 2 ∨ k = 3) ∧ s.fld fJpObjCtl_BUSY p = 0 ∧ s.partEnabled p = false) ∧
    (∃ (s : State) (p : Part) (h : W32) (k : _), s.serving ∧ (k = 1 ∨ k = 2 ∨ k = 3) ∧ s.fld fJpObjCtl_BUSY p = 0 ∧ s.partEnabled p = true ∧
      s.objIndexOk p h = false) ∧
    (∃ (s : State) (p : Part) (h : W32), s.partEnabled p = true ∧ s.objIndexOk p h = true) ∧
    (∃ (s s1 : State) (p : Part) (h : W32) (e : Nat) (bad : Bool), s.engRead p (s.objRecAddr p h) 32 (quiet := true) = .ok (s1, e, bad) ∧
      (s.part p).objAct = some (1, h) ∧ (bad = true ∨ s1.recordBad p e = true)) ∧
    (∃ (s s1 : State) (p : Part) (h : W32) (e : Nat) (bad : Bool), s.engRead p (s.objRecAddr p h) 32 (quiet := true) = .ok (s1, e, bad) ∧
      (s.part p).objAct = some (1, h) ∧ bad = false ∧ s1.recordBad p e = false ∧ natBits e 120 8 ≠ bitsOf h 24 8) ∧
    (∃ (s s1 : State) (p : Part) (h : W32) (e : Nat) (bad : Bool) (s2 : _), s.engRead p (s.objRecAddr p h) 32 (quiet := true) = .ok (s1, e,
      bad) ∧ s1.engPut p (s1.objRecAddr p h) (leBytes 1 (e % 256 + 1)) (quiet := true) = .ok s2 ∧ (s.part p).objAct = some (1, h) ∧
      bad = false ∧ s1.recordBad p e = false ∧ natBits e 120 8 = bitsOf h 24 8) ∧
    (∃ (s : State) (p : Part) (h : W32) (k : Nat), (s.part p).objAct = some (k, h) ∧ k ≠ 1 ∧ s.obj p h = none) ∧
    (∃ (s s1 : State) (p : Part) (h : W32) (o : Obj) (cur : Bool), s.objCurrent p h (dirBound (s.fld fJpTableDir_SIZE_LOG2 p) 20) = .ok (s1,
      cur) ∧ (s.part p).objAct = some (2, h) ∧ s.obj p h = some o) ∧
    (∃ (s : State) (p : Part) (h : W32) (k : Nat) (o : Obj), (s.part p).objAct = some (k, h) ∧ k ≠ 1 ∧ k ≠ 2 ∧ s.obj p h = some o ∧
      o.moving = true) ∧
    (∃ (s : State) (p : Part) (h : W32) (k : Nat) (o : Obj) (s1 : _),
      s.engPut p (s.objRecAddr p h) (({ o with torn := false } : Obj).bytes true) (quiet := true) = .ok s1 ∧ (s.part p).objAct = some (k,
      h) ∧ k ≠ 1 ∧ k ≠ 2 ∧ s.obj p h = some o ∧ o.moving = false) ∧
    (∃ (s : State) (p : Part) (h : W32) (o : Obj), (s.part p).retire = some h ∧ s.obj p h = some o ∧ s.objUnused p h = false) ∧
    (∃ (s : State) (p : Part) (h : W32) (o : Obj) (s1 : _), s.engPut p (s.objRecAddr p h) (o.bytes false) (quiet := true) = .ok s1 ∧
      (s.part p).retire = some h ∧ s.obj p h = some o ∧ s.objUnused p h = true) :=
  ⟨⟨live.setFld fJpObjCtl_BUSY 1, 0, 3, by decide +kernel⟩,
   ⟨on, 0, 2, by decide +kernel⟩,
   ⟨live, 0, 0, 1, by decide +kernel⟩,
   ⟨live.setFld fJpObjDir_SIZE_LOG2 4, 0, 15, by decide +kernel⟩,
   (let s : State := { withPart fun ps => { ps with objAct := some (1, 0) } with mem := [(9, 16)], poison := [0] }
    let p : Part := 0
    let h : W32 := 0
    let e : Nat := 4096 * 2 ^ 64
    let s1 : State := (okOf (e := s.engRead p (s.objRecAddr p h) 32 (quiet := true)) (by decide +kernel)).1
    ⟨s, s1, p, h, e, true, okPair (by decide +kernel) (by decide +kernel), by decide +kernel⟩),
   (let s : State := { withPart fun ps => { ps with objAct := some (1, 0x1000000) } with mem := [(9, 16)] }
    let p : Part := 0
    let h : W32 := 0x1000000
    let e : Nat := 4096 * 2 ^ 64
    let s1 : State := (okOf (e := s.engRead p (s.objRecAddr p h) 32 (quiet := true)) (by decide +kernel)).1
    ⟨s, s1, p, h, e, false, okPair (by decide +kernel) (by decide +kernel), by decide +kernel⟩),
   (let s : State := { withPart fun ps => { ps with objAct := some (1, 0) } with mem := [(9, 16)] }
    let p : Part := 0
    let h : W32 := 0
    let e : Nat := 4096 * 2 ^ 64
    let s1 : State := (okOf (e := s.engRead p (s.objRecAddr p h) 32 (quiet := true)) (by decide +kernel)).1
    let s2 := okOf (e := s1.engPut p (s1.objRecAddr p h) (leBytes 1 (e % 256 + 1)) (quiet := true)) (by decide +kernel)
    ⟨s, s1, p, h, e, false, s2, okPair (by decide +kernel) (by decide +kernel), okGot (by decide +kernel), by decide +kernel⟩),
   ⟨withPart fun ps => { ps with objAct := some (3, 5) }, 0, 5, 3, by decide +kernel⟩,
   (let s : State := { withPart fun ps => { ps with objAct := some (2, 0) } with objs := [obj0] }
    let p : Part := 0
    let h : W32 := 0
    let s1 : State := (okOf (e := s.objCurrent p h (dirBound (s.fld fJpTableDir_SIZE_LOG2 p) 20)) (by decide +kernel)).1
    ⟨s, s1, p, h, obj0, false, okPair (by decide +kernel) (by decide +kernel), by decide +kernel⟩),
   ⟨{ withPart fun ps => { ps with objAct := some (3, 0) } with objs := [{ obj0 with moving := true }] }, 0, 0, 3,
     { obj0 with moving := true }, by decide +kernel⟩,
   (let s : State := { withPart fun ps => { ps with objAct := some (3, 0) } with objs := [{ obj0 with torn := true }] }
    let p : Part := 0
    let h : W32 := 0
    let o : Obj := { obj0 with torn := true }
    let s1 := okOf (e := s.engPut p (s.objRecAddr p h) (({ o with torn := false } : Obj).bytes true) (quiet := true)) (by decide +kernel)
    ⟨s, p, h, 3, o, s1, okGot (by decide +kernel), by decide +kernel⟩),
   ⟨{ withPart fun ps => { ps with retire := some 0 } with objs := [{ obj0 with moving := true }] }, 0, 0, { obj0 with moving := true },
     by decide +kernel⟩,
   (let s : State := { withPart fun ps => { ps with retire := some 0 } with objs := [obj0] }
    let p : Part := 0
    let h : W32 := 0
    let o : Obj := obj0
    let s1 := okOf (e := s.engPut p (s.objRecAddr p h) (o.bytes false) (quiet := true)) (by decide +kernel)
    ⟨s, p, h, o, s1, okGot (by decide +kernel), by decide +kernel⟩)⟩

/-- States and operands that meet the hypotheses of Obligations.ObjectMoves, clause by clause. -/
theorem meets_objectMoves :
    (∃ (s : State) (t : TrackerId) (x : Tracker) (o : Obj), s.startable t 0x41 = some x ∧ s.obj x.part (cObject x.cmd) = some o) ∧
    (∃ (s : State) (m : Move) (o : Obj) (p : Part),
    let src := m.old + m.chunk * 2 ^ 21
    let n := min (2 ^ 21) (o.len - m.chunk * 2 ^ 21)
    let s0 := s.flushSpans [(src, n)]
    s0.inTransit p [(src, n)] = true) ∧
    (∃ (s : State) (m : Move) (o : Obj),
    let src := m.old + m.chunk * 2 ^ 21
    let n := min (2 ^ 21) (o.len - m.chunk * 2 ^ 21)
    let s0 := s.flushSpans [(src, n)]
    (∀ p : Part, s0.inTransit p [(src, n)] = false)) ∧
    (∃ (s : State) (t : TrackerId) (m : Move) (x : Tracker) (o : Obj), s.objMoves.find? (fun m => decide (m.t = t)) = some m ∧
      s.trk t = some x ∧ s.obj m.part m.handle = some o ∧ m.finishing = false ∧ m.issued = false) ∧
    (∃ (s : State) (t : TrackerId) (m : Move) (x : Tracker) (o : Obj), s.objMoves.find? (fun m => decide (m.t = t)) = some m ∧
      s.trk t = some x ∧ s.obj m.part m.handle = some o ∧ m.finishing = false ∧ m.issued = true ∧ s.outstanding t = true) ∧
    (∃ (s : State) (t : TrackerId) (m : Move) (x : Tracker) (o : Obj), s.objMoves.find? (fun m => decide (m.t = t)) = some m ∧
      s.trk t = some x ∧ s.obj m.part m.handle = some o ∧ m.finishing = false ∧ m.issued = true ∧ s.outstanding t = false ∧
      x.marks.lost = true) ∧
    (∃ (s : State) (t : TrackerId) (m : Move) (x : Tracker) (o : Obj), s.objMoves.find? (fun m => decide (m.t = t)) = some m ∧
      s.trk t = some x ∧ s.obj m.part m.handle = some o ∧ m.finishing = false ∧ m.issued = true ∧ s.outstanding t = false ∧
      x.marks.lost = false) ∧
    (∃ (s : State) (t : TrackerId) (m : Move) (x : Tracker) (o : Obj) (p : Part),
    let s1 := s.flushSpans m.spans
    s.objMoves.find? (fun m => decide (m.t = t)) = some m ∧ s.trk t = some x ∧ s.obj m.part m.handle = some o ∧ m.finishing = true ∧
      s1.inTransit p m.spans = true) ∧
    (∃ (s : State) (t : TrackerId) (m : Move) (x : Tracker) (o : Obj),
    let s1 := s.flushSpans m.spans
    s.objMoves.find? (fun m => decide (m.t = t)) = some m ∧ s.trk t = some x ∧ s.obj m.part m.handle = some o ∧ m.finishing = true ∧
      (∀ p : Part, s1.inTransit p m.spans = false)) :=
  ⟨⟨{ withTrk (mTrk .handed) with objs := [obj0] }, 0, mTrk .handed, obj0, by decide +kernel⟩,
   ⟨{ live with wrQ := [{ write0 with addr := 0xFFF }] }, objMove false false, obj0, 0, by decide +kernel⟩,
   ⟨{ live with wrQ := [{ write0 with addr := 0x1000 }] }, objMove false false, obj0, by decide +kernel⟩,
   ⟨{ withTrk (mTrk .running) with objs := [obj0], objMoves := [objMove false false] }, 0, objMove false false, mTrk .running, obj0,
     by decide +kernel⟩,
   ⟨{ withTrk (mTrk .running) with objs := [obj0], objMoves := [objMove true false], wrQ := [{ write0 with owner := some 0 }] }, 0,
     objMove true false, mTrk .running, obj0, by decide +kernel⟩,
   ⟨{ withTrk ({ mTrk .running with marks := { Marks.none with lost := true } }) with objs := [obj0], objMoves := [objMove true false] }, 0,
     objMove true false, { mTrk .running with marks := { Marks.none with lost := true } }, obj0, by decide +kernel⟩,
   ⟨{ withTrk (mTrk .running) with objs := [obj0], objMoves := [objMove true false] }, 0, objMove true false, mTrk .running, obj0,
     by decide +kernel⟩,
   ⟨{ withTrk (mTrk .running) with objs := [obj0], objMoves := [{ objMove true true with spans := [(0, 4096)] }], wrQ := [{ write0 with addr := 0xFFF }] },
     0, { objMove true true with spans := [(0, 4096)] }, mTrk .running, obj0, 0, by decide +kernel⟩,
   ⟨{ withTrk (mTrk .running) with objs := [obj0], objMoves := [{ objMove true true with spans := [(0, 4096)] }] }, 0,
     { objMove true true with spans := [(0, 4096)] }, mTrk .running, obj0, by decide +kernel⟩⟩

/-- States and operands that meet the hypotheses of Obligations.HbmRowsAndTest, clause by clause. -/
theorem meets_hbmRowsAndTest :
    (∃ (s : State) (g : BitVec 46) (pl : RowPlace),
    let ph := s.hbmPhys (g.toNat * 64) / 64
    g.toNat * 64 < s.hbmBound ∧ s.placeOf (g.toNat * 64) = some pl ∧ (s.sliceServes pl.n none = false ∨ s.bankWaits ph = true)) ∧
    (∃ (s : State) (g : BitVec 46) (pl : RowPlace),
    let ph := s.hbmPhys (g.toNat * 64) / 64
    g.toNat * 64 < s.hbmBound ∧ s.placeOf (g.toNat * 64) = some pl ∧ s.sliceServes pl.n none = true ∧ s.bankWaits ph = false ∧
      ph ∈ s.poison ∧ s.heldGran ph = none) ∧
    (∃ (s : State) (g : BitVec 46) (pl : RowPlace),
    let ph := s.hbmPhys (g.toNat * 64) / 64
    g.toNat * 64 < s.hbmBound ∧ s.placeOf (g.toNat * 64) = some pl ∧ s.sliceServes pl.n none = true ∧ s.bankWaits ph = false ∧
      ph ∉ s.poison) ∧
    (∃ (s : State) (g : BitVec 46), s.hbmBound ≤ g.toNat * 64) ∧
    (∃ (s : State) (r : RowPlace),
    let hit (e : ErrRow) : Bool := decide (e.n = r.n) && decide (e.ch = r.ch) && decide (e.pc = r.pc) && decide (e.bank = r.bank) && decide (e.row = r.row)
    let old := ((s.errRows.find? hit).map (·.count)).getD 0
    max 1 (s.fld fJsHbmCtl_ROW_CE_THRESH r.n) ≤ old + 1) ∧
    (∃ (s : State) (r : RowPlace),
    let hit (e : ErrRow) : Bool := decide (e.n = r.n) && decide (e.ch = r.ch) && decide (e.pc = r.pc) && decide (e.bank = r.bank) && decide (e.row = r.row)
    let old := ((s.errRows.find? hit).map (·.count)).getD 0
    let rest := s.errRows.filter fun e => !(hit e)
    old + 1 < max 1 (s.fld fJsHbmCtl_ROW_CE_THRESH r.n) ∧ (rest.filter fun e => decide (e.n = r.n) && decide (e.ch = r.ch)).length < 16) ∧
    (∃ (s : State) (r : RowPlace), s.fld fJsHbmCtl_REMAP r.n = 0) ∧
    (∃ (s : State) (r : RowPlace) (i : Nat),
    let all := (List.range 512).map fun i => s.reg .jsRemap r.n i
    let used := (all.filter r.sameBank).length
    (s.fld fJsHbmCtl_REMAP r.n ≠ 0 ∧ (∀ v ∈ all, r.sameBank v = true → bitsOf v 62 2 ≠ 1) ∧ i < 512 ∧
      (∀ j, j < i → bitsOf (s.reg .jsRemap r.n j) 62 2 ≠ 0) ∧ bitsOf (s.reg .jsRemap r.n i) 62 2 = 0) ∧
    (used < Config.spareRows r.n r.ch r.pc.toNat r.bank ∨ Config.spareRows r.n r.ch r.pc.toNat r.bank ≤ used)) ∧
    (∃ (s : State) (r : RowPlace),
    let all := (List.range 512).map fun i => s.reg .jsRemap r.n i
    s.fld fJsHbmCtl_REMAP r.n ≠ 0 ∧ (∀ v ∈ all, r.sameBank v = true → bitsOf v 62 2 ≠ 1) ∧
    (∀ j, j < 512 → bitsOf (s.reg .jsRemap r.n j) 62 2 ≠ 0)) ∧
    (∃ (s : State) (n : SliceId) (i : Fin 512), bitsOf (s.reg .jsRemap n i) 62 2 ≠ 1) ∧
    (∃ (s : State) (n : SliceId) (i : Fin 512), bitsOf (s.reg .jsRemap n i) 62 2 = 1) ∧
    (∃ (s : State) (n : SliceId), (2 ≤ s.sliceState n ∨ s.fld fJeStart_MODE = 3)) ∧
    (∃ (s : State) (n : SliceId), s.sliceState n < 2 ∧ s.fld fJeStart_MODE ≠ 3) :=
  ⟨⟨{ live with rowHolds := [⟨0, 0, 0, false, 0, []⟩] }, 0, ⟨0, 0, false, 0, 0⟩, by decide +kernel⟩,
   ⟨{ live with poison := [0] }, 0, ⟨0, 0, false, 0, 0⟩, by decide +kernel⟩,
   ⟨live, 0, ⟨0, 0, false, 0, 0⟩, by decide +kernel⟩,
   ⟨on, 70368744177663, by decide +kernel⟩,
   ⟨{ live with errRows := [⟨0, 0, false, 0, 0, 7⟩] }, ⟨0, 0, false, 0, 0⟩, by decide +kernel⟩,
   ⟨{ live with errRows := [⟨0, 0, false, 0, 0, 6⟩] }, ⟨0, 0, false, 0, 0⟩, by decide +kernel⟩,
   ⟨live.setFld fJsHbmCtl_REMAP 0, ⟨0, 0, false, 0, 0⟩, by decide +kernel⟩,
   ⟨State.reset, ⟨0, 0, false, 0, 0⟩, 0, ⟨by decide +kernel, fun _ hv _ => reset_entry hv, by decide +kernel,
     fun j hj => absurd hj (Nat.not_lt_zero j), by decide +kernel⟩, Nat.lt_or_ge _ _⟩,
   ⟨remapped, ⟨0, 0, false, 0, 0⟩, by decide +kernel, fun _ hv _ => remapped_entry hv, fun j hj => neOf (remapped_bits j hj) (by decide)⟩,
   ⟨on, 7, 511, by decide +kernel⟩,
   ⟨on.setReg .jsRemap 0x4000000000000000 7 511, 7, 511, by decide +kernel⟩,
   ⟨on.setFld fJeStart_MODE 3, 7, by decide +kernel⟩,
   ⟨on, 7, by decide +kernel⟩⟩

/-- States and operands that meet the hypotheses of Obligations.WriteCombining, clause by clause. -/
theorem meets_writeCombining :
    (∃ (s : State) (n : SliceId) (w : WrReq) (r : List WrReq) (s1 : _), s.wrQ = w :: r ∧ s.isBoard w.addr = false ∧ s.sliceOf w.addr = n ∧
      ({ s with wrQ := r } : State).tryWrite w = some s1) ∧
    (∃ (s : State) (n : SliceId) (w : WrReq) (r : List WrReq), s.wrQ = w :: r ∧ s.isBoard w.addr = false ∧ s.sliceOf w.addr = n ∧
      ({ s with wrQ := r } : State).tryWrite w = none ∧ r = []) ∧
    (∃ (s : State) (w : WrReq), s.wrPlace w = .flips) ∧
    (∃ (s : State) (w : WrReq), s.wrPlace w = .lost) ∧
    (∃ (s : State) (w : WrReq) (n : SliceId), s.wrPlace w = .home n ∧ s.homeLoad n < 512) ∧
    (∃ (s : State) (w : WrReq) (n : SliceId), s.wrPlace w = .home n ∧ 512 ≤ s.homeLoad n) ∧
    (∃ (s : State) (w : WrReq) (n : SliceId), s.wrPlace w = .buffer n ∧ w.waited = false) ∧
    (∃ (s : State) (w : WrReq) (c k : Nat), s.channelOf w.addr = some (c, k) ∧ w.issued = false ∧ w.atHome = false ∧
      s.flipping w.addr = true) ∧
    (∃ (s : State) (w : WrReq) (c k : Nat),
    let n : SliceId := Fin.ofNat 8 (c / 32)
    let ok := s.sliceServes n (w.owner.bind s.serialOf)
    s.channelOf w.addr = some (c, k) ∧ w.issued = false ∧ w.atHome = false ∧ s.flipping w.addr = false ∧ ok = false) ∧
    (∃ (s : State) (w : WrReq) (c k : Nat),
    let n : SliceId := Fin.ofNat 8 (c / 32)
    let ok := s.sliceServes n (w.owner.bind s.serialOf)
    let shared := s.tracked w.addr && ((s.trOf (hbmLine w.addr)).isSome || (s.txnOn (hbmLine w.addr)).isSome)
    s.channelOf w.addr = some (c, k) ∧ w.issued = false ∧ w.atHome = false ∧ s.flipping w.addr = false ∧ ok = true ∧ shared = true) ∧
    (∃ (s : State) (w : WrReq) (c k : Nat),
    let n : SliceId := Fin.ofNat 8 (c / 32)
    let ok := s.sliceServes n (w.owner.bind s.serialOf)
    let shared := s.tracked w.addr && ((s.trOf (hbmLine w.addr)).isSome || (s.txnOn (hbmLine w.addr)).isSome)
    s.channelOf w.addr = some (c, k) ∧ w.issued = false ∧ w.atHome = false ∧ s.flipping w.addr = false ∧ ok = true ∧ shared = false) ∧
    (∃ (s : State) (n : SliceId) (w : WrReq), w.zeroLine = false ∧ (∀ e ∈ s.wcb, e.covers (w.addr / 64) = true → e.state = .writing) ∧
      s.wcbCount n < 2048) ∧
    (∃ (s : State) (n : SliceId) (w : WrReq), w.zeroLine = false ∧ (∀ e ∈ s.wcb, e.covers (w.addr / 64) = true → e.state = .writing) ∧
      2048 ≤ s.wcbCount n) ∧
    (∃ (s : State) (w : WrReq) (e : _), w.zeroLine = false ∧
      s.wcb.find? (fun e => e.covers (w.addr / 64) && decide (e.state ≠ .writing)) = some e ∧ e.zmask = 0) ∧
    (∃ (s : State) (n : SliceId) (g : BitVec 46),
    let ph := s.hbmPhys (g.toNat * 64) / 64
    let hit (e : WcbEnt) : Bool := decide (e.n = n) && decide (e.granule = ph) && decide (e.state = .merging)
    (s.wcb.find? hit = none ∨ s.bankWaits ph = true)) ∧
    (∃ (s : State) (n : SliceId) (g : BitVec 46) (e : _),
    let ph := s.hbmPhys (g.toNat * 64) / 64
    let hit (e : WcbEnt) : Bool := decide (e.n = n) && decide (e.granule = ph) && decide (e.state = .merging)
    s.wcb.find? hit = some e ∧ s.bankWaits ph = false) ∧
    (∃ (s : State) (e : WcbEnt), s.wcb = [e] ∧ e.waits = true ∧ s.turned e = true ∧ s.bankWaits e.granule = false) ∧
    (∃ (s : State) (e : WcbEnt), s.wcb = [e] ∧ (e.waits = false ∨ s.turned e = false ∨ s.bankWaits e.granule = true)) ∧
    (∃ (s : State) (n : SliceId) (g : BitVec 46),
    let hit (e : WcbEnt) : Bool :=
      decide (e.n = n) && decide (e.granule = s.hbmPhys (g.toNat * 64) / 64) && decide (e.state = .writing)
    s.wcb.find? hit = none) ∧
    (∃ (s : State) (n : SliceId) (g : BitVec 46) (e : _),
    let hit (e : WcbEnt) : Bool :=
      decide (e.n = n) && decide (e.granule = s.hbmPhys (g.toNat * 64) / 64) && decide (e.state = .writing)
    s.wcb.find? hit = some e ∧ e.zmask = 0) ∧
    (∃ (s : State) (g : Nat), s.heldGran g = none) :=
  ⟨(let s : State := { live with wrQ := [write0] }
    let w : WrReq := write0
    let r : List WrReq := []
    let s1 := (({ s with wrQ := r } : State).tryWrite w).get (by decide +kernel)
    ⟨s, 0, w, r, s1, by decide +kernel⟩),
   ⟨{ window .toShared with wrQ := [{ write0 with addr := 0 }] }, 0, { write0 with addr := 0 }, [], by decide +kernel⟩,
   ⟨window .toShared, { write0 with addr := 0 }, by decide +kernel⟩,
   ⟨State.reset, write0, by decide +kernel⟩,
   ⟨{ window .shared with trellis := [owned] }, { write0 with addr := 0 }, 0, by decide +kernel⟩,
   ⟨{ window .shared with trellis := [owned], coreReqs := List.replicate 512 ⟨some 1, 0, .rdShared⟩ }, { write0 with addr := 0 }, 0,
     by decide +kernel⟩,
   ⟨live, write0, 0, by decide +kernel⟩,
   ⟨window .toShared, { write0 with addr := 0 }, 0, 0, by decide +kernel⟩,
   ⟨live.setFld fJsSliceCtl_STATE 2, write0, 0, 80, by decide +kernel⟩,
   ⟨{ window .shared with trellis := [owned] }, { write0 with addr := 0 }, 0, 0, by decide +kernel⟩,
   ⟨live, write0, 0, 80, by decide +kernel⟩,
   ⟨{ live with wcb := [wcb0] }, 0, write0, by decide +kernel⟩,
   ⟨{ live with wcb := List.replicate 2048 wcb0 }, 0, write0, by decide +kernel⟩,
   ⟨{ live with wcb := [{ wcb0 with state := .open_ }] }, write0, { wcb0 with state := .open_ }, by decide +kernel⟩,
   ⟨on, 7, 70368744177663, by decide +kernel⟩,
   ⟨{ live with wcb := [{ wcb0 with state := .merging }] }, 0, 0x140, { wcb0 with state := .merging }, by decide +kernel⟩,
   ⟨{ live with wcb := [{ wcb0 with state := .open_ }] }, { wcb0 with state := .open_ }, by decide +kernel⟩,
   ⟨{ live with wcb := [{ wcb0 with state := .open_, eligible := false }] }, { wcb0 with state := .open_, eligible := false },
     by decide +kernel⟩,
   ⟨live, 0, 0, by decide +kernel⟩,
   ⟨{ live with wcb := [wcb0] }, 0, 0x140, wcb0, by decide +kernel⟩,
   ⟨on, 0, by decide +kernel⟩⟩

/-- States and operands that meet the hypotheses of Obligations.FaultsAndWalks, clause by clause. -/
theorem meets_faultsAndWalks :
    (∃ (s : State) (p : Part), s.serving ∧ (s.part p).faults.find? (fun f => decide (f.wordsRead < 4)) = none) ∧
    (∃ (s : State) (p : Part) (f : _), s.serving ∧ (s.part p).faults.find? (fun f => decide (f.wordsRead < 4)) = some f) ∧
    (∃ (s : State) (p : Part) (id : BitVec 16), s.serving ∧ (s.part p).faults.find? (fun f => decide (f.id = id) && f.isOpen) = none) ∧
    (∃ (s : State) (p : Part) (id : BitVec 16) (f : _), s.serving ∧
      (s.part p).faults.find? (fun f => decide (f.id = id) && f.isOpen) = some f) ∧
    (∃ (s : State) (k : Fin 16) (w : Walk),
    let mid := if w.lo = w.hi then w.lo else (w.lo + w.hi + 1) / 2
    let la := w.keys + 256 * mid
    s.walks.find? (fun w => decide (w.k = k)) = some w ∧ w.entry = none ∧ s.jReadOk (.walk k) la = (s, true) ∧ s.rdPoison la 256 = true) ∧
    (∃ (s : State) (k : Fin 16) (w : Walk) (st i r : _),
    let mid := if w.lo = w.hi then w.lo else (w.lo + w.hi + 1) / 2
    let la := w.keys + 256 * mid
    let ks := keysOf (s.rdBytes la 256) (min 16 (2 ^ s.fld fJpXlatTable_SIZE_LOG2 w.part))
    s.walks.find? (fun w => decide (w.k = k)) = some w ∧ w.entry = none ∧ s.jReadOk (.walk k) la = (s, true) ∧ s.rdPoison la 256 = false ∧
      w.lo ≠ w.hi ∧ ks = (st, i) :: r) ∧
    (∃ (s : State) (k : Fin 16) (w : Walk) (st i : _),
    let mid := if w.lo = w.hi then w.lo else (w.lo + w.hi + 1) / 2
    let la := w.keys + 256 * mid
    let ks := keysOf (s.rdBytes la 256) (min 16 (2 ^ s.fld fJpXlatTable_SIZE_LOG2 w.part))
    s.walks.find? (fun w => decide (w.k = k)) = some w ∧ w.entry = none ∧ s.jReadOk (.walk k) la = (s, true) ∧ s.rdPoison la 256 = false ∧
      w.lo = w.hi ∧ (ks.filter fun q => decide (q.1 ≤ w.addr)).getLast? = some (st, i) ∧
      i < 2 ^ min (s.fld fJpXlatTable_SIZE_LOG2 w.part) 20) ∧
    (∃ (s : State) (k : Fin 16) (w : Walk) (st i : _),
    let mid := if w.lo = w.hi then w.lo else (w.lo + w.hi + 1) / 2
    let la := w.keys + 256 * mid
    let ks := keysOf (s.rdBytes la 256) (min 16 (2 ^ s.fld fJpXlatTable_SIZE_LOG2 w.part))
    s.walks.find? (fun w => decide (w.k = k)) = some w ∧ w.entry = none ∧ s.jReadOk (.walk k) la = (s, true) ∧ s.rdPoison la 256 = false ∧
      w.lo = w.hi ∧ (ks.filter fun q => decide (q.1 ≤ w.addr)).getLast? = some (st, i) ∧
      2 ^ min (s.fld fJpXlatTable_SIZE_LOG2 w.part) 20 ≤ i) ∧
    (∃ (s : State) (k : Fin 16) (w : Walk),
    let mid := if w.lo = w.hi then w.lo else (w.lo + w.hi + 1) / 2
    let la := w.keys + 256 * mid
    let ks := keysOf (s.rdBytes la 256) (min 16 (2 ^ s.fld fJpXlatTable_SIZE_LOG2 w.part))
    s.walks.find? (fun w => decide (w.k = k)) = some w ∧ w.entry = none ∧ s.jReadOk (.walk k) la = (s, true) ∧ s.rdPoison la 256 = false ∧
      w.lo = w.hi ∧ (∀ q ∈ ks, w.addr < q.1)) ∧
    (∃ (s : State) (k : Fin 16) (w : Walk) (i : Nat),
    let base := s.fld fJpXlatTable_BASE w.part * 4096 + 32 * i
    s.walks.find? (fun w => decide (w.k = k)) = some w ∧ w.entry = some i ∧ s.jReadOk (.walk k) base = (s, true) ∧
      s.rangeHeld w.part i = true) ∧
    (∃ (s : State) (k : Fin 16) (w : Walk) (i : Nat),
    let base := s.fld fJpXlatTable_BASE w.part * 4096 + 32 * i
    s.walks.find? (fun w => decide (w.k = k)) = some w ∧ w.entry = some i ∧ s.jReadOk (.walk k) base = (s, true) ∧
      s.rangeHeld w.part i = false ∧ s.rdPoison base 32 = true) ∧
    (∃ (s : State) (k : Fin 16) (w : Walk) (i : Nat),
    let base := s.fld fJpXlatTable_BASE w.part * 4096 + 32 * i
    let e := s.rdNat base 32
    let valid := natBits e 0 1 = 1 ∧ i ∉ (s.part w.part).unmapped
    s.walks.find? (fun w => decide (w.k = k)) = some w ∧ w.entry = some i ∧ s.jReadOk (.walk k) base = (s, true) ∧
      s.rangeHeld w.part i = false ∧ s.rdPoison base 32 = false ∧ ¬valid) ∧
    (∃ (s : State) (k : Fin 16) (w : Walk) (i : Nat),
    let base := s.fld fJpXlatTable_BASE w.part * 4096 + 32 * i
    let e := s.rdNat base 32
    let valid := natBits e 0 1 = 1 ∧ i ∉ (s.part w.part).unmapped
    s.walks.find? (fun w => decide (w.k = k)) = some w ∧ w.entry = some i ∧ s.jReadOk (.walk k) base = (s, true) ∧
      s.rangeHeld w.part i = false ∧ s.rdPoison base 32 = false ∧ valid ∧ s.entryBad e = true) ∧
    (∃ (s : State) (k : Fin 16) (w : Walk) (i : Nat),
    let base := s.fld fJpXlatTable_BASE w.part * 4096 + 32 * i
    let e := s.rdNat base 32
    let ent := entryOf w.part i e
    let valid := natBits e 0 1 = 1 ∧ i ∉ (s.part w.part).unmapped
    s.walks.find? (fun w => decide (w.k = k)) = some w ∧ w.entry = some i ∧ s.jReadOk (.walk k) base = (s, true) ∧
      s.rangeHeld w.part i = false ∧ s.rdPoison base 32 = false ∧ valid ∧ s.entryBad e = false ∧ ent.covers w.part w.addr = false) ∧
    (∃ (s : State) (k : Fin 16) (w : Walk) (i : Nat),
    let base := s.fld fJpXlatTable_BASE w.part * 4096 + 32 * i
    let e := s.rdNat base 32
    let ent := entryOf w.part i e
    let valid := natBits e 0 1 = 1 ∧ i ∉ (s.part w.part).unmapped
    s.walks.find? (fun w => decide (w.k = k)) = some w ∧ w.entry = some i ∧ s.jReadOk (.walk k) base = (s, true) ∧
      s.rangeHeld w.part i = false ∧ s.rdPoison base 32 = false ∧ valid ∧ s.entryBad e = false ∧ ent.covers w.part w.addr = true) :=
  ⟨⟨on, 0, by decide +kernel⟩,
   (let s : State := withPart fun ps => { ps with faults := [fault0] }
    let p : Part := 0
    let f := ((s.part p).faults.find? (fun f => decide (f.wordsRead < 4))).get (by decide +kernel)
    ⟨s, p, f, by decide +kernel⟩),
   ⟨on, 0, 65535, by decide +kernel⟩,
   (let s : State := withPart fun ps => { ps with faults := [fault0] }
    let p : Part := 0
    let id : BitVec 16 := 9
    let f := ((s.part p).faults.find? (fun f => decide (f.id = id) && f.isOpen)).get (by decide +kernel)
    ⟨s, p, id, f, by decide +kernel⟩),
   ⟨{ walking 0 0 none [] with poison := [0x4000 / 64] }, 0, walk0 0 0 none, by decide +kernel⟩,
   ⟨walking 0 1 none [], 0, walk0 0 1 none, 0, 0, [], by decide +kernel⟩,
   ⟨walking 0 0 none [], 0, walk0 0 0 none, 0, 0, by decide +kernel⟩,
   ⟨walking 0 0 none [(0x4008, 1)], 0, walk0 0 0 none, 0, 1, by decide +kernel⟩,
   ⟨walking 0 0 none [(0x4000, 1)], 0, walk0 0 0 none, by decide +kernel⟩,
   ⟨(walking 0 0 (some 0) []).modPart 0 fun ps => { ps with inval := some ⟨some 0, [], 0, false⟩ }, 0, walk0 0 0 (some 0), 0,
     by decide +kernel⟩,
   ⟨{ walking 0 0 (some 0) [] with poison := [0] }, 0, walk0 0 0 (some 0), 0, by decide +kernel⟩,
   ⟨walking 0 0 (some 0) [], 0, walk0 0 0 (some 0), 0, by decide +kernel⟩,
   ⟨walking 0 0 (some 0) [(0, 1)], 0, walk0 0 0 (some 0), 0, by decide +kernel⟩,
   ⟨walking 0 0 (some 0) [(0, 1), (1, 0x10), (9, 0x10)], 0, walk0 0 0 (some 0), 0, by decide +kernel⟩,
   ⟨walking 0 0 (some 0) [(0, 1), (9, 0x10)], 0, walk0 0 0 (some 0), 0, by decide +kernel⟩⟩

/-- States and operands that meet the hypotheses of Obligations.TranslationTables, clause by clause. -/
theorem meets_translationTables :
    (∃ (s : State) (p : Part), s.serving ∧ s.fld fJpXlatIndex_BUSY p = 0) ∧
    (∃ (s : State) (p : Part), s.serving ∧ s.fld fJpXlatIndex_BUSY p = 1) ∧
    (∃ (s : State) (p : Part), (∃ w ∈ s.walks, w.part = p ∧ w.old = true)) ∧
    (∃ (s : State) (p : Part), (∀ w ∈ s.walks, w.part = p → w.old = false)) ∧
    (∃ (s : State) (p : Part), s.serving ∧ s.fld fJpXlatInval_BUSY p = 1) ∧
    (∃ (s : State) (p : Part), s.serving ∧ s.fld fJpXlatInval_BUSY p = 0 ∧ s.partEnabled p = false) ∧
    (∃ (s : State) (p : Part), s.serving ∧ s.fld fJpXlatInval_BUSY p = 0 ∧ s.partEnabled p = true) ∧
    (∃ (s : State) (p : Part) (v : Inval),
    let t := s.flushHeld p fun c => if v.range = none then c.old else c.within v.old
    let waits : Bool := if v.range = none then t.inTransitOld p else t.inTransit p v.old
    (s.part p).inval = some v ∧ (t.part p).inval = some v ∧ waits = true) ∧
    (∃ (s : State) (p : Part) (v : Inval),
    let t := s.flushHeld p fun c => if v.range = none then c.old else c.within v.old
    let waits : Bool := if v.range = none then t.inTransitOld p else t.inTransit p v.old
    (s.part p).inval = some v ∧ (t.part p).inval = some v ∧ waits = false ∧ v.range = none) ∧
    (∃ (s : State) (p : Part) (v : Inval) (r : _),
    let t := s.flushHeld p fun c => if v.range = none then c.old else c.within v.old
    let waits : Bool := if v.range = none then t.inTransitOld p else t.inTransit p v.old
    (s.part p).inval = some v ∧ (t.part p).inval = some v ∧ waits = false ∧ v.range = some r) ∧
    (∃ (s : State) (p : Part) (r : Nat) (gen : BitVec 16),
    let base := s.fld fJpXlatTable_BASE p * 4096 + 32 * r
    let e := s.rdNat base 32
    natBits e 192 16 = gen.toNat ∧ s.rdPoison base 32 = false) ∧
    (∃ (s : State) (p : Part) (r : Nat) (gen : BitVec 16),
    let base := s.fld fJpXlatTable_BASE p * 4096 + 32 * r
    let e := s.rdNat base 32
    (natBits e 192 16 ≠ gen.toNat ∨ s.rdPoison base 32 = true)) :=
  ⟨⟨on, 0, by decide +kernel⟩,
   ⟨on.setFld fJpXlatIndex_BUSY 1 0, 0, by decide +kernel⟩,
   ⟨{ live with walks := [{ walk0 0 0 none with old := true }] }, 0, by decide +kernel⟩,
   ⟨on, 0, by decide +kernel⟩,
   ⟨on.setFld fJpXlatInval_BUSY 1 0, 0, by decide +kernel⟩,
   ⟨on, 0, by decide +kernel⟩,
   ⟨live, 0, by decide +kernel⟩,
   ⟨{ withPart fun ps => { ps with inval := some ⟨some 0, [(0, 2 ^ 30)], 0, false⟩ } with wrQ := [write0] }, 0, ⟨some 0, [(0, 2 ^ 30)], 0,
     false⟩, by decide +kernel⟩,
   ⟨withPart fun ps => { ps with inval := some invAll }, 0, invAll, by decide +kernel⟩,
   ⟨withPart fun ps => { ps with inval := some ⟨some 0, [], 0, false⟩ }, 0, ⟨some 0, [], 0, false⟩, 0, by decide +kernel⟩,
   ⟨on, 0, 0, 0, by decide +kernel⟩,
   ⟨on, 0, 0, 65535, by decide +kernel⟩⟩

/-- States and operands that meet the hypotheses of Obligations.CoherentRequests, clause by clause. -/
theorem meets_coherentRequests :
    (∃ (s : State), s.serving ∧ s.fld fJeFabStatus_STATE = 0 ∧ s.fld fJeWinCtl_ENABLED = 0) ∧
    (∃ (s : State) (a : Byte), s.serving ∧ s.fld fJeFabStatus_STATE = 0 ∧ s.fld fJeWinCtl_ENABLED = 1 ∧ s.agentRefused a true = true ∧
      s.agentBit .jeFabDeadmask a = true) ∧
    (∃ (s : State) (a : Byte) (x : BitVec 36), s.serving ∧ s.fld fJeFabStatus_STATE = 0 ∧ s.fld fJeWinCtl_ENABLED = 1 ∧ (∀ c,
      s.agentRefused a c = false) ∧ s.homeOf (s.winLine x) = none) ∧
    (∃ (s : State) (a : Byte) (x : BitVec 36) (n set : _), s.serving ∧ s.fld fJeFabStatus_STATE = 0 ∧ s.fld fJeWinCtl_ENABLED = 1 ∧ (∀ c,
      s.agentRefused a c = false) ∧ s.homeOf (s.winLine x) = some (n, set) ∧ s.fab.winAction = 3) ∧
    (∃ (s : State) (a : Byte) (x : BitVec 36) (n set : _), s.serving ∧ s.fld fJeFabStatus_STATE = 0 ∧ s.fld fJeWinCtl_ENABLED = 1 ∧ (∀ c,
      s.agentRefused a c = false) ∧ s.homeOf (s.winLine x) = some (n, set) ∧ s.fab.winAction ≠ 3 ∧ s.sliceServes n none = false) ∧
    (∃ (s : State) (a : Byte) (x : BitVec 36) (n : SliceId) (set : Nat),
    let used := s.trellis.filter fun e => decide (e.n = n) && decide (e.set = set)
    s.serving ∧ s.homeFree a x n set true ∧ s.pageIs x .shared ∧ s.trOf (s.winLine x) = none ∧ used.length < 16) ∧
    (∃ (s : State) (a : Byte) (x : BitVec 36) (n : SliceId) (set : Nat) (data : List Byte) (s1 : State),
    let line := s.winLine x
    s.serving ∧ s.homeFree a x n set false ∧ s.pageIs x .shared ∧ s.trOf (s.winLine x) = none ∧
      s.takeAll n (coreWrites (s.lineAddr line) (BitVec.allOnes 256) data) = some s1) ∧
    (∃ (s : State) (a : Byte) (x : BitVec 36) (n : SliceId) (set : Nat) (mask : BitVec 256) (data : List Byte) (s1 : State),
    let line := s.winLine x
    s.serving ∧ s.homeFree a x n set false ∧ s.pageIs x .shared ∧ s.trOf (s.winLine x) = none ∧
      s.takeAll n (coreWrites (s.lineAddr line) mask data) = some s1) ∧
    (∃ (s : State) (a : Byte) (x : BitVec 36) (n : SliceId) (set : Nat) (op : AtomicOp) (s1 : State) (old : W64),
    let line := s.winLine x
    s.serving ∧ s.homeFree a x n set false ∧ s.pageIs x .shared ∧ s.trOf (s.winLine x) = none ∧
      (s.placeAtomic n set none).1.doAtomic n line (x.toNat % 256 / atomSize op * atomSize op) op = some (s1, old)) ∧
    (∃ (s : State) (a : Byte) (x : BitVec 36) (n : SliceId) (set : Nat),
    let page := s.pageOf (s.lineAddr (s.winLine x))
    let s1 := s.startFlip page
    s.serving ∧ s.homeFree a x n set true ∧ s.pageIs x .device ∧ s1.homeLoad n < 512) ∧
    (∃ (s : State) (q : CoreReq) (n : SliceId) (set : Nat) (e : TrEnt), (∀ a, q.agent = some a → e.holders ≠ [a]) ∧
      s.homeOf q.line = some (n, set) ∧ s.sliceServes n none = true ∧ s.inWindow (s.lineAddr q.line) = true ∧
      s.biasOf (s.pageOf (s.lineAddr q.line)) = .shared ∧ s.trOf q.line = some e ∧ e.state = .x ∧ q.req = .rdShared ∧ q.agent ≠ none) ∧
    (∃ (s : State) (q : CoreReq) (n : SliceId) (set : Nat) (e : TrEnt), (∀ a, q.agent = some a → e.holders ≠ [a]) ∧
      s.homeOf q.line = some (n, set) ∧ s.sliceServes n none = true ∧ s.inWindow (s.lineAddr q.line) = true ∧
      s.biasOf (s.pageOf (s.lineAddr q.line)) = .shared ∧ s.trOf q.line = some e ∧ e.state = .x ∧ (q.req = .rdOwn ∨ q.req = .upgrade) ∧
      q.agent ≠ none) ∧
    (∃ (s : State) (q : CoreReq) (n : SliceId) (set : Nat) (e : TrEnt), (∀ a, q.agent = some a → e.holders ≠ [a]) ∧
      s.homeOf q.line = some (n, set) ∧ s.sliceServes n none = true ∧ s.inWindow (s.lineAddr q.line) = true ∧
      s.biasOf (s.pageOf (s.lineAddr q.line)) = .shared ∧ s.trOf q.line = some e ∧ e.state = .x ∧ q.req = .rdCur) ∧
    (∃ (s : State) (q : CoreReq) (n : SliceId) (set : Nat) (e : TrEnt) (m d : _), (∀ a, q.agent = some a → e.holders ≠ [a]) ∧
      s.homeOf q.line = some (n, set) ∧ s.sliceServes n none = true ∧ s.inWindow (s.lineAddr q.line) = true ∧
      s.biasOf (s.pageOf (s.lineAddr q.line)) = .shared ∧ s.trOf q.line = some e ∧ e.state = .x ∧ q.req = .write m d) ∧
    (∃ (s : State) (q : CoreReq) (n : SliceId) (set : Nat) (e : TrEnt) (a : _), s.homeOf q.line = some (n, set) ∧
      s.sliceServes n none = true ∧ s.inWindow (s.lineAddr q.line) = true ∧ s.biasOf (s.pageOf (s.lineAddr q.line)) = .shared ∧
      s.trOf q.line = some e ∧ e.state ≠ .x ∧ q.agent = some a ∧ q.req = .rdShared ∧ (e.state ≠ .f ∨ e.fwd = none ∨ e.fwd = some a)) ∧
    (∃ (s : State) (q : CoreReq) (n : SliceId) (set : Nat) (e : TrEnt) (a f : _), s.homeOf q.line = some (n, set) ∧
      s.sliceServes n none = true ∧ s.inWindow (s.lineAddr q.line) = true ∧ s.biasOf (s.pageOf (s.lineAddr q.line)) = .shared ∧
      s.trOf q.line = some e ∧ e.state ≠ .x ∧ q.agent = some a ∧ q.req = .rdShared ∧ e.state = .f ∧ e.fwd = some f ∧ f ≠ a) ∧
    (∃ (s : State) (q : CoreReq) (n : SliceId) (set : Nat) (e : TrEnt) (a : _), s.homeOf q.line = some (n, set) ∧
      s.sliceServes n none = true ∧ s.inWindow (s.lineAddr q.line) = true ∧ s.biasOf (s.pageOf (s.lineAddr q.line)) = .shared ∧
      s.trOf q.line = some e ∧ e.state ≠ .x ∧ q.agent = some a ∧ q.req = .rdOwn) ∧
    (∃ (s : State) (q : CoreReq) (n : SliceId) (set : Nat) (e : TrEnt) (a : _), s.homeOf q.line = some (n, set) ∧
      s.sliceServes n none = true ∧ s.inWindow (s.lineAddr q.line) = true ∧ s.biasOf (s.pageOf (s.lineAddr q.line)) = .shared ∧
      s.trOf q.line = some e ∧ e.state ≠ .x ∧ q.agent = some a ∧ q.req = .upgrade) ∧
    (∃ (s : State) (q : CoreReq) (n : SliceId) (set : Nat) (e : TrEnt) (m d : _), s.homeOf q.line = some (n, set) ∧
      s.sliceServes n none = true ∧ s.inWindow (s.lineAddr q.line) = true ∧ s.biasOf (s.pageOf (s.lineAddr q.line)) = .shared ∧
      s.trOf q.line = some e ∧ e.state ≠ .x ∧ q.req = .write m d) ∧
    (∃ (s : State) (e : TrEnt) (a : Byte), (s.holdersOf e).filter (fun h => decide (h ≠ a)) = []) ∧
    (∃ (s : State) (e : TrEnt) (a : Byte), (s.holdersOf e).filter (fun h => decide (h ≠ a)) ≠ []) ∧
    (∃ (s : State) (line : Nat) (e : TrEnt), s.trOf line = some e ∧ s.txnOn line = none) :=
  ⟨⟨on, by decide +kernel⟩,
   ⟨{ window .shared with regs := (⟨.jeFabDeadmask, 3, 0⟩, BitVec.allOnes 64) :: (window .shared).regs }, 255, by decide +kernel⟩,
   ⟨{ window .shared with regs := (⟨.jeChMapped, 0, 0⟩, 0) :: (window .shared).regs }, 255, 0, by decide +kernel⟩,
   (let s : State := { window .shared with fab := { (window .shared).fab with winAction := 3 } }
    let x : BitVec 36 := 0
    let n := ((s.homeOf (s.winLine x)).get (by decide +kernel)).1
    let set := ((s.homeOf (s.winLine x)).get (by decide +kernel)).2
    ⟨s, 255, x, n, set, by decide +kernel⟩),
   (let s : State := (window .shared).setFld fJsSliceCtl_STATE 2
    let x : BitVec 36 := 0
    let n := ((s.homeOf (s.winLine x)).get (by decide +kernel)).1
    let set := ((s.homeOf (s.winLine x)).get (by decide +kernel)).2
    ⟨s, 255, x, n, set, by decide +kernel⟩),
   ⟨window .shared, 255, 0, 0, 0, by decide +kernel⟩,
   (let s : State := window .shared
    let x : BitVec 36 := 0
    let n : SliceId := 0
    let data : List Byte := List.replicate 256 1
    let line := s.winLine x
    let s1 : State := (s.takeAll n (coreWrites (s.lineAddr line) (BitVec.allOnes 256) data)).get (by decide +kernel)
    ⟨s, 255, x, n, 0, data, s1, by decide +kernel⟩),
   (let s : State := window .shared
    let x : BitVec 36 := 0
    let n : SliceId := 0
    let mask : BitVec 256 := 1
    let data : List Byte := List.replicate 256 1
    let line := s.winLine x
    let s1 : State := (s.takeAll n (coreWrites (s.lineAddr line) mask data)).get (by decide +kernel)
    ⟨s, 255, x, n, 0, mask, data, s1, by decide +kernel⟩),
   (let s : State := window .shared
    let x : BitVec 36 := 0xF8
    let n : SliceId := 0
    let set : Nat := 0
    let op : AtomicOp := .addI64 1
    let line := s.winLine x
    let s1 : State := (((s.placeAtomic n set none).1.doAtomic n line (x.toNat % 256 / atomSize op * atomSize op) op).get (by decide +kernel)).1
    let old : W64 := (((s.placeAtomic n set none).1.doAtomic n line (x.toNat % 256 / atomSize op * atomSize op) op).get (by decide +kernel)).2
    ⟨s, 255, x, n, set, op, s1, old, by decide +kernel⟩),
   ⟨window .device, 255, 0, 0, 0, by decide +kernel⟩,
   ⟨{ window .shared with trellis := [owned] }, ⟨some 1, 0, .rdShared⟩, 0, 0, owned, fun _ h => by cases h; decide, by decide +kernel⟩,
   ⟨{ window .shared with trellis := [owned] }, ⟨some 1, 0, .rdOwn⟩, 0, 0, owned, fun _ h => by cases h; decide, by decide +kernel⟩,
   ⟨{ window .shared with trellis := [owned] }, ⟨some 1, 0, .rdCur⟩, 0, 0, owned, fun _ h => by cases h; decide, by decide +kernel⟩,
   ⟨{ window .shared with trellis := [owned] }, ⟨some 1, 0, .write 1 [7]⟩, 0, 0, owned, 1, [7], fun _ h => by cases h; decide,
     by decide +kernel⟩,
   ⟨{ window .shared with trellis := [{ owned with state := .s }] }, ⟨some 1, 0, .rdShared⟩, 0, 0, { owned with state := .s }, 1,
     by decide +kernel⟩,
   ⟨{ window .shared with trellis := [{ owned with state := .f, fwd := some 255 }] }, ⟨some 1, 0, .rdShared⟩, 0, 0,
     { owned with state := .f, fwd := some 255 }, 1, 255, by decide +kernel⟩,
   ⟨{ window .shared with trellis := [{ owned with state := .s }] }, ⟨some 1, 0, .rdOwn⟩, 0, 0, { owned with state := .s }, 1,
     by decide +kernel⟩,
   ⟨{ window .shared with trellis := [{ owned with state := .s }] }, ⟨some 1, 0, .upgrade⟩, 0, 0, { owned with state := .s }, 1,
     by decide +kernel⟩,
   ⟨{ window .shared with trellis := [{ owned with state := .s }] }, ⟨some 1, 0, .write 1 [7]⟩, 0, 0, { owned with state := .s }, 1, [7],
     by decide +kernel⟩,
   ⟨{ window .shared with trellis := [owned] }, owned, 255, by decide +kernel⟩,
   ⟨{ window .shared with trellis := [owned] }, owned, 1, by decide +kernel⟩,
   ⟨{ window .shared with trellis := [owned] }, 0, owned, by decide +kernel⟩⟩

/-- States and operands that meet the hypotheses of Obligations.SnoopsAndDeadAgents, clause by clause. -/
theorem meets_snoopsAndDeadAgents :
    (∃ (s : State) (a : Byte) (x : BitVec 36) (n : SliceId) (set : Nat) (e : _), s.serving ∧ s.homeFree a x n set true ∧
      s.trOf (s.winLine x) = some e ∧ e.state = .x ∧ e.holders = [a]) ∧
    (∃ (s : State) (a : Byte) (x : BitVec 36) (n : SliceId) (set : Nat), s.serving ∧ s.homeFree a x n set true ∧ (∀ e,
      s.trOf (s.winLine x) = some e → ¬(e.state = .x ∧ e.holders = [a]))) ∧
    (∃ (s : State) (a : Byte) (x : BitVec 36) (n : SliceId) (set : Nat) (t : Txn), (∀ m d, t.req ≠ .write m d) ∧ s.serving ∧
      s.fld fJeFabStatus_STATE = 0 ∧ s.fld fJeWinCtl_ENABLED = 1 ∧ s.homeOf (s.winLine x) = some (n, set) ∧ s.agentRefused a true = false ∧
      s.sliceServes n none = true ∧ s.txnOn (s.winLine x) = some t ∧ t.owner = some a ∧ t.evict = true) ∧
    (∃ (s : State) (a : Byte) (x : BitVec 36) (n : SliceId) (set : Nat) (t : Txn) (d : _), s.serving ∧ s.fld fJeFabStatus_STATE = 0 ∧
      s.fld fJeWinCtl_ENABLED = 1 ∧ s.homeOf (s.winLine x) = some (n, set) ∧ s.agentRefused a true = false ∧ s.sliceServes n none = true ∧
      s.txnOn (s.winLine x) = some t ∧ t.owner = some a ∧ t.evict = true ∧ t.req = .write (BitVec.allOnes 256) d) ∧
    (∃ (s : State) (a : Byte) (x : BitVec 36) (n : SliceId) (set : Nat) (t : Txn), s.serving ∧ s.fld fJeFabStatus_STATE = 0 ∧
      s.fld fJeWinCtl_ENABLED = 1 ∧ s.homeOf (s.winLine x) = some (n, set) ∧ s.agentRefused a true = false ∧ s.sliceServes n none = true ∧
      s.txnOn (s.winLine x) = some t ∧ t.owner ≠ some a ∧ t.lost = false) ∧
    (∃ (s : State) (a : Byte) (x : BitVec 36), s.awaited (s.winLine x) a = none) ∧
    (∃ (s : State) (a : Byte) (x : BitVec 36) (t : Txn) (k : Snoop), (∀ m w, t.req ≠ .write m w) ∧ s.awaited (s.winLine x) a = some (t, k) ∧
      (t.owner = some a ∨ t.lost = true)) ∧
    (∃ (s : State) (a : Byte) (x : BitVec 36) (t : Txn) (k : Snoop) (n set : _), s.awaited (s.winLine x) a = some (t, k) ∧
      s.homeOf (s.winLine x) = some (n, set)) ∧
    (∃ (s : State) (a : Byte) (x : BitVec 36) (k : _), s.awaited (s.winLine x) a = some k ∧ s.fld fJeFabCtl_SNOOP_LIMIT ≠ 0 ∧
      s.fld fJeFabStatus_LINK_UP = 1 ∧ s.fab.retrain = false) ∧
    (∃ (s : State) (a : Byte) (x : BitVec 36),
      (s.awaited (s.winLine x) a = none ∨ s.fld fJeFabCtl_SNOOP_LIMIT = 0 ∨ s.fld fJeFabStatus_LINK_UP ≠ 1 ∨ s.fab.retrain = true)) ∧
    (∃ (s : State), s.serving ∧ s.fld fJeFabDead_BUSY = 1) ∧
    (∃ (s : State), s.serving ∧ s.fld fJeFabDead_BUSY = 0) ∧
    (∃ (s : State), s.fab.deadScan = none) ∧
    (∃ (s : State) (a : _), s.fab.deadScan = some a) :=
  ⟨⟨{ window .shared with trellis := [owned] }, 255, 0, 0, 0, owned, by decide +kernel⟩,
   ⟨window .shared, 255, 0, 0, 0, by decide +kernel⟩,
   ⟨{ window .shared with txns := [{ txn0 with evict := true }] }, 255, 0, 0, 0, { txn0 with evict := true }, nofun, by decide +kernel⟩,
   ⟨{ window .shared with txns := [{ txn0 with req := .write (BitVec.allOnes 256) [], evict := true }] }, 255, 0, 0, 0,
     { txn0 with req := .write (BitVec.allOnes 256) [], evict := true }, [], by decide +kernel⟩,
   ⟨{ window .shared with txns := [{ txn0 with owner := none }] }, 255, 0, 0, 0, { txn0 with owner := none }, by decide +kernel⟩,
   ⟨on, 255, 68719476735, by decide +kernel⟩,
   ⟨{ window .shared with txns := [txn0] }, 255, 0, txn0, .share, nofun, by decide +kernel⟩,
   (let s : State := { window .shared with txns := [txn0] }
    let x : BitVec 36 := 0
    let n := ((s.homeOf (s.winLine x)).get (by decide +kernel)).1
    let set := ((s.homeOf (s.winLine x)).get (by decide +kernel)).2
    ⟨s, 255, x, txn0, .share, n, set, by decide +kernel⟩),
   ⟨{ ((window .shared).setFld fJeFabCtl_SNOOP_LIMIT 1).setFld fJeFabStatus_LINK_UP 1 with txns := [txn0] }, 255, 0, (txn0, .share),
     by decide +kernel⟩,
   ⟨on, 255, 68719476735, by decide +kernel⟩,
   ⟨on.setFld fJeFabDead_BUSY 1, by decide +kernel⟩,
   ⟨on, by decide +kernel⟩,
   ⟨on, by decide +kernel⟩,
   ⟨{ on with fab := { on.fab with deadScan := some 255 } }, 255, by decide +kernel⟩⟩

/-- States and operands that meet the hypotheses of Obligations.PageBias, clause by clause. -/
theorem meets_pageBias :
    (∃ (s : State),
    let running := (s.pages.filter fun y => decide (y.2 = .toShared)).length
    16 ≤ running) ∧
    (∃ (s : State),
    let running := (s.pages.filter fun y => decide (y.2 = .toShared)).length
    running < 16) ∧
    (∃ (s : State) (page : BitVec 15), s.biasOf page.toNat = .toShared ∧ s.flipLeft page.toNat = false) ∧
    (∃ (s : State) (page : BitVec 15), (s.biasOf page.toNat ≠ .toShared ∨ s.flipLeft page.toNat = true)) ∧
    (∃ (s : State) (page : BitVec 15), s.biasOf page.toNat = .toDevice ∧ s.pageEmpty page.toNat = true) ∧
    (∃ (s : State) (page : BitVec 15), (s.biasOf page.toNat ≠ .toDevice ∨ s.pageEmpty page.toNat = false)) ∧
    (∃ (s : State), s.serving ∧ s.fld fJeBiasCmd_BUSY = 1) ∧
    (∃ (s : State), s.serving ∧ s.fld fJeBiasCmd_BUSY = 0 ∧ s.fld fJeWinCtl_ENABLED = 0) ∧
    (∃ (s : State) (page : BitVec 15), s.serving ∧ s.fld fJeBiasCmd_BUSY = 0 ∧ s.fld fJeWinCtl_ENABLED = 1 ∧
      s.biasOf page.toNat = .device) ∧
    (∃ (s : State) (page : BitVec 15), s.serving ∧ s.fld fJeBiasCmd_BUSY = 0 ∧ s.fld fJeWinCtl_ENABLED = 1 ∧
      s.biasOf page.toNat = .toShared) ∧
    (∃ (s : State) (page : BitVec 15), s.serving ∧ s.fld fJeBiasCmd_BUSY = 0 ∧ s.fld fJeWinCtl_ENABLED = 1 ∧
      (s.biasOf page.toNat = .shared ∨ s.biasOf page.toNat = .toDevice)) :=
  ⟨⟨{ live with pages := (List.range 16).map fun k => (BitVec.ofNat 15 k, .toShared) }, by decide +kernel⟩,
   ⟨on, by decide +kernel⟩,
   ⟨window .toShared, 0, by decide +kernel⟩,
   ⟨on, 32767, by decide +kernel⟩,
   ⟨window .toDevice, 0, by decide +kernel⟩,
   ⟨on, 32767, by decide +kernel⟩,
   ⟨on.setFld fJeBiasCmd_BUSY 1, by decide +kernel⟩,
   ⟨on, by decide +kernel⟩,
   ⟨(on.setFld fJeBiasCmd_BUSY 0).setFld fJeWinCtl_ENABLED 1, 32767, by decide +kernel⟩,
   ⟨window .toShared, 0, by decide +kernel⟩,
   ⟨window .shared, 0, by decide +kernel⟩⟩

/-- States and operands that meet the hypotheses of Obligations.WindowActions, clause by clause. -/
theorem meets_windowActions :
    (∃ (s : State), s.serving ∧ s.locked = false) ∧
    (∃ (s : State), s.serving ∧ s.locked = true ∧ s.fld fJeWinCtl_BUSY = 1) ∧
    (∃ (s : State) (base : BitVec 11), s.serving ∧ s.locked = true ∧ s.fld fJeWinCtl_BUSY = 0 ∧ s.fld fJeWinCtl_ENABLED = 0 ∧
      base.toNat + 64 ≤ 6 * s.mappedList.length) ∧
    (∃ (s : State) (base : BitVec 11), s.serving ∧ s.locked = true ∧ s.fld fJeWinCtl_BUSY = 0 ∧ s.fld fJeWinCtl_ENABLED = 0 ∧
      6 * s.mappedList.length < base.toNat + 64) ∧
    (∃ (s : State) (base : BitVec 11), s.serving ∧ s.locked = true ∧ s.fld fJeWinCtl_BUSY = 0 ∧ s.fld fJeWinCtl_ENABLED = 1 ∧
      base.toNat + 64 ≤ 6 * s.mappedList.length) ∧
    (∃ (s : State) (base : BitVec 11), s.serving ∧ s.locked = true ∧ s.fld fJeWinCtl_BUSY = 0 ∧ s.fld fJeWinCtl_ENABLED = 1 ∧
      6 * s.mappedList.length < base.toNat + 64) ∧
    (∃ (s : State), s.fab.winAction = 0) ∧
    (∃ (s : State), s.fab.winAction = 1) ∧
    (∃ (s : State), (s.fab.winAction = 2 ∨ s.fab.winAction = 3) ∧ s.pages ≠ []) ∧
    (∃ (s : State), s.fab.winAction = 2 ∧ s.pages = []) ∧
    (∃ (s : State),
    let old := s.fld fJeWinCtl_BASE_GIB
    let new := s.fab.winBase
    let s1 := (s.dropWinRanges old).dropWinRanges new
    s.fab.winAction = 3 ∧ s.pages = [] ∧ (s1.winTransit old = true ∨ s1.winTransit new = true)) ∧
    (∃ (s : State),
    let old := s.fld fJeWinCtl_BASE_GIB
    let new := s.fab.winBase
    let s1 := (s.dropWinRanges old).dropWinRanges new
    s.fab.winAction = 3 ∧ s.pages = [] ∧ s1.winTransit old = false ∧ s1.winTransit new = false) :=
  ⟨⟨on, by decide +kernel⟩,
   ⟨lockedOn.setFld fJeWinCtl_BUSY 1, by decide +kernel⟩,
   ⟨lockedOn.setReg .jeChMapped 0x7FFFF 0, 50, by decide +kernel⟩,
   ⟨lockedOn, 2047, by decide +kernel⟩,
   ⟨((window .shared).setFld fJeCfgLock_LOCKED 1).setReg .jeChMapped 0x7FFFF 0, 50, by decide +kernel⟩,
   ⟨(lockedOn.setFld fJeWinCtl_BUSY 0).setFld fJeWinCtl_ENABLED 1, 2047, by decide +kernel⟩,
   ⟨on, by decide +kernel⟩,
   ⟨{ on with fab := { on.fab with winAction := 1 } }, by decide +kernel⟩,
   ⟨{ (window .shared) with fab := { on.fab with winAction := 2 } }, by decide +kernel⟩,
   ⟨{ on with fab := { on.fab with winAction := 2 } }, by decide +kernel⟩,
   ⟨{ live with fab := { on.fab with winAction := 3 }, wrQ := [write0] }, by decide +kernel⟩,
   ⟨{ on with fab := { on.fab with winAction := 3 } }, by decide +kernel⟩⟩

/-- States and operands that meet the hypotheses of Obligations.FabricLink, clause by clause. -/
theorem meets_fabricLink :
    (∃ (s : State), s.fab.retrain = false ∧ s.fld fJeFabStatus_STATE = 0) ∧
    (∃ (s : State), s.fab.retrain = false ∧ s.fld fJeFabStatus_STATE ≠ 0) ∧
    (∃ (s : State), s.fld fJeFabStatus_STATE = 1) ∧
    (∃ (s : State), s.fld fJeFabStatus_STATE ≠ 1) ∧
    (∃ (s : State), s.fld fJeFabStatus_STATE ≠ 2) ∧
    (∃ (s : State), s.fld fJeFabStatus_STATE = 2) ∧
    (∃ (s : State), s.txns = [] ∧ s.coreReqs = [] ∧ (∀ e ∈ s.trellis, e.state ≠ .x)) ∧
    (∃ (s : State), s.fld fJeFabStatus_STATE ≠ 3) ∧
    (∃ (s : State), s.fld fJeFabStatus_STATE = 3) :=
  ⟨⟨on, by decide +kernel⟩,
   ⟨on.setFld fJeFabStatus_STATE 1, by decide +kernel⟩,
   ⟨on.setFld fJeFabStatus_STATE 1, by decide +kernel⟩,
   ⟨on, by decide +kernel⟩,
   ⟨on, by decide +kernel⟩,
   ⟨on.setFld fJeFabStatus_STATE 2, by decide +kernel⟩,
   ⟨on, by decide +kernel⟩,
   ⟨on, by decide +kernel⟩,
   ⟨on.setFld fJeFabStatus_STATE 3, by decide +kernel⟩⟩

/-- States and operands that meet the hypotheses of Obligations.BoardTier, clause by clause. -/
theorem meets_boardTier :
    (∃ (s : State) (g : BitVec 46), s.boardBound ≤ g.toNat * 64) ∧
    (∃ (s : State) (g : BitVec 46), g.toNat * 64 < s.boardBound ∧ s.fld fJeFabStatus_STATE ≠ 0) ∧
    (∃ (s : State) (g : BitVec 46) (poisoned : Bool), g.toNat * 64 < s.boardBound ∧ s.fld fJeFabStatus_STATE = 0 ∧ s.armed = none ∧
      poisoned = true) ∧
    (∃ (s : State) (g : BitVec 46) (data : List Byte) (poisoned : Bool),
    let a := s.boardPhys (g.toNat * 64)
    g.toNat * 64 < s.boardBound ∧ s.fld fJeFabStatus_STATE = 0 ∧ s.armed = none ∧ poisoned = false ∧ s.encrypted (physOff a) = false ∧
      data.length = 64) ∧
    (∃ (s : State) (g : BitVec 46) (poisoned : Bool),
    let a := s.boardPhys (g.toNat * 64)
    g.toNat * 64 < s.boardBound ∧ s.fld fJeFabStatus_STATE = 0 ∧ s.armed = none ∧ poisoned = false ∧ s.encrypted (physOff a) = true) ∧
    (∃ (s : State), (s.boardWrs.find? (·.sent) = none ∨ s.fld fJeFabStatus_STATE ≠ 0)) ∧
    (∃ (s : State) (w : _), s.boardWrs.find? (·.sent) = some w ∧ s.fld fJeFabStatus_STATE = 0) :=
  ⟨⟨on, 70368744177663, by decide +kernel⟩,
   ⟨(on.setFld fJePhysMap_BOARD_GIB 1).setFld fJeFabStatus_STATE 1, 2 ^ 24 - 1, by decide +kernel⟩,
   ⟨on.setFld fJePhysMap_BOARD_GIB 1, 2 ^ 24 - 1, true, by decide +kernel⟩,
   ⟨(on.setFld fJePhysMap_BOARD_GIB 1).setFld fJeSecCtl_PLAIN_GIB 1, 2 ^ 24 - 1, List.replicate 64 0, false, by decide +kernel⟩,
   ⟨(on.setFld fJePhysMap_BOARD_GIB 1).setFld fJeSecStatus_BOARD_KEY 1, 2 ^ 24 - 1, false, by decide +kernel⟩,
   ⟨on, by decide +kernel⟩,
   ⟨{ on with boardWrs := [⟨2 ^ 52, [1], false, 0, none, 0, false, none, [], true, true, false⟩] }, ⟨2 ^ 52, [1], false, 0, none, 0, false,
     none, [], true, true, false⟩, by decide +kernel⟩⟩

/-- States and operands that meet the hypotheses of Obligations.RemoteRequests, clause by clause. -/
theorem meets_remoteRequests :
    (∃ (s : State) (i : BitVec 12) (q : QP) (msg : List Byte) (marked : Bool),
    let s1 := s.received i msg.length marked
    s.serving ∧ s.qp i = some q ∧ q.state = .rts ∧ qcRole q.ctx = 0 ∧ msgOk msg = true ∧ s1.partEnabled (qcPart q.ctx) = true ∧
      mField msg 0 1 = 1) ∧
    (∃ (s : State) (i : BitVec 12) (q : QP) (msg : List Byte) (marked : Bool),
    let s1 := s.received i msg.length marked
    s.serving ∧ s.qp i = some q ∧ q.state = .rts ∧ qcRole q.ctx = 0 ∧ msgOk msg = true ∧ s1.partEnabled (qcPart q.ctx) = true ∧
      mField msg 0 1 = 3) ∧
    (∃ (s : State) (i : BitVec 12) (q : QP) (msg : List Byte) (marked : Bool),
    let s1 := s.received i msg.length marked
    s.serving ∧ s.qp i = some q ∧ q.state = .rts ∧ qcRole q.ctx = 0 ∧ msgOk msg = true ∧ s1.partEnabled (qcPart q.ctx) = true ∧
      mField msg 0 1 = 5) ∧
    (∃ (s : State) (i : BitVec 12) (q : QP) (msg : List Byte) (marked : Bool),
    let s1 := s.received i msg.length marked
    s.serving ∧ s.qp i = some q ∧ q.state = .rts ∧ qcRole q.ctx = 0 ∧ msgOk msg = true ∧ s1.partEnabled (qcPart q.ctx) = false ∧
      mField msg 0 1 = 1) ∧
    (∃ (s : State) (i : BitVec 12) (q : QP) (msg : List Byte) (marked : Bool),
    let s1 := s.received i msg.length marked
    s.serving ∧ s.qp i = some q ∧ q.state = .rts ∧ qcRole q.ctx = 0 ∧ msgOk msg = true ∧ s1.partEnabled (qcPart q.ctx) = false ∧
      mField msg 0 1 = 3) ∧
    (∃ (s : State) (i : BitVec 12) (q : QP) (msg : List Byte) (marked : Bool),
    let s1 := s.received i msg.length marked
    s.serving ∧ s.qp i = some q ∧ q.state = .rts ∧ qcRole q.ctx = 0 ∧ msgOk msg = true ∧ s1.partEnabled (qcPart q.ctx) = false ∧
      mField msg 0 1 = 5) ∧
    (∃ (s : State) (i : BitVec 12) (q : QP) (msg : List Byte), s.serving ∧ s.qp i = some q ∧ q.state = .rts ∧ qcRole q.ctx = 0 ∧
      msgOk msg = false) ∧
    (∃ (s : State) (i : BitVec 12), s.serving ∧ (∀ q, s.qp i = some q → q.state ≠ .rts ∨ qcRole q.ctx ≠ 0)) ∧
    (∃ (msg : List Byte), (mField msg 0 1 = 1 ∨ mField msg 0 1 = 3 ∨ mField msg 0 1 = 5)) ∧
    (∃ (s : State) (i : BitVec 12) (q : QP), s.power.replaying = false ∧ s.qp i = some q) :=
  ⟨⟨paired [], 4095, qp0 4095 0 [], msg 1 0 0, true, by decide +kernel⟩,
   ⟨paired [], 4095, qp0 4095 0 [], msg 3 0 0, true, by decide +kernel⟩,
   ⟨paired [], 4095, qp0 4095 0 [], msg 5 0 0, true, by decide +kernel⟩,
   ⟨(paired []).setFld fJpStatus_STATE 0 0, 4095, qp0 4095 0 [], msg 1 0 0, true, by decide +kernel⟩,
   ⟨(paired []).setFld fJpStatus_STATE 0 0, 4095, qp0 4095 0 [], msg 3 0 0, true, by decide +kernel⟩,
   ⟨(paired []).setFld fJpStatus_STATE 0 0, 4095, qp0 4095 0 [], msg 5 0 0, true, by decide +kernel⟩,
   ⟨paired [], 4095, qp0 4095 0 [], List.replicate 31 0, by decide +kernel⟩,
   ⟨on, 4095, by decide +kernel⟩,
   ⟨msg 3 0 0, by decide +kernel⟩,
   ⟨paired [], 4095, qp0 4095 0 [], by decide +kernel⟩⟩

/-- States and operands that meet the hypotheses of Obligations.RemoteReplies, clause by clause. -/
theorem meets_remoteReplies :
    (∃ (s : State) (i : BitVec 12) (q : QP) (msg : List Byte), s.serving ∧ s.qp i = some q ∧ q.state = .rts ∧ qcRole q.ctx = 0 ∧
      msgOk msg = true ∧ mField msg 0 1 = 2 ∧ q.request msg 1 = none) ∧
    (∃ (s : State) (i : BitVec 12) (q : QP) (msg : List Byte), s.serving ∧ s.qp i = some q ∧ q.state = .rts ∧ qcRole q.ctx = 0 ∧
      msgOk msg = true ∧ mField msg 0 1 = 4 ∧ q.request msg 3 = none) ∧
    (∃ (s : State) (i : BitVec 12) (q : QP) (msg : List Byte), s.serving ∧ s.qp i = some q ∧ q.state = .rts ∧ qcRole q.ctx = 0 ∧
      msgOk msg = true ∧ mField msg 0 1 = 6 ∧ q.request msg 5 = none) ∧
    (∃ (s : State) (i : BitVec 12) (q : QP) (msg : List Byte) (r : RemoteReq),
    let got := r.got + mBags msg
    s.serving ∧ s.qp i = some q ∧ q.state = .rts ∧ qcRole q.ctx = 0 ∧ msgOk msg = true ∧ mField msg 0 1 = 2 ∧ q.request msg 1 = some r ∧
      mField msg 2 1 ≤ 1 ∧ mFlag msg 0 = true ∧ r.counts.length ≤ got) ∧
    (∃ (s : State) (i : BitVec 12) (q : QP) (msg : List Byte) (r : RemoteReq),
    let got := r.got + mBags msg
    s.serving ∧ s.qp i = some q ∧ q.state = .rts ∧ qcRole q.ctx = 0 ∧ msgOk msg = true ∧ mField msg 0 1 = 2 ∧ q.request msg 1 = some r ∧
      mField msg 2 1 ≤ 1 ∧ mFlag msg 0 = true ∧ got < r.counts.length) ∧
    (∃ (s : State) (i : BitVec 12) (q : QP) (msg : List Byte) (r : RemoteReq), s.serving ∧ s.qp i = some q ∧ q.state = .rts ∧
      qcRole q.ctx = 0 ∧ msgOk msg = true ∧ mField msg 0 1 = 2 ∧ q.request msg 1 = some r ∧ mField msg 2 1 ≤ 1 ∧ mFlag msg 0 = false) ∧
    (∃ (s : State) (i : BitVec 12) (q : QP) (msg : List Byte) (r : RemoteReq), s.serving ∧ s.qp i = some q ∧ q.state = .rts ∧
      qcRole q.ctx = 0 ∧ msgOk msg = true ∧ mField msg 0 1 = 2 ∧ q.request msg 1 = some r ∧ 1 < mField msg 2 1) ∧
    (∃ (s : State) (i : BitVec 12) (q : QP) (msg : List Byte) (r : RemoteReq), s.serving ∧ s.qp i = some q ∧ q.state = .rts ∧
      qcRole q.ctx = 0 ∧ msgOk msg = true ∧ mField msg 0 1 = 4 ∧ q.request msg 3 = some r) ∧
    (∃ (s : State) (i : BitVec 12) (q : QP) (msg : List Byte) (r : RemoteReq), s.serving ∧ s.qp i = some q ∧ q.state = .rts ∧
      qcRole q.ctx = 0 ∧ msgOk msg = true ∧ mField msg 0 1 = 6 ∧ q.request msg 5 = some r) ∧
    (∃ (r : RemoteReq) (bag count : Nat), r.bagFirst + r.got ≤ bag ∧ bag < r.bagFirst + r.counts.length ∧
      count = r.counts.getD (bag - r.bagFirst) 0) ∧
    (∃ (s : State) (r : RemoteReq) (bag count : Nat) (poisoned : Bool) (bytes : List Byte) (x : _),
    let differs := decide (count ≠ r.counts.getD (bag - r.bagFirst) 0)
    let vals := (List.range (bytes.length / 4)).map fun c => BitVec.ofNat 32 (bytesAt bytes (4 * c) 4)
    let s1 := s.modBag r.t bag fun g =>
      { g with poison := g.poison || poisoned || differs, shards := g.shards - 1, pieces := g.pieces ++ [(r.col, vals)] }
    r.bagFirst + r.got ≤ bag ∧ bag < r.bagFirst + r.counts.length ∧ count ≠ r.counts.getD (bag - r.bagFirst) 0 ∧ s1.trk r.t = some x) :=
  ⟨⟨paired [], 4095, qp0 4095 0 [], msg 2 0 0, by decide +kernel⟩,
   ⟨paired [], 4095, qp0 4095 0 [], msg 4 0 0, by decide +kernel⟩,
   ⟨paired [], 4095, qp0 4095 0 [], msg 6 0 0, by decide +kernel⟩,
   ⟨paired [req0 1], 4095, qp0 4095 0 [req0 1], msg 2 1 1, req0 1, by decide +kernel⟩,
   ⟨paired [{ req0 1 with counts := [1] }], 4095, qp0 4095 0 [{ req0 1 with counts := [1] }], msg 2 1 1, { req0 1 with counts := [1] },
     by decide +kernel⟩,
   ⟨paired [req0 1], 4095, qp0 4095 0 [req0 1], msg 2 1 0, req0 1, by decide +kernel⟩,
   ⟨paired [req0 1], 4095, qp0 4095 0 [req0 1], msg 2 2 0, req0 1, by decide +kernel⟩,
   ⟨paired [req0 3], 4095, qp0 4095 0 [req0 3], msg 4 0 0, req0 3, by decide +kernel⟩,
   ⟨paired [req0 5], 4095, qp0 4095 0 [req0 5], msg 6 0 0, req0 5, by decide +kernel⟩,
   ⟨{ req0 1 with counts := [1] }, 0, 1, by decide +kernel⟩,
   (let s : State := withTrk kTrk
    let r : RemoteReq := { req0 1 with counts := [1] }
    let bag : Nat := 0
    let count : Nat := 2
    let poisoned : Bool := false
    let bytes : List Byte := []
    let differs := decide (count ≠ r.counts.getD (bag - r.bagFirst) 0)
    let vals := (List.range (bytes.length / 4)).map fun c => BitVec.ofNat 32 (bytesAt bytes (4 * c) 4)
    let s1 := s.modBag r.t bag fun g =>
        { g with poison := g.poison || poisoned || differs, shards := g.shards - 1, pieces := g.pieces ++ [(r.col, vals)] }
    let x := (s1.trk r.t).get (by decide +kernel)
    ⟨s, r, bag, count, poisoned, bytes, x, by decide +kernel⟩)⟩

/-- States and operands that meet the hypotheses of Obligations.QueuePairs, clause by clause. -/
theorem meets_queuePairs :
    (∃ (s : State) (i : BitVec 12) (psn : BitVec 24) (q : _), s.serving ∧ s.qp i = some q ∧ q.state = .rts ∧
      (psn - q.ackPsn).toNat < (q.sendPsn - q.ackPsn).toNat) ∧
    (∃ (s : State) (i : BitVec 12) (psn : BitVec 24), s.serving ∧ (∀ q,
      s.qp i = some q → q.state ≠ .rts ∨ (q.sendPsn - q.ackPsn).toNat ≤ (psn - q.ackPsn).toNat)) ∧
    (∃ (s : State) (i : BitVec 12) (q : _), s.qp i = some q ∧ q.state = .rts ∧ q.ackPsn ≠ q.sendPsn ∧ q.retries < qcRetries q.ctx) ∧
    (∃ (s : State) (i : BitVec 12) (q : _), s.qp i = some q ∧ q.state = .rts ∧ q.ackPsn ≠ q.sendPsn ∧ qcRetries q.ctx ≤ q.retries) ∧
    (∃ (s : State) (i : BitVec 12), (∀ q, s.qp i = some q → q.state ≠ .rts ∨ q.ackPsn = q.sendPsn)) ∧
    (∃ (s : State) (i : BitVec 12) (q : QP), s.qp i = some q ∧ q.state = .rts ∧ q.ackPsn = q.sendPsn ∧
      s.fld fJePortCtl_STATE (qcHome q.ctx) = 0) ∧
    (∃ (s : State), s.serving ∧ s.locked = false) ∧
    (∃ (s : State), s.serving ∧ s.locked = true ∧ s.fld fJeQpCmd_BUSY = 1) ∧
    (∃ (s : State) (i : BitVec 12),
    let a := s.fld fJeQpBase_BASE * 2 ^ 19 + 128 * i.toNat
    let c : BitVec 1024 := BitVec.ofNat 1024 (s.rdNat a 128)
    s.serving ∧ s.locked = true ∧ s.fld fJeQpCmd_BUSY = 0 ∧ (s.rdPoison a 128 = true ∨ qcOk c = false)) ∧
    (∃ (s : State) (i : BitVec 12),
    let a := s.fld fJeQpBase_BASE * 2 ^ 19 + 128 * i.toNat
    let c : BitVec 1024 := BitVec.ofNat 1024 (s.rdNat a 128)
    s.serving ∧ s.locked = true ∧ s.fld fJeQpCmd_BUSY = 0 ∧ s.rdPoison a 128 = false ∧ qcOk c = true ∧ s.partEnabled (qcPart c) = false) ∧
    (∃ (s : State) (i : BitVec 12) (s2 : State),
    let v (a : Nat) := BitVec.ofNat 64 (a * 2 ^ 62 + i.toNat)
    let s1 := ({ s.put .jeQpCmd 0 (v 1) with qpAct := some i } : State).setFld fJeQpCmd_BUSY 1
    let a := s.fld fJeQpBase_BASE * 2 ^ 19 + 128 * i.toNat
    let c : BitVec 1024 := BitVec.ofNat 1024 (s.rdNat a 128)
    s1.allInHbm (qcPart c) (rxPages c) = (s2, none) ∧ s.serving ∧ s.locked = true ∧ s.fld fJeQpCmd_BUSY = 0 ∧ s.rdPoison a 128 = false ∧
      qcOk c = true ∧ s.partEnabled (qcPart c) = true) ∧
    (∃ (s : State) (i : BitVec 12) (s2 : State),
    let v (a : Nat) := BitVec.ofNat 64 (a * 2 ^ 62 + i.toNat)
    let s1 := ({ s.put .jeQpCmd 0 (v 1) with qpAct := some i } : State).setFld fJeQpCmd_BUSY 1
    let a := s.fld fJeQpBase_BASE * 2 ^ 19 + 128 * i.toNat
    let c : BitVec 1024 := BitVec.ofNat 1024 (s.rdNat a 128)
    s1.allInHbm (qcPart c) (rxPages c) = (s2, some false) ∧ s.serving ∧ s.locked = true ∧ s.fld fJeQpCmd_BUSY = 0 ∧
      s.rdPoison a 128 = false ∧ qcOk c = true ∧ s.partEnabled (qcPart c) = true) ∧
    (∃ (s : State) (i : BitVec 12) (s2 : State),
    let v (a : Nat) := BitVec.ofNat 64 (a * 2 ^ 62 + i.toNat)
    let s1 := ({ s.put .jeQpCmd 0 (v 1) with qpAct := some i } : State).setFld fJeQpCmd_BUSY 1
    let a := s.fld fJeQpBase_BASE * 2 ^ 19 + 128 * i.toNat
    let c : BitVec 1024 := BitVec.ofNat 1024 (s.rdNat a 128)
    s1.allInHbm (qcPart c) (rxPages c) = (s2, some true) ∧ s.serving ∧ s.locked = true ∧ s.fld fJeQpCmd_BUSY = 0 ∧ s.rdPoison a 128 = false ∧
      qcOk c = true ∧ s.partEnabled (qcPart c) = true ∧ s2.qp i = none) ∧
    (∃ (s : State) (i : BitVec 12) (s2 : State) (q : _),
    let v (a : Nat) := BitVec.ofNat 64 (a * 2 ^ 62 + i.toNat)
    let s1 := ({ s.put .jeQpCmd 0 (v 1) with qpAct := some i } : State).setFld fJeQpCmd_BUSY 1
    let a := s.fld fJeQpBase_BASE * 2 ^ 19 + 128 * i.toNat
    let c : BitVec 1024 := BitVec.ofNat 1024 (s.rdNat a 128)
    s1.allInHbm (qcPart c) (rxPages c) = (s2, some true) ∧ s.serving ∧ s.locked = true ∧ s.fld fJeQpCmd_BUSY = 0 ∧ s.rdPoison a 128 = false ∧
      qcOk c = true ∧ s.partEnabled (qcPart c) = true ∧ s2.qp i = some q ∧ q.state = .reset) :=
  ⟨(let s : State := paired []
    let i : BitVec 12 := 4095
    let q := (s.qp i).get (by decide +kernel)
    ⟨s, i, 4, q, by decide +kernel⟩),
   ⟨on, 4095, 16777215, by decide +kernel⟩,
   (let s : State := paired []
    let i : BitVec 12 := 4095
    let q := (s.qp i).get (by decide +kernel)
    ⟨s, i, q, by decide +kernel⟩),
   (let s : State := { live with qps := [{ qp0 4095 0 [] with retries := 1 }] }
    let i : BitVec 12 := 4095
    let q := (s.qp i).get (by decide +kernel)
    ⟨s, i, q, by decide +kernel⟩),
   ⟨on, 4095, by decide +kernel⟩,
   ⟨{ live.setFld fJePortCtl_STATE 0 0 with qps := [{ qp0 4095 0 [] with ackPsn := 5 }] }, 4095, { qp0 4095 0 [] with ackPsn := 5 },
     by decide +kernel⟩,
   ⟨on, by decide +kernel⟩,
   ⟨lockedOn.setFld fJeQpCmd_BUSY 1, by decide +kernel⟩,
   ⟨lockedOn, 4095, by decide +kernel⟩,
   ⟨{ lockedOn with mem := [(4, 1), (7, 0x81), (35, 0x20), (36, 1)] }, 0, by decide +kernel⟩,
   (let s : State := { lockedOn with mem := [(4, 1), (7, 0x80), (35, 0x20), (36, 1)], rcache := [] }
    let i : BitVec 12 := 0
    let a := s.fld fJeQpBase_BASE * 2 ^ 19 + 128 * i.toNat
    let c : BitVec 1024 := BitVec.ofNat 1024 (s.rdNat a 128)
    let v (a : Nat) := BitVec.ofNat 64 (a * 2 ^ 62 + i.toNat)
    let s1 := ({ s.put .jeQpCmd 0 (v 1) with qpAct := some i } : State).setFld fJeQpCmd_BUSY 1
    let s2 : State := (s1.allInHbm (qcPart c) (rxPages c)).1
    ⟨s, i, s2, pair (by decide +kernel), by decide +kernel⟩),
   (let s : State := { lockedOn with mem := [(4, 1), (7, 0x80), (35, 0x20), (36, 1)], rcache := [{ range0 with write := false }] }
    let i : BitVec 12 := 0
    let a := s.fld fJeQpBase_BASE * 2 ^ 19 + 128 * i.toNat
    let c : BitVec 1024 := BitVec.ofNat 1024 (s.rdNat a 128)
    let v (a : Nat) := BitVec.ofNat 64 (a * 2 ^ 62 + i.toNat)
    let s1 := ({ s.put .jeQpCmd 0 (v 1) with qpAct := some i } : State).setFld fJeQpCmd_BUSY 1
    let s2 : State := (s1.allInHbm (qcPart c) (rxPages c)).1
    ⟨s, i, s2, pair (by decide +kernel), by decide +kernel⟩),
   (let s : State := { lockedOn with mem := [(4, 1), (7, 0x80), (35, 0x20), (36, 1)] }
    let i : BitVec 12 := 0
    let a := s.fld fJeQpBase_BASE * 2 ^ 19 + 128 * i.toNat
    let c : BitVec 1024 := BitVec.ofNat 1024 (s.rdNat a 128)
    let v (a : Nat) := BitVec.ofNat 64 (a * 2 ^ 62 + i.toNat)
    let s1 := ({ s.put .jeQpCmd 0 (v 1) with qpAct := some i } : State).setFld fJeQpCmd_BUSY 1
    let s2 : State := (s1.allInHbm (qcPart c) (rxPages c)).1
    ⟨s, i, s2, pair (by decide +kernel), by decide +kernel⟩),
   (let s : State := { lockedOn with mem := [(4, 1), (7, 0x80), (35, 0x20), (36, 1)], qps := [{ qp0 0 0 [] with state := .reset }] }
    let i : BitVec 12 := 0
    let a := s.fld fJeQpBase_BASE * 2 ^ 19 + 128 * i.toNat
    let c : BitVec 1024 := BitVec.ofNat 1024 (s.rdNat a 128)
    let v (a : Nat) := BitVec.ofNat 64 (a * 2 ^ 62 + i.toNat)
    let s1 := ({ s.put .jeQpCmd 0 (v 1) with qpAct := some i } : State).setFld fJeQpCmd_BUSY 1
    let s2 : State := (s1.allInHbm (qcPart c) (rxPages c)).1
    let q := (s2.qp i).get (by decide +kernel)
    ⟨s, i, s2, q, pair (by decide +kernel), by decide +kernel⟩)⟩

/-- States and operands that meet the hypotheses of Obligations.NvmeSlots, clause by clause. -/
theorem meets_nvmeSlots :
    (∃ (s : State), s.serving ∧ s.locked = false) ∧
    (∃ (s : State), s.serving ∧ s.locked = true ∧ s.fld fJeNvmeCmd_BUSY = 1) ∧
    (∃ (s : State) (n : Byte),
    let a := s.fld fJeNvmeBase_BASE * 2 ^ 14 + 64 * n.toNat
    let r : BitVec 512 := BitVec.ofNat 512 (s.rdNat a 64)
    s.serving ∧ s.locked = true ∧ s.fld fJeNvmeCmd_BUSY = 0 ∧ (s.rdPoison a 64 = true ∨ s.recOk r = false)) ∧
    (∃ (s : State) (n : Byte),
    let a := s.fld fJeNvmeBase_BASE * 2 ^ 14 + 64 * n.toNat
    let r : BitVec 512 := BitVec.ofNat 512 (s.rdNat a 64)
    s.serving ∧ s.locked = true ∧ s.fld fJeNvmeCmd_BUSY = 0 ∧ s.rdPoison a 64 = false ∧ s.recOk r = true) ∧
    (∃ (s : State) (n : Byte), s.serving ∧ s.slotOf n = none) ∧
    (∃ (s : State) (n : Byte) (status : BitVec 16) (v : _), s.serving ∧ s.slotOf n = some v ∧ v.stage = 1 ∧ status = 0) ∧
    (∃ (s : State) (n : Byte) (status : BitVec 16) (v : _), s.serving ∧ s.slotOf n = some v ∧ v.stage = 2 ∧ status = 0) ∧
    (∃ (s : State) (n : Byte) (status : BitVec 16) (lba : BitVec 4) (bytes : W64) (v : _), s.serving ∧ s.slotOf n = some v ∧ v.stage = 3 ∧
      status = 0 ∧ lba.toNat = bitsOf v.rec_ 0 4 ∧ v.nsBytes ≤ bytes.toNat) ∧
    (∃ (s : State) (n : Byte) (status : BitVec 16) (lba : BitVec 4) (bytes : W64) (v : _), s.serving ∧ s.slotOf n = some v ∧ ((v.stage ≠ 0 ∧
      status ≠ 0) ∨ (v.stage = 3 ∧ (lba.toNat ≠ bitsOf v.rec_ 0 4 ∨ bytes.toNat < v.nsBytes)))) ∧
    (∃ (s : State) (n : Byte) (key : W32) (v : _), s.serving ∧ s.slotOf n = some v ∧ v.stage = 0 ∧
      v.reads.find? (fun r => decide (r.key = key)) = none) ∧
    (∃ (s : State) (n : Byte) (key : W32) (status : BitVec 16) (v r : _), s.serving ∧ s.slotOf n = some v ∧ v.stage = 0 ∧
      v.reads.find? (fun r => decide (r.key = key)) = some r ∧ status = 0) ∧
    (∃ (s : State) (n : Byte) (key : W32) (status : BitVec 16) (v r : _), s.serving ∧ s.slotOf n = some v ∧ v.stage = 0 ∧
      v.reads.find? (fun r => decide (r.key = key)) = some r ∧ status ≠ 0) ∧
    (∃ (s : State) (n : Byte) (v : _), s.slotOf n = some v ∧ v.stage ≠ 0) ∧
    (∃ (s : State) (n : Byte) (v : _), s.slotOf n = some v ∧ v.state = 1) ∧
    (∃ (s : State) (n : Byte), (∀ v, s.slotOf n = some v → v.state ≠ 1)) ∧
    (∃ (s : State) (i : BitVec 12), s.serving ∧ (∀ q, s.qp i = some q → q.state ≠ .rts ∨ qcRole q.ctx ≠ 2)) ∧
    (∃ (s : State) (i : BitVec 12) (key off : W32) (data : List Byte) (q : _),
    let named := s.nvme.find? (fun v => decide (recIo v.rec_ = i) && decide (v.stage = 0) && v.reads.any fun r =>
      decide (r.key = key) && decide (off.toNat + data.length ≤ r.data.length))
    s.serving ∧ s.qp i = some q ∧ q.state = .rts ∧ qcRole q.ctx = 2 ∧ named = none) ∧
    (∃ (s : State) (i : BitVec 12) (key off : W32) (data : List Byte) (q v : _),
    let named := s.nvme.find? (fun v => decide (recIo v.rec_ = i) && decide (v.stage = 0) && v.reads.any fun r =>
      decide (r.key = key) && decide (off.toNat + data.length ≤ r.data.length))
    s.serving ∧ s.qp i = some q ∧ q.state = .rts ∧ qcRole q.ctx = 2 ∧ named = some v) :=
  ⟨⟨on, by decide +kernel⟩,
   ⟨lockedOn.setFld fJeNvmeCmd_BUSY 1, by decide +kernel⟩,
   ⟨lockedOn, 255, by decide +kernel⟩,
   ⟨{ remote [] with mem := [(0, 0x61), (16320, 9), (16321, 0x20), (16323, 1), (16327, 0x80)] }, 255, by decide +kernel⟩,
   ⟨on, 255, by decide +kernel⟩,
   (let s : State := remote [slot0 0 1 []]
    let n : Byte := 255
    let v := (s.slotOf n).get (by decide +kernel)
    ⟨s, n, 0, v, by decide +kernel⟩),
   (let s : State := remote [slot0 0 2 []]
    let n : Byte := 255
    let v := (s.slotOf n).get (by decide +kernel)
    ⟨s, n, 0, v, by decide +kernel⟩),
   (let s : State := remote [slot0 0 3 []]
    let n : Byte := 255
    let v := (s.slotOf n).get (by decide +kernel)
    ⟨s, n, 0, 9, 0, v, by decide +kernel⟩),
   (let s : State := remote [slot0 0 3 []]
    let n : Byte := 255
    let v := (s.slotOf n).get (by decide +kernel)
    ⟨s, n, 1, 9, 0, v, by decide +kernel⟩),
   (let s : State := remote [slot0 1 0 []]
    let n : Byte := 255
    let v := (s.slotOf n).get (by decide +kernel)
    ⟨s, n, 7, v, by decide +kernel⟩),
   (let s : State := remote [slot0 1 0 [read0]]
    let n : Byte := 255
    let key : W32 := 7
    let v := (s.slotOf n).get (by decide +kernel)
    let r := (v.reads.find? (fun r => decide (r.key = key))).get (by decide +kernel)
    ⟨s, n, key, 0, v, r, by decide +kernel⟩),
   (let s : State := remote [slot0 1 0 [read0]]
    let n : Byte := 255
    let key : W32 := 7
    let v := (s.slotOf n).get (by decide +kernel)
    let r := (v.reads.find? (fun r => decide (r.key = key))).get (by decide +kernel)
    ⟨s, n, key, 1, v, r, by decide +kernel⟩),
   (let s : State := remote [slot0 0 2 []]
    let n : Byte := 255
    let v := (s.slotOf n).get (by decide +kernel)
    ⟨s, n, v, by decide +kernel⟩),
   (let s : State := remote [slot0 1 0 []]
    let n : Byte := 255
    let v := (s.slotOf n).get (by decide +kernel)
    ⟨s, n, v, by decide +kernel⟩),
   ⟨on, 255, by decide +kernel⟩,
   ⟨on, 4095, by decide +kernel⟩,
   (let s : State := remote [slot0 1 0 []]
    let i : BitVec 12 := 2
    let q := (s.qp i).get (by decide +kernel)
    ⟨s, i, 7, 0, List.replicate 64 5, q, by decide +kernel⟩),
   (let s : State := remote [slot0 1 0 [read0]]
    let i : BitVec 12 := 2
    let q := (s.qp i).get (by decide +kernel)
    ⟨s, i, 7, 0, List.replicate 64 5, q, slot0 1 0 [read0], by decide +kernel⟩)⟩

/-- States and operands that meet the hypotheses of Obligations.Ports, clause by clause. -/
theorem meets_ports :
    (∃ (s : State) (e : Fin 8), (s.fld fJePortCtl_STATE e = 0 ∨ e ∈ s.portTrain)) ∧
    (∃ (s : State) (e : Fin 8), s.fld fJePortCtl_STATE e ≠ 0 ∧ e ∉ s.portTrain) ∧
    (∃ (s : State) (e : Fin 8), s.zeroised = false ∧ e ∈ s.portTrain) ∧
    (∃ (s : State) (e : Fin 8), s.zeroised = false ∧ e ∉ s.portTrain ∧ s.fld fJePortCtl_STATE e ≠ 2) ∧
    (∃ (s : State) (e : Fin 8), (s.zeroised = true ∨ (s.fld fJePortCtl_STATE e = 2 ∧ e ∉ s.portTrain))) ∧
    (∃ (s : State) (e : Fin 8) (k : BitVec 16),
    let limit := s.fld fJePortCtl_FEC_LIMIT e
    s.fld fJePortCtl_STATE e = 0 ∧ limit ≠ 0 ∧ limit < k.toNat) ∧
    (∃ (s : State) (e : Fin 8) (k : BitVec 16),
    let limit := s.fld fJePortCtl_FEC_LIMIT e
    s.fld fJePortCtl_STATE e = 0 ∧ (limit = 0 ∨ k.toNat ≤ limit)) ∧
    (∃ (s : State) (e : Fin 8) (k : BitVec 16),
    let limit := s.fld fJePortCtl_FEC_LIMIT e
    s.fld fJePortCtl_STATE e = 3 ∧ s.fld fJePortCtl_LINK_UP e = 1 ∧ (limit = 0 ∨ k.toNat ≤ limit)) ∧
    (∃ (s : State) (e : Fin 8) (k : BitVec 16),
    let limit := s.fld fJePortCtl_FEC_LIMIT e
    s.fld fJePortCtl_STATE e ≠ 0 ∧ (s.fld fJePortCtl_STATE e ≠ 3 ∨ s.fld fJePortCtl_LINK_UP e ≠ 1 ∨ (limit ≠ 0 ∧ limit < k.toNat))) ∧
    (∃ (s : State), s.serving) ∧
    (∃ (s : State) (e : Fin 8), s.fld fJePortCtl_STATE e = 2) ∧
    (∃ (s : State) (e : Fin 8), (e ∈ s.portTrain ∨ s.zeroised = true)) ∧
    (∃ (s : State) (e : Fin 8), s.fld fJePortCtl_STATE e = 1 ∧ (∀ q ∈ s.qps, q.port = e → q.state ≠ .rts) ∧
      s.fld fJePortCtl_ENABLE_PENDING e = 0) ∧
    (∃ (s : State) (e : Fin 8), s.fld fJePortCtl_STATE e = 1 ∧ (∀ q ∈ s.qps, q.port = e → q.state ≠ .rts) ∧
      s.fld fJePortCtl_ENABLE_PENDING e = 1) ∧
    (∃ (s : State) (e : Fin 8), (s.fld fJePortCtl_STATE e ≠ 1 ∨ (∃ q ∈ s.qps, q.port = e ∧ q.state = .rts))) ∧
    (∃ (s : State) (e : Fin 8),
    let used := s.sec.saks.find? (fun k => decide (k.port = e) && !k.rx && k.active)
    used = none) ∧
    (∃ (s : State) (e : Fin 8) (k : _),
    let used := s.sec.saks.find? (fun k => decide (k.port = e) && !k.rx && k.active)
    used = some k) :=
  ⟨⟨on.setFld fJePortCtl_STATE 0 7, 7, by decide +kernel⟩,
   ⟨on, 7, by decide +kernel⟩,
   ⟨{ on with portTrain := [7] }, 7, by decide +kernel⟩,
   ⟨on, 7, by decide +kernel⟩,
   ⟨on.setFld fJePortCtl_STATE 2 7, 7, by decide +kernel⟩,
   ⟨on.setFld fJePortCtl_STATE 0 7, 7, 65535, by decide +kernel⟩,
   ⟨on.setFld fJePortCtl_STATE 0 7, 7, 0, by decide +kernel⟩,
   ⟨(on.setFld fJePortCtl_STATE 3 7).setFld fJePortCtl_LINK_UP 1 7, 7, 0, by decide +kernel⟩,
   ⟨on, 7, 65535, by decide +kernel⟩,
   ⟨on, by decide +kernel⟩,
   ⟨on.setFld fJePortCtl_STATE 2 7, 7, by decide +kernel⟩,
   ⟨{ on with portTrain := [7] }, 7, by decide +kernel⟩,
   ⟨(on.setFld fJePortCtl_STATE 1 7).setFld fJePortCtl_ENABLE_PENDING 0 7, 7, by decide +kernel⟩,
   ⟨(on.setFld fJePortCtl_STATE 1 7).setFld fJePortCtl_ENABLE_PENDING 1 7, 7, by decide +kernel⟩,
   ⟨on, 7, by decide +kernel⟩,
   ⟨on, 7, by decide +kernel⟩,
   ⟨{ on with sec := { on.sec with saks := [⟨7, false, 0, 0, false, [], true⟩] } }, 7, ⟨7, false, 0, 0, false, [], true⟩,
     by decide +kernel⟩⟩

/-- States and operands that meet the hypotheses of Obligations.PowerAndReset, clause by clause. -/
theorem meets_powerAndReset :
    (∃ (s : State), s.boot.porGood = false) ∧
    (∃ (s : State), s.boot.running = true) ∧
    (∃ (r : _), alwaysOnReg r = true) ∧
    (∃ (r : _), alwaysOnReg r = false) ∧
    (∃ (s : State), (s.boot.porGood = false ∨ s.boot.running = true)) ∧
    (∃ (s : State) (test : Byte), s.boot.porGood = true ∧ s.boot.running = false ∧ test ≠ 0) :=
  ⟨⟨State.reset, by decide +kernel⟩,
   ⟨on, by decide +kernel⟩,
   ⟨.jeBootSel, by decide +kernel⟩,
   ⟨.jeStart, by decide +kernel⟩,
   ⟨on, by decide +kernel⟩,
   ⟨off, 255, by decide +kernel⟩⟩

/-- States and operands that meet the hypotheses of Obligations.StartAndLock, clause by clause. -/
theorem meets_startAndLock :
    (∃ (s : State), (s.boot.running = false ∨ s.fld fJeStart_STATE ≠ 0)) ∧
    (∃ (s : State), s.boot.running = true ∧ s.fld fJeStart_STATE = 0 ∧
    let k := s.fld fJeBootSel_SLOT
    let a := if s.boot.loadEnded then 0x0A else s.imageReason (s.slotByte k)
    (imgCertOk (s.slotByte k) = true → imgSigOk (s.slotByte k) = true → a = 0)) ∧
    (∃ (s : State), s.boot.running = true ∧ s.fld fJeStart_STATE = 0 ∧
    let k := s.fld fJeBootSel_SLOT
    let a := if s.boot.loadEnded then 0x0A else s.imageReason (s.slotByte k)
    let b := s.imageReason (s.slotByte (1 - k))
    a ≠ 0 ∧ (imgCertOk (s.slotByte (1 - k)) = true → imgSigOk (s.slotByte (1 - k)) = true → b = 0)) ∧
    (∃ (s : State),
    let k := s.fld fJeBootSel_SLOT
    let a := if s.boot.loadEnded then 0x0A else s.imageReason (s.slotByte k)
    let b := s.imageReason (s.slotByte (1 - k))
    s.boot.running = true ∧ s.fld fJeStart_STATE = 0 ∧ a ≠ 0 ∧ b ≠ 0) ∧
    (∃ (s : State), s.boot.running = true ∧ s.fld fJeStart_STATE = 0 ∧ s.boot.noFlash = true ∧ s.boot.loadEnded = false) ∧
    (∃ (s : State), (s.boot.running = false ∨ s.fld fJeStart_STATE ≠ 1)) ∧
    (∃ (s : State), s.boot.running = true ∧ s.fld fJeStart_STATE = 1 ∧ s.boot.image = []) ∧
    (∃ (s : State), s.serving ∧ s.fld fJeCfgLock_BUSY = 1) ∧
    (∃ (s : State),
    let mask := codeMask (RegId.fields .jeCfgLock) .rw ||| codeMask (RegId.fields .jeCfgLock) .rwl
    let s1 := s.put .jeCfgLock 0 ((s.reg .jeCfgLock &&& mask) ||| 0x8000000000000000#64)
    s1.lockFault = none ∧ s.serving ∧ s.fld fJeCfgLock_BUSY = 0) ∧
    (∃ (s : State) (r p : _),
    let mask := codeMask (RegId.fields .jeCfgLock) .rw ||| codeMask (RegId.fields .jeCfgLock) .rwl
    let s1 := s.put .jeCfgLock 0 ((s.reg .jeCfgLock &&& mask) ||| 0x8000000000000000#64)
    s.serving ∧ s.fld fJeCfgLock_BUSY = 0 ∧ s1.lockFault = some (r, p)) :=
  ⟨⟨on, by decide +kernel⟩,
   ⟨starting 0, by decide +kernel, by decide +kernel,
     fun hc hs => (if_neg (by decide)).trans (starting_accepts _ _ hc hs (by decide +kernel))⟩,
   ⟨starting 0x400000, by decide +kernel, by decide +kernel, by decide +kernel,
     fun hc hs => starting_accepts _ _ hc hs (by decide +kernel)⟩,
   ⟨on.setFld fJeStart_STATE 0, by decide +kernel⟩,
   ⟨{ on.setFld fJeStart_STATE 0 with boot := { on.boot with noFlash := true } }, by decide +kernel⟩,
   ⟨on, by decide +kernel⟩,
   ⟨on.setFld fJeStart_STATE 1, by decide +kernel⟩,
   ⟨on.setFld fJeCfgLock_BUSY 1, by decide +kernel⟩,
   ⟨on.setFld fJeStart_IMAGE 1, lock_ok _ (by decide +kernel), by decide +kernel⟩,
   ⟨on, 8, 0, by decide +kernel⟩⟩

/-- States and operands that meet the hypotheses of Obligations.SecurityActions, clause by clause. -/
theorem meets_securityActions :
    (∃ (s : State), 1 ≤ s.sec.pending ∧ s.sec.pending ≤ 3) ∧
    (∃ (s : State), (s.sec.pending = 0 ∨ 4 ≤ s.sec.pending)) ∧
    (∃ (s : State), s.sec.pending = 0) ∧
    (∃ (s : State), s.sec.pending = 4) ∧
    (∃ (s : State), s.serving ∧ s.fld fJeSecCtl_BUSY = 1) ∧
    (∃ (s : State), s.serving ∧ s.fld fJeSecCtl_BUSY = 0) :=
  ⟨⟨{ on with sec := { on.sec with pending := 3 } }, by decide +kernel⟩,
   ⟨on, by decide +kernel⟩,
   ⟨on, by decide +kernel⟩,
   ⟨{ on with sec := { on.sec with pending := 4 } }, by decide +kernel⟩,
   ⟨on.setFld fJeSecCtl_BUSY 1, by decide +kernel⟩,
   ⟨on, by decide +kernel⟩⟩

/-- States and operands that meet the hypotheses of Obligations.KeyImports, clause by clause. -/
theorem meets_keyImports :
    (∃ (s : State), s.sec.rec_ = none) ∧
    (∃ (s : State) (r : _),
    let kind := bitsOf (recWord r 0) 60 4
    s.sec.rec_ = some r ∧ (kind = 2 ∨ kind = 3)) ∧
    (∃ (s : State) (r : _),
    let kind := bitsOf (recWord r 0) 60 4
    s.sec.rec_ = some r ∧ kind ≠ 2) ∧
    (∃ (s : State) (r : _),
    let kind := bitsOf (recWord r 0) 60 4
    s.sec.rec_ = some r ∧ kind ≠ 3) ∧
    (∃ (s : State) (r : List W64) (res : _), s.sakResult r = .error res ∧ s.sec.rec_ = some r ∧ bitsOf (recWord r 0) 60 4 ≠ 2 ∧
      bitsOf (recWord r 0) 60 4 ≠ 3) ∧
    (∃ (s : State) (r : List W64),
    s.sec.rec_ = some r ∧ bitsOf (recWord r 0) 60 4 ≠ 2 ∧ bitsOf (recWord r 0) 60 4 ≠ 3 ∧
    (∀ key, Config.kwUnwrap [] (recBytes r 1) = some key → ∃ k, s.sakResult r = .ok k)) ∧
    (∃ (s : State), s.zeroised = true) ∧
    (∃ (s : State) (r : List W64),
    let w := recWord r 0
    let rx := bitOf w 56
    let sc := bitsOf w 52 4
    let well := bitsOf w 60 4 = 1 ∧ bitsOf w 0 49 = 0 ∧ (rx = true ∨ sc = 0)
    s.zeroised = false ∧ ¬well) ∧
    (∃ (s : State) (r : List W64),
    let w := recWord r 0
    let rx := bitOf w 56
    let sc := bitsOf w 52 4
    let well := bitsOf w 60 4 = 1 ∧ bitsOf w 0 49 = 0 ∧ (rx = true ∨ sc = 0)
    s.zeroised = false ∧ well ∧ s.sec.transport = none) ∧
    (∃ (s : State) (r : List W64) (kek : _),
    let w := recWord r 0
    let rx := bitOf w 56
    let sc := bitsOf w 52 4
    let e : Fin 8 := Fin.ofNat 8 (bitsOf w 57 3)
    let an := bitsOf w 50 2
    let inUse := !rx && s.sec.saks.any fun k => decide (k.port = e) && !k.rx && decide (k.an = an) && k.active
    let well := bitsOf w 60 4 = 1 ∧ bitsOf w 0 49 = 0 ∧ (rx = true ∨ sc = 0)
    s.zeroised = false ∧ well ∧ s.sec.transport = some kek ∧ inUse = true) ∧
    (∃ (s : State) (r : List W64) (kek : List Byte),
    let w := recWord r 0
    let rx := bitOf w 56
    let sc := bitsOf w 52 4
    let e : Fin 8 := Fin.ofNat 8 (bitsOf w 57 3)
    let an := bitsOf w 50 2
    let inUse := !rx && s.sec.saks.any fun k => decide (k.port = e) && !k.rx && decide (k.an = an) && k.active
    let well := bitsOf w 60 4 = 1 ∧ bitsOf w 0 49 = 0 ∧ (rx = true ∨ sc = 0)
    (s.zeroised = false ∧ well ∧ s.sec.transport = some kek ∧ inUse = false) ∧
    (Config.kwUnwrap kek (recBytes r 1) = none ∨ ∃ key, Config.kwUnwrap kek (recBytes r 1) = some key)) ∧
    (∃ (s : State) (r : List W64), s.sec.rec_ = some r ∧ bitsOf (recWord r 0) 60 4 = 2 ∧ s.provRefused r 5 ≠ 0) ∧
    (∃ (s : State) (r : List W64), s.sec.rec_ = some r ∧ bitsOf (recWord r 0) 60 4 = 2 ∧ s.provRefused r 5 = 0) ∧
    (∃ (s : State) (r : List W64), s.sec.rec_ = some r ∧ bitsOf (recWord r 0) 60 4 = 3 ∧ s.provRefused r 1 ≠ 0) ∧
    (∃ (s : State) (r : List W64), s.sec.rec_ = some r ∧ bitsOf (recWord r 0) 60 4 = 3 ∧ s.provRefused r 1 = 0) ∧
    (∃ (s : State) (r : List W64) (k : Nat),
    let well := bitsOf (recWord r 0) 46 14 = 0 ∧ (∀ w ∈ r.drop k, w = 0) ∧ recOut r + 128 ≤ s.hbmBound
    ¬well ∧ s.zeroised = false) ∧
    (∃ (s : State) (r : List W64) (k : Nat),
    let well := bitsOf (recWord r 0) 46 14 = 0 ∧ (∀ w ∈ r.drop k, w = 0) ∧ recOut r + 128 ≤ s.hbmBound
    well ∧ s.zeroised = false ∧ s.fld fJeStart_MODE ≠ 3) ∧
    (∃ (s : State) (r : List W64) (k : Nat),
    let well := bitsOf (recWord r 0) 46 14 = 0 ∧ (∀ w ∈ r.drop k, w = 0) ∧ recOut r + 128 ≤ s.hbmBound
    well ∧ s.zeroised = false ∧ s.fld fJeStart_MODE = 3) :=
  ⟨⟨on, by decide +kernel⟩,
   ⟨importing (on) ([0x2000000000000000]), [0x2000000000000000], by decide +kernel⟩,
   ⟨importing (on) ([0x1000000000000000]), [0x1000000000000000], by decide +kernel⟩,
   ⟨importing (on) ([0x2000000000000000]), [0x2000000000000000], by decide +kernel⟩,
   ⟨importing (on.setFld fJeSecStatus_ZEROISED 1) ([0x1000000000000000]), [0x1000000000000000], 5, errGot (by decide +kernel),
     by decide +kernel⟩,
   ⟨importing ({ on with sec := { on.sec with transport := some [] } }) [0x1000000000000000], [0x1000000000000000], by decide +kernel,
     by decide +kernel, by decide +kernel,
     fun key hk => sak_of_key _ _ _ key (by decide +kernel) (by decide +kernel) (by decide +kernel) (by decide +kernel) hk⟩,
   ⟨on.setFld fJeSecStatus_ZEROISED 1, by decide +kernel⟩,
   ⟨on, [0], by decide +kernel⟩,
   ⟨on, [0x1000000000000000], by decide +kernel⟩,
   ⟨{ on with sec := { on.sec with transport := some [], saks := [⟨0, false, 0, 0, false, [], true⟩] } }, [0x1000000000000000], [],
     by decide +kernel⟩,
   ⟨{ on with sec := { on.sec with transport := some [] } }, [0x1000000000000000], [], by decide +kernel, (Option.eq_none_or_eq_some _)⟩,
   ⟨importing (on) ([0x2000000000000000]), [0x2000000000000000], by decide +kernel⟩,
   ⟨importing ({ (on.setFld fJeStart_MODE 3) with sec := { on.sec with kImg := some [] } }) ([0x2000000000000000]), [0x2000000000000000],
     by decide +kernel⟩,
   ⟨importing (on) ([0x3000000000000000]), [0x3000000000000000], by decide +kernel⟩,
   ⟨importing ({ (on.setFld fJeStart_MODE 3) with sec := { on.sec with kImg := some [] } }) ([0x3000000000000000]), [0x3000000000000000],
     by decide +kernel⟩,
   ⟨on, [0x2000000006000000], 1, (fun h => absurd h.2.2 (by decide +kernel)), by decide +kernel⟩,
   ⟨on, [0x2000000005FFFFFE, 0], 1, ⟨by decide +kernel, by simp, by decide +kernel⟩, by decide +kernel⟩,
   ⟨on.setFld fJeStart_MODE 3, [0x2000000005FFFFFE, 0], 1, ⟨by decide +kernel, by simp, by decide +kernel⟩, by decide +kernel⟩⟩

/-- States and operands that meet the hypotheses of Obligations.FlashActions, clause by clause. -/
theorem meets_flashActions :
    (∃ (s : State), s.serving ∧ s.fld fJeNvmCtl_BUSY = 1) ∧
    (∃ (s : State) (addr : BitVec 24),
    let closed := s.flashClosed addr.toNat
    s.serving ∧ s.fld fJeNvmCtl_BUSY = 0 ∧ closed = false ∧ 32 ≤ s.sec.pageBuf.length) ∧
    (∃ (s : State) (addr : BitVec 24),
    let closed := s.flashClosed addr.toNat
    s.serving ∧ s.fld fJeNvmCtl_BUSY = 0 ∧ closed = false ∧ s.sec.pageBuf.length < 32) ∧
    (∃ (s : State) (addr : BitVec 24),
    let closed := s.flashClosed addr.toNat
    s.serving ∧ s.fld fJeNvmCtl_BUSY = 0 ∧ closed = true) ∧
    (∃ (s : State), s.sec.nvmAction = 0) ∧
    (∃ (s : State), s.sec.nvmAction = 1) ∧
    (∃ (s : State), s.sec.nvmAction = 2) ∧
    (∃ (s : State), s.sec.nvmAction = 3) :=
  ⟨⟨on.setFld fJeNvmCtl_BUSY 1, by decide +kernel⟩,
   ⟨{ on with sec := { on.sec with pageBuf := List.replicate 32 0 } }, 0x3FFFFF, by decide +kernel⟩,
   ⟨on, 16777215, by decide +kernel⟩,
   ⟨(on.setFld fJeStart_IMAGE 1).setFld fJeStart_SLOT 1, 0x400000, by decide +kernel⟩,
   ⟨on, by decide +kernel⟩,
   ⟨{ on with sec := { on.sec with nvmAction := 1 } }, by decide +kernel⟩,
   ⟨{ on with sec := { on.sec with nvmAction := 2 } }, by decide +kernel⟩,
   ⟨{ on with sec := { on.sec with nvmAction := 3 } }, by decide +kernel⟩⟩

/-- States and operands that meet the hypotheses of Obligations.SleepAndWake, clause by clause. -/
theorem meets_sleepAndWake :
    (∃ (s : State) (k p : Nat), k ≤ 3 ∧ p < 16 ∧ s.partEnabled p = true) ∧
    (∃ (s : State) (u : RestUnit), s.ready = true ∧ s.asleep = false ∧ 1 ≤ s.sleepLimit ∧ s.unitIdle u = true) ∧
    (∃ (s : State) (u : RestUnit), (s.ready = false ∨ s.asleep = true ∨ s.sleepLimit = 0 ∨ s.unitIdle u = false)) ∧
    (∃ (s : State) (u : RestUnit), s.unitNeeded u = true) ∧
    (∃ (s : State) (u : RestUnit), s.unitNeeded u = false) ∧
    (∃ (s : State), s.mayEnter = true ∧ s.asleep = false ∧ 2 ≤ s.sleepLimit) ∧
    (∃ (s : State), (s.mayEnter = false ∨ s.asleep = true ∨ s.sleepLimit < 2)) ∧
    (∃ (s : State), s.mayEnter = true ∧ s.fld fJePwrStatus_STATE = 2 ∧ 3 ≤ s.sleepLimit) ∧
    (∃ (s : State), (s.mayEnter = false ∨ s.fld fJePwrStatus_STATE ≠ 2 ∨ s.sleepLimit < 3)) ∧
    (∃ (s s1 : State) (done : Bool),
    let early := s1.power.trigger = true ∧ s1.power.step < 4
    let flips := s1.power.entry = 2 ∧ s1.power.step = 2
    s.entryWork = (s1, done) ∧ s.power.entry ≠ 0 ∧ early ∧ (done = true ∨ flips)) ∧
    (∃ (s s1 : State) (done : Bool),
    let early := s1.power.trigger = true ∧ s1.power.step < 4
    let flips := s1.power.entry = 2 ∧ s1.power.step = 2
    s.entryWork = (s1, done) ∧ s.power.entry ≠ 0 ∧ done = false ∧ ¬(early ∧ flips)) ∧
    (∃ (s s1 : State) (done : Bool),
    let early := s1.power.trigger = true ∧ s1.power.step < 4
    s.entryWork = (s1, done) ∧ s.power.entry ≠ 0 ∧ done = true ∧ ¬early ∧ s1.power.step < entrySteps s1.power.entry) ∧
    (∃ (s s1 : State) (done : Bool),
    let early := s1.power.trigger = true ∧ s1.power.step < 4
    s.entryWork = (s1, done) ∧ s.power.entry ≠ 0 ∧ done = true ∧ ¬early ∧ entrySteps s1.power.entry ≤ s1.power.step) ∧
    (∃ (s : State), s.power.entry = 1 ∧ s.power.step = 1) ∧
    (∃ (s : State),
    let s1 := (List.finRange 8).foldl (fun (u : State) (n : SliceId) => u.flushPre n fun _ => true) s
    s.power.entry = 1 ∧ s.power.step = 2 ∧ s1.buffersQuiet = true) ∧
    (∃ (s : State),
    let s1 := (List.finRange 8).foldl (fun (u : State) (n : SliceId) => u.flushPre n fun _ => true) s
    s.power.entry = 1 ∧ s.power.step = 2 ∧ s1.buffersQuiet = false) ∧
    (∃ (s : State), s.power.entry = 2 ∧ s.power.step = 2) ∧
    (∃ (s : State), s.power.entry = 2 ∧ s.power.step = 3) ∧
    (∃ (s : State), s.power.entry = 1 ∧ 3 ≤ s.power.step) ∧
    (∃ (s : State), s.power.entry = 2 ∧ (s.power.step = 1 ∨ 4 ≤ s.power.step)) ∧
    (∃ (s : State) (c : Wake), (c ≠ .resetPin ∨ s.boot.running = true) ∧ s.power.entry ≠ 0) ∧
    (∃ (s : State) (c : Wake), (c ≠ .resetPin ∨ s.boot.running = true) ∧ s.power.entry = 0 ∧ s.asleep = true) ∧
    (∃ (s : State) (c : Wake), (c ≠ .resetPin ∨ s.boot.running = true) ∧ s.power.entry = 0 ∧ s.asleep = false) ∧
    (∃ (s : State) (c : Wake), c = .resetPin ∧ s.boot.running = false) ∧
    (∃ (s : State), s.fld fJePwrStatus_STATE = 3 ∧ s.power.entry = 0) ∧
    (∃ (s : State), s.fld fJePwrStatus_STATE ≠ 3 ∧ s.power.entry ≠ 2) ∧
    (∃ (s : State), s.power.waking = false) ∧
    (∃ (s : State), s.power.waking = true) :=
  ⟨⟨live, 3, 0, by decide +kernel⟩,
   ⟨(on.setFld fJePwrCtl_MAX_DEPTH 3), .winnow, by decide +kernel⟩,
   ⟨on, .winnow, by decide +kernel⟩,
   ⟨{ on with laneQ := [work0 false] }, .lanes 0, by decide +kernel⟩,
   ⟨on, .winnow, by decide +kernel⟩,
   ⟨(on.setFld fJePwrCtl_MAX_DEPTH 3), by decide +kernel⟩,
   ⟨on, by decide +kernel⟩,
   ⟨(on.setFld fJePwrCtl_MAX_DEPTH 3).setFld fJePwrStatus_STATE 2, by decide +kernel⟩,
   ⟨on, by decide +kernel⟩,
   (let s : State := { (on.setFld fJePwrCtl_MAX_DEPTH 3) with power := ⟨1, 3, false, true, [], false⟩ }
    let s1 : State := (s.entryWork).1
    ⟨s, s1, true, pair (by decide +kernel), by decide +kernel⟩),
   (let s : State := { (on.setFld fJePwrCtl_MAX_DEPTH 3) with power := ⟨1, 2, false, false, [], false⟩, wrQ := [write0] }
    let s1 : State := (s.entryWork).1
    ⟨s, s1, false, pair (by decide +kernel), by decide +kernel⟩),
   (let s : State := { (on.setFld fJePwrCtl_MAX_DEPTH 3) with power := ⟨1, 3, false, false, [], false⟩ }
    let s1 : State := (s.entryWork).1
    ⟨s, s1, true, pair (by decide +kernel), by decide +kernel⟩),
   (let s : State := { (on.setFld fJePwrCtl_MAX_DEPTH 3) with power := ⟨1, 4, false, false, [], false⟩ }
    let s1 : State := (s.entryWork).1
    ⟨s, s1, true, pair (by decide +kernel), by decide +kernel⟩),
   ⟨{ (on.setFld fJePwrCtl_MAX_DEPTH 3) with power := ⟨1, 1, false, false, [], false⟩ }, by decide +kernel⟩,
   ⟨{ (on.setFld fJePwrCtl_MAX_DEPTH 3) with power := ⟨1, 2, false, false, [], false⟩ }, by decide +kernel⟩,
   ⟨{ (on.setFld fJePwrCtl_MAX_DEPTH 3) with power := ⟨1, 2, false, false, [], false⟩, wrQ := [write0] }, by decide +kernel⟩,
   ⟨{ (on.setFld fJePwrCtl_MAX_DEPTH 3) with power := ⟨2, 2, false, false, [], false⟩ }, by decide +kernel⟩,
   ⟨{ (on.setFld fJePwrCtl_MAX_DEPTH 3) with power := ⟨2, 3, false, false, [], false⟩ }, by decide +kernel⟩,
   ⟨{ (on.setFld fJePwrCtl_MAX_DEPTH 3) with power := ⟨1, 4, false, false, [], false⟩ }, by decide +kernel⟩,
   ⟨{ (on.setFld fJePwrCtl_MAX_DEPTH 3) with power := ⟨2, 1, false, false, [], false⟩ }, by decide +kernel⟩,
   ⟨{ (on.setFld fJePwrCtl_MAX_DEPTH 3) with power := ⟨1, 4, false, false, [], false⟩ }, .resetPin, by decide +kernel⟩,
   ⟨(on.setFld fJePwrCtl_MAX_DEPTH 3).setFld fJePwrStatus_STATE 2, .resetPin, by decide +kernel⟩,
   ⟨on, .doorbell, by decide +kernel⟩,
   ⟨State.reset, .resetPin, by decide +kernel⟩,
   ⟨on.setFld fJePwrStatus_STATE 3, by decide +kernel⟩,
   ⟨on, by decide +kernel⟩,
   ⟨on, by decide +kernel⟩,
   ⟨{ (on.setFld fJePwrCtl_MAX_DEPTH 3) with power := ⟨0, 0, true, false, [], false⟩ }, by decide +kernel⟩⟩

/-- States and operands that meet the hypotheses of Obligations.PowerArbiter, clause by clause. -/
theorem meets_powerArbiter :
    (∃ (s : State), s.asleep = true) ∧
    (∃ (s : State) (e : W32),
    let g := s.grantInForce
    let l := s.fld fJePwrArb_LEVEL
    s.asleep = false ∧ e.toNat ≤ 320 * g ∧ 64 * e.toNat < 320 * g * (64 - s.fld fJePwrArb_HYST) ∧ 0 < l) ∧
    (∃ (s : State) (e : W32),
    let g := s.grantInForce
    let l := s.fld fJePwrArb_LEVEL
    s.asleep = false ∧ e.toNat ≤ 320 * g ∧ (320 * g * (64 - s.fld fJePwrArb_HYST) ≤ 64 * e.toNat ∨ l = 0)) ∧
    (∃ (s : State) (e : W32),
    let g := s.grantInForce
    let l := s.fld fJePwrArb_LEVEL
    s.asleep = false ∧ 320 * g < e.toNat ∧ e.toNat ≤ 360 * g ∧ l < 15) ∧
    (∃ (s : State) (e : W32),
    let g := s.grantInForce
    let l := s.fld fJePwrArb_LEVEL
    s.asleep = false ∧ 360 * g < e.toNat ∧ l < 15) ∧
    (∃ (s : State) (e : W32),
    let g := s.grantInForce
    let l := s.fld fJePwrArb_LEVEL
    s.asleep = false ∧ 320 * g < e.toNat ∧ l = 15) :=
  ⟨⟨on.setFld fJePwrStatus_STATE 2, by decide +kernel⟩,
   ⟨arbiter 15, 95999, by decide +kernel⟩,
   ⟨on, 0, by decide +kernel⟩,
   ⟨arbiter 14, 108000, by decide +kernel⟩,
   ⟨on, 1, by decide +kernel⟩,
   ⟨arbiter 15, 96001, by decide +kernel⟩⟩

/-- States and operands that meet the hypotheses of Obligations.LaneService, clause by clause. -/
theorem meets_laneService :
    (∃ (s : State) (n : SliceId), s.serving ∧ s.fld fJsLaneCtl_BUSY n = 1) ∧
    (∃ (s : State) (n : SliceId), s.serving ∧ s.fld fJsLaneCtl_BUSY n = 0 ∧ s.sliceState n ≠ 0) ∧
    (∃ (s : State) (n : SliceId) (l : Fin 32),
    let k := laneId n l
    s.serving ∧ s.fld fJsLaneCtl_BUSY n = 0 ∧ s.sliceState n = 0 ∧ s.laneState k.val = 0 ∧ s.laneState (partner k).val ≠ 0) ∧
    (∃ (s : State) (n : SliceId) (l : Fin 32),
    let k := laneId n l
    s.serving ∧ s.fld fJsLaneCtl_BUSY n = 0 ∧ s.sliceState n = 0 ∧ s.laneState k.val = 0 ∧ s.laneState (partner k).val = 0 ∧
      4 ≤ s.lanesTesting n) ∧
    (∃ (s : State) (n : SliceId) (l : Fin 32),
    let k := laneId n l
    s.serving ∧ s.fld fJsLaneCtl_BUSY n = 0 ∧ s.sliceState n = 0 ∧ s.laneState k.val = 2 ∧ 4 ≤ s.lanesTesting n) ∧
    (∃ (s : State) (n : SliceId) (l : Fin 32),
    let k := laneId n l
    s.serving ∧ s.fld fJsLaneCtl_BUSY n = 0 ∧ s.sliceState n = 0 ∧ s.laneState k.val = 2 ∧ s.laneFailed k = true) ∧
    (∃ (s : State) (n : SliceId) (k : Nat),
    let l := laneId n k
    s.sliceState n = 0 ∧ s.laneState l.val = 0 ∧ s.laneState (partner l).val = 0 ∧ s.lanesTesting n < 4) ∧
    (∃ (s : State) (n : SliceId) (k : Nat),
    let l := laneId n k
    s.sliceState n = 0 ∧ s.laneState l.val = 1) ∧
    (∃ (s : State) (n : SliceId) (k : Nat),
    let l := laneId n k
    s.sliceState n = 0 ∧ s.laneState l.val = 2 ∧ s.laneFailed l = false) ∧
    (∃ (s : State) (n : SliceId) (k : Nat),
    let l := laneId n k
    s.sliceState n = 0 ∧ s.laneState l.val = 2 ∧ s.lanesTesting n < 4) ∧
    (∃ (s : State) (n : SliceId) (k : Nat),
    let l := laneId n k
    s.sliceState n = 0 ∧ s.laneState l.val = 3) ∧
    (∃ (s : State) (n : SliceId) (k : Fin 32),
    let l := laneId n k
    (s.laneState l.val ≠ 1 ∨ s.laneQuiet l = false)) ∧
    (∃ (s : State) (n : SliceId) (k : Fin 32),
    let l := laneId n k
    let s1 : State := { s with accs := s.accs.map fun (a : Acc) => if a.lane = l then { a with spilled := true } else a }
    let s2 := ((s1.resetCloche l).setLaneState l.val 2).eventE 0x23 l 0
    s.laneState l.val = 1 ∧ s.laneQuiet l = true ∧ s2.laneTest l ≠ none) ∧
    (∃ (s : State) (n : SliceId) (k : Fin 32),
    let l := laneId n k
    let s1 : State := { s with accs := s.accs.map fun (a : Acc) => if a.lane = l then { a with spilled := true } else a }
    let s2 := ((s1.resetCloche l).setLaneState l.val 2).eventE 0x23 l 0
    s.laneState l.val = 1 ∧ s.laneQuiet l = true ∧ s2.laneTest l = none ∧ s2.lanePending l = false) ∧
    (∃ (s : State) (n : SliceId) (k : Fin 32),
    let l := laneId n k
    let s1 : State := { s with accs := s.accs.map fun (a : Acc) => if a.lane = l then { a with spilled := true } else a }
    let s2 := ((s1.resetCloche l).setLaneState l.val 2).eventE 0x23 l 0
    s.laneState l.val = 1 ∧ s.laneQuiet l = true ∧ s2.laneTest l = none ∧ s2.lanePending l = true) ∧
    (∃ (s : State) (n : SliceId) (k : Fin 32),
    let l := laneId n k
    s.laneState l.val ≠ 3) ∧
    (∃ (s : State) (n : SliceId) (k : Fin 32),
    let l := laneId n k
    s.laneState l.val = 3 ∧ (s.laneTest l = some true ∨ s.lanePending l = true)) ∧
    (∃ (s : State) (n : SliceId) (k : Fin 32),
    let l := laneId n k
    s.laneState l.val = 3 ∧ s.laneTest l ≠ some true ∧ s.lanePending l = false) ∧
    (∃ (s : State) (n : SliceId) (k : Fin 32) (block : Byte),
    let l := laneId n k
    s.laneState l.val = 3 ∧ block ≠ 0) :=
  ⟨⟨on.setFld fJsLaneCtl_BUSY 1 7, 7, by decide +kernel⟩,
   ⟨on.setFld fJsSliceCtl_STATE 2 7, 7, by decide +kernel⟩,
   ⟨on.setLaneState 254 2, 7, 31, by decide +kernel⟩,
   ⟨{ on with laneFrom := [(224, true), (226, true), (228, true), (230, true)] }, 7, 31, by decide +kernel⟩,
   ⟨{ on.setLaneState 255 2 with laneFrom := [(224, true), (226, true), (228, true), (230, true)] }, 7, 31, by decide +kernel⟩,
   ⟨(on.setLaneState 255 2).laneBit fJsLaneFail_FAILED 255 true, 7, 31, by decide +kernel⟩,
   ⟨on, 7, 0, by decide +kernel⟩,
   ⟨on.setLaneState 255 1, 7, 31, by decide +kernel⟩,
   ⟨on.setLaneState 255 2, 7, 31, by decide +kernel⟩,
   ⟨on.setLaneState 255 2, 7, 31, by decide +kernel⟩,
   ⟨on.setLaneState 255 3, 7, 31, by decide +kernel⟩,
   ⟨on, 7, 31, by decide +kernel⟩,
   ⟨{ on.setLaneState 255 1 with laneFrom := [(255, true)] }, 7, 31, by decide +kernel⟩,
   ⟨on.setLaneState 255 1, 7, 31, by decide +kernel⟩,
   ⟨(on.setLaneState 255 1).laneBit fJsLaneFail_PENDING 255 true, 7, 31, by decide +kernel⟩,
   ⟨on, 7, 31, by decide +kernel⟩,
   ⟨{ on.setLaneState 255 3 with laneFrom := [(255, true)] }, 7, 31, by decide +kernel⟩,
   ⟨{ on.setLaneState 255 3 with laneFrom := [(255, false)] }, 7, 31, by decide +kernel⟩,
   ⟨on.setLaneState 255 3, 7, 31, 255, by decide +kernel⟩⟩

/-- States and operands that meet the hypotheses of Obligations.SliceService, clause by clause. -/
theorem meets_sliceService :
    (∃ (s : State), s.serving) ∧
    (∃ (s : State) (n : SliceId), s.sliceState n = 0 ∧ s.fld fJeWinCtl_ENABLED = 1) ∧
    (∃ (s : State) (n : SliceId), s.sliceState n = 0 ∧ s.fld fJeWinCtl_ENABLED = 0 ∧ (∀ m ∈ s.slicesIn, m = n)) ∧
    (∃ (s : State) (n : SliceId), s.sliceState n = 0 ∧ s.fld fJeWinCtl_ENABLED = 0 ∧ (∃ m ∈ s.slicesIn, m ≠ n)) ∧
    (∃ (s : State) (n : SliceId), s.sliceState n = 2) ∧
    (∃ (s : State) (n : SliceId), s.sliceState n = 3) ∧
    (∃ (s : State) (n : SliceId), s.sliceState n = 4) ∧
    (∃ (s : State) (n : SliceId), (s.sliceState n ≠ 1 ∨ s.sliceQuiet n = false)) ∧
    (∃ (s : State) (n : SliceId), s.sliceState n = 1 ∧ s.sliceQuiet n = true) ∧
    (∃ (s : State) (n : SliceId), s.sliceState n ≠ 3) ∧
    (∃ (s : State), (s.ready = false ∨ s.asleep = true)) ∧
    (∃ (s : State), s.ready = true ∧ s.asleep = false) ∧
    (∃ (s : State) (n : SliceId), 2 ≤ s.sliceState n) ∧
    (∃ (s : State) (n : SliceId), s.sliceState n < 2 ∧ s.missedBeats[n] < 3) ∧
    (∃ (s : State) (n : SliceId), s.sliceState n < 2 ∧ 3 ≤ s.missedBeats[n]) :=
  ⟨⟨on, by decide +kernel⟩,
   ⟨(on.setFld fJeWinCtl_ENABLED 1).setFld fJsSliceCtl_STATE 0 7, 7, by decide +kernel⟩,
   ⟨(List.range 7).foldl (fun s k => s.setFld fJsSliceCtl_STATE 4 k) on, 7, by decide +kernel⟩,
   ⟨on, 7, by decide +kernel⟩,
   ⟨on.setFld fJsSliceCtl_STATE 2 7, 7, by decide +kernel⟩,
   ⟨on.setFld fJsSliceCtl_STATE 3 7, 7, by decide +kernel⟩,
   ⟨on.setFld fJsSliceCtl_STATE 4 7, 7, by decide +kernel⟩,
   ⟨on, 7, by decide +kernel⟩,
   ⟨on.setFld fJsSliceCtl_STATE 1 7, 7, by decide +kernel⟩,
   ⟨on, 7, by decide +kernel⟩,
   ⟨State.reset, by decide +kernel⟩,
   ⟨on, by decide +kernel⟩,
   ⟨on.setFld fJsSliceCtl_STATE 2 7, 7, by decide +kernel⟩,
   ⟨on, 7, by decide +kernel⟩,
   ⟨{ on with missedBeats := on.missedBeats.set 7 3 }, 7, by decide +kernel⟩⟩

/-- States and operands that meet the hypotheses of Obligations.EventsAndTests, clause by clause. -/
theorem meets_eventsAndTests :
    (∃ (s : State) (p : Part),
    let q := (s.part p).events
    q.recs = []) ∧
    (∃ (s : State) (p : Part) (acc : RegAcc) (r rest : _),
    let q := (s.part p).events
    q.recs = r :: rest ∧ acc = .lo) ∧
    (∃ (s : State) (p : Part) (acc : RegAcc) (r rest : _),
    let q := (s.part p).events
    q.recs = r :: rest ∧ acc ≠ .lo ∧ q.pos = 0) ∧
    (∃ (s : State) (p : Part) (acc : RegAcc) (r rest : _),
    let q := (s.part p).events
    q.recs = r :: rest ∧ acc ≠ .lo ∧ q.pos = 1 ∧ q.waiting = []) ∧
    (∃ (s : State) (p : Part) (acc : RegAcc) (r rest w ws : _),
    let q := (s.part p).events
    q.recs = r :: rest ∧ acc ≠ .lo ∧ q.pos = 1 ∧ q.waiting = w :: ws) ∧
    (∃ (s : State),
    let q := s.engineEvents
    q.recs = []) ∧
    (∃ (s : State) (acc : RegAcc) (r rest : _),
    let q := s.engineEvents
    q.recs = r :: rest ∧ acc = .lo) ∧
    (∃ (s : State) (acc : RegAcc) (r rest : _),
    let q := s.engineEvents
    q.recs = r :: rest ∧ acc ≠ .lo ∧ q.pos = 0) ∧
    (∃ (s : State) (acc : RegAcc) (r rest : _),
    let q := s.engineEvents
    q.recs = r :: rest ∧ acc ≠ .lo ∧ q.pos = 1 ∧ q.waiting = []) ∧
    (∃ (s : State) (acc : RegAcc) (r rest w ws : _),
    let q := s.engineEvents
    q.recs = r :: rest ∧ acc ≠ .lo ∧ q.pos = 1 ∧ q.waiting = w :: ws) ∧
    (∃ (s : State), s.serving ∧ s.fld fJeInject_BUSY = 1) ∧
    (∃ (s : State) (c : Fin 8), s.serving ∧ s.fld fJeInject_BUSY = 0 ∧ c = 0) ∧
    (∃ (s : State) (c : Fin 8), s.serving ∧ s.fld fJeInject_BUSY = 0 ∧ c ≠ 0) ∧
    (∃ (s : State) (c : Fin 8),
    let k := s.fld fJeFifoStat_WINDOW c
    let past := c ≠ 0 ∧ s.fld fJeFifoCtl_AUTO c = 1 ∧ s.fld fJeFifoCtl_MODE c = 0 ∧ s.fld fJeFifoCtl_THRESH c < k
    past) ∧
    (∃ (s : State) (c : Fin 8),
    let k := s.fld fJeFifoStat_WINDOW c
    let past := c ≠ 0 ∧ s.fld fJeFifoCtl_AUTO c = 1 ∧ s.fld fJeFifoCtl_MODE c = 0 ∧ s.fld fJeFifoCtl_THRESH c < k
    ¬past) ∧
    (∃ (s : State), s.serving ∧ s.fld fJeUnitTest_BUSY = 1) ∧
    (∃ (s : State), s.serving ∧ s.fld fJeUnitTest_BUSY = 0 ∧ s.fld fJeWinnowCtl_STATE = 2) ∧
    (∃ (s : State), s.serving ∧ s.fld fJeUnitTest_BUSY = 0 ∧ s.fld fJeWinnowCtl_STATE ≠ 2) ∧
    (∃ (s : State), s.fld fJeUnitTest_BUSY ≠ 1) ∧
    (∃ (s : State) (block : Byte), s.fld fJeUnitTest_BUSY = 1 ∧ block = 0) ∧
    (∃ (s : State) (block : Byte), s.fld fJeUnitTest_BUSY = 1 ∧ block ≠ 0) :=
  ⟨⟨on, 0, by decide +kernel⟩,
   ⟨withPart fun ps => { ps with events := ⟨[⟨0x21, 0, 1, 7, 3⟩], 1, 0, []⟩ }, 0, .lo, ⟨0x21, 0, 1, 7, 3⟩, [], by decide +kernel⟩,
   ⟨withPart fun ps => { ps with events := ⟨[⟨0x21, 0, 1, 7, 3⟩], 0, 0, []⟩ }, 0, .hi, ⟨0x21, 0, 1, 7, 3⟩, [], by decide +kernel⟩,
   ⟨withPart fun ps => { ps with events := ⟨[⟨0x21, 0, 1, 7, 3⟩], 1, 0, []⟩ }, 0, .full, ⟨0x21, 0, 1, 7, 3⟩, [], by decide +kernel⟩,
   ⟨withPart fun ps => { ps with events := ⟨[⟨0x21, 0, 1, 7, 3⟩], 1, 0, [⟨0x22, 0, 9, 1, 2⟩]⟩ }, 0, .hi, ⟨0x21, 0, 1, 7, 3⟩, [], ⟨0x22, 0,
     9, 1, 2⟩, [], by decide +kernel⟩,
   ⟨on, by decide +kernel⟩,
   ⟨{ on with engineEvents := ⟨[⟨0x21, 0, 1, 7, 3⟩], 1, 0, []⟩ }, .lo, ⟨0x21, 0, 1, 7, 3⟩, [], by decide +kernel⟩,
   ⟨{ on with engineEvents := ⟨[⟨0x21, 0, 1, 7, 3⟩], 0, 0, []⟩ }, .hi, ⟨0x21, 0, 1, 7, 3⟩, [], by decide +kernel⟩,
   ⟨{ on with engineEvents := ⟨[⟨0x21, 0, 1, 7, 3⟩], 1, 0, []⟩ }, .full, ⟨0x21, 0, 1, 7, 3⟩, [], by decide +kernel⟩,
   ⟨{ on with engineEvents := ⟨[⟨0x21, 0, 1, 7, 3⟩], 1, 0, [⟨0x22, 0, 9, 1, 2⟩]⟩ }, .hi, ⟨0x21, 0, 1, 7, 3⟩, [], ⟨0x22, 0, 9, 1, 2⟩, [],
     by decide +kernel⟩,
   ⟨on.setFld fJeInject_BUSY 1, by decide +kernel⟩,
   ⟨on, 0, by decide +kernel⟩,
   ⟨on, 7, by decide +kernel⟩,
   ⟨((live.setFld fJeFifoCtl_AUTO 1 7).setFld fJeFifoCtl_THRESH 2 7).setFld fJeFifoStat_WINDOW 3 7, 7, by decide +kernel⟩,
   ⟨on, 7, by decide +kernel⟩,
   ⟨on.setFld fJeUnitTest_BUSY 1, by decide +kernel⟩,
   ⟨(on.setFld fJeUnitTest_BUSY 0).setFld fJeWinnowCtl_STATE 2, by decide +kernel⟩,
   ⟨on, by decide +kernel⟩,
   ⟨on, by decide +kernel⟩,
   ⟨on.setFld fJeUnitTest_BUSY 1, 0, by decide +kernel⟩,
   ⟨on.setFld fJeUnitTest_BUSY 1, 255, by decide +kernel⟩⟩

/-- A state and operands that meet the hypotheses of Obligations.WaitsNeverMissed. -/
theorem meets_waitsNeverMissed :
    ∃ (s t : State), s.waitsBlocked ∧ step s = .next t :=
  ⟨waiting, _, waiting_blocked, rfl⟩

/-- States and operands that meet the hypotheses of Obligations.SettleFrame, clause by clause. -/
theorem meets_settleFrame :
    (∃ (s : State) (k : Nat) (x : Tracker), s.synced ∧ s.trackers[k]? = some x ∧ (x.op ≠ 0x02 ∨ x.phase ≠ .running)) ∧
    (∃ (s : State) (k : Nat) (x : Tracker) (v : _), s.synced ∧ s.trackers[k]? = some x ∧ x.op = 0x02 ∧ s.waitValue x.cmd = some v ∧
      v < cW2 x.cmd) ∧
    (∃ (s : State) (k : Nat) (x : Tracker) (v : _), s.synced ∧ s.trackers[k]? = some x ∧ x.op = 0x02 ∧ x.phase = .running ∧
      s.waitValue x.cmd = some v ∧ cW2 x.cmd ≤ v) :=
  ⟨⟨withTrk (trk (cmd [(0, 1)]) .running), 0, trk (cmd [(0, 1)]) .running, by decide +kernel⟩,
   ⟨marked 4, 0, trk (cmd [(0, 2), (68, 1), (96, 7), (128, 5)]) .running, 4, by decide +kernel⟩,
   ⟨marked 5, 0, trk (cmd [(0, 2), (68, 1), (96, 7), (128, 5)]) .running, 5, by decide +kernel⟩⟩

/-- States and operands that meet the hypotheses of Obligations.MemoryCells, clause by clause. -/
theorem meets_memoryCells :
    (∃ (m : List Host.Cell) (bs : List Byte) (k : Nat) (b : Byte), Memory.wf m ∧ bs[k]? = some b) ∧
    (∃ (m : List Host.Cell) (a : Nat) (bs : List Byte) (x : _), Memory.wf m ∧ (x < a ∨ a + bs.length ≤ x)) ∧
    (∃ (m m' : List Host.Cell), (∀ x, memGet m' x = memGet m x) ∧ Memory.wf m ∧ Memory.wf m') :=
  ⟨⟨[(5, 1), (7, 2)], [0, 3], 1, 3, by decide +kernel⟩,
   ⟨[(5, 1), (7, 2)], 6, [0, 3], 8, by decide +kernel⟩,
   ⟨[(5, 1), (7, 2)], [(5, 1), (7, 2)], fun _ => rfl, by decide +kernel⟩⟩

/-- A state and operands that meet the hypotheses of Obligations.WriteBacksUnseen. -/
theorem meets_writeBacksUnseen :
    ∃ (s : State) (pre post : List WcbEnt) (e : WcbEnt) (g : Nat),
    memOk s ∧ s.wcb = pre ++ e :: post ∧ e.mask = BitVec.allOnes 64 ∧ (e.zmask ≠ 0 → e.data = 0) ∧
    (∀ f ∈ pre, ∀ g, e.covers g = true → f.covers g = false) ∧ e.covers g = false :=
  ⟨{ live with wcb := [{ wcb0 with granule := 63 }, wcb0] }, [{ wcb0 with granule := 63 }], [], wcb0, 63,
    by unfold memOk; decide +kernel, by decide +kernel, by decide +kernel, by decide +kernel, fun f hf g hg => by
      have hf : f = { wcb0 with granule := 63 } := List.mem_singleton.1 hf
      subst hf
      simp [WcbEnt.covers, wcb0] at hg ⊢
      rw [← of_decide_eq_true hg]; decide, by decide +kernel⟩

/-- A state and operands that meet the hypotheses of Obligations.LinesInterleaved. -/
theorem meets_linesInterleaved :
    ∃ (mapped : List Nat) (L L' y : _), mapped.Nodup ∧ mapped ≠ [] ∧ hashLine mapped L = some y ∧ hashLine mapped L' = some y :=
  ⟨[0, 9, 200], 7, 7, (0, 2), by decide +kernel⟩

/-- A state and operands that meet the hypotheses of Obligations.WholeWritesOnly. -/
theorem meets_wholeWritesOnly :
    ∃ (s : State) (acc : RegAcc), s.serving ∧ acc ≠ .full :=
  ⟨on, .lo, by decide +kernel⟩

/-- A state and operands that meet the hypotheses of Obligations.StreamQuotaLock. -/
theorem meets_streamQuotaLock :
    ∃ (s : State), s.serving ∧ s.fld fJeCfgLock_BUSY = 0 ∧ 128 < ((List.range 16).map fun p => s.fld fJpStreamQuota_MIN p).sum :=
  ⟨(on.setFld fJpStreamQuota_MIN 127 0).setFld fJpStreamQuota_MIN 2 15, by decide +kernel⟩

/-- States and operands that meet the hypotheses of Obligations.EventsKept, clause by clause. -/
theorem meets_eventsKept :
    (∃ (q : EventFifo) (depth : Nat) (r : EventRec),
    let q' := (q.put depth r).1
    q.recs.length ≤ depth) ∧
    (∃ (q : EventFifo) (depth : Nat) (r : EventRec),
    let q' := (q.put depth r).1
    q.recs.length < depth) ∧
    (∃ (q : EventFifo) (depth : Nat) (r : EventRec),
    let q' := (q.put depth r).1
    depth ≤ q.recs.length) ∧
    (∃ (q : EventFifo) (depth : Nat) (r : EventRec),
    let q' := (q.put depth r).1
    r.count = 1 ∧ (∀ w ∈ q.waiting, w.count < 0xFFFF)) :=
  ⟨⟨⟨[⟨0x21, 0, 1, 7, 3⟩], 0, 0, []⟩, 1, ⟨0x21, 0, 1, 7, 3⟩, by decide +kernel⟩,
   ⟨⟨[⟨0x21, 0, 1, 7, 3⟩], 0, 0, []⟩, 2, ⟨0x21, 0, 1, 7, 3⟩, by decide +kernel⟩,
   ⟨⟨[⟨0x21, 0, 1, 7, 3⟩], 0, 0, [⟨0x21, 0, 0xFFFF, 7, 3⟩]⟩, 1, ⟨0x21, 0, 1, 7, 3⟩, by decide +kernel⟩,
   ⟨⟨[⟨0x21, 0, 1, 7, 3⟩], 0, 0, [⟨0x21, 0, 0xFFFE, 7, 3⟩]⟩, 1, ⟨0x21, 0, 1, 7, 3⟩, by decide +kernel⟩⟩

end Sys2Proof.Tests
end

section
/-! PROOF. Registers with an action and a BUSY (R414): what holds of every such register, and what a whole write that asks one of them for
an action does where it is busy, where the action is refused and where it is taken. -/
namespace Sys2Proof.Machine

/-- A register whose action sets BUSY in b and answers in f, with RESULT 2 for an action asked for while BUSY is set (R414). -/
structure ActionReg (r : RegId) (b f : Fld) : Prop where
  busyOf_eq : busyOf r = some (b, some (f, 2))
  notDir : isDir r = false
  notMark : r ≠ .jpXmark
  notIndex : r ≠ .jpXlatIndex
  notLock : r ≠ .jeCfgLock
  halves : wholeOnly r = false
  elems : 0 < r.row.count
  ofBusy : b.reg = r
  ofResult : f.reg = r
  busyBit : b.lo = 61 ∧ b.len = 1
  resultBits : f.lo = 56 ∧ f.len = 4
  busyKept : ∀ i, (codeMask (r.fieldsAt i) .rw ||| codeMask (r.fieldsAt i) .rwl ||| codeMask (r.fieldsAt i) .w1c).getLsbD 61 = false
  served : ∀ (s : State) i j, s.sliceGone ⟨r, i, j⟩ = false
  wroteNothing : ∀ (t old : State) i pos, t.wrote old ⟨r, i, 0⟩ pos = t

/-- Every register that answers RESULT 2 while it is busy is one. -/
theorem ActionReg.of_busyOf {r : RegId} {b f : Fld} (h : busyOf r = some (b, some (f, 2))) : ActionReg r b f := by
  have hb := h
  cases r <;> cases h
  all_goals exact ⟨hb, rfl, by decide, by decide, by decide, rfl, by decide, rfl, rfl, ⟨rfl, rfl⟩, ⟨rfl, rfl⟩,
    fun i => by rw [RegId.fieldsAt_eq _ _ (by decide)]; decide, fun s i j => rfl, fun t old i pos => rfl⟩

/-- The state as a write that asks for an action finds it: the fields of its register stored, and nothing else. -/
def State.written (s : State) (r : RegId) (i : Nat) (v : W64) : State := s.setReg r (s.newFields ⟨r, i, 0⟩ .full v) i 0

/-- What an action is tried on (R414). -/
theorem State.tried_eq (s : State) (r : RegId) (i : Nat) (v : W64) :
    s.tried ⟨r, i, 0⟩ .full v = (s.written r i v).act ⟨r, i, 0⟩ (actionOf r v) v := rfl

/-- The fields of the register read as a write of them alone leaves them. -/
theorem State.fld_written (s : State) (f : Fld) (i : Nat) (v : W64) : (s.written f.reg i v).fld f i = (s.put f.reg i v).fld f i :=
  State.fld_newFields s ⟨f.reg, i, 0⟩ .full v f rfl

/-- State u is state s, but for the value of register r at place i. -/
def State.SameBut (s : State) (r : RegId) (i : Nat) (u : State) : Prop := u = s ∨ ∃ w, u = s.setReg r w i 0

theorem State.sameBut_written (s : State) (r : RegId) (i : Nat) (v : W64) : s.SameBut r i (s.written r i v) := .inr ⟨_, rfl⟩

theorem State.sameBut_setFld (s : State) (f : Fld) (v i : Nat) : s.SameBut f.reg i (s.setFld f v i) := .inr ⟨_, rfl⟩

/-- Another field of the register set. -/
theorem State.SameBut.setFld {s u : State} {f : Fld} {i : Nat} (h : s.SameBut f.reg i u) (v : Nat) : s.SameBut f.reg i (u.setFld f v i) := by
  obtain rfl | ⟨w, rfl⟩ := h
  · exact u.sameBut_setFld f v i
  · exact .inr ⟨_, State.setFld_setReg s f w v i 0⟩

/-- A whole write of a register without RWL fields raises no event. -/
theorem State.sameBut_put (s : State) (r : RegId) (i : Nat) (v : W64) (hr : r ≠ .jeFifoCtl) (h : codeMask r.fields .rwl = 0) :
    s.SameBut r i (s.put r i v) := by
  have h0 : codeMask (r.fieldsAt i) .rwl &&& accMask .full = 0 := by
    rw [RegId.fieldsAt_eq _ _ hr, h]
    exact BitVec.zero_and
  simp only [State.put, State.stored, State.storeFields, h0, ne_eq, not_true_eq_false, false_and, if_false]
  split
  · exact .inl rfl
  · exact .inr ⟨_, rfl⟩

section
variable {s u : State} {r : RegId} {i : Nat}

/-- What another register changes does not touch. -/
theorem State.SameBut.reg (h : s.SameBut r i u) (r' : RegId) (i' j' : Nat) (hr : r' ≠ r) : u.reg r' i' j' = s.reg r' i' j' := by
  obtain rfl | ⟨w, rfl⟩ := h
  · rfl
  · exact State.reg_setReg_ne _ _ fun he => hr (congrArg RegRef.reg he).symm

theorem State.SameBut.fld (h : s.SameBut r i u) (f : Fld) (i' j' : Nat) (hr : f.reg ≠ r) : u.fld f i' j' = s.fld f i' j' := by
  simp only [State.fld, h.reg f.reg i' j' hr]

/-- What is no register is as before. -/
theorem State.SameBut.rest (h : s.SameBut r i u) : u = { s with regs := u.regs } := by
  obtain rfl | ⟨w, rfl⟩ := h <;> rfl

theorem State.SameBut.rdNat (h : s.SameBut r i u) (a n : Nat) : u.rdNat a n = s.rdNat a n := by
  obtain rfl | ⟨w, rfl⟩ := h <;> rfl

theorem State.SameBut.rdPoison (h : s.SameBut r i u) (hr : r ∉ memRegs) (a n : Nat) : u.rdPoison a n = s.rdPoison a n := by
  obtain rfl | ⟨w, rfl⟩ := h
  · rfl
  · exact State.rdPoison_setReg s r w i 0 a n hr

/-- The channels that are mapped. -/
theorem State.SameBut.mappedList (h : s.SameBut r i u) (hr : r ≠ .jeChMapped) : u.mappedList = s.mappedList := by
  have hm : u.chMapped = s.chMapped := by
    funext g
    simp only [State.chMapped, h.reg .jeChMapped _ _ hr.symm]
  simp only [State.mappedList, hm]

theorem State.SameBut.partEnabled (h : s.SameBut r i u) (hr : r ≠ .jpStatus) (p : Nat) : u.partEnabled p = s.partEnabled p := by
  simp only [State.partEnabled, h.fld fJpStatus_STATE p 0 hr.symm]

end

/-- An RW field takes what is written, in a register without RWL fields. -/
theorem State.fld_put (s : State) (f : Fld) (i : Nat) (v : W64) (hr : f.reg ≠ .jeFifoCtl) (h : codeMask f.reg.fields .rwl = 0)
    (hf : ∀ b < f.len, (codeMask f.reg.fields .rw &&& ~~~(codeMask f.reg.fields .w1c)).getLsbD (f.lo + b) = true) :
    (s.put f.reg i v).fld f i = bitsOf v f.lo f.len := by
  refine State.fld_stored_self s f i 0 .full v hr (by rw [h]; exact BitVec.zero_and) fun n hn => ?_
  have := hf n hn
  simp only [accMask, BitVec.and_allOnes]
  exact this

/-- The operand beside the action code, as the action reads it. -/
theorem State.fld_put_operand (s : State) (f : Fld) (i a op : Nat) (hr : f.reg ≠ .jeFifoCtl) (h : codeMask f.reg.fields .rwl = 0)
    (hf : ∀ b < f.len, (codeMask f.reg.fields .rw &&& ~~~(codeMask f.reg.fields .w1c)).getLsbD (f.lo + b) = true)
    (ha : a < 4) (ho : op < 2 ^ 62) (hl : f.lo + f.len ≤ 62) :
    (s.put f.reg i (BitVec.ofNat 64 (a * 2 ^ 62 + op))).fld f i = op / 2 ^ f.lo % 2 ^ f.len := by
  rw [State.fld_put s f i _ hr h hf]
  exact operand_bits a op f.lo f.len ha ho hl

/-- The action of a register that defines the codes 1 and 2. -/
theorem actionOf_code {r : RegId} (hr : ∀ pos, actionOf r pos = if bitsOf pos 62 2 = 3 then 0 else bitsOf pos 62 2) {a op : Nat} (ha : a < 3)
    (ho : op < 2 ^ 62) : actionOf r (BitVec.ofNat 64 (a * 2 ^ 62 + op)) = a := by
  have hbits : bitsOf (BitVec.ofNat 64 (a * 2 ^ 62 + op)) 62 2 = a := action_bits a op (by omega) ho
  rw [hr, hbits, if_neg (by omega)]

/-- The action of a register that defines the codes 1 to 3. -/
theorem actionOf_code3 {r : RegId} (hr : ∀ pos, actionOf r pos = bitsOf pos 62 2) {a op : Nat} (ha : a < 4) (ho : op < 2 ^ 62) :
    actionOf r (BitVec.ofNat 64 (a * 2 ^ 62 + op)) = a := by
  rw [hr]
  exact action_bits a op ha ho

/-- Bits of a word that keeps the fields beside them. -/
theorem bitsOf_keep (w m v : W64) (lo len : Nat) (h : ∀ n < len, m.getLsbD (lo + n) = false) :
    bitsOf ((w &&& m) ||| v) lo len = bitsOf v lo len := by
  apply Nat.eq_of_testBit_eq
  intro n
  rw [bitsOf_testBit, bitsOf_testBit]
  by_cases hn : n < len
  · simp only [BitVec.testBit_toNat, BitVec.getLsbD_or, BitVec.getLsbD_and, h n hn, Bool.and_false, Bool.false_or]
  · simp [hn]

/-- A whole write that sets action bits and keeps the fields that software writes. -/
def State.keepWord (s : State) (r : RegId) (v : W64) : W64 := (s.reg r &&& (codeMask r.fields .rw ||| codeMask r.fields .rwl)) ||| v

theorem State.putKeep_eq (s : State) (r : RegId) (v : W64) (hr : r ≠ .jeFifoCtl) : s.putKeep r 0 v = s.putReg r 0 0 .full (s.keepWord r v) := by
  simp only [State.putKeep, RegId.fieldsAt_eq _ _ hr]
  rfl

/-- The action code of such a write. -/
theorem State.bitsOf_keepWord (s : State) (r : RegId) (v : W64)
    (h : ∀ n < 2, (codeMask r.fields .rw ||| codeMask r.fields .rwl).getLsbD (62 + n) = false) :
    bitsOf (s.keepWord r v) 62 2 = bitsOf v 62 2 := bitsOf_keep _ _ _ _ _ h

@[simp] theorem partOf_val (p : Part) : partOf p = p := Fin.ext (by simp [partOf])

section
variable {s E t : State} {r : RegId} {b f : Fld} {i a k : Nat} {v w : W64}

/-- BUSY of a register that has been written. -/
theorem ActionReg.busy_newFields (A : ActionReg r b f) : bitsOf (s.newFields ⟨r, i, 0⟩ .full v) b.lo b.len = s.fld b i := by
  obtain rfl := A.ofBusy
  refine State.bitsOf_newFields s b i .full v fun n hn => ?_
  obtain ⟨h1, h2⟩ := A.busyBit
  rw [h2] at hn
  obtain rfl : n = 0 := by omega
  rw [h1]
  exact A.busyKept i

/-- An action asked for while BUSY is set answers RESULT 2, and nothing else happens (R414). -/
theorem ActionReg.putReg_busy (A : ActionReg r b f) (h : s.serving) (hx : RegRef.valid ⟨r, i, 0⟩) (hn : needsLock r = true → s.locked = true)
    (hb : s.fld b i = 1) (ha : actionOf r v ≠ 0) : s.putReg r i 0 .full v = s.setFld f 2 i := by
  rw [State.putReg_busy h r i .full v hx (A.served s i 0) (.inr rfl) A.notDir A.notMark hn A.notIndex
    (by simp [State.regBusy, A.busyOf_eq, hb]) ha]
  simp only [State.rejectBusy, A.busyOf_eq]

/-- An action that waits for configuration lock raises event 0x03 before it (R355). -/
theorem ActionReg.putReg_early (A : ActionReg r b f) (h : s.serving) (hx : RegRef.valid ⟨r, i, 0⟩) (hn : needsLock r = true)
    (hl : s.locked = false) (ha : actionOf r v ≠ 0) : s.putReg r i 0 .full v = s.eventE 0x03 (r.addr i) v.toNat :=
  State.putReg_early h r i .full v hx (A.served s i 0) (.inr rfl) A.notDir A.notMark hn hl ha

/-- An action of a register that is not busy is taken, or refused by its rule (R414). -/
theorem ActionReg.putReg_idle (A : ActionReg r b f) (h : s.serving) (hx : RegRef.valid ⟨r, i, 0⟩) (hn : needsLock r = true → s.locked = true)
    (hb : s.fld b i = 0) (ha : actionOf r v = a) (h0 : a ≠ 0) :
    s.putReg r i 0 .full v = s.orRefused r i v ((s.put r i v).act ⟨r, i, 0⟩ a v) :=
  State.putReg_action h r i v hx (A.served s i 0) A.notDir A.notMark hn A.notIndex (by simp [State.regBusy, A.busyOf_eq, hb])
    (fun t old pos => A.wroteNothing t old i pos) a ha h0

/-- An action that ends at once with RESULT k, whatever it left in its register and elsewhere: of its register RESULT alone changes. -/
theorem ActionReg.putReg_refused (A : ActionReg r b f) (h : s.serving) (hx : RegRef.valid ⟨r, i, 0⟩) (hn : needsLock r = true → s.locked = true)
    (hb : s.fld b i = 0) (ha : actionOf r v = a) (h0 : a ≠ 0) (ht : (s.written r i v).act ⟨r, i, 0⟩ a v = E.setReg r w i 0)
    (hE : E.reg r i 0 = s.reg r i 0) (hw : bitsOf w 61 1 = 0) (hk : bitsOf w 56 4 = k) (hk0 : k ≠ 0) :
    s.putReg r i 0 .full v = E.setFld f k i := by
  obtain ⟨b1, b2⟩ := A.busyBit
  obtain ⟨f1, f2⟩ := A.resultBits
  rw [A.putReg_idle h hx hn hb ha h0]
  exact State.orRefused_ends w A.busyOf_eq ⟨A.ofBusy, A.ofResult⟩ A.notLock (by rw [State.tried_eq, ha, ht]) (by rw [b1, b2, hw])
    (by rw [f1, f2, hk]) hk0 hE

/-- The plain refusal: the action does nothing but answer. -/
theorem ActionReg.putReg_result (A : ActionReg r b f) (h : s.serving) (hx : RegRef.valid ⟨r, i, 0⟩) (hn : needsLock r = true → s.locked = true)
    (hb : s.fld b i = 0) (ha : actionOf r v = a) (h0 : a ≠ 0) (hk : k % 16 = k) (hk0 : k ≠ 0)
    (ht : (s.written r i v).act ⟨r, i, 0⟩ a v = (s.written r i v).setFld f k i) : s.putReg r i 0 .full v = s.setFld f k i := by
  have hr := A.ofResult
  obtain ⟨f1, f2⟩ := A.resultBits
  obtain ⟨b1, b2⟩ := A.busyBit
  subst hr
  rw [State.written, State.setFld_setReg] at ht
  refine A.putReg_refused h hx hn hb ha h0 ht rfl ?_ ?_ hk0
  · rw [bitsOf_putBits_of_apart _ _ (by omega), ← b1, ← b2, A.busy_newFields, hb]
  · rw [f1, f2, bitsOf_putBits_self _ _ _ _ (by omega)]
    exact hk

/-- An action that leaves BUSY set is taken. -/
theorem ActionReg.putReg_begins (A : ActionReg r b f) (h : s.serving) (hx : RegRef.valid ⟨r, i, 0⟩) (hn : needsLock r = true → s.locked = true)
    (hb : s.fld b i = 0) (ha : actionOf r v = a) (h0 : a ≠ 0) (ht : ((s.written r i v).act ⟨r, i, 0⟩ a v).fld b i ≠ 0) :
    s.putReg r i 0 .full v = (s.put r i v).act ⟨r, i, 0⟩ a v := by
  rw [A.putReg_idle h hx hn hb ha h0]
  exact State.orRefused_taken (State.actRefused_of_busy A.busyOf_eq (by rw [State.tried_eq, ha]; exact ht))

/-- An action that answers RESULT 0 is taken. -/
theorem ActionReg.putReg_done (A : ActionReg r b f) (h : s.serving) (hx : RegRef.valid ⟨r, i, 0⟩) (hn : needsLock r = true → s.locked = true)
    (hb : s.fld b i = 0) (ha : actionOf r v = a) (h0 : a ≠ 0) (ht : ((s.written r i v).act ⟨r, i, 0⟩ a v).fld f i = 0) :
    s.putReg r i 0 .full v = (s.put r i v).act ⟨r, i, 0⟩ a v := by
  rw [A.putReg_idle h hx hn hb ha h0]
  exact State.orRefused_taken (State.actRefused_of_zero A.busyOf_eq (by rw [State.tried_eq, ha]; exact ht))

end

end Sys2Proof.Machine
end

section
/-! PROOF. What a register write changes (R7, R9, R356, R414). -/
namespace Sys2Proof.Machine

/-- A bit of a register's new value: W1C bits written 1 clear, RW bits and, until lock, RWL bits of the half take what is written. -/
theorem State.newFields_getLsbD (s : State) (x : RegRef) (acc : RegAcc) (pos : W64) (b : Nat) (hb : b < 64) :
    (s.newFields x acc pos).getLsbD b =
      (let fs := x.reg.fieldsAt x.i
       if (codeMask fs .w1c).getLsbD b && pos.getLsbD b then false
       else if (accMask acc).getLsbD b && ((codeMask fs .rw).getLsbD b || (!s.locked && (codeMask fs .rwl).getLsbD b)) then pos.getLsbD b
       else (s.reg x.reg x.i x.j).getLsbD b) := by
  have hm : (if s.locked then (0 : W64) else codeMask (x.reg.fieldsAt x.i) .rwl &&& accMask acc).getLsbD b =
      (!s.locked && (codeMask (x.reg.fieldsAt x.i) .rwl).getLsbD b && (accMask acc).getLsbD b) := by
    cases s.locked <;> simp
  simp only [State.newFields, BitVec.getLsbD_and, BitVec.getLsbD_or, BitVec.getLsbD_not, hm, hb, decide_true, Bool.true_and]
  by_cases hc : (codeMask (x.reg.fieldsAt x.i) .w1c).getLsbD b && pos.getLsbD b
  · rw [if_pos hc]
    grind
  · rw [if_neg hc]
    split <;> grind

/-- A write leaves its register with the new fields. -/
theorem State.reg_stored_newFields (s : State) (x : RegRef) (acc : RegAcc) (v : W64) :
    (s.stored x acc v).reg x.reg x.i x.j = s.newFields x acc (accPos acc v) := by
  simp only [State.stored, State.storeFields, State.ite_event_reg]
  split
  · exact Eq.symm ‹_›
  · exact State.reg_setReg_self ..

/-- A write of registers reads no other byte of memory. -/
theorem State.rdByte_stored (s : State) (x : RegRef) (acc : RegAcc) (v : W64) (a : Nat) : (s.stored x acc v).rdByte a = s.rdByte a := by
  have hset : ∀ w, (if w = s.reg x.reg x.i x.j then s else s.setReg x.reg w x.i x.j).rdByte a = s.rdByte a := fun w => by
    split <;> rfl
  simp only [State.stored, State.storeFields]
  split
  · rw [State.rdByte_eventE, hset]
  · exact hset _

/-- Before configuration lock a write of the fields changes the register file alone. -/
theorem State.stored_of_not_locked (s : State) (x : RegRef) (acc : RegAcc) (v : W64) (h : s.locked = false) :
    s.stored x acc v = { s with regs := (s.stored x acc v).regs } := by
  simp only [State.stored, State.storeFields, h, Bool.false_eq_true, and_false, if_false]
  split <;> rfl

/-- A field of a register is within its width. -/
theorem State.fld_lt (s : State) (f : Fld) (i j : Nat) : s.fld f i j < 2 ^ f.len := Nat.mod_lt _ (by positivity)

/-- A register that answers in RESULT holds BUSY and RESULT itself. -/
theorem busyOf_result {r : RegId} {b f : Fld} {k : Nat} (h : busyOf r = some (b, some (f, k))) : f.reg = r ∧ f.lo + f.len ≤ 64 := by
  cases r <;> cases h <;> exact ⟨rfl, by decide⟩

/-- A refused write keeps the RESULT of the attempt. -/
theorem State.fld_unstore_result (y s : State) {x : RegRef} {b f : Fld} {k : Nat} (h : busyOf x.reg = some (b, some (f, k))) :
    (y.unstore s x).fld f x.i = y.fld f x.i := by
  obtain ⟨hr, hl⟩ := busyOf_result h
  simp only [State.unstore, h]
  rw [State.fld_setFld_self _ _ _ _ _ hl, Nat.mod_eq_of_lt (y.fld_lt f x.i 0)]

/-- A refused write keeps every field beside RESULT. -/
theorem State.fld_unstore_apart (y s : State) {x : RegRef} {b f g : Fld} {k : Nat} (h : busyOf x.reg = some (b, some (f, k))) (hj : x.j = 0)
    (hg : g.reg = x.reg) (ha : g.lo + g.len ≤ f.lo ∨ f.lo + f.len ≤ g.lo) : (y.unstore s x).fld g x.i = s.fld g x.i := by
  obtain ⟨hr, -⟩ := busyOf_result h
  simp only [State.unstore, h, hj]
  rw [State.fld_setFld_of_apart _ _ _ _ (hg.trans hr.symm) ha]
  simp only [State.fld, hg, State.reg_setReg_self]

/-- An action asked for while BUSY is set is rejected (R414). -/
theorem State.writeReg_busy (s : State) (x : RegRef) (acc : RegAcc) (v : W64) (hd : isDir x.reg = false) (hx : x.reg ≠ .jpXmark)
    (hn : needsLock x.reg = true → s.locked = true) (hi : x.reg ≠ .jpXlatIndex) (hb : s.regBusy x = true)
    (ha : actionOf x.reg (accPos acc v) ≠ 0) : s.writeReg (x.addr + accOff acc) x acc v = s.rejectBusy x := by
  simp only [State.writeReg]
  rw [if_neg (by simp [hd]), if_neg hx, if_neg (by intro hc; simp [hn hc.2.1] at hc), if_neg (by intro hc; exact hi hc.1), if_pos ⟨ha, hb⟩]

/-- An action written to a served register: rejected while BUSY is set, refused by its rule, or taken (R414). -/
theorem exec_registerWrite_action {s : State} (h : s.serving) {x : RegRef} (hx : x.valid) (hg : s.sliceGone x = false) (acc : RegAcc) (v : W64)
    (hw : wholeOnly x.reg = false ∨ acc = .full) (hd : isDir x.reg = false) (hm : x.reg ≠ .jpXmark) (hi : x.reg ≠ .jpXlatIndex)
    (hn : needsLock x.reg = true → s.locked = true) (ha : actionOf x.reg (accPos acc v) ≠ 0) :
    exec (.registerWrite (BitVec.ofNat 26 (x.addr + accOff acc)) (accWidth acc) v) s = .next
      (if s.regBusy x then s.rejectBusy x
       else if (s.tried x acc v).actRefused x then (s.tried x acc v).unstore s x
       else ((s.stored x acc v).wrote s x (accPos acc v)).act x (actionOf x.reg (accPos acc v)) (accPos acc v)).settle := by
  show stepTo _ = _
  rw [State.apWrite_reg h hx hg acc v hw, stepTo_eq]
  by_cases hb : s.regBusy x = true
  · rw [if_pos hb, State.writeReg_busy s x acc v hd hm hn hi hb ha]
  · rw [if_neg hb]
    simp only [Bool.not_eq_true] at hb
    by_cases hr : (s.tried x acc v).actRefused x = true
    · rw [if_pos hr, State.writeReg_refused s x acc v hd hm hn hi hb ha hr]
    · rw [if_neg hr, State.writeReg_act s x acc v hd hm hn hi hb ha (by simpa using hr)]

/-- Settles O2: an action's write is one of three cases, a refused one keeps all but RESULT, and a write of fields is bitwise. -/
theorem fieldsStored : Obligations.FieldsStored := by
  unfold Obligations.FieldsStored
  refine ⟨?_, ?_, ?_⟩
  · intro s x acc v h hx hg hw hd hm hi hn ha
    have key := exec_registerWrite_action h hx hg acc v hw hd hm hi hn ha
    refine ⟨fun hb => ?_, fun hb hr => ?_, fun hb hr => ?_⟩
    · rwa [if_pos hb] at key
    · rwa [if_neg (by simp [hb]), if_pos hr] at key
    · rwa [if_neg (by simp [hb]), if_neg (by simp [hr])] at key
  · intro s x b f k hf hj
    refine ⟨by simp only [State.rejectBusy, hf], fun y => ⟨State.fld_unstore_result y s hf, fun g hg ha => ?_⟩⟩
    exact State.fld_unstore_apart y s hf hj hg ha
  · intro s x acc v
    refine ⟨fun b hb => ?_, fun y hy => ?_, State.rdByte_stored s x acc v, State.stored_of_not_locked s x acc v⟩
    · rw [State.reg_stored_newFields]
      exact State.newFields_getLsbD s x acc _ b hb
    · exact State.reg_stored_ne s x acc v y.reg y.i y.j hy.symm

end Sys2Proof.Machine
end

section
/-! PROOF. Ring enable and ring disable (R57 to R59). -/
namespace Sys2Proof.Machine

theorem actionReg_jpRingCmd : ActionReg .jpRingCmd fJpRingCmd_BUSY fJpRingCmd_RESULT := .of_busyOf rfl

/-- ACTION of JP_RING_CMD: enable or disable. -/
def ringCode (enable : Bool) : Nat := if enable then 1 else 2

/-- What RING_ENABLE and RING_DISABLE write. -/
def ringWord (enable : Bool) (r : RingNo) : W64 := BitVec.ofNat 64 (ringCode enable * 2 ^ 62 + r.toNat)

theorem ringCode_lt (e : Bool) : ringCode e < 3 := by cases e <;> decide

theorem actionOf_ringWord (e : Bool) (r : RingNo) : actionOf .jpRingCmd (ringWord e r) = ringCode e :=
  actionOf_code (fun _ => rfl) (ringCode_lt e) (by omega)

section
variable {s : State} {p : Part} {r : RingNo} {e : Bool}

/-- The ring that the action reads is the one written. -/
theorem State.fld_put_ring : (s.put .jpRingCmd p (ringWord e r)).fld fJpRingCmd_RING p = r.toNat := by
  refine (State.fld_put_operand s fJpRingCmd_RING p (ringCode e) r.toNat (by decide) (by decide) (by decide)
    (by have := ringCode_lt e; omega) (by omega) (by decide)).trans ?_
  exact (congrArg (· % 2 ^ 18) (Nat.div_one _)).trans (Nat.mod_eq_of_lt r.isLt)

/-- The action on a ring, once its number is in the register. -/
theorem State.act_ring {u : State} (h : u.fld fJpRingCmd_RING p = r.toNat) :
    u.act ⟨.jpRingCmd, p, 0⟩ (ringCode e) (ringWord e r) = u.ringAction p e r := by
  have : u.act ⟨.jpRingCmd, p, 0⟩ (ringCode e) (ringWord e r) = u.ringAction (partOf p) e (BitVec.ofNat 18 (u.fld fJpRingCmd_RING p)) := by
    cases e <;> rfl
  rw [this, h, partOf_val, BitVec.ofNat_toNat, BitVec.setWidth_eq]

theorem State.act_written_ring :
    (s.written .jpRingCmd p (ringWord e r)).act ⟨.jpRingCmd, p, 0⟩ (ringCode e) (ringWord e r) =
      (s.written .jpRingCmd p (ringWord e r)).ringAction p e r :=
  State.act_ring ((State.fld_written s fJpRingCmd_RING p _).trans State.fld_put_ring)

/-- The write leaves the states of the partitions, their ranges and the live rings. -/
theorem State.ring_facts {u : State} (h : s.SameBut .jpRingCmd p u) :
    u.partEnabled p = s.partEnabled p ∧ u.ringIn p r.toNat = s.ringIn p r.toNat ∧ u.ring r = s.ring r := by
  refine ⟨h.partEnabled (by decide) p, ?_, by obtain rfl | ⟨w, rfl⟩ := h <;> rfl⟩
  simp only [State.ringIn, h.fld fJpRingRange_FIRST_GROUP p 0 (by decide), h.fld fJpRingRange_GROUPS p 0 (by decide)]

/-- An enable in the range of an ENABLED partition: nothing to do for a live ring, else the context is read. -/
theorem State.ringAction_enable {u : State} (hp : u.partEnabled p = true) (hr : u.ringIn p r.toNat = true) :
    u.ringAction p true r = if (u.ring r).isSome then u.setFld fJpRingCmd_RESULT 0 p
      else (u.modPart p fun ps => { ps with ringAct := some (r, true) }).setFld fJpRingCmd_BUSY 1 p := by
  simp only [State.ringAction, hp, hr, Bool.not_true, Bool.false_eq_true, if_false]
  cases u.ring r <;> simp

/-- A disable in the range of an ENABLED partition: nothing to do for a ring that is not live, else it stops fetching. -/
theorem State.ringAction_disable {u : State} (hp : u.partEnabled p = true) (hr : u.ringIn p r.toNat = true) :
    u.ringAction p false r = if u.ring r = none then u.setFld fJpRingCmd_RESULT 0 p
      else ((((u.modRing r fun x => { x with phase := .disabling, fetched := [] }).forgetHead p (.ring r)).dropEarly r).modPart p fun ps =>
        { ps with ringAct := some (r, false) }).setFld fJpRingCmd_BUSY 1 p := by
  simp only [State.ringAction, hp, hr, Bool.not_true, Bool.false_eq_true, if_false]
  cases u.ring r <;> simp

/-- Such an action answers RESULT 0 or sets BUSY. -/
theorem State.ringAction_answers {u : State} (hp : u.partEnabled p = true) (hr : u.ringIn p r.toNat = true) :
    (u.ringAction p e r).fld fJpRingCmd_RESULT p = 0 ∨ (u.ringAction p e r).fld fJpRingCmd_BUSY p ≠ 0 := by
  cases e
  · rw [State.ringAction_disable hp hr]
    split
    · exact .inl (State.fld_setFld_self _ _ _ _ _ (by decide))
    · exact .inr (by rw [State.fld_setFld_self _ _ _ _ _ (by decide)]; decide)
  · rw [State.ringAction_enable hp hr]
    split
    · exact .inl (State.fld_setFld_self _ _ _ _ _ (by decide))
    · exact .inr (by rw [State.fld_setFld_self _ _ _ _ _ (by decide)]; decide)

/-- RING_ENABLE and RING_DISABLE are whole writes of JP_RING_CMD. -/
theorem exec_ring (s : State) (p : Part) (r : RingNo) (e : Bool) :
    exec (if e then .ringEnable p r else .ringDisable p r) s = stepTo (s.putReg .jpRingCmd p 0 .full (ringWord e r)) := by
  cases e <;> rfl

section
variable (h : s.serving)
include h

theorem State.putReg_ring_busy (hb : s.fld fJpRingCmd_BUSY p = 1) :
    s.putReg .jpRingCmd p 0 .full (ringWord e r) = s.setFld fJpRingCmd_RESULT 2 p :=
  actionReg_jpRingCmd.putReg_busy h (RegRef.valid_part _ p rfl (by decide)) nofun hb (by rw [actionOf_ringWord]; cases e <;> decide)

variable (hb : s.fld fJpRingCmd_BUSY p = 0)
include hb

/-- An action that its rule refuses answers and does nothing else. -/
theorem State.putReg_ring_refused {k : Nat} (hk : k % 16 = k) (h0 : k ≠ 0)
    (ht : (s.written .jpRingCmd p (ringWord e r)).ringAction p e r = (s.written .jpRingCmd p (ringWord e r)).setFld fJpRingCmd_RESULT k p) :
    s.putReg .jpRingCmd p 0 .full (ringWord e r) = s.setFld fJpRingCmd_RESULT k p :=
  actionReg_jpRingCmd.putReg_result h (RegRef.valid_part _ p rfl (by decide)) nofun hb (actionOf_ringWord e r) (by cases e <;> decide)
    hk h0 (State.act_written_ring.trans ht)

theorem State.putReg_ring_disabled (hp : s.partEnabled p = false) :
    s.putReg .jpRingCmd p 0 .full (ringWord e r) = s.setFld fJpRingCmd_RESULT 4 p := by
  obtain ⟨h1, -, -⟩ := State.ring_facts (s.sameBut_written .jpRingCmd p (ringWord e r)) (r := r)
  refine State.putReg_ring_refused h hb rfl (by decide) ?_
  simp only [State.ringAction, h1, hp, Bool.not_false, if_true]

theorem State.putReg_ring_outside (hp : s.partEnabled p = true) (hr : s.ringIn p r.toNat = false) :
    s.putReg .jpRingCmd p 0 .full (ringWord e r) = s.setFld fJpRingCmd_RESULT 1 p := by
  obtain ⟨h1, h2, -⟩ := State.ring_facts (s.sameBut_written .jpRingCmd p (ringWord e r)) (r := r)
  refine State.putReg_ring_refused h hb rfl (by decide) ?_
  simp only [State.ringAction, h1, h2, hp, hr, Bool.not_false, Bool.not_true, Bool.false_eq_true, if_true, if_false]

/-- An action within the range of an ENABLED partition is taken: it sets BUSY or answers RESULT 0. -/
theorem State.putReg_ring_taken (hp : s.partEnabled p = true) (hr : s.ringIn p r.toNat = true) :
    s.putReg .jpRingCmd p 0 .full (ringWord e r) = (s.put .jpRingCmd p (ringWord e r)).ringAction p e r := by
  have hx := RegRef.valid_part .jpRingCmd p rfl (by decide)
  have ha := actionOf_ringWord e r
  have h0 : ringCode e ≠ 0 := by cases e <;> decide
  obtain ⟨h1, h2, -⟩ := State.ring_facts (s.sameBut_written .jpRingCmd p (ringWord e r)) (r := r)
  rw [← State.act_ring State.fld_put_ring]
  obtain ht | ht := State.ringAction_answers (e := e) (h1.trans hp) (h2.trans hr)
  · exact actionReg_jpRingCmd.putReg_done h hx nofun hb ha h0 (by rw [State.act_written_ring, ht])
  · exact actionReg_jpRingCmd.putReg_begins h hx nofun hb ha h0 (by rw [State.act_written_ring]; exact ht)

end
end

/-- The context that an enable reads has returned: the read is over. -/
theorem exec_ringEnableDone {s t : State} {p : Part} {r : RingNo} (ha : (s.part p).ringAct = some (r, true)) (hp : s.partEnabled p = true)
    (hj : s.jReadOk (.fetch r) (s.ctxAddr r) = (t, true)) (u : State) (hu : u = t.jReadDone (.fetch r)) :
    exec (.ringEnableDone p) s = stepTo
      (if u.rdPoison (u.ctxAddr r) 64 ∨ !(u.readCtx r).valid then u.ringActEnd p 3
       else ((({ u with
          rings := u.rings ++ [Ring.ofCtx r p (u.readCtx r)]
          heldMarks := u.heldMarks.filter fun e => decide (e.1 ≠ r) } : State).cacheCtx r).ringActEnd p 0).wake) := by
  show execRingEnableDone p s = _
  subst hu
  simp only [execRingEnableDone, ha, hj, hp, Bool.not_true, Bool.false_eq_true, if_false]

/-- Settles O6: the register's actions by the three refusals and the two that are taken, and the two ends by their cases. -/
theorem ringControl : Obligations.RingControl := by
  unfold Obligations.RingControl
  refine ⟨?_, ?_, ?_, ?_, ?_, ?_, ?_⟩
  · intro s p r h
    have he := exec_ring s p r true
    have hd := exec_ring s p r false
    refine ⟨fun hb => ?_, fun hb hp => ?_, fun hb hp hr => ?_⟩
    · rw [State.putReg_ring_busy h hb] at he hd
      exact ⟨he, hd⟩
    · rw [State.putReg_ring_disabled h hb hp] at he hd
      exact ⟨he, hd⟩
    · rw [State.putReg_ring_outside h hb hp hr] at he hd
      exact ⟨he, hd⟩
  · intro s p r h hb hp hr
    have h1 := s.sameBut_put .jpRingCmd p (ringWord true r) (by decide) (by decide)
    obtain ⟨hp1, hr1, hring⟩ := State.ring_facts h1 (r := r)
    have he := exec_ring s p r true
    rw [State.putReg_ring_taken h hb hp hr, State.ringAction_enable (hp1.trans hp) (hr1.trans hr), hring] at he
    exact he
  · intro s p r h hb hp hr
    have h1 := s.sameBut_put .jpRingCmd p (ringWord false r) (by decide) (by decide)
    obtain ⟨hp1, hr1, hring⟩ := State.ring_facts h1 (r := r)
    have he := exec_ring s p r false
    rw [State.putReg_ring_taken h hb hp hr, State.ringAction_disable (hp1.trans hp) (hr1.trans hr), hring] at he
    exact he
  · intro s p r ha hp
    show execRingEnableDone p s = _
    simp only [execRingEnableDone, ha, hp, Bool.not_false, if_true]
    rfl
  · intro s t p r ha hp hj u
    have key := exec_ringEnableDone ha hp hj u rfl
    refine ⟨fun hq hv => ?_, fun hbad => ?_⟩
    · rw [if_neg (by simp only [hq, hv]; decide)] at key
      exact key
    · rw [if_pos (by simpa using hbad)] at key
      exact key
  · intro r p c
    refine ⟨rfl, rfl, rfl, rfl, rfl, ?_, rfl, rfl⟩
    simp only [Ring.ofCtx]
    split
    · assumption
    · rfl
  · intro s p r ha
    have key : exec (.ringDisableDone p) s =
        stepTo (if s.srcBusy (.ring r) ∨ s.recordOut r then s else (s.closeRing r).ringActEnd p 0) := by
      show execRingDisableDone p s = _
      simp only [execRingDisableDone, ha]
    refine ⟨fun hw => ?_, fun hb ho x hx => ?_⟩
    · rw [if_pos hw] at key
      exact key
    · rw [if_neg (by simp [hb, ho])] at key
      simp only [State.closeRing, hx] at key
      exact key

end Sys2Proof.Machine
end

section
/-! PROOF. Object records: registered, cleared, retired (R214 to R217, R238). -/
namespace Sys2Proof.Machine

theorem actionReg_jpObjCtl : ActionReg .jpObjCtl fJpObjCtl_BUSY fJpObjCtl_RESULT := .of_busyOf rfl

/-- What OBJECT_REGISTER, OBJECT_RETIRE and OBJECT_CLEAR_TORN write, for k from 1 to 3. -/
def objWord (k : Nat) (h : W32) : W64 := BitVec.ofNat 64 (k * 2 ^ 62 + h.toNat)

/-- The codes of JP_OBJ_CTL. -/
abbrev isObjCode (k : Nat) : Prop := k = 1 ∨ k = 2 ∨ k = 3

theorem actionOf_objWord {k : Nat} (hk : isObjCode k) (h : W32) : actionOf .jpObjCtl (objWord k h) = k :=
  actionOf_code3 (fun _ => rfl) (by omega) (by omega)

section
variable {s : State} {p : Part} {h : W32} {k : Nat}

theorem State.fld_put_objHandle (hk : isObjCode k) : (s.put .jpObjCtl p (objWord k h)).fld fJpObjCtl_HANDLE p = h.toNat := by
  refine (State.fld_put_operand s fJpObjCtl_HANDLE p k h.toNat (by decide) (by decide) (by decide) (by omega) (by omega) (by decide)).trans ?_
  exact (congrArg (· % 2 ^ 32) (Nat.div_one _)).trans (Nat.mod_eq_of_lt h.isLt)

/-- The action on a handle, once it is in the register. -/
theorem State.act_obj {u : State} (hk : isObjCode k) (hu : u.fld fJpObjCtl_HANDLE p = h.toNat) :
    u.act ⟨.jpObjCtl, p, 0⟩ k (objWord k h) = u.objAction p k h := by
  have : u.act ⟨.jpObjCtl, p, 0⟩ k (objWord k h) = u.objAction (partOf p) k (BitVec.ofNat 32 (u.fld fJpObjCtl_HANDLE p)) := by
    rcases hk with rfl | rfl | rfl <;> rfl
  rw [this, hu, partOf_val, BitVec.ofNat_toNat, BitVec.setWidth_eq]

theorem State.act_written_obj (hk : isObjCode k) :
    (s.written .jpObjCtl p (objWord k h)).act ⟨.jpObjCtl, p, 0⟩ k (objWord k h) = (s.written .jpObjCtl p (objWord k h)).objAction p k h :=
  State.act_obj hk ((State.fld_written s fJpObjCtl_HANDLE p _).trans (State.fld_put_objHandle hk))

/-- The write leaves the states of the partitions and the bounds of the directories. -/
theorem State.obj_facts {u : State} (hu : s.SameBut .jpObjCtl p u) :
    u.partEnabled p = s.partEnabled p ∧ u.objIndexOk p h = s.objIndexOk p h := by
  refine ⟨hu.partEnabled (by decide) p, ?_⟩
  simp only [State.objIndexOk, hu.fld fJpObjDir_SIZE_LOG2 p 0 (by decide)]

/-- A good action of an ENABLED partition on an INDEX inside the directory begins, and goes on as far as it can. -/
theorem State.objAction_begins (hp : s.partEnabled p = true) (hi : s.objIndexOk p h = true) :
    s.objAction p k h =
      (((s.setFld fJpObjCtl_HANDLE h.toNat p).modPart p fun ps => { ps with objAct := some (k, h) }).setFld fJpObjCtl_BUSY 1 p).objGo p := by
  obtain ⟨h1, h2⟩ := State.obj_facts (s.sameBut_setFld fJpObjCtl_HANDLE h.toNat p) (h := h)
  simp only [State.objAction, h1, h2, hp, hi, Bool.not_true, Bool.false_eq_true, if_false]

/-- The two checks that refuse an action. -/
theorem State.objAction_refused {r : Nat} (hr : s.partEnabled p = false ∧ r = 6 ∨ s.partEnabled p = true ∧ s.objIndexOk p h = false ∧ r = 1) :
    s.objAction p k h = (s.setFld fJpObjCtl_HANDLE h.toNat p).setFld fJpObjCtl_RESULT r p := by
  obtain ⟨h1, h2⟩ := State.obj_facts (s.sameBut_setFld fJpObjCtl_HANDLE h.toNat p) (h := h)
  rcases hr with ⟨hp, rfl⟩ | ⟨hp, hi, rfl⟩
  · simp only [State.objAction, h1, hp, Bool.not_false, if_true]
  · simp only [State.objAction, h1, h2, hp, hi, Bool.not_false, Bool.not_true, Bool.false_eq_true, if_true, if_false]

/-- The three rows are whole writes of JP_OBJ_CTL. -/
theorem exec_obj (s : State) (p : Part) (h : W32) :
    exec (.objectRegister p h) s = stepTo (s.putReg .jpObjCtl p 0 .full (objWord 1 h)) ∧
    exec (.objectRetire p h) s = stepTo (s.putReg .jpObjCtl p 0 .full (objWord 2 h)) ∧
    exec (.objectClearTorn p h) s = stepTo (s.putReg .jpObjCtl p 0 .full (objWord 3 h)) := ⟨rfl, rfl, rfl⟩

section
variable (hs : s.serving) (hk : isObjCode k)
include hs hk

theorem State.putReg_obj_busy (hb : s.fld fJpObjCtl_BUSY p = 1) :
    s.putReg .jpObjCtl p 0 .full (objWord k h) = s.setFld fJpObjCtl_RESULT 2 p :=
  actionReg_jpObjCtl.putReg_busy hs (RegRef.valid_part _ p rfl (by decide)) nofun hb (by rw [actionOf_objWord hk]; omega)

theorem State.putReg_obj_idle (hb : s.fld fJpObjCtl_BUSY p = 0) :
    s.putReg .jpObjCtl p 0 .full (objWord k h) = s.orRefused .jpObjCtl p (objWord k h) ((s.put .jpObjCtl p (objWord k h)).objAction p k h) := by
  rw [actionReg_jpObjCtl.putReg_idle hs (RegRef.valid_part _ p rfl (by decide)) nofun hb (actionOf_objWord hk h) (by omega),
    State.act_obj hk (State.fld_put_objHandle hk)]

theorem State.putReg_obj_refused (hb : s.fld fJpObjCtl_BUSY p = 0) {r : Nat}
    (hr : s.partEnabled p = false ∧ r = 6 ∨ s.partEnabled p = true ∧ s.objIndexOk p h = false ∧ r = 1) :
    s.putReg .jpObjCtl p 0 .full (objWord k h) = s.setFld fJpObjCtl_RESULT r p := by
  obtain ⟨h1, h2⟩ := State.obj_facts (s.sameBut_written .jpObjCtl p (objWord k h)) (h := h)
  refine actionReg_jpObjCtl.putReg_result hs (RegRef.valid_part _ p rfl (by decide)) nofun hb (actionOf_objWord hk h) (by omega)
    (by omega) (by omega) ?_
  rw [State.act_written_obj hk, State.objAction_refused (by rw [h1, h2]; exact hr)]
  have hh := State.setFld_fld_self s fJpObjCtl_HANDLE (s.newFields ⟨.jpObjCtl, p, 0⟩ .full (objWord k h)) p 0
  rw [show (s.setReg fJpObjCtl_HANDLE.reg _ p 0).fld fJpObjCtl_HANDLE p 0 = h.toNat from
    (State.fld_written s fJpObjCtl_HANDLE p _).trans (State.fld_put_objHandle hk)] at hh
  exact congrArg (fun u : State => u.setFld fJpObjCtl_RESULT r p) hh

end

/-! How an action goes on -/

theorem State.objGo_of_register {t : State} (ha : (s.part p).objAct = some (1, h)) (ht : s.objRegisterTry p h = .ok t) : s.objGo p = t := by
  simp only [State.objGo, ha, ht]

theorem State.objGo_of_retire {t : State} (ha : (s.part p).objAct = some (2, h)) (ht : s.objRetireTry p h = .ok t) : s.objGo p = t := by
  simp only [State.objGo, ha, ht]

theorem State.objGo_of_clear {t : State} (ha : (s.part p).objAct = some (k, h)) (h1 : k ≠ 1) (h2 : k ≠ 2) (ht : s.objClearTry p h = .ok t) :
    s.objGo p = t := by
  match k, h1, h2 with
  | 0, _, _ => simp only [State.objGo, ha, ht]
  | 1, h1, _ => exact absurd rfl h1
  | 2, _, h2 => exact absurd rfl h2
  | k + 3, _, _ => simp only [State.objGo, ha, ht]

theorem State.objGo_register {s1 : State} {e : Nat} {bad : Bool} (ha : (s.part p).objAct = some (1, h))
    (hr : s.engRead p (s.objRecAddr p h) 32 (quiet := true) = .ok (s1, e, bad)) :
    (bad = true ∨ s1.recordBad p e = true → s.objGo p = s1.objEnd p 3) ∧
    (bad = false → s1.recordBad p e = false → natBits e 120 8 ≠ bitsOf h 24 8 → s.objGo p = s1.objEnd p 4) ∧
    (∀ s2, bad = false → s1.recordBad p e = false → natBits e 120 8 = bitsOf h 24 8 →
      s1.engPut p (s1.objRecAddr p h) (leBytes 1 (e % 256 + 1)) (quiet := true) = .ok s2 →
      s.objGo p = ({ s2 with objs := s2.objs ++ [objOfRecord p h e] } : State).objEnd p 0) := by
  refine ⟨fun hb => ?_, fun hb hv hg => ?_, fun s2 hb hv hg hw => ?_⟩ <;> refine State.objGo_of_register ha ?_ <;>
    simp only [State.objRegisterTry, hr]
  · rw [if_pos hb]
  · rw [if_neg (by simp [hb, hv]), if_pos hg]
  · rw [if_neg (by simp [hb, hv]), if_neg (by simp [hg]), hw]

theorem State.objGo_absent (ha : (s.part p).objAct = some (k, h)) (hk : k ≠ 1) (ho : s.obj p h = none) : s.objGo p = s.objEnd p 4 := by
  by_cases h2 : k = 2
  · subst h2
    exact State.objGo_of_retire ha (by simp only [State.objRetireTry, ho])
  · exact State.objGo_of_clear ha hk h2 (by simp only [State.objClearTry, ho])

theorem State.objGo_retire {s1 : State} {o : Obj} {cur : Bool} (ha : (s.part p).objAct = some (2, h)) (ho : s.obj p h = some o)
    (hc : s.objCurrent p h (dirBound (s.fld fJpTableDir_SIZE_LOG2 p) 20) = .ok (s1, cur)) :
    s.objGo p = if cur then s1.objEnd p 5
      else (s1.modPart p fun ps => { ps with objAct := none, retire := some h }).modObj p h fun o => { o with retiring := true } := by
  refine State.objGo_of_retire ha ?_
  cases cur <;> simp only [State.objRetireTry, ho, hc, Bool.false_eq_true, if_true, if_false]

theorem State.objGo_clear {o : Obj} (ha : (s.part p).objAct = some (k, h)) (h1 : k ≠ 1) (h2 : k ≠ 2) (ho : s.obj p h = some o) :
    (o.moving = true → s.objGo p = s.objEnd p 5) ∧
    (∀ s1, o.moving = false → s.engPut p (s.objRecAddr p h) (({ o with torn := false } : Obj).bytes true) (quiet := true) = .ok s1 →
      s.objGo p = (s1.modObj p h fun y => { y with torn := false }).objEnd p 0) := by
  refine ⟨fun hm => ?_, fun s1 hm hw => ?_⟩ <;> refine State.objGo_of_clear ha h1 h2 ?_ <;> simp only [State.objClearTry, ho]
  · rw [if_pos hm]
  · rw [if_neg (by simp [hm]), hw]

/-- A retirement waits while something uses its object, and then writes the record without VALID. -/
theorem exec_objectRetireDone {o : Obj} (hr : (s.part p).retire = some h) (ho : s.obj p h = some o) :
    (s.objUnused p h = false → exec (.objectRetireDone p) s = .next s.settle) ∧
    (∀ s1, s.objUnused p h = true → s.engPut p (s.objRecAddr p h) (o.bytes false) (quiet := true) = .ok s1 →
      exec (.objectRetireDone p) s =
        .next (({ s1 with objs := s1.objs.filter fun y => !(decide (y.part = p) && decide (y.handle = h)) } : State).objEnd p 0).settle) := by
  refine ⟨fun hu => ?_, fun s1 hu hw => ?_⟩ <;> show execObjectRetireDone p s = _
  · simp only [execObjectRetireDone, hr, ho, hu, Bool.not_false, if_true, stepTo_eq]
  · simp only [execObjectRetireDone, hr, ho, hu, Bool.not_true, Bool.false_eq_true, if_false, hw, stepTo_eq]

end

/-- Settles O23: the write of JP_OBJ_CTL by its refusals, and the action itself case by case. -/
theorem objectActions : Obligations.ObjectActions := by
  unfold Obligations.ObjectActions
  refine ⟨?_, fun s p h k hp hi => State.objAction_begins hp hi, fun s s1 p h e bad ha hr => State.objGo_register ha hr,
    fun s p h k ha hk ho => State.objGo_absent ha hk ho, fun s s1 p h o cur ha ho hc => State.objGo_retire ha ho hc,
    fun s p h k o ha h1 h2 ho => State.objGo_clear ha h1 h2 ho, fun s p h o hr ho => exec_objectRetireDone hr ho⟩
  intro s p h hs go k hk v
  have hgo : ∀ t, s.putReg .jpObjCtl p 0 .full (objWord k h) = t → go k t := by
    rintro t rfl
    obtain ⟨e1, e2, e3⟩ := exec_obj s p h
    refine ⟨?_, ?_, ?_⟩ <;> rintro rfl
    · exact e1
    · exact e2
    · exact e3
  refine ⟨fun hb => ?_, fun hb hp => ?_, fun hb hp hi => ?_, fun hb => ?_⟩
  · exact hgo _ (State.putReg_obj_busy hs hk hb)
  · exact hgo _ (State.putReg_obj_refused hs hk hb (.inl ⟨hp, rfl⟩))
  · exact hgo _ (State.putReg_obj_refused hs hk hb (.inr ⟨hp, hi, rfl⟩))
  · exact hgo _ (State.putReg_obj_idle hs hk hb)

end Sys2Proof.Machine
end

section
/-! PROOF. Index publication and invalidation (R211, R271, R282 to R284). -/
namespace Sys2Proof.Machine

/-! What the invalidation of ranges leaves of the registers -/

@[simp] theorem State.squash_regs (s : State) (a n : Nat) : (s.squash a n).regs = s.regs := by
  unfold State.squash
  split <;> rfl

theorem State.reg_settleIndex (s : State) (p : Part) {r : RegId} (hr : r ≠ .jpXlatIndex) (i j : Nat) :
    (s.settleIndex p).reg r i j = s.reg r i j := by
  unfold State.settleIndex
  split
  · rfl
  · exact State.reg_setFld_of_ne _ _ fun he => hr (congrArg RegRef.reg he).symm

/-- Dropping ranges writes JP_XLAT_INDEX alone. -/
theorem State.reg_dropRanges (s : State) (p : Part) (f : Nat → Bool) {r : RegId} (hr : r ≠ .jpXlatIndex) (i j : Nat) :
    (s.dropRanges p f).reg r i j = s.reg r i j := by
  unfold State.dropRanges
  refine (State.reg_congr (foldl_keeps (fun (u : State) (y : Nat × Nat) => u.squash y.1 y.2) (fun u => u.regs)
    (fun u y => u.squash_regs y.1 y.2) _ _) r i j).trans ?_
  rw [State.reg_settleIndex _ _ hr]
  rfl

theorem State.fld_dropRanges (s : State) (p : Part) (f : Nat → Bool) (g : Fld) (hr : g.reg ≠ .jpXlatIndex) (i : Nat) :
    (s.dropRanges p f).fld g i = s.fld g i := by
  simp only [State.fld, State.reg_dropRanges s p f hr]

/-- A range's invalidation has begun: BUSY is set. -/
theorem State.invalRange_busy (s : State) (p : Part) (gen : BitVec 16) (irq : Bool) : (s.invalRange p gen irq).fld fJpXlatInval_BUSY p = 1 := by
  simp only [State.invalRange]
  rw [State.fld_dropRanges _ _ _ _ (by decide), State.fld_setFld_self _ _ _ _ _ (by decide)]
  decide

/-- An invalidation of every range has begun: BUSY is set. -/
theorem State.invalAll_busy (s : State) (p : Part) (gen : BitVec 16) (irq : Bool) : (s.invalAll p gen irq).fld fJpXlatInval_BUSY p = 1 := by
  have hset : ∀ u : State, ((u.setFld fJpXlatInval_BUSY 1 p).dropRanges p fun _ => true).fld fJpXlatInval_BUSY p = 1 := fun u => by
    rw [State.fld_dropRanges _ _ _ _ (by decide), State.fld_setFld_self _ _ _ _ _ (by decide)]
    decide
  simp only [State.invalAll, State.fld]
  rw [State.reg_settleIndex _ _ (by decide)]
  exact hset _

/-! JP_XLAT_INVAL -/

theorem actionReg_jpXlatInval : ActionReg .jpXlatInval fJpXlatInval_BUSY fJpXlatInval_RESULT := .of_busyOf rfl

/-- What XLAT_INVAL_RANGE and XLAT_INVAL_ALL write, for a 1 and 2. -/
def invalWord (a : Nat) (gen : BitVec 16) (irq : Bool) : W64 := BitVec.ofNat 64 (a * 2 ^ 62 + (irq.toNat * 2 ^ 60 + gen.toNat * 2 ^ 16))

section
variable {s : State} {p : Part} {gen : BitVec 16} {irq : Bool} {a : Nat}

theorem inval_operand_lt (gen : BitVec 16) (irq : Bool) : irq.toNat * 2 ^ 60 + gen.toNat * 2 ^ 16 < 2 ^ 62 := by
  have h1 := gen.isLt
  have h2 := irq.toNat_lt
  omega

theorem actionOf_invalWord (ha : a = 1 ∨ a = 2) : actionOf .jpXlatInval (invalWord a gen irq) = a :=
  actionOf_code (fun _ => rfl) (by omega) (inval_operand_lt gen irq)

theorem State.fld_put_invalGen (ha : a = 1 ∨ a = 2) : (s.put .jpXlatInval p (invalWord a gen irq)).fld fJpXlatInval_GEN p = gen.toNat := by
  refine (State.fld_put_operand s fJpXlatInval_GEN p a _ (by decide) (by decide) (by decide) (by omega) (inval_operand_lt gen irq)
    (by decide)).trans ?_
  have h1 := gen.isLt
  show (irq.toNat * 2 ^ 60 + gen.toNat * 2 ^ 16) / 2 ^ 16 % 2 ^ 16 = gen.toNat
  omega

theorem State.fld_put_invalIrq (ha : a = 1 ∨ a = 2) : (s.put .jpXlatInval p (invalWord a gen irq)).fld fJpXlatInval_IRQ p = irq.toNat := by
  refine (State.fld_put_operand s fJpXlatInval_IRQ p a _ (by decide) (by decide) (by decide) (by omega) (inval_operand_lt gen irq)
    (by decide)).trans ?_
  have h1 := gen.isLt
  have h2 := irq.toNat_lt
  show (irq.toNat * 2 ^ 60 + gen.toNat * 2 ^ 16) / 2 ^ 60 % 2 ^ 1 = irq.toNat
  omega

/-- The action on a generation and an IRQ, once they are in the register. -/
theorem State.act_inval {u : State} (ha : a = 1 ∨ a = 2) (hg : u.fld fJpXlatInval_GEN p = gen.toNat) (hi : u.fld fJpXlatInval_IRQ p = irq.toNat) :
    u.act ⟨.jpXlatInval, p, 0⟩ a (invalWord a gen irq) =
      if u.partEnabled p = false then u.setFld fJpXlatInval_RESULT 4 p
      else if a = 1 then u.invalRange p gen irq else u.invalAll p gen irq := by
  have hq : decide (irq.toNat = 1) = irq := by cases irq <;> rfl
  have : u.act ⟨.jpXlatInval, p, 0⟩ a (invalWord a gen irq) = u.invalAct (partOf p) a := by rcases ha with rfl | rfl <;> rfl
  rw [this, partOf_val]
  simp only [State.invalAct, hg, hi, hq, BitVec.ofNat_toNat, BitVec.setWidth_eq, Bool.not_eq_true']

theorem State.act_written_inval (ha : a = 1 ∨ a = 2) :
    (s.written .jpXlatInval p (invalWord a gen irq)).act ⟨.jpXlatInval, p, 0⟩ a (invalWord a gen irq) =
      if s.partEnabled p = false then (s.written .jpXlatInval p (invalWord a gen irq)).setFld fJpXlatInval_RESULT 4 p
      else if a = 1 then (s.written .jpXlatInval p (invalWord a gen irq)).invalRange p gen irq
        else (s.written .jpXlatInval p (invalWord a gen irq)).invalAll p gen irq := by
  rw [← (s.sameBut_written .jpXlatInval p (invalWord a gen irq)).partEnabled (by decide) p]
  exact State.act_inval ha ((State.fld_written s fJpXlatInval_GEN p _).trans (State.fld_put_invalGen ha))
    ((State.fld_written s fJpXlatInval_IRQ p _).trans (State.fld_put_invalIrq ha))

/-- Both rows are whole writes of JP_XLAT_INVAL. -/
theorem exec_inval (s : State) (p : Part) (gen : BitVec 16) (irq : Bool) :
    exec (.xlatInvalRange p gen irq) s = stepTo (s.putReg .jpXlatInval p 0 .full (invalWord 1 gen irq)) ∧
    exec (.xlatInvalAll p gen irq) s = stepTo (s.putReg .jpXlatInval p 0 .full (invalWord 2 gen irq)) := ⟨rfl, rfl⟩

section
variable (h : s.serving) (ha : a = 1 ∨ a = 2)
include h ha

theorem State.putReg_inval_busy (hb : s.fld fJpXlatInval_BUSY p = 1) :
    s.putReg .jpXlatInval p 0 .full (invalWord a gen irq) = s.setFld fJpXlatInval_RESULT 2 p :=
  actionReg_jpXlatInval.putReg_busy h (RegRef.valid_part _ p rfl (by decide)) nofun hb (by rw [actionOf_invalWord ha]; omega)

theorem State.putReg_inval_disabled (hb : s.fld fJpXlatInval_BUSY p = 0) (hp : s.partEnabled p = false) :
    s.putReg .jpXlatInval p 0 .full (invalWord a gen irq) = s.setFld fJpXlatInval_RESULT 4 p :=
  actionReg_jpXlatInval.putReg_result h (RegRef.valid_part _ p rfl (by decide)) nofun hb (actionOf_invalWord ha) (by omega) rfl (by decide)
    (by rw [State.act_written_inval ha, if_pos hp])

theorem State.putReg_inval_taken (hb : s.fld fJpXlatInval_BUSY p = 0) (hp : s.partEnabled p = true) :
    s.putReg .jpXlatInval p 0 .full (invalWord a gen irq) =
      if a = 1 then (s.put .jpXlatInval p (invalWord a gen irq)).invalRange p gen irq
      else (s.put .jpXlatInval p (invalWord a gen irq)).invalAll p gen irq := by
  have hu := (s.sameBut_put .jpXlatInval p (invalWord a gen irq) (by decide) (by decide)).partEnabled (by decide) p
  rw [actionReg_jpXlatInval.putReg_begins h (RegRef.valid_part _ p rfl (by decide)) nofun hb (actionOf_invalWord ha) (by omega),
    State.act_inval ha (State.fld_put_invalGen ha) (State.fld_put_invalIrq ha), if_neg (by simp [hu, hp])]
  rw [State.act_written_inval ha, if_neg (by simp [hp])]
  split
  · rw [State.invalRange_busy]
    decide
  · rw [State.invalAll_busy]
    decide

end

/-! JP_XLAT_INDEX -/

/-- A write of JP_XLAT_INDEX that finds it busy is refused (R271). -/
theorem State.putReg_xlatIndex_busy {v : W64} (h : s.serving) (hb : s.fld fJpXlatIndex_BUSY p = 1) :
    s.putReg .jpXlatIndex p 0 .full v = s.eventE 0x03 (RegId.addr .jpXlatIndex p 0) v.toNat := by
  rw [State.putReg_of_serving h _ _ _ _ _ (RegRef.valid_part _ p rfl (by decide)) (State.sliceGone_reg _ _ _ _ (by decide)) (.inl rfl)]
  simp only [State.writeReg]
  rw [if_neg (by simp [isDir]), if_neg (by decide), if_neg (by simp [actionOf]), if_pos ⟨trivial, hb⟩]
  rfl

/-- Any other write publishes its BASE. -/
theorem State.putReg_xlatIndex_idle {v : W64} (h : s.serving) (hb : s.fld fJpXlatIndex_BUSY p = 0) :
    s.putReg .jpXlatIndex p 0 .full v =
      (s.put .jpXlatIndex p v).publishIndex p ((s.put .jpXlatIndex p v).fld fJpXlatIndex_BASE p) := by
  rw [State.putReg_of_serving h _ _ _ _ _ (RegRef.valid_part _ p rfl (by decide)) (State.sliceGone_reg _ _ _ _ (by decide)) (.inl rfl)]
  simp only [State.writeReg]
  rw [if_neg (by simp [isDir]), if_neg (by decide), if_neg (by simp [actionOf]), if_neg (by simp [hb]), if_neg (by simp [actionOf]),
    if_pos (show actionOf .jpXlatIndex _ = 0 from rfl)]
  simp only [State.wrote, partOf_val]
  rfl

theorem State.settleIndex_iff (s : State) (p : Part) : ((∃ w ∈ s.walks, w.part = p ∧ w.old = true) → s.settleIndex p = s) ∧
    ((∀ w ∈ s.walks, w.part = p → w.old = false) → s.settleIndex p = s.setFld fJpXlatIndex_BUSY 0 p) := by
  refine ⟨fun ⟨w, hw, hp, ho⟩ => ?_, fun hn => ?_⟩ <;> unfold State.settleIndex
  · rw [if_pos (List.any_eq_true.mpr ⟨w, hw, by simp [hp, ho]⟩)]
  · rw [if_neg]
    simp only [List.any_eq_true, Bool.and_eq_true, decide_eq_true_eq, not_exists, not_and, Bool.not_eq_true]
    exact hn

/-! The end of an invalidation -/

/-- An invalidation flushes what the Rake holds of it, then ends or waits. -/
theorem exec_xlatInvalDone {v : Inval} (hv : (s.part p).inval = some v) :
    exec (.xlatInvalDone p) s = stepTo ((s.flushHeld p fun c => if v.range = none then c.old else c.within v.old).invalDone p) := by
  show execXlatInvalDone p s = _
  simp only [execXlatInvalDone, hv]

/-- An invalidation of every range: it waits for its transfers, then answers RESULT 0. -/
theorem State.invalDone_all {v : Inval} (hv : (s.part p).inval = some v) (hr : v.range = none) :
    s.invalDone p = if s.inTransitOld p then s else
      let s2 := ((s.modPart p fun ps => { ps with inval := none }).setFld fJpXlatInval_BUSY 0 p).setFld fJpXlatInval_RESULT 0 p
      if v.irq then s2.eventP p 0x0E 0xFFFFFFFF (s2.fld fJpXlatInval_ACK_GEN p) else s2 := by
  simp only [State.invalDone, hv, hr]

/-- An invalidation of one range: it waits for its transfers, then reads the entry again. -/
theorem State.invalDone_range {v : Inval} {r : Nat} (hv : (s.part p).inval = some v) (hr : v.range = some r) :
    s.invalDone p = if s.inTransit p v.old then s else
      let s1 := (s.modPart p fun ps => { ps with inval := none }).setFld fJpXlatInval_BUSY 0 p
      let s2 := ((s1.reread p r v.gen).1.setFld fJpXlatInval_RESULT (if (s1.reread p r v.gen).2 then 0 else 3) p).setFld
        fJpXlatInval_ACK_GEN v.gen.toNat p
      if v.irq then s2.eventP p 0x0E r v.gen.toNat else s2 := by
  simp only [State.invalDone, hv, hr]

/-- The entry with the generation is found, unpoisoned, or it is not. -/
theorem State.reread_cases (s : State) (p : Part) (r : Nat) (gen : BitVec 16) :
    let base := s.fld fJpXlatTable_BASE p * 4096 + 32 * r
    let e := s.rdNat base 32
    let s1 (l : List Nat) := s.modPart p fun ps => { ps with unmapped := (ps.unmapped.filter fun i => decide (i ≠ r)) ++ l }
    (natBits e 192 16 = gen.toNat → s.rdPoison base 32 = false →
      s.reread p r gen = (if natBits e 0 1 = 1 ∧ s.entryBad e = false then (s1 []).fillRange (entryOf p r e) else s1 [], true)) ∧
    (natBits e 192 16 ≠ gen.toNat ∨ s.rdPoison base 32 = true → s.reread p r gen = (s1 [r], false)) := by
  intro base e s1
  refine ⟨fun hg hq => ?_, fun hn => ?_⟩
  · have hf : (decide (natBits e 192 16 = gen.toNat) && !(s.rdPoison base 32)) = true := by simp [hg, hq]
    simp only [State.reread, show (decide (natBits (s.rdNat (s.fld fJpXlatTable_BASE p * 4096 + 32 * r) 32) 192 16 = gen.toNat) &&
      !(s.rdPoison (s.fld fJpXlatTable_BASE p * 4096 + 32 * r) 32)) = true from hf, true_and, if_true]
    rfl
  · have hf : (decide (natBits e 192 16 = gen.toNat) && !(s.rdPoison base 32)) = false := by
      rcases hn with hn | hn <;> simp [hn]
    simp only [State.reread, show (decide (natBits (s.rdNat (s.fld fJpXlatTable_BASE p * 4096 + 32 * r) 32) 192 16 = gen.toNat) &&
      !(s.rdPoison (s.fld fJpXlatTable_BASE p * 4096 + 32 * r) 32)) = false from hf, Bool.false_eq_true, false_and, if_false]
    rfl

end

/-- Settles O28: a publication and an invalidation begin by the cases of their registers, and end by those of the protocol. -/
theorem translationTables : Obligations.TranslationTables := by
  unfold Obligations.TranslationTables
  refine ⟨?_, State.settleIndex_iff, ?_, fun s p gen irq => rfl, fun s p gen irq => rfl, ?_, ?_, State.reread_cases⟩
  · intro s p v h
    refine ⟨fun hb => ?_, fun hb => ?_⟩
    · show stepTo (s.putReg .jpXlatIndex p 0 .full v) = _
      rw [State.putReg_xlatIndex_idle h hb, stepTo_eq]
      have hs := s.sameBut_put .jpXlatIndex p v (by decide) (by decide)
      have hw : (s.put .jpXlatIndex p v).walks = s.walks ∧ (s.put .jpXlatIndex p v).walkFaults = s.walkFaults := by
        constructor <;> rw [hs.rest]
      simp only [State.publishIndex, State.freshWalks, hw]
    · show stepTo (s.putReg .jpXlatIndex p 0 .full v) = _
      rw [State.putReg_xlatIndex_busy h hb, stepTo_eq]
  · intro s p gen irq h v
    obtain ⟨e1, e2⟩ := exec_inval s p gen irq
    refine ⟨fun hb => ?_, fun hb hp => ?_, fun hb hp => ?_⟩
    · rw [State.putReg_inval_busy h (by decide) hb] at e1 e2
      exact ⟨e1, e2⟩
    · rw [State.putReg_inval_disabled h (by decide) hb hp] at e1 e2
      exact ⟨e1, e2⟩
    · rw [State.putReg_inval_taken h (by decide) hb hp] at e1 e2
      rw [if_pos rfl] at e1
      rw [if_neg (by decide)] at e2
      exact ⟨e1, e2⟩
  · intro s p f hit s1
    simp only [State.dropRanges, List.foldl_map]
    rfl
  · intro s p v hv t ht waits s1
    have key : exec (.xlatInvalDone p) s = stepTo (t.invalDone p) := exec_xlatInvalDone hv
    refine ⟨fun hw => ?_, fun hw hr => ?_, fun r hw hr => ?_⟩
    · cases hr : v.range with
      | none =>
        rw [State.invalDone_all ht hr, if_pos (by simpa [waits, hr] using hw)] at key
        exact key
      | some r =>
        rw [State.invalDone_range ht hr, if_pos (by simpa [waits, hr] using hw)] at key
        exact key
    · rw [State.invalDone_all ht hr, if_neg (by simpa [waits, hr] using hw)] at key
      exact key
    · rw [State.invalDone_range ht hr, if_neg (by simpa [waits, hr] using hw)] at key
      exact key

end Sys2Proof.Machine
end

section
/-! PROOF. Page bias: flips and its actions (R295 to R299). -/
namespace Sys2Proof.Machine

theorem actionReg_jeBiasCmd : ActionReg .jeBiasCmd fJeBiasCmd_BUSY fJeBiasCmd_RESULT := .of_busyOf rfl

theorem valid_jeBiasCmd : RegRef.valid ⟨.jeBiasCmd, 0, 0⟩ := RegRef.valid_hub _ rfl (by decide)

/-- What an action of JE_BIAS_CMD that has ended leaves outside the register. -/
def State.biasIdle (s : State) : State := { s with flipsAll := false, fab := { s.fab with biasPage := none } }

/-- An end of an action is one write of its register. -/
theorem State.biasEnd_setReg (s : State) (w : W64) (k : Nat) :
    (s.setReg .jeBiasCmd w).biasEnd k = s.biasIdle.setReg .jeBiasCmd
      (putBits (putBits (putBits w 61 1 0) 56 4 k) 54 2 (s.biasOf (bitsOf w 0 15)).code) := by
  have hb : ∀ x : Nat, (s.setReg .jeBiasCmd w).biasOf x = s.biasOf x := fun _ => rfl
  have hw : (s.setReg .jeBiasCmd w).fld fJeBiasCmd_PAGE = bitsOf w 0 15 := by simp only [State.fld, State.reg_setReg_self]
  have hs : ({ s.setReg .jeBiasCmd w with flipsAll := false, fab := { s.fab with biasPage := none } } : State) = s.biasIdle.setReg .jeBiasCmd w :=
    rfl
  simp only [State.biasEnd, hb, hw]
  rw [show (s.setReg .jeBiasCmd w).fab = s.fab from rfl, hs]
  simp only [State.setFld, State.reg_setReg_self, State.setReg_setReg_self]

/-- BUSY and RESULT of a register whose action has ended. -/
theorem bias_end_bits (w : W64) (k b : Nat) : bitsOf (putBits (putBits (putBits w 61 1 0) 56 4 k) 54 2 b) 61 1 = 0 ∧
    bitsOf (putBits (putBits (putBits w 61 1 0) 56 4 k) 54 2 b) 56 4 = k % 16 := by
  refine ⟨?_, ?_⟩
  · rw [bitsOf_putBits_of_apart _ _ (by decide), bitsOf_putBits_of_apart _ _ (by decide), bitsOf_putBits_self _ _ _ _ (by decide)]
    rfl
  · rw [bitsOf_putBits_of_apart _ _ (by decide), bitsOf_putBits_self _ _ _ _ (by decide)]
    rfl

section
variable {s : State} {page : BitVec 15} {v : W64} {a k : Nat} (h : s.serving)
include h

theorem State.putReg_bias_busy (hb : s.fld fJeBiasCmd_BUSY = 1) (ha : actionOf .jeBiasCmd v ≠ 0) :
    s.putReg .jeBiasCmd 0 0 .full v = s.setFld fJeBiasCmd_RESULT 2 :=
  actionReg_jeBiasCmd.putReg_busy h valid_jeBiasCmd nofun hb ha

variable (hb : s.fld fJeBiasCmd_BUSY = 0) (ha : actionOf .jeBiasCmd v = a) (h0 : a ≠ 0)
include hb ha h0

/-- An action that ends at once with a RESULT that says why. -/
theorem State.putReg_bias_refused {w : W64} (hk : k % 16 = k) (hk0 : k ≠ 0)
    (ht : (s.written .jeBiasCmd 0 v).act ⟨.jeBiasCmd, 0, 0⟩ a v = (s.setReg .jeBiasCmd w).biasEnd k) :
    s.putReg .jeBiasCmd 0 0 .full v = s.biasIdle.setFld fJeBiasCmd_RESULT k := by
  rw [State.biasEnd_setReg] at ht
  obtain ⟨h1, h2⟩ := bias_end_bits w k (s.biasOf (bitsOf w 0 15)).code
  exact actionReg_jeBiasCmd.putReg_refused h valid_jeBiasCmd nofun hb ha h0 ht rfl h1 (h2.trans hk) hk0

/-- An action that ends at once with RESULT 0 is taken. -/
theorem State.putReg_bias_done {w : W64} (ht : (s.written .jeBiasCmd 0 v).act ⟨.jeBiasCmd, 0, 0⟩ a v = (s.setReg .jeBiasCmd w).biasEnd 0) :
    s.putReg .jeBiasCmd 0 0 .full v = (s.put .jeBiasCmd 0 v).act ⟨.jeBiasCmd, 0, 0⟩ a v := by
  refine actionReg_jeBiasCmd.putReg_done h valid_jeBiasCmd nofun hb ha h0 ?_
  rw [ht, State.biasEnd_setReg]
  simp only [State.fld, State.reg_setReg_self]
  exact (bias_end_bits w 0 _).2

end

/-! Actions on one page -/

/-- What BIAS_FLIP_PAGE and BIAS_READ_PAGE write, for a 1 and 2. -/
def biasWord (a : Nat) (page : BitVec 15) : W64 := BitVec.ofNat 64 (a * 2 ^ 62 + page.toNat)

section
variable {s u : State} {page : BitVec 15} {a : Nat}

theorem actionOf_biasWord (ha : a = 1 ∨ a = 2) : actionOf .jeBiasCmd (biasWord a page) = a :=
  actionOf_code3 (fun _ => rfl) (by omega) (by omega)

theorem State.fld_put_biasPage (ha : a = 1 ∨ a = 2) : (s.put .jeBiasCmd 0 (biasWord a page)).fld fJeBiasCmd_PAGE = page.toNat := by
  refine (State.fld_put_operand s fJeBiasCmd_PAGE 0 a page.toNat (by decide) (by decide) (by decide) (by omega) (by omega) (by decide)).trans ?_
  exact (congrArg (· % 2 ^ 15) (Nat.div_one _)).trans (Nat.mod_eq_of_lt page.isLt)

theorem State.fld_written_biasPage (ha : a = 1 ∨ a = 2) : (s.written .jeBiasCmd 0 (biasWord a page)).fld fJeBiasCmd_PAGE = page.toNat :=
  (State.fld_written s fJeBiasCmd_PAGE 0 _).trans (State.fld_put_biasPage ha)

theorem State.act_biasFlip (hu : u.fld fJeBiasCmd_PAGE = page.toNat) : u.act ⟨.jeBiasCmd, 0, 0⟩ 1 (biasWord 1 page) = u.biasFlip page := by
  have : u.act ⟨.jeBiasCmd, 0, 0⟩ 1 (biasWord 1 page) = u.biasFlip (BitVec.ofNat 15 (u.fld fJeBiasCmd_PAGE)) := rfl
  rw [this, hu, BitVec.ofNat_toNat, BitVec.setWidth_eq]

theorem State.act_biasRead (hu : u.fld fJeBiasCmd_PAGE = page.toNat) : u.act ⟨.jeBiasCmd, 0, 0⟩ 2 (biasWord 2 page) = u.biasRead page := by
  have : u.act ⟨.jeBiasCmd, 0, 0⟩ 2 (biasWord 2 page) = u.biasRead (BitVec.ofNat 15 (u.fld fJeBiasCmd_PAGE)) := rfl
  rw [this, hu, BitVec.ofNat_toNat, BitVec.setWidth_eq]

/-- The register as a write leaves it, with PAGE set again, is a write of the register. -/
theorem State.written_setPage (s : State) (v : W64) (n : Nat) : ∃ w, (s.written .jeBiasCmd 0 v).setFld fJeBiasCmd_PAGE n = s.setReg .jeBiasCmd w :=
  ⟨_, State.setFld_setReg s fJeBiasCmd_PAGE _ n 0 0⟩

/-- The window and the bias of every page are as before the write of JE_BIAS_CMD. -/
theorem State.bias_facts (h : s.SameBut .jeBiasCmd 0 u) (n : Nat) :
    (u.setFld fJeBiasCmd_PAGE n).fld fJeWinCtl_ENABLED = s.fld fJeWinCtl_ENABLED ∧
      ∀ x, (u.setFld fJeBiasCmd_PAGE n).biasOf x = s.biasOf x := by
  have h' : s.SameBut .jeBiasCmd 0 (u.setFld fJeBiasCmd_PAGE n) := State.SameBut.setFld h n
  refine ⟨h'.fld fJeWinCtl_ENABLED 0 0 (by decide), fun x => ?_⟩
  obtain e | ⟨w, e⟩ := h'
  · rw [e]
  · rw [e]
    rfl

/-- ACTION 01 by the window and the bias of its page (R298, R299). -/
theorem State.biasFlip_cases (h : s.SameBut .jeBiasCmd 0 u) :
    (s.fld fJeWinCtl_ENABLED = 0 → u.biasFlip page = (u.setFld fJeBiasCmd_PAGE page.toNat).biasEnd 1) ∧
    (s.fld fJeWinCtl_ENABLED ≠ 0 → s.biasOf page.toNat = .toShared → u.biasFlip page = (u.setFld fJeBiasCmd_PAGE page.toNat).biasEnd 2) ∧
    (s.fld fJeWinCtl_ENABLED ≠ 0 → s.biasOf page.toNat = .device → u.biasFlip page = (u.setFld fJeBiasCmd_PAGE page.toNat).biasEnd 0) ∧
    (s.fld fJeWinCtl_ENABLED ≠ 0 → s.biasOf page.toNat = .shared ∨ s.biasOf page.toNat = .toDevice → u.biasFlip page =
      (({ u.setFld fJeBiasCmd_PAGE page.toNat with fab := { s.fab with biasPage := some page } } : State).setFld fJeBiasCmd_BUSY 1).recallPage
        page.toNat) := by
  obtain ⟨hen, hbias⟩ := State.bias_facts h page.toNat
  have hfab : (u.setFld fJeBiasCmd_PAGE page.toNat).fab = s.fab := by obtain rfl | ⟨w, rfl⟩ := h <;> rfl
  refine ⟨fun hw => ?_, fun hw hp => ?_, fun hw hp => ?_, fun hw hp => ?_⟩ <;> simp only [State.biasFlip, hen, hbias]
  · rw [if_pos hw]
  · rw [if_neg hw, hp]
  · rw [if_neg hw, hp]
  · rw [if_neg hw, hfab]
    rcases hp with hp | hp <;> rw [hp]

/-- ACTION 10: the bias of the page, and RESULT 1 without a window. -/
theorem State.biasRead_eq (h : s.SameBut .jeBiasCmd 0 u) :
    u.biasRead page = (u.setFld fJeBiasCmd_PAGE page.toNat).biasEnd (if s.fld fJeWinCtl_ENABLED = 0 then 1 else 0) := by
  obtain ⟨hen, -⟩ := State.bias_facts h page.toNat
  simp only [State.biasRead, hen]

/-- Both rows are whole writes of JE_BIAS_CMD. -/
theorem exec_biasPage (s : State) (page : BitVec 15) :
    exec (.biasFlipPage page) s = stepTo (s.putReg .jeBiasCmd 0 0 .full (biasWord 1 page)) ∧
    exec (.biasReadPage page) s = stepTo (s.putReg .jeBiasCmd 0 0 .full (biasWord 2 page)) := ⟨rfl, rfl⟩

section
variable (h : s.serving) (hb : s.fld fJeBiasCmd_BUSY = 0)
include h hb

theorem State.putReg_biasFlip_refused {k : Nat}
    (hk : s.fld fJeWinCtl_ENABLED = 0 ∧ k = 1 ∨ s.fld fJeWinCtl_ENABLED ≠ 0 ∧ s.biasOf page.toNat = .toShared ∧ k = 2) :
    s.putReg .jeBiasCmd 0 0 .full (biasWord 1 page) = s.biasIdle.setFld fJeBiasCmd_RESULT k := by
  obtain ⟨c1, c2, -, -⟩ := State.biasFlip_cases (s.sameBut_written .jeBiasCmd 0 (biasWord 1 page)) (page := page)
  obtain ⟨w, hw⟩ := s.written_setPage (biasWord 1 page) page.toNat
  refine State.putReg_bias_refused h hb (actionOf_biasWord (.inl rfl)) (by decide) (w := w) (by omega) (by omega) ?_
  rw [State.act_biasFlip (State.fld_written_biasPage (.inl rfl)), ← hw]
  rcases hk with ⟨hn, rfl⟩ | ⟨hn, hp, rfl⟩
  · exact c1 hn
  · exact c2 hn hp

theorem State.putReg_biasFlip_device (hn : s.fld fJeWinCtl_ENABLED ≠ 0) (hp : s.biasOf page.toNat = .device) :
    s.putReg .jeBiasCmd 0 0 .full (biasWord 1 page) = ((s.put .jeBiasCmd 0 (biasWord 1 page)).setFld fJeBiasCmd_PAGE page.toNat).biasEnd 0 := by
  obtain ⟨-, -, c3, -⟩ := State.biasFlip_cases (s.sameBut_written .jeBiasCmd 0 (biasWord 1 page)) (page := page)
  obtain ⟨-, -, d3, -⟩ := State.biasFlip_cases (s.sameBut_put .jeBiasCmd 0 (biasWord 1 page) (by decide) (by decide)) (page := page)
  obtain ⟨w, hw⟩ := s.written_setPage (biasWord 1 page) page.toNat
  rw [State.putReg_bias_done h hb (actionOf_biasWord (.inl rfl)) (by decide) (w := w)
    (by rw [State.act_biasFlip (State.fld_written_biasPage (.inl rfl)), c3 hn hp, hw]),
    State.act_biasFlip (State.fld_put_biasPage (.inl rfl)), d3 hn hp]

theorem State.putReg_biasFlip_recall (hn : s.fld fJeWinCtl_ENABLED ≠ 0) (hp : s.biasOf page.toNat = .shared ∨ s.biasOf page.toNat = .toDevice) :
    s.putReg .jeBiasCmd 0 0 .full (biasWord 1 page) = s.orRefused .jeBiasCmd 0 (biasWord 1 page)
      ((({ (s.put .jeBiasCmd 0 (biasWord 1 page)).setFld fJeBiasCmd_PAGE page.toNat with fab := { s.fab with biasPage := some page } } : State).setFld
        fJeBiasCmd_BUSY 1).recallPage page.toNat) := by
  obtain ⟨-, -, -, d4⟩ := State.biasFlip_cases (s.sameBut_put .jeBiasCmd 0 (biasWord 1 page) (by decide) (by decide)) (page := page)
  rw [actionReg_jeBiasCmd.putReg_idle h valid_jeBiasCmd nofun hb (actionOf_biasWord (.inl rfl)) (by decide),
    State.act_biasFlip (State.fld_put_biasPage (.inl rfl)), d4 hn hp]

theorem State.putReg_biasRead_refused (hn : s.fld fJeWinCtl_ENABLED = 0) :
    s.putReg .jeBiasCmd 0 0 .full (biasWord 2 page) = s.biasIdle.setFld fJeBiasCmd_RESULT 1 := by
  obtain ⟨w, hw⟩ := s.written_setPage (biasWord 2 page) page.toNat
  refine State.putReg_bias_refused h hb (actionOf_biasWord (.inr rfl)) (by decide) (w := w) rfl (by decide) ?_
  rw [State.act_biasRead (State.fld_written_biasPage (.inr rfl)), ← hw, State.biasRead_eq (s.sameBut_written ..), if_pos hn]

theorem State.putReg_biasRead_done (hn : s.fld fJeWinCtl_ENABLED ≠ 0) :
    s.putReg .jeBiasCmd 0 0 .full (biasWord 2 page) = ((s.put .jeBiasCmd 0 (biasWord 2 page)).setFld fJeBiasCmd_PAGE page.toNat).biasEnd 0 := by
  obtain ⟨w, hw⟩ := s.written_setPage (biasWord 2 page) page.toNat
  rw [State.putReg_bias_done h hb (actionOf_biasWord (.inr rfl)) (by decide) (w := w)
    (by rw [State.act_biasRead (State.fld_written_biasPage (.inr rfl)), State.biasRead_eq (s.sameBut_written ..), if_neg hn, hw]),
    State.act_biasRead (State.fld_put_biasPage (.inr rfl)), State.biasRead_eq (s.sameBut_put _ _ _ (by decide) (by decide)), if_neg hn]

end
end

/-! The action on every shared page -/

section
variable {s : State}

/-- What BIAS_FLIP_ALL writes. -/
def State.biasAllWord (s : State) : W64 := s.keepWord .jeBiasCmd 0xC000000000000000#64

theorem actionOf_biasAllWord (s : State) : actionOf .jeBiasCmd s.biasAllWord = 3 :=
  (s.bitsOf_keepWord .jeBiasCmd _ (by decide)).trans (by decide)

theorem exec_biasFlipAll (s : State) : exec .biasFlipAll s = stepTo (s.putReg .jeBiasCmd 0 0 .full s.biasAllWord) := by
  show stepTo (s.putKeep .jeBiasCmd 0 _) = _
  rw [State.putKeep_eq _ _ _ (by decide)]
  rfl

theorem State.putReg_biasAll_refused (h : s.serving) (hb : s.fld fJeBiasCmd_BUSY = 0) (hn : s.fld fJeWinCtl_ENABLED = 0) :
    s.putReg .jeBiasCmd 0 0 .full s.biasAllWord = s.biasIdle.setFld fJeBiasCmd_RESULT 1 := by
  refine State.putReg_bias_refused h hb (actionOf_biasAllWord s) (by decide) rfl (by decide)
    (w := s.newFields ⟨.jeBiasCmd, 0, 0⟩ .full s.biasAllWord) ?_
  have hen := (s.sameBut_written .jeBiasCmd 0 s.biasAllWord).fld fJeWinCtl_ENABLED 0 0 (by decide)
  show (s.written .jeBiasCmd 0 s.biasAllWord).biasAll = _
  simp only [State.biasAll, hen, hn, if_true]
  rfl

theorem State.putReg_biasAll_idle (h : s.serving) (hb : s.fld fJeBiasCmd_BUSY = 0) (hn : s.fld fJeWinCtl_ENABLED ≠ 0) :
    s.putReg .jeBiasCmd 0 0 .full s.biasAllWord = s.orRefused .jeBiasCmd 0 s.biasAllWord
      (((({ s.put .jeBiasCmd 0 s.biasAllWord with flipsAll := true } : State).setFld fJeBiasCmd_BUSY 1).setFld fJeBiasCmd_RESULT 0).recallAll.biasAllStep) := by
  have hen := (s.sameBut_put .jeBiasCmd 0 s.biasAllWord (by decide) (by decide)).fld fJeWinCtl_ENABLED 0 0 (by decide)
  rw [actionReg_jeBiasCmd.putReg_idle h valid_jeBiasCmd nofun hb (actionOf_biasAllWord s) (by decide)]
  show s.orRefused .jeBiasCmd 0 s.biasAllWord (s.put .jeBiasCmd 0 s.biasAllWord).biasAll = _
  simp only [State.biasAll, hen, hn, if_false]

end

/-! Flips -/

/-- A flip to SHARED begins where fewer than 16 run (R297). -/
theorem State.startFlip_cases (s : State) (page : Nat) :
    let running := (s.pages.filter fun y => decide (y.2 = .toShared)).length
    let a := s.pageAddr page
    let mine (x : Nat) : Bool := decide (a ≤ x) && decide (x < a + 2 ^ 21)
    let s1 := ((s.setBias page .toShared).squash a (2 ^ 21)).dropLines fun key => mine (key * 256)
    (16 ≤ running → s.startFlip page = s) ∧
    (running < 16 → s.startFlip page = { s1 with
      wrQ := s1.wrQ.map fun (w : WrReq) => if mine w.addr then { w with issued := true } else w
      addQ := s1.addQ.map fun (o : AddOp) => if mine o.addr then { o with issued := true } else o }) := by
  refine ⟨fun hr => ?_, fun hr => ?_⟩ <;> unfold State.startFlip
  · rw [if_pos hr]
  · rw [if_neg (by omega)]

/-- Settles O31: the flips' ends by their guards, the actions by the window and the page's bias. -/
theorem pageBias : Obligations.PageBias := by
  unfold Obligations.PageBias
  refine ⟨State.startFlip_cases, ?_, ?_, ?_, fun s page => rfl, ?_⟩
  · intro s page
    have key : exec (.flipToSharedDone page) s = stepTo (if s.biasOf page.toNat ≠ .toShared ∨ s.flipLeft page.toNat then s
      else ((s.setBias page.toNat .shared).bump fJeBiasStat_TO_SHARED).settleHome) := rfl
    refine ⟨fun hp hl => ?_, fun hw => ?_⟩
    · rw [key, if_neg (by simp [hp, hl]), stepTo_eq]
    · rw [key, if_pos hw, stepTo_eq]
  · intro s page
    have key : exec (.flipToDeviceDone page) s = stepTo (if s.biasOf page.toNat ≠ .toDevice ∨ !(s.pageEmpty page.toNat) then s
      else if s.fab.biasPage = some page then ((s.setBias page.toNat .device).bump fJeBiasStat_TO_DEVICE).biasEnd 0
        else ((s.setBias page.toNat .device).bump fJeBiasStat_TO_DEVICE).biasAllStep) := rfl
    refine ⟨fun hp he => ?_, fun hw => ?_⟩
    · rw [key, if_neg (by simp [hp, he]), stepTo_eq]
    · rw [key, if_pos (by simpa using hw), stepTo_eq]
  · intro s page h v s1 ended
    obtain ⟨e1, e2⟩ := exec_biasPage s page
    refine ⟨fun hb => ?_, fun hb hn => ?_, fun hb hn => ⟨?_, fun hp => ?_, fun hp => ?_, fun hp => ?_⟩⟩
    · rw [State.putReg_bias_busy h hb (by rw [actionOf_biasWord] <;> decide)] at e1 e2
      exact ⟨e1, e2⟩
    · rw [State.putReg_biasFlip_refused h hb (.inl ⟨hn, rfl⟩)] at e1
      rw [State.putReg_biasRead_refused h hb hn] at e2
      exact ⟨e1, e2⟩
    · rw [State.putReg_biasRead_done h hb (by omega)] at e2
      exact e2
    · rw [State.putReg_biasFlip_device h hb (by omega) hp] at e1
      exact e1
    · rw [State.putReg_biasFlip_refused h hb (.inr ⟨by omega, hp, rfl⟩)] at e1
      exact e1
    · rw [State.putReg_biasFlip_recall h hb (by omega) hp] at e1
      exact e1
  · intro s h mask v s1 ended
    have key := exec_biasFlipAll s
    refine ⟨fun hb => ?_, fun hb hn => ?_, fun hb hn => ?_⟩
    · rw [State.putReg_bias_busy h hb (by rw [actionOf_biasAllWord]; decide)] at key
      exact key
    · rw [State.putReg_biasAll_refused h hb hn] at key
      exact key
    · rw [State.putReg_biasAll_idle h hb (by omega)] at key
      exact key

end Sys2Proof.Machine
end

section
/-! PROOF. The coherent window is enabled, moved, disabled (R293, R294, R355). -/
namespace Sys2Proof.Machine

theorem actionReg_jeWinCtl : ActionReg .jeWinCtl fJeWinCtl_BUSY fJeWinCtl_RESULT := .of_busyOf rfl

theorem valid_jeWinCtl : RegRef.valid ⟨.jeWinCtl, 0, 0⟩ := RegRef.valid_hub _ rfl (by decide)

/-- What an action of JE_WIN_CTL that has ended leaves outside the register. -/
def State.winIdle (s : State) : State := { s with fab := { s.fab with winAction := 0 } }

/-- An end of an action is one write of its register. -/
theorem State.winEnd_setReg (s : State) (w : W64) (k : Nat) :
    (s.setReg .jeWinCtl w).winEnd k = s.winIdle.setReg .jeWinCtl (putBits (putBits w 61 1 0) 56 4 k) := by
  have hs : ({ s.setReg .jeWinCtl w with fab := { s.fab with winAction := 0 } } : State) = s.winIdle.setReg .jeWinCtl w := rfl
  simp only [State.winEnd]
  rw [show (s.setReg .jeWinCtl w).fab = s.fab from rfl, hs]
  simp only [State.setFld, State.reg_setReg_self, State.setReg_setReg_self]

/-- An action that begins answers RESULT 0. -/
theorem State.fld_winBegin_result (s : State) (a : Nat) : (s.winBegin a).fld fJeWinCtl_RESULT = 0 :=
  State.fld_setFld_self _ fJeWinCtl_RESULT 0 0 0 (by decide)

/-- BUSY and RESULT of a word in which an action has ended. -/
theorem end_bits (w : W64) (k : Nat) : bitsOf (putBits (putBits w 61 1 0) 56 4 k) 61 1 = 0 ∧
    bitsOf (putBits (putBits w 61 1 0) 56 4 k) 56 4 = k % 16 := by
  refine ⟨?_, ?_⟩
  · rw [bitsOf_putBits_of_apart _ _ (by decide), bitsOf_putBits_self _ _ _ _ (by decide)]
    rfl
  · rw [bitsOf_putBits_self _ _ _ _ (by decide)]
    rfl

section
variable {s : State} {v w : W64} {a k : Nat} (h : s.serving)
include h

/-- Before configuration lock every action raises event 0x03 (R355). -/
theorem State.putReg_win_early (hl : s.locked = false) (ha : actionOf .jeWinCtl v ≠ 0) :
    s.putReg .jeWinCtl 0 0 .full v = s.eventE 0x03 (RegId.addr .jeWinCtl 0) v.toNat :=
  actionReg_jeWinCtl.putReg_early h valid_jeWinCtl rfl hl ha

theorem State.putReg_win_busy (hl : s.locked = true) (hb : s.fld fJeWinCtl_BUSY = 1) (ha : actionOf .jeWinCtl v ≠ 0) :
    s.putReg .jeWinCtl 0 0 .full v = s.setFld fJeWinCtl_RESULT 2 :=
  actionReg_jeWinCtl.putReg_busy h valid_jeWinCtl (fun _ => hl) hb ha

/-- An action that ends at once with a RESULT that says why. -/
theorem State.putReg_win_refused (hl : s.locked = true) (hb : s.fld fJeWinCtl_BUSY = 0) (ha : actionOf .jeWinCtl v = a) (h0 : a ≠ 0)
    (hk : k % 16 = k) (hk0 : k ≠ 0) (ht : (s.written .jeWinCtl 0 v).act ⟨.jeWinCtl, 0, 0⟩ a v = (s.setReg .jeWinCtl w).winEnd k) :
    s.putReg .jeWinCtl 0 0 .full v = s.winIdle.setFld fJeWinCtl_RESULT k := by
  rw [State.winEnd_setReg] at ht
  obtain ⟨h1, h2⟩ := end_bits w k
  exact actionReg_jeWinCtl.putReg_refused h valid_jeWinCtl (fun _ => hl) hb ha h0 ht rfl h1 (h2.trans hk) hk0

end

/-! Enabling and moving -/

/-- What WINDOW_ENABLE and WINDOW_MOVE write, for a 1 and 3. -/
def winWord (a : Nat) (base : BitVec 11) : W64 := BitVec.ofNat 64 (a * 2 ^ 62 + base.toNat)

section
variable {s u : State} {base : BitVec 11} {a : Nat}

theorem actionOf_winWord (ha : a = 1 ∨ a = 3) : actionOf .jeWinCtl (winWord a base) = a :=
  actionOf_code3 (fun _ => rfl) (by omega) (by omega)

theorem State.fld_put_winBase (ha : a = 1 ∨ a = 3) : (s.put .jeWinCtl 0 (winWord a base)).fld fJeWinCtl_NEW_BASE_GIB = base.toNat := by
  refine (State.fld_put_operand s fJeWinCtl_NEW_BASE_GIB 0 a base.toNat (by decide) (by decide) (by decide) (by omega) (by omega)
    (by decide)).trans ?_
  exact (congrArg (· % 2 ^ 11) (Nat.div_one _)).trans (Nat.mod_eq_of_lt base.isLt)

theorem State.fld_written_winBase (ha : a = 1 ∨ a = 3) : (s.written .jeWinCtl 0 (winWord a base)).fld fJeWinCtl_NEW_BASE_GIB = base.toNat :=
  (State.fld_written s fJeWinCtl_NEW_BASE_GIB 0 _).trans (State.fld_put_winBase ha)

/-- Software writes ENABLED by no write. -/
theorem State.fld_put_winEnabled (s : State) (v : W64) : (s.put .jeWinCtl 0 v).fld fJeWinCtl_ENABLED = s.fld fJeWinCtl_ENABLED :=
  State.fld_stored_kept s fJeWinCtl_ENABLED 0 0 .full v (by decide) (by decide) (by decide)

theorem State.fld_written_winEnabled (s : State) (v : W64) : (s.written .jeWinCtl 0 v).fld fJeWinCtl_ENABLED = s.fld fJeWinCtl_ENABLED :=
  (State.fld_written s fJeWinCtl_ENABLED 0 v).trans (s.fld_put_winEnabled v)

theorem State.act_winEnable (hu : u.fld fJeWinCtl_NEW_BASE_GIB = base.toNat) :
    u.act ⟨.jeWinCtl, 0, 0⟩ 1 (winWord 1 base) = u.winEnable base := by
  have : u.act ⟨.jeWinCtl, 0, 0⟩ 1 (winWord 1 base) = u.winEnable (BitVec.ofNat 11 (u.fld fJeWinCtl_NEW_BASE_GIB)) := rfl
  rw [this, hu, BitVec.ofNat_toNat, BitVec.setWidth_eq]

theorem State.act_winMove (hu : u.fld fJeWinCtl_NEW_BASE_GIB = base.toNat) :
    u.act ⟨.jeWinCtl, 0, 0⟩ 3 (winWord 3 base) = u.winMove base := by
  have : u.act ⟨.jeWinCtl, 0, 0⟩ 3 (winWord 3 base) = u.winMove (BitVec.ofNat 11 (u.fld fJeWinCtl_NEW_BASE_GIB)) := rfl
  rw [this, hu, BitVec.ofNat_toNat, BitVec.setWidth_eq]

/-- What an action finds once its base is in the register: ENABLED, and whether the base fits. -/
theorem State.win_facts (h : s.SameBut .jeWinCtl 0 u) (hu : u.fld fJeWinCtl_ENABLED = s.fld fJeWinCtl_ENABLED) (n b : Nat) :
    (u.setFld fJeWinCtl_NEW_BASE_GIB n).fld fJeWinCtl_ENABLED = s.fld fJeWinCtl_ENABLED ∧
    (u.setFld fJeWinCtl_NEW_BASE_GIB n).winFits b = s.winFits b ∧ (u.setFld fJeWinCtl_NEW_BASE_GIB n).fab = s.fab := by
  have h' : s.SameBut .jeWinCtl 0 (u.setFld fJeWinCtl_NEW_BASE_GIB n) := State.SameBut.setFld h n
  refine ⟨?_, by simp only [State.winFits, h'.mappedList (by decide)], ?_⟩
  · exact (State.fld_setFld_of_apart u (f := fJeWinCtl_NEW_BASE_GIB) (f' := fJeWinCtl_ENABLED) n 0 0 rfl (by decide)).trans hu
  · obtain e | ⟨w, e⟩ := h' <;> rw [e]
    rfl

/-- ACTION 01 by the state of the window and the base (R294). -/
theorem State.winEnable_cases (h : s.SameBut .jeWinCtl 0 u) (hu : u.fld fJeWinCtl_ENABLED = s.fld fJeWinCtl_ENABLED) :
    (s.fld fJeWinCtl_ENABLED = 1 → u.winEnable base = (u.setFld fJeWinCtl_NEW_BASE_GIB base.toNat).winEnd 3) ∧
    (s.fld fJeWinCtl_ENABLED ≠ 1 → s.winFits base.toNat = false → u.winEnable base = (u.setFld fJeWinCtl_NEW_BASE_GIB base.toNat).winEnd 1) ∧
    (s.fld fJeWinCtl_ENABLED ≠ 1 → s.winFits base.toNat = true → u.winEnable base =
      ((({ u.setFld fJeWinCtl_NEW_BASE_GIB base.toNat with pages := [] } : State).winBegin 1).setFld fJeWinCtl_BASE_GIB base.toNat).setFld
        fJeWinCtl_ENABLED 1) := by
  obtain ⟨hen, hfit, -⟩ := State.win_facts h hu base.toNat base.toNat
  refine ⟨fun hn => ?_, fun hn hf => ?_, fun hn hf => ?_⟩ <;> simp only [State.winEnable, hen, hfit]
  · rw [if_pos hn]
  · rw [if_neg hn, if_pos (by simp [hf])]
  · rw [if_neg hn, if_neg (by simp [hf])]

/-- ACTION 11 by the state of the window and the base (R294). -/
theorem State.winMove_cases (h : s.SameBut .jeWinCtl 0 u) (hu : u.fld fJeWinCtl_ENABLED = s.fld fJeWinCtl_ENABLED) :
    (s.fld fJeWinCtl_ENABLED = 0 → u.winMove base = (u.setFld fJeWinCtl_NEW_BASE_GIB base.toNat).winEnd 3) ∧
    (s.fld fJeWinCtl_ENABLED ≠ 0 → s.winFits base.toNat = false → u.winMove base = (u.setFld fJeWinCtl_NEW_BASE_GIB base.toNat).winEnd 1) ∧
    (s.fld fJeWinCtl_ENABLED ≠ 0 → s.winFits base.toNat = true → u.winMove base =
      ((({ u.setFld fJeWinCtl_NEW_BASE_GIB base.toNat with fab := { s.fab with winBase := base.toNat } } : State).winBegin 3).recallAll)) := by
  obtain ⟨hen, hfit, hfab⟩ := State.win_facts h hu base.toNat base.toNat
  refine ⟨fun hn => ?_, fun hn hf => ?_, fun hn hf => ?_⟩ <;> simp only [State.winMove, hen, hfit]
  · rw [if_pos hn]
  · rw [if_neg hn, if_pos (by simp [hf])]
  · rw [if_neg hn, if_neg (by simp [hf]), hfab]

/-- Both rows are whole writes of JE_WIN_CTL. -/
theorem exec_winBase (s : State) (base : BitVec 11) :
    exec (.windowEnable base) s = stepTo (s.putReg .jeWinCtl 0 0 .full (winWord 1 base)) ∧
    exec (.windowMove base) s = stepTo (s.putReg .jeWinCtl 0 0 .full (winWord 3 base)) := ⟨rfl, rfl⟩

theorem State.winFits_iff (s : State) (b : Nat) : (s.winFits b = true ↔ b + 64 ≤ 6 * s.mappedList.length) ∧
    (s.winFits b = false ↔ 6 * s.mappedList.length < b + 64) := by simp [State.winFits]

section
variable (h : s.serving) (hl : s.locked = true) (hb : s.fld fJeWinCtl_BUSY = 0)
include h hl hb

theorem State.putReg_winEnable_refused {k : Nat}
    (hk : s.fld fJeWinCtl_ENABLED = 1 ∧ k = 3 ∨ s.fld fJeWinCtl_ENABLED ≠ 1 ∧ s.winFits base.toNat = false ∧ k = 1) :
    s.putReg .jeWinCtl 0 0 .full (winWord 1 base) = s.winIdle.setFld fJeWinCtl_RESULT k := by
  obtain ⟨c1, c2, -⟩ := State.winEnable_cases (s.sameBut_written .jeWinCtl 0 (winWord 1 base)) (s.fld_written_winEnabled _) (base := base)
  have hs := State.setFld_setReg s fJeWinCtl_NEW_BASE_GIB (s.newFields ⟨.jeWinCtl, 0, 0⟩ .full (winWord 1 base)) base.toNat 0 0
  refine State.putReg_win_refused h hl hb (actionOf_winWord (.inl rfl)) (by decide) (by omega) (by omega)
    (w := putBits (s.newFields ⟨.jeWinCtl, 0, 0⟩ .full (winWord 1 base)) 0 11 base.toNat) ?_
  rw [State.act_winEnable (State.fld_written_winBase (.inl rfl))]
  rcases hk with ⟨hn, rfl⟩ | ⟨hn, hf, rfl⟩
  · exact (c1 hn).trans (congrArg (State.winEnd · 3) hs)
  · exact (c2 hn hf).trans (congrArg (State.winEnd · 1) hs)

theorem State.putReg_winEnable_taken (hn : s.fld fJeWinCtl_ENABLED ≠ 1) (hf : s.winFits base.toNat = true) :
    s.putReg .jeWinCtl 0 0 .full (winWord 1 base) =
      ((({ (s.put .jeWinCtl 0 (winWord 1 base)).setFld fJeWinCtl_NEW_BASE_GIB base.toNat with pages := [] } : State).winBegin 1).setFld
        fJeWinCtl_BASE_GIB base.toNat).setFld fJeWinCtl_ENABLED 1 := by
  obtain ⟨-, -, c3⟩ := State.winEnable_cases (s.sameBut_written .jeWinCtl 0 (winWord 1 base)) (s.fld_written_winEnabled _) (base := base)
  obtain ⟨-, -, d3⟩ := State.winEnable_cases (s.sameBut_put .jeWinCtl 0 (winWord 1 base) (by decide) (by decide)) (s.fld_put_winEnabled _)
    (base := base)
  rw [actionReg_jeWinCtl.putReg_done h valid_jeWinCtl (fun _ => hl) hb (actionOf_winWord (.inl rfl)) (by decide),
    State.act_winEnable (State.fld_put_winBase (.inl rfl)), d3 hn hf]
  rw [State.act_winEnable (State.fld_written_winBase (.inl rfl)), c3 hn hf]
  exact (State.fld_setFld_of_apart _ (f := fJeWinCtl_ENABLED) (f' := fJeWinCtl_RESULT) 1 0 0 rfl (by decide)).trans
    ((State.fld_setFld_of_apart _ (f := fJeWinCtl_BASE_GIB) (f' := fJeWinCtl_RESULT) _ 0 0 rfl (by decide)).trans (State.fld_winBegin_result _ 1))

theorem State.putReg_winMove_refused {k : Nat}
    (hk : s.fld fJeWinCtl_ENABLED = 0 ∧ k = 3 ∨ s.fld fJeWinCtl_ENABLED ≠ 0 ∧ s.winFits base.toNat = false ∧ k = 1) :
    s.putReg .jeWinCtl 0 0 .full (winWord 3 base) = s.winIdle.setFld fJeWinCtl_RESULT k := by
  obtain ⟨c1, c2, -⟩ := State.winMove_cases (s.sameBut_written .jeWinCtl 0 (winWord 3 base)) (s.fld_written_winEnabled _) (base := base)
  have hs := State.setFld_setReg s fJeWinCtl_NEW_BASE_GIB (s.newFields ⟨.jeWinCtl, 0, 0⟩ .full (winWord 3 base)) base.toNat 0 0
  refine State.putReg_win_refused h hl hb (actionOf_winWord (.inr rfl)) (by decide) (by omega) (by omega)
    (w := putBits (s.newFields ⟨.jeWinCtl, 0, 0⟩ .full (winWord 3 base)) 0 11 base.toNat) ?_
  rw [State.act_winMove (State.fld_written_winBase (.inr rfl))]
  rcases hk with ⟨hn, rfl⟩ | ⟨hn, hf, rfl⟩
  · exact (c1 hn).trans (congrArg (State.winEnd · 3) hs)
  · exact (c2 hn hf).trans (congrArg (State.winEnd · 1) hs)

theorem State.putReg_winMove_idle (hn : s.fld fJeWinCtl_ENABLED ≠ 0) (hf : s.winFits base.toNat = true) :
    s.putReg .jeWinCtl 0 0 .full (winWord 3 base) = s.orRefused .jeWinCtl 0 (winWord 3 base)
      ((({ (s.put .jeWinCtl 0 (winWord 3 base)).setFld fJeWinCtl_NEW_BASE_GIB base.toNat with fab := { s.fab with winBase := base.toNat } } : State).winBegin
        3).recallAll) := by
  obtain ⟨-, -, d3⟩ := State.winMove_cases (s.sameBut_put .jeWinCtl 0 (winWord 3 base) (by decide) (by decide)) (s.fld_put_winEnabled _)
    (base := base)
  rw [actionReg_jeWinCtl.putReg_idle h valid_jeWinCtl (fun _ => hl) hb (actionOf_winWord (.inr rfl)) (by decide),
    State.act_winMove (State.fld_put_winBase (.inr rfl)), d3 hn hf]

end
end

/-! Disabling -/

section
variable {s : State}

/-- What WINDOW_DISABLE writes. -/
def State.winOffWord (s : State) : W64 := s.keepWord .jeWinCtl 0x8000000000000000#64

theorem actionOf_winOffWord (s : State) : actionOf .jeWinCtl s.winOffWord = 2 :=
  (s.bitsOf_keepWord .jeWinCtl _ (by decide)).trans (by decide)

theorem exec_windowDisable (s : State) : exec .windowDisable s = stepTo (s.putReg .jeWinCtl 0 0 .full s.winOffWord) := by
  show stepTo (s.putKeep .jeWinCtl 0 _) = _
  rw [State.putKeep_eq _ _ _ (by decide)]
  rfl

variable (h : s.serving) (hl : s.locked = true) (hb : s.fld fJeWinCtl_BUSY = 0)
include h hl hb

theorem State.putReg_winOff_refused (hn : s.fld fJeWinCtl_ENABLED = 0) :
    s.putReg .jeWinCtl 0 0 .full s.winOffWord = s.winIdle.setFld fJeWinCtl_RESULT 3 := by
  refine State.putReg_win_refused h hl hb (actionOf_winOffWord s) (by decide) rfl (by decide)
    (w := s.newFields ⟨.jeWinCtl, 0, 0⟩ .full s.winOffWord) ?_
  show (s.written .jeWinCtl 0 s.winOffWord).winDisable = _
  rw [State.winDisable, if_pos ((s.fld_written_winEnabled _).trans hn)]
  rfl

theorem State.putReg_winOff_idle (hn : s.fld fJeWinCtl_ENABLED ≠ 0) :
    s.putReg .jeWinCtl 0 0 .full s.winOffWord =
      s.orRefused .jeWinCtl 0 s.winOffWord (((s.put .jeWinCtl 0 s.winOffWord).winBegin 2).recallAll) := by
  rw [actionReg_jeWinCtl.putReg_idle h valid_jeWinCtl (fun _ => hl) hb (actionOf_winOffWord s) (by decide)]
  show s.orRefused .jeWinCtl 0 s.winOffWord (s.put .jeWinCtl 0 s.winOffWord).winDisable = _
  rw [State.winDisable, if_neg (by rw [s.fld_put_winEnabled]; exact hn)]

end

/-- The end of a window's action by what runs and by what is still shared or on its way (R294). -/
theorem exec_windowActionDone (s : State) :
    (s.fab.winAction = 0 → exec .windowActionDone s = .next s.settle) ∧
    (s.fab.winAction = 1 → exec .windowActionDone s = .next (s.winEnd 0).settle) ∧
    (s.fab.winAction = 2 ∨ s.fab.winAction = 3 → s.pages ≠ [] → exec .windowActionDone s = .next s.recallAll.settle) ∧
    (s.fab.winAction = 2 → s.pages = [] → exec .windowActionDone s = .next ((s.setFld fJeWinCtl_ENABLED 0).winEnd 0).settle) ∧
    (s.fab.winAction = 3 → s.pages = [] → exec .windowActionDone s = .next s.winMoveStep.settle) := by
  have he : exec .windowActionDone s = execWindowActionDone s := rfl
  refine ⟨fun ha => ?_, fun ha => ?_, fun ha hp => ?_, fun ha hp => ?_, fun ha hp => ?_⟩ <;> rw [he, execWindowActionDone, ← stepTo_eq]
  · rw [ha]
    rfl
  · rw [ha]
    rfl
  · rcases ha with ha | ha <;> rw [ha] <;> exact congrArg stepTo (if_neg hp)
  · rw [ha]
    exact congrArg stepTo (if_pos hp)
  · rw [ha]
    exact congrArg stepTo (if_pos hp)

/-- Settles O32: the actions by lock, BUSY, the window's state and the base, and the end by what is left to wait for. -/
theorem windowActions : Obligations.WindowActions := by
  unfold Obligations.WindowActions
  refine ⟨?_, ?_, ?_⟩
  · intro s base h v s1 ended
    obtain ⟨e1, e3⟩ := exec_winBase s base
    obtain ⟨hfit, hout⟩ := s.winFits_iff base.toNat
    have h1 : actionOf .jeWinCtl (winWord 1 base) ≠ 0 := by rw [actionOf_winWord (.inl rfl)]; decide
    have h3 : actionOf .jeWinCtl (winWord 3 base) ≠ 0 := by rw [actionOf_winWord (.inr rfl)]; decide
    refine ⟨fun hl => ?_, fun hl hb => ?_, fun hl hb hn => ⟨fun hf => ?_, fun hf => ?_, ?_⟩, fun hl hb hn => ⟨?_, fun hf => ?_, fun hf => ?_⟩⟩
    · rw [State.putReg_win_early h hl h1] at e1
      rw [State.putReg_win_early h hl h3] at e3
      exact ⟨e1, e3⟩
    · rw [State.putReg_win_busy h hl hb h1] at e1
      rw [State.putReg_win_busy h hl hb h3] at e3
      exact ⟨e1, e3⟩
    · rw [State.putReg_winEnable_taken h hl hb (by omega) (hfit.mpr hf)] at e1
      exact e1
    · rw [State.putReg_winEnable_refused h hl hb (.inr ⟨by omega, hout.mpr hf, rfl⟩)] at e1
      exact e1
    · rw [State.putReg_winMove_refused h hl hb (.inl ⟨hn, rfl⟩)] at e3
      exact e3
    · rw [State.putReg_winEnable_refused h hl hb (.inl ⟨hn, rfl⟩)] at e1
      exact e1
    · rw [State.putReg_winMove_idle h hl hb (by omega) (hfit.mpr hf)] at e3
      exact e3
    · rw [State.putReg_winMove_refused h hl hb (.inr ⟨by omega, hout.mpr hf, rfl⟩)] at e3
      exact e3
  · intro s h mask v s1
    have key := exec_windowDisable s
    have h2 : actionOf .jeWinCtl s.winOffWord ≠ 0 := by rw [actionOf_winOffWord]; decide
    refine ⟨fun hl => ?_, fun hl hb => ?_, fun hl hb hn => ?_, fun hl hb hn => ?_⟩
    · rw [State.putReg_win_early h hl h2] at key
      exact key
    · rw [State.putReg_win_busy h hl hb h2] at key
      exact key
    · rw [State.putReg_winOff_refused h hl hb hn] at key
      exact key
    · rw [State.putReg_winOff_idle h hl hb (by omega)] at key
      exact key
  · intro s
    obtain ⟨c0, c1, c23, c2, c3⟩ := exec_windowActionDone s
    refine ⟨c0, c1, c23, c2, fun ha hp => ?_⟩
    intro old new s1
    rw [c3 ha hp]
    refine ⟨fun ht => ?_, fun h1 h2 => ?_⟩ <;> rw [State.winMoveStep]
    · rw [if_pos ht]
    · rw [if_neg (by simp only [s1, old, new] at h1 h2; simp [h1, h2])]

end Sys2Proof.Machine
end

section
/-! PROOF. Queue pairs: acknowledgements, retries, rate, enable, reset (R320, R322, R338). -/
namespace Sys2Proof.Machine

/-! Acknowledgements, retries and rate -/

section
variable {s : State} {i : BitVec 12} {psn : BitVec 24} {q : QP}

/-- An acknowledgement and a NAK of a packet inside the window of a pair in RTS (R320). -/
theorem exec_roce_inWindow (h : s.serving) (hq : s.qp i = some q) (hs : q.state = .rts)
    (hw : (psn - q.ackPsn).toNat < (q.sendPsn - q.ackPsn).toNat) :
    exec (.roceAckReceive i psn) s = .next ((s.modQp i fun q => { q with ackPsn := psn + 1, retries := 0 }).goHome i).settle ∧
    exec (.roceNakReceive i psn) s = .next ((s.modQp i fun q => { q with ackPsn := psn }).resend i).settle := by
  have hin : q.state = .rts ∧ q.inWindow psn = true := ⟨hs, decide_eq_true hw⟩
  refine ⟨?_, ?_⟩
  · show execRoceAckReceive i psn s = _
    rw [execRoceAckReceive, State.orHold_of_serving h, hq, ← stepTo_eq]
    exact congrArg stepTo (if_pos hin)
  · show execRoceNakReceive i psn s = _
    rw [execRoceNakReceive, State.orHold_of_serving h, hq, ← stepTo_eq]
    exact congrArg stepTo (if_pos hin)

/-- Both change nothing otherwise. -/
theorem exec_roce_outside (h : s.serving) (hq : ∀ q, s.qp i = some q → q.state ≠ .rts ∨ (q.sendPsn - q.ackPsn).toNat ≤ (psn - q.ackPsn).toNat) :
    exec (.roceAckReceive i psn) s = .next s.settle ∧ exec (.roceNakReceive i psn) s = .next s.settle := by
  have e1 : exec (.roceAckReceive i psn) s = execRoceAckReceive i psn s := rfl
  have e2 : exec (.roceNakReceive i psn) s = execRoceNakReceive i psn s := rfl
  rw [e1, e2, execRoceAckReceive, execRoceNakReceive, State.orHold_of_serving h, State.orHold_of_serving h, ← stepTo_eq]
  cases hp : s.qp i with
  | none => exact ⟨rfl, rfl⟩
  | some q =>
    have hout : ¬(q.state = .rts ∧ q.inWindow psn = true) := by
      rintro ⟨hs, hw⟩
      have hw := of_decide_eq_true hw
      rcases hq q hp with hn | hn
      · exact hn hs
      · omega
    exact ⟨congrArg stepTo (if_neg hout), congrArg stepTo (if_neg hout)⟩

/-- A pair of which everything is acknowledged is quiet. -/
theorem QP.quiet_iff (q : QP) : q.quiet = true ↔ q.ackPsn = q.sendPsn := decide_eq_true_iff

/-- A timeout of a pair in RTS with something outstanding: another attempt, or ERROR (R320, R322). -/
theorem exec_ackTimeout_rts (hq : s.qp i = some q) (hs : q.state = .rts) (hn : q.ackPsn ≠ q.sendPsn) :
    (q.retries < qcRetries q.ctx → exec (.ackTimeout i) s = .next ((s.modQp i fun q => { q with retries := q.retries + 1 }).resend i).settle) ∧
    (qcRetries q.ctx ≤ q.retries → exec (.ackTimeout i) s =
      .next (((s.modQp i fun q => { q with state := .error }).bump fJeNetStat_QP_ERRORS).failPair i).settle) := by
  have hrun : ¬(q.state ≠ .rts ∨ q.quiet = true) := by simp [hs, QP.quiet_iff, hn]
  have he : s.qpError i = ((s.modQp i fun q => { q with state := .error }).bump fJeNetStat_QP_ERRORS).failPair i := by
    simp only [State.qpError, hq, hs, if_true]
  have key : exec (.ackTimeout i) s = execAckTimeout i s := rfl
  refine ⟨fun hr => ?_, fun hr => ?_⟩ <;> rw [key, execAckTimeout, hq, ← stepTo_eq]
  · exact congrArg stepTo ((if_neg hrun).trans (if_pos hr))
  · exact congrArg stepTo (((if_neg hrun).trans (if_neg (by omega))).trans he)

theorem exec_ackTimeout_idle (hq : ∀ q, s.qp i = some q → q.state ≠ .rts ∨ q.ackPsn = q.sendPsn) : exec (.ackTimeout i) s = .next s.settle := by
  have key : exec (.ackTimeout i) s = execAckTimeout i s := rfl
  rw [key, execAckTimeout, ← stepTo_eq]
  cases hp : s.qp i with
  | none => rfl
  | some q => exact congrArg stepTo (if_pos (by simpa only [QP.quiet_iff] using hq q hp))

/-- Go-back-N sends a pair's outstanding packets again. -/
theorem State.resend_rts (hq : s.qp i = some q) (hs : q.state = .rts) (hn : q.ackPsn ≠ q.sendPsn) :
    s.resend i = (s.emit (.retransmit i q.ackPsn)).bump fJeNetStat_RETRANSMITS := by
  simp [State.resend, hq, hs, QP.quiet, hn]

/-- A quiet pair returns to its HOME_PORT once that port is in service (R338). -/
theorem State.goHome_quiet (hq : s.qp i = some q) (hs : q.state = .rts) (hn : q.ackPsn = q.sendPsn)
    (hp : s.fld fJePortCtl_STATE (qcHome q.ctx) = 0) : s.goHome i = s.modQp i fun q => { q with port := qcHome q.ctx } := by
  simp [State.goHome, hq, hs, QP.quiet, hn, State.portIn, hp]

end

/-! Enable and reset -/

theorem actionReg_jeQpCmd : ActionReg .jeQpCmd fJeQpCmd_BUSY fJeQpCmd_RESULT := .of_busyOf rfl

theorem valid_jeQpCmd : RegRef.valid ⟨.jeQpCmd, 0, 0⟩ := RegRef.valid_hub _ rfl (by decide)

/-- What QP_ENABLE and QP_RESET write, for a 1 and 2. -/
def qpWord (a : Nat) (i : BitVec 12) : W64 := BitVec.ofNat 64 (a * 2 ^ 62 + i.toNat)

/-- Where the context of a pair lies. -/
def State.qpAddr (s : State) (i : BitVec 12) : Nat := s.fld fJeQpBase_BASE * 2 ^ 19 + 128 * i.toNat

/-- The context of a pair as memory holds it. -/
def State.qpCtx (s : State) (i : BitVec 12) : BitVec 1024 := BitVec.ofNat 1024 (s.rdNat (s.qpAddr i) 128)

/-- What an action of JE_QP_CMD that has ended leaves outside the register. -/
def State.qpIdle (s : State) : State := { s with qpAct := none }

/-- An enable that has begun. -/
def State.qpBegun (s : State) (i : BitVec 12) : State := ({ s with qpAct := some i } : State).setFld fJeQpCmd_BUSY 1

/-- An end of an action is one write of its register. -/
theorem State.qpEnd_setReg (s : State) (w : W64) (k : Nat) :
    (s.setReg .jeQpCmd w).qpEnd k = s.qpIdle.setReg .jeQpCmd (putBits (putBits w 61 1 0) 56 4 k) := by
  have hs : ({ s.setReg .jeQpCmd w with qpAct := none } : State) = s.qpIdle.setReg .jeQpCmd w := rfl
  simp only [State.qpEnd, hs]
  simp only [State.setFld, State.reg_setReg_self, State.setReg_setReg_self]

/-- An enable that begins and ends is one write of its register. -/
theorem State.qpEnd_qpBegun (s : State) (i : BitVec 12) (w : W64) (k : Nat) :
    ((s.setReg .jeQpCmd w).qpBegun i).qpEnd k = s.qpIdle.setReg .jeQpCmd (putBits (putBits (putBits w 61 1 1) 61 1 0) 56 4 k) := by
  have hs : (s.setReg .jeQpCmd w).qpBegun i = ({ s with qpAct := some i } : State).setReg .jeQpCmd (putBits w 61 1 1) := by
    have e : ({ s.setReg .jeQpCmd w with qpAct := some i } : State) = ({ s with qpAct := some i } : State).setReg .jeQpCmd w := rfl
    simp only [State.qpBegun, e, State.setFld, State.reg_setReg_self, State.setReg_setReg_self]
  rw [hs, State.qpEnd_setReg]
  rfl

section
variable {s u s2 : State} {i : BitVec 12} {a k : Nat} {q : QP}

theorem actionOf_qpWord (ha : a = 1 ∨ a = 2) : actionOf .jeQpCmd (qpWord a i) = a := actionOf_code (fun _ => rfl) (by omega) (by omega)

theorem State.fld_put_qp (ha : a = 1 ∨ a = 2) : (s.put .jeQpCmd 0 (qpWord a i)).fld fJeQpCmd_QP = i.toNat := by
  refine (State.fld_put_operand s fJeQpCmd_QP 0 a i.toNat (by decide) (by decide) (by decide) (by omega) (by omega) (by decide)).trans ?_
  exact (congrArg (· % 2 ^ 12) (Nat.div_one _)).trans (Nat.mod_eq_of_lt i.isLt)

theorem State.fld_written_qp (ha : a = 1 ∨ a = 2) : (s.written .jeQpCmd 0 (qpWord a i)).fld fJeQpCmd_QP = i.toNat :=
  (State.fld_written s fJeQpCmd_QP 0 _).trans (State.fld_put_qp ha)

theorem State.act_qpEnable (hu : u.fld fJeQpCmd_QP = i.toNat) : u.act ⟨.jeQpCmd, 0, 0⟩ 1 (qpWord 1 i) = (u.qpBegun i).qpGo := by
  have : u.act ⟨.jeQpCmd, 0, 0⟩ 1 (qpWord 1 i) = u.qpEnable (BitVec.ofNat 12 (u.fld fJeQpCmd_QP)) := by
    simp only [State.act]
  rw [this, hu, BitVec.ofNat_toNat, BitVec.setWidth_eq, State.qpEnable, State.qpBegun]

theorem State.act_qpReset (hu : u.fld fJeQpCmd_QP = i.toNat) : u.act ⟨.jeQpCmd, 0, 0⟩ 2 (qpWord 2 i) = u.qpReset i := by
  have : u.act ⟨.jeQpCmd, 0, 0⟩ 2 (qpWord 2 i) = u.qpReset (BitVec.ofNat 12 (u.fld fJeQpCmd_QP)) := by
    simp only [State.act]
  rw [this, hu, BitVec.ofNat_toNat, BitVec.setWidth_eq]

/-- What an enable that has begun reads: the context's place, its bytes and poison, the partitions. -/
theorem State.qp_facts (h : s.SameBut .jeQpCmd 0 u) :
    (u.qpBegun i).qpAddr i = s.qpAddr i ∧ (u.qpBegun i).qpCtx i = s.qpCtx i ∧
    (∀ a n, (u.qpBegun i).rdPoison a n = s.rdPoison a n) ∧ ∀ p, (u.qpBegun i).partEnabled p = s.partEnabled p := by
  have hb := State.sameBut_setFld ({ u with qpAct := some i } : State) fJeQpCmd_BUSY 1 0
  have ha : (u.qpBegun i).qpAddr i = s.qpAddr i := by
    have e : (u.qpBegun i).fld fJeQpBase_BASE = s.fld fJeQpBase_BASE :=
      (hb.fld fJeQpBase_BASE 0 0 (by decide)).trans (h.fld fJeQpBase_BASE 0 0 (by decide))
    simp only [State.qpAddr, e]
  refine ⟨ha, ?_, fun a n => (hb.rdPoison (by decide) a n).trans (h.rdPoison (by decide) a n),
    fun p => (hb.partEnabled (by decide) p).trans (h.partEnabled (by decide) p)⟩
  have e : ∀ a n, (u.qpBegun i).rdNat a n = s.rdNat a n := fun a n => (hb.rdNat a n).trans (h.rdNat a n)
  simp only [State.qpCtx, ha, e]

/-- An enable whose context is refused (R322). -/
theorem State.qpGo_refused (hq : u.qpAct = some i) :
    (u.rdPoison (u.qpAddr i) 128 = true ∨ qcOk (u.qpCtx i) = false → u.qpGo = u.qpEnd 1) ∧
    (u.rdPoison (u.qpAddr i) 128 = false → qcOk (u.qpCtx i) = true → u.partEnabled (qcPart (u.qpCtx i)) = false → u.qpGo = u.qpEnd 3) := by
  have ha : u.fld fJeQpBase_BASE * 2 ^ 19 + 128 * i.toNat = u.qpAddr i := rfl
  have hc : BitVec.ofNat 1024 (u.rdNat (u.qpAddr i) 128) = u.qpCtx i := rfl
  refine ⟨fun h => ?_, fun h1 h2 h3 => ?_⟩ <;> simp only [State.qpGo, hq, ha, hc]
  · rw [if_pos (by simpa using h)]
  · rw [if_neg (by simp [h1, h2]), if_pos (by simp [h3])]

/-- An enable with a good context c, by what the translation of its receive area finds (R322). -/
theorem State.qpGo_good {c : BitVec 1024} (hq : u.qpAct = some i) (hc : u.qpCtx i = c) (h1 : u.rdPoison (u.qpAddr i) 128 = false)
    (h2 : qcOk c = true) (h3 : u.partEnabled (qcPart c) = true) :
    (u.allInHbm (qcPart c) (rxPages c) = (s2, none) → u.qpGo = s2) ∧
    (u.allInHbm (qcPart c) (rxPages c) = (s2, some false) → u.qpGo = s2.qpEnd 1) ∧
    (u.allInHbm (qcPart c) (rxPages c) = (s2, some true) → s2.qp i = none →
      u.qpGo = ({ s2 with qps := s2.qps ++ [QP.fresh i c] } : State).qpEnd 0) ∧
    (∀ q, u.allInHbm (qcPart c) (rxPages c) = (s2, some true) → s2.qp i = some q → q.state = .reset →
      u.qpGo = ({ s2 with qps := updFirst (fun (y : QP) => decide (y.i = i)) (fun _ => QP.fresh i c) s2.qps } : State).qpEnd 0) := by
  have ha : u.fld fJeQpBase_BASE * 2 ^ 19 + 128 * i.toNat = u.qpAddr i := rfl
  have hr : BitVec.ofNat 1024 (u.rdNat (u.qpAddr i) 128) = c := hc
  refine ⟨fun hx => ?_, fun hx => ?_, fun hx hp => ?_, fun q hx hp hs => ?_⟩ <;>
    rw [State.qpGo, hq] <;> simp only [ha, hr, h1, h2, h3, hx, Bool.not_true, Bool.false_eq_true, or_self, if_false]
  · simp only [hp]
  · simp only [hp, hs, if_true]

/-- Both rows are whole writes of JE_QP_CMD. -/
theorem exec_qpCmd (s : State) (i : BitVec 12) :
    exec (.qpEnable i) s = stepTo (s.putReg .jeQpCmd 0 0 .full (qpWord 1 i)) ∧
    exec (.qpReset i) s = stepTo (s.putReg .jeQpCmd 0 0 .full (qpWord 2 i)) := ⟨rfl, rfl⟩

section
variable (h : s.serving) (hl : s.locked = true) (hb : s.fld fJeQpCmd_BUSY = 0)
include h hl hb

/-- An enable whose context is refused. -/
theorem State.putReg_qpEnable_refused (hk : k % 16 = k) (hk0 : k ≠ 0)
    (ht : ((s.written .jeQpCmd 0 (qpWord 1 i)).qpBegun i).qpGo = ((s.written .jeQpCmd 0 (qpWord 1 i)).qpBegun i).qpEnd k) :
    s.putReg .jeQpCmd 0 0 .full (qpWord 1 i) = s.qpIdle.setFld fJeQpCmd_RESULT k := by
  obtain ⟨h1, h2⟩ := end_bits (putBits (s.newFields ⟨.jeQpCmd, 0, 0⟩ .full (qpWord 1 i)) 61 1 1) k
  refine actionReg_jeQpCmd.putReg_refused h valid_jeQpCmd (fun _ => hl) hb (actionOf_qpWord (.inl rfl)) (by decide) ?_ rfl h1 (h2.trans hk) hk0
  rw [State.act_qpEnable (State.fld_written_qp (.inl rfl)), ht]
  exact State.qpEnd_qpBegun s i _ k

theorem State.putReg_qpEnable_bad (hc : s.rdPoison (s.qpAddr i) 128 = true ∨ qcOk (s.qpCtx i) = false) :
    s.putReg .jeQpCmd 0 0 .full (qpWord 1 i) = s.qpIdle.setFld fJeQpCmd_RESULT 1 := by
  obtain ⟨e1, e2, e3, -⟩ := State.qp_facts (s.sameBut_written .jeQpCmd 0 (qpWord 1 i)) (i := i)
  obtain ⟨c1, -⟩ := State.qpGo_refused (u := (s.written .jeQpCmd 0 (qpWord 1 i)).qpBegun i) (i := i) rfl
  exact State.putReg_qpEnable_refused h hl hb rfl (by decide) (c1 (by rw [e1, e2, e3]; exact hc))

theorem State.putReg_qpEnable_disabled (hp : s.rdPoison (s.qpAddr i) 128 = false) (hc : qcOk (s.qpCtx i) = true)
    (hd : s.partEnabled (qcPart (s.qpCtx i)) = false) : s.putReg .jeQpCmd 0 0 .full (qpWord 1 i) = s.qpIdle.setFld fJeQpCmd_RESULT 3 := by
  obtain ⟨e1, e2, e3, e4⟩ := State.qp_facts (s.sameBut_written .jeQpCmd 0 (qpWord 1 i)) (i := i)
  obtain ⟨-, c2⟩ := State.qpGo_refused (u := (s.written .jeQpCmd 0 (qpWord 1 i)).qpBegun i) (i := i) rfl
  exact State.putReg_qpEnable_refused h hl hb rfl (by decide)
    (c2 (by rw [e1, e3]; exact hp) (by rw [e2]; exact hc) (by rw [e2, e4]; exact hd))

/-- An enable with a good context of an ENABLED partition, by what the translation of its receive area finds. -/
theorem State.putReg_qpEnable_good (hp : s.rdPoison (s.qpAddr i) 128 = false) (hc : qcOk (s.qpCtx i) = true)
    (hd : s.partEnabled (qcPart (s.qpCtx i)) = true) :
    let c := s.qpCtx i
    let x := ((s.put .jeQpCmd 0 (qpWord 1 i)).qpBegun i).allInHbm (qcPart c) (rxPages c)
    let res (t : State) := s.putReg .jeQpCmd 0 0 .full (qpWord 1 i) = s.orRefused .jeQpCmd 0 (qpWord 1 i) t
    (x = (s2, none) → res s2) ∧ (x = (s2, some false) → res (s2.qpEnd 1)) ∧
    (x = (s2, some true) → s2.qp i = none → res (({ s2 with qps := s2.qps ++ [QP.fresh i c] } : State).qpEnd 0)) ∧
    (∀ q, x = (s2, some true) → s2.qp i = some q → q.state = .reset →
      res (({ s2 with qps := updFirst (fun (y : QP) => decide (y.i = i)) (fun _ => QP.fresh i c) s2.qps } : State).qpEnd 0)) := by
  intro c x res
  obtain ⟨e1, e2, e3, e4⟩ := State.qp_facts (s.sameBut_put .jeQpCmd 0 (qpWord 1 i) (by decide) (by decide)) (i := i)
  have key : res ((s.put .jeQpCmd 0 (qpWord 1 i)).qpBegun i).qpGo := by
    show s.putReg .jeQpCmd 0 0 .full (qpWord 1 i) = _
    rw [actionReg_jeQpCmd.putReg_idle h valid_jeQpCmd (fun _ => hl) hb (actionOf_qpWord (.inl rfl)) (by decide),
      State.act_qpEnable (State.fld_put_qp (.inl rfl))]
  have hgo := State.qpGo_good (s2 := s2) (u := (s.put .jeQpCmd 0 (qpWord 1 i)).qpBegun i) (i := i) rfl e2 (by rw [e1, e3]; exact hp) hc
    (by rw [e4]; exact hd)
  obtain ⟨c1, c2, c3, c4⟩ := hgo
  exact ⟨fun hx => c1 hx ▸ key, fun hx => c2 hx ▸ key, fun hx hq => c3 hx hq ▸ key, fun q hx hq hr => c4 q hx hq hr ▸ key⟩

theorem State.putReg_qpReset_idle :
    s.putReg .jeQpCmd 0 0 .full (qpWord 2 i) = s.orRefused .jeQpCmd 0 (qpWord 2 i) ((s.put .jeQpCmd 0 (qpWord 2 i)).qpReset i) := by
  rw [actionReg_jeQpCmd.putReg_idle h valid_jeQpCmd (fun _ => hl) hb (actionOf_qpWord (.inr rfl)) (by decide),
    State.act_qpReset (State.fld_put_qp (.inr rfl))]

end

/-- A write of JE_QP_CMD leaves the peer's requests. -/
theorem State.put_qp_served (s : State) (v : W64) : (s.put .jeQpCmd 0 v).served = s.served := by
  rw [(s.sameBut_put .jeQpCmd 0 v (by decide) (by decide)).rest]

end

/-- Settles O37: the window's acknowledgements by the pair's state, the actions by lock, BUSY and the context. -/
theorem queuePairs : Obligations.QueuePairs := by
  unfold Obligations.QueuePairs
  refine ⟨fun s i psn h => ⟨fun q hq hs hw => exec_roce_inWindow h hq hs hw, exec_roce_outside h⟩, ?_, fun s i => rfl,
    fun s i => ⟨fun q hq hs hn => (exec_ackTimeout_rts hq hs hn).1, fun q hq hs hn => (exec_ackTimeout_rts hq hs hn).2, exec_ackTimeout_idle⟩,
    fun s i q hq hs => ⟨State.resend_rts hq hs, State.goHome_quiet hq hs⟩, ?_⟩
  · intro s i h
    show execRoceCnpReceive i s = _
    rw [execRoceCnpReceive, State.orHold_of_serving h, stepTo_eq]
  · intro s i h v
    obtain ⟨e1, e2⟩ := exec_qpCmd s i
    have h1 : actionOf .jeQpCmd (qpWord 1 i) ≠ 0 := by rw [actionOf_qpWord (.inl rfl)]; decide
    have h2 : actionOf .jeQpCmd (qpWord 2 i) ≠ 0 := by rw [actionOf_qpWord (.inr rfl)]; decide
    refine ⟨fun hl => ?_, fun hl hb => ?_, fun hl hb => ?_⟩
    · rw [actionReg_jeQpCmd.putReg_early h valid_jeQpCmd rfl hl h1] at e1
      rw [actionReg_jeQpCmd.putReg_early h valid_jeQpCmd rfl hl h2] at e2
      exact ⟨e1, e2⟩
    · rw [actionReg_jeQpCmd.putReg_busy h valid_jeQpCmd (fun _ => hl) hb h1] at e1
      rw [actionReg_jeQpCmd.putReg_busy h valid_jeQpCmd (fun _ => hl) hb h2] at e2
      exact ⟨e1, e2⟩
    · intro s1 a c ended
      refine ⟨fun hc => ?_, fun hp hc hd => ?_, fun hp hc hd s2 => ?_, ?_⟩
      · rw [State.putReg_qpEnable_bad h hl hb hc] at e1
        exact e1
      · rw [State.putReg_qpEnable_disabled h hl hb hp hc hd] at e1
        exact e1
      · obtain ⟨c1, c2, c3, c4⟩ := State.putReg_qpEnable_good h hl hb hp hc hd (s2 := s2)
        exact ⟨fun hx => e1.trans (congrArg stepTo (c1 hx)), fun hx => e1.trans (congrArg stepTo (c2 hx)),
          fun hx hq => e1.trans (congrArg stepTo (c3 hx hq)), fun q hx hq hr => e1.trans (congrArg stepTo (c4 q hx hq hr))⟩
      · intro s1 s2
        rw [State.putReg_qpReset_idle h hl hb, State.qpReset, State.put_qp_served] at e2
        exact e2

end Sys2Proof.Machine
end

section
/-! PROOF. Namespace slots connect, read, fail (R335, R336). -/
namespace Sys2Proof.Machine

theorem actionReg_jeNvmeCmd : ActionReg .jeNvmeCmd fJeNvmeCmd_BUSY fJeNvmeCmd_RESULT := .of_busyOf rfl

theorem valid_jeNvmeCmd : RegRef.valid ⟨.jeNvmeCmd, 0, 0⟩ := RegRef.valid_hub _ rfl (by decide)

/-! Connect and disconnect -/

/-- What NVME_CONNECT and NVME_DISCONNECT write, for a 1 and 2. -/
def nvmeWord (a : Nat) (n : Byte) : W64 := BitVec.ofNat 64 (a * 2 ^ 62 + n.toNat)

/-- Where the record of a slot lies. -/
def State.nvmeAddr (s : State) (n : Byte) : Nat := s.fld fJeNvmeBase_BASE * 2 ^ 14 + 64 * n.toNat

/-- The record of a slot as memory holds it. -/
def State.nvmeRec (s : State) (n : Byte) : BitVec 512 := BitVec.ofNat 512 (s.rdNat (s.nvmeAddr n) 64)

/-- An end of an action is one write of its register. -/
theorem State.nvmeEnd_setReg (s : State) (w : W64) (k : Nat) :
    (s.setReg .jeNvmeCmd w).nvmeEnd k = s.setReg .jeNvmeCmd (putBits (putBits w 61 1 0) 56 4 k) := by
  simp only [State.nvmeEnd, State.setFld, State.reg_setReg_self, State.setReg_setReg_self]

section
variable {s u : State} {n : Byte} {a : Nat}

theorem actionOf_nvmeWord (ha : a = 1 ∨ a = 2) : actionOf .jeNvmeCmd (nvmeWord a n) = a := actionOf_code (fun _ => rfl) (by omega) (by omega)

theorem State.fld_put_slot (ha : a = 1 ∨ a = 2) : (s.put .jeNvmeCmd 0 (nvmeWord a n)).fld fJeNvmeCmd_SLOT = n.toNat := by
  refine (State.fld_put_operand s fJeNvmeCmd_SLOT 0 a n.toNat (by decide) (by decide) (by decide) (by omega) (by omega) (by decide)).trans ?_
  exact (congrArg (· % 2 ^ 8) (Nat.div_one _)).trans (Nat.mod_eq_of_lt n.isLt)

theorem State.fld_written_slot (ha : a = 1 ∨ a = 2) : (s.written .jeNvmeCmd 0 (nvmeWord a n)).fld fJeNvmeCmd_SLOT = n.toNat :=
  (State.fld_written s fJeNvmeCmd_SLOT 0 _).trans (State.fld_put_slot ha)

theorem State.act_nvmeConnect (hu : u.fld fJeNvmeCmd_SLOT = n.toNat) : u.act ⟨.jeNvmeCmd, 0, 0⟩ 1 (nvmeWord 1 n) = u.nvmeConnect n := by
  simp only [State.act, hu, BitVec.ofNat_toNat, BitVec.setWidth_eq]

theorem State.act_nvmeDisconnect (hu : u.fld fJeNvmeCmd_SLOT = n.toNat) : u.act ⟨.jeNvmeCmd, 0, 0⟩ 2 (nvmeWord 2 n) = u.nvmeDisconnect n := by
  simp only [State.act, hu, BitVec.ofNat_toNat, BitVec.setWidth_eq]

/-- What a connect reads: the record, its poison and what makes it good. -/
theorem State.nvme_facts (h : s.SameBut .jeNvmeCmd 0 u) :
    u.nvmeRec n = s.nvmeRec n ∧ u.rdPoison (u.nvmeAddr n) 64 = s.rdPoison (s.nvmeAddr n) 64 ∧ ∀ r, u.recOk r = s.recOk r := by
  have ha : u.nvmeAddr n = s.nvmeAddr n := by simp only [State.nvmeAddr, h.fld fJeNvmeBase_BASE 0 0 (by decide)]
  have hp : ∀ a m, u.rdPoison a m = s.rdPoison a m := fun a m => h.rdPoison (by decide) a m
  have hc : ∀ a, u.nqn a = s.nqn a := fun a => by simp only [State.nqn, h.rdNat]
  have hn : ∀ a, u.nqnOk a = s.nqnOk a := fun a => by simp only [State.nqnOk, hc, hp]
  have hq : ∀ i, u.qp i = s.qp i := fun i => by rw [h.rest]; rfl
  exact ⟨by simp only [State.nvmeRec, ha, h.rdNat], by rw [ha, hp], fun r => by simp only [State.recOk, hn, hq]⟩

/-- A connect begins where its record is neither poisoned nor bad (R335). -/
theorem State.nvmeConnect_cases (s : State) (n : Byte) :
    (s.rdPoison (s.nvmeAddr n) 64 = true ∨ s.recOk (s.nvmeRec n) = false → s.nvmeConnect n = s.nvmeEnd 1) ∧
    (s.rdPoison (s.nvmeAddr n) 64 = false → s.recOk (s.nvmeRec n) = true →
      let s1 := s.failReads n
      let key := ((s1.slotOf n).map (·.nextKey)).getD 0
      let s2 : State := { s1 with nvme := (s1.nvme.filter fun (v : NvmeSlot) => decide (v.slot ≠ n)) ++ [⟨n, s.nvmeRec n, 0, 1, [], key⟩] }
      s.nvmeConnect n = (s2.setFld fJeNvmeCmd_BUSY 1).fabConnect n (s.nvmeRec n) 0) := by
  refine ⟨fun hr => ?_, fun hp hr => ?_⟩ <;> rw [State.nvmeConnect]
  · exact if_pos (hr.imp id fun hr => by rw [Bool.not_eq_true']; exact hr)
  · refine if_neg ?_
    rintro (hb | hb)
    · exact Bool.false_ne_true (hp.symm.trans hb)
    · rw [Bool.not_eq_true'] at hb
      exact Bool.false_ne_true (hb.symm.trans hr)

/-- Both rows are whole writes of JE_NVME_CMD. -/
theorem exec_nvmeCmd (s : State) (n : Byte) :
    exec (.nvmeConnect n) s = stepTo (s.putReg .jeNvmeCmd 0 0 .full (nvmeWord 1 n)) ∧
    exec (.nvmeDisconnect n) s = stepTo (s.putReg .jeNvmeCmd 0 0 .full (nvmeWord 2 n)) := ⟨rfl, rfl⟩

section
variable (h : s.serving) (hl : s.locked = true) (hb : s.fld fJeNvmeCmd_BUSY = 0)
include h hl hb

theorem State.putReg_nvmeConnect_refused (hr : s.rdPoison (s.nvmeAddr n) 64 = true ∨ s.recOk (s.nvmeRec n) = false) :
    s.putReg .jeNvmeCmd 0 0 .full (nvmeWord 1 n) = s.setFld fJeNvmeCmd_RESULT 1 := by
  obtain ⟨e1, e2, e3⟩ := State.nvme_facts (s.sameBut_written .jeNvmeCmd 0 (nvmeWord 1 n)) (n := n)
  obtain ⟨c1, -⟩ := (s.written .jeNvmeCmd 0 (nvmeWord 1 n)).nvmeConnect_cases n
  obtain ⟨h1, h2⟩ := end_bits (s.newFields ⟨.jeNvmeCmd, 0, 0⟩ .full (nvmeWord 1 n)) 1
  refine actionReg_jeNvmeCmd.putReg_refused h valid_jeNvmeCmd (fun _ => hl) hb (actionOf_nvmeWord (.inl rfl)) (by decide) (E := s) ?_ rfl h1 h2
    (by decide)
  rw [State.act_nvmeConnect (State.fld_written_slot (.inl rfl)), c1 (by rw [e1, e2, e3]; exact hr)]
  exact State.nvmeEnd_setReg s _ 1

theorem State.putReg_nvmeConnect_idle :
    s.putReg .jeNvmeCmd 0 0 .full (nvmeWord 1 n) = s.orRefused .jeNvmeCmd 0 (nvmeWord 1 n) ((s.put .jeNvmeCmd 0 (nvmeWord 1 n)).nvmeConnect n) := by
  rw [actionReg_jeNvmeCmd.putReg_idle h valid_jeNvmeCmd (fun _ => hl) hb (actionOf_nvmeWord (.inl rfl)) (by decide),
    State.act_nvmeConnect (State.fld_put_slot (.inl rfl))]

theorem State.putReg_nvmeDisconnect_idle :
    s.putReg .jeNvmeCmd 0 0 .full (nvmeWord 2 n) =
      s.orRefused .jeNvmeCmd 0 (nvmeWord 2 n) ((s.put .jeNvmeCmd 0 (nvmeWord 2 n)).nvmeDisconnect n) := by
  rw [actionReg_jeNvmeCmd.putReg_idle h valid_jeNvmeCmd (fun _ => hl) hb (actionOf_nvmeWord (.inr rfl)) (by decide),
    State.act_nvmeDisconnect (State.fld_put_slot (.inr rfl))]

end
end

/-! Responses and timeouts -/

section
variable {s : State} {n : Byte} {key : W32} {status : BitVec 16} {lba : BitVec 4} {bytes : W64} {v : NvmeSlot}

/-- Whether a response lets a connect take its next step. -/
def NvmeSlot.goodStep (v : NvmeSlot) (status : BitVec 16) (lba : BitVec 4) (bytes : W64) : Bool :=
  decide (status = 0) && (decide (v.stage < 3) || (decide (lba.toNat = bitsOf v.rec_ 0 4) && decide (v.nsBytes ≤ bytes.toNat)))

theorem exec_nvmeResponse_none (h : s.serving) (hn : s.slotOf n = none) : exec (.nvmeResponse n key status lba bytes) s = .next s.settle := by
  show execNvmeResponse n key status lba bytes s = _
  rw [execNvmeResponse, State.orHold_of_serving h, hn, ← stepTo_eq]

/-- A response to a slot that connects is one to its step. -/
theorem exec_nvmeResponse_connecting (h : s.serving) (hn : s.slotOf n = some v) (hv : v.stage ≠ 0) :
    exec (.nvmeResponse n key status lba bytes) s = .next (s.connectStep v (v.goodStep status lba bytes)).settle := by
  show execNvmeResponse n key status lba bytes s = _
  rw [execNvmeResponse, State.orHold_of_serving h, hn, ← stepTo_eq]
  exact congrArg stepTo (if_pos hv)

/-- A response to a slot that does not connect ends the Read of its key. -/
theorem exec_nvmeResponse_read (h : s.serving) (hn : s.slotOf n = some v) (hv : v.stage = 0) :
    (v.reads.find? (fun r => decide (r.key = key)) = none → exec (.nvmeResponse n key status lba bytes) s = .next s.settle) ∧
    ∀ r, v.reads.find? (fun r => decide (r.key = key)) = some r →
      (status = 0 → exec (.nvmeResponse n key status lba bytes) s = .next (s.readEnds n r true).settle) ∧
      (status ≠ 0 → exec (.nvmeResponse n key status lba bytes) s = .next ((s.readEnds n r false).slotFails n false).settle) := by
  have he : exec (.nvmeResponse n key status lba bytes) s = execNvmeResponse n key status lba bytes s := rfl
  refine ⟨fun hr => ?_, fun r hr => ⟨fun hs => ?_, fun hs => ?_⟩⟩ <;>
    simp only [he, execNvmeResponse, State.orHold_of_serving h, hn, hv, hr, ne_eq, not_true_eq_false, if_false, ← stepTo_eq]
  · simp only [hs, if_true, decide_true]
  · simp only [hs, if_false, decide_false]

/-- A step of a connect by the stage it is in. -/
theorem State.connectStep_cases (s : State) (v : NvmeSlot) :
    s.connectStep v false = (s.modSlot v.slot fun v => { v with stage := 0 }).nvmeEnd 3 ∧
    (v.stage = 1 → s.connectStep v true = (s.modSlot v.slot fun v => { v with stage := 2 }).fabConnect v.slot v.rec_ 1) ∧
    (v.stage = 2 → s.connectStep v true = (s.modSlot v.slot fun v => { v with stage := 3 }).emit
      (.nvmeIdentify v.slot (recAdmin v.rec_) (BitVec.ofNat 32 (bitsOf v.rec_ 64 32)))) ∧
    (v.stage = 3 → s.connectStep v true = (s.modSlot v.slot fun v => { v with stage := 0, state := 1 }).nvmeEnd 0) := by
  refine ⟨?_, fun hv => ?_, fun hv => ?_, fun hv => ?_⟩ <;> simp [State.connectStep, *]

theorem exec_nvmeTimeout_none (hn : s.slotOf n = none) : exec (.nvmeTimeout n key) s = .next s.settle := by
  show execNvmeTimeout n key s = _
  rw [execNvmeTimeout, hn, ← stepTo_eq]

/-- A timeout ends the step of a connect, or the Read of its key (R336). -/
theorem exec_nvmeTimeout_some (hn : s.slotOf n = some v) :
    (v.stage ≠ 0 → exec (.nvmeTimeout n key) s = .next (s.connectStep v false).settle) ∧
    (v.stage = 0 → v.reads.find? (fun r => decide (r.key = key)) = none → exec (.nvmeTimeout n key) s = .next s.settle) ∧
    (∀ r, v.stage = 0 → v.reads.find? (fun r => decide (r.key = key)) = some r →
      exec (.nvmeTimeout n key) s = .next ((s.readEnds n r false).slotFails n true).settle) := by
  have he : exec (.nvmeTimeout n key) s = execNvmeTimeout n key s := rfl
  refine ⟨fun hv => ?_, fun hv hr => ?_, fun r hv hr => ?_⟩ <;> simp only [he, execNvmeTimeout, hn, ← stepTo_eq]
  · rw [if_pos hv]
  · simp only [hv, hr, ne_eq, not_true_eq_false, if_false]
  · simp only [hv, hr, ne_eq, not_true_eq_false, if_false]

theorem State.any_connected (hn : s.slotOf n = some v) (hv : v.state = 1) : ((s.slotOf n).any fun v => decide (v.state = 1)) = true := by
  rw [hn]
  exact decide_eq_true hv

/-- A slot that is connected is kept alive, and no other. -/
theorem exec_nvmeKeepAlive (s : State) (n : Byte) :
    (∀ v, s.slotOf n = some v → v.state = 1 → exec (.nvmeKeepAlive n) s = .next (s.emit (.nvmeKeepAlive n)).settle) ∧
    ((∀ v, s.slotOf n = some v → v.state ≠ 1) → exec (.nvmeKeepAlive n) s = .next s.settle) := by
  have he : exec (.nvmeKeepAlive n) s = execNvmeKeepAlive n s := rfl
  refine ⟨fun v hn hv => ?_, fun hv => ?_⟩ <;> rw [he, execNvmeKeepAlive, ← stepTo_eq]
  · rw [if_pos (State.any_connected hn hv)]
  · rw [if_neg]
    rw [Option.any_eq_true]
    rintro ⟨v, hn, hs⟩
    exact hv v hn (of_decide_eq_true hs)

end

/-! RDMA writes -/

section
variable {s : State} {i : BitVec 12} {key off : W32} {data : List Byte} {marked : Bool}

/-- While the block serves, no message is held. -/
theorem State.orHoldMsg_of_serving (h : s.serving) (c : Instr) (i : BitVec 12) (m : Nat) (k : Bool) (f : State → State) :
    s.orHoldMsg c i m k f = f s := by
  obtain ⟨-, -, h3, h4, -⟩ := id h
  have hs : (s.asleep || decide (4 ≤ s.power.step)) = false := by
    rw [h3, Bool.false_or]
    exact decide_eq_false (by omega)
  simp only [State.orHoldMsg, hs, Bool.false_eq_true, false_and, if_false, State.orHold_of_serving h]

/-- The slot of an I/O pair with a Read of a key that the bytes written fit. -/
def State.readNamed (s : State) (i : BitVec 12) (key off : W32) (m : Nat) : Option NvmeSlot :=
  s.nvme.find? fun v => decide (recIo v.rec_ = i) && decide (v.stage = 0) && v.reads.any fun r =>
    decide (r.key = key) && decide (off.toNat + m ≤ r.data.length)

theorem exec_rdmaWrite_other (h : s.serving) (hq : ∀ q, s.qp i = some q → q.state ≠ .rts ∨ qcRole q.ctx ≠ 2) :
    exec (.rdmaWriteReceive i key off data marked) s = .next (s.sendNak i 1).settle := by
  have hio : ((s.qp i).any fun q => decide (q.state = .rts) && decide (qcRole q.ctx = 2)) = false := by
    rw [Option.any_eq_false]
    intro q hs
    rw [Bool.and_eq_false_iff, decide_eq_false_iff_not, decide_eq_false_iff_not]
    exact hq q hs
  show execRdmaWriteReceive i key off data s marked = _
  simp only [execRdmaWriteReceive, State.orHoldMsg_of_serving h, hio, Bool.not_false, if_true, stepTo_eq]

theorem exec_rdmaWrite_io {q : QP} (h : s.serving) (hq : s.qp i = some q) (hs : q.state = .rts) (hr : qcRole q.ctx = 2) :
    (s.readNamed i key off data.length = none → exec (.rdmaWriteReceive i key off data marked) s = .next (s.sendNak i 2).settle) ∧
    (∀ v, s.readNamed i key off data.length = some v →
      let put (r : NvmeRead) : NvmeRead := { r with data := r.data.take off.toNat ++ data ++ r.data.drop (off.toNat + data.length) }
      exec (.rdmaWriteReceive i key off data marked) s =
        .next ((s.modSlot v.slot fun v =>
          { v with reads := updFirst (fun r => decide (r.key = key)) put v.reads }).received i data.length marked).settle) := by
  have hio : ((s.qp i).any fun q => decide (q.state = .rts) && decide (qcRole q.ctx = 2)) = true := by
    simp only [hq, Option.any_some, hs, hr, decide_true, Bool.and_self]
  have he : exec (.rdmaWriteReceive i key off data marked) s = execRdmaWriteReceive i key off data s marked := rfl
  refine ⟨fun hn => ?_, fun v hn => ?_⟩ <;> rw [State.readNamed] at hn <;>
    simp only [he, execRdmaWriteReceive, State.orHoldMsg_of_serving h, hio, Bool.not_true, Bool.false_eq_true, if_false, hn, stepTo_eq]

end

/-- Settles O38: the actions by lock, BUSY and the record, responses and timeouts by the slot's stage, writes by the pair and the key. -/
theorem nvmeSlots : Obligations.NvmeSlots := by
  unfold Obligations.NvmeSlots
  refine ⟨?_, ?_, ?_, exec_nvmeKeepAlive, fun s n timeout v hn hv => if_pos (State.any_connected hn hv), fun s n r good => rfl, ?_⟩
  · intro s n h v
    obtain ⟨e1, e2⟩ := exec_nvmeCmd s n
    have h1 : actionOf .jeNvmeCmd (nvmeWord 1 n) ≠ 0 := by rw [actionOf_nvmeWord (.inl rfl)]; decide
    have h2 : actionOf .jeNvmeCmd (nvmeWord 2 n) ≠ 0 := by rw [actionOf_nvmeWord (.inr rfl)]; decide
    refine ⟨fun hl => ?_, fun hl hb => ?_, fun hl hb => ?_⟩
    · rw [actionReg_jeNvmeCmd.putReg_early h valid_jeNvmeCmd rfl hl h1] at e1
      rw [actionReg_jeNvmeCmd.putReg_early h valid_jeNvmeCmd rfl hl h2] at e2
      exact ⟨e1, e2⟩
    · rw [actionReg_jeNvmeCmd.putReg_busy h valid_jeNvmeCmd (fun _ => hl) hb h1] at e1
      rw [actionReg_jeNvmeCmd.putReg_busy h valid_jeNvmeCmd (fun _ => hl) hb h2] at e2
      exact ⟨e1, e2⟩
    · intro a r
      refine ⟨fun hr => ?_, fun hp hr => ?_, ?_⟩
      · rw [State.putReg_nvmeConnect_refused h hl hb hr] at e1
        exact e1
      · obtain ⟨d1, d2, d3⟩ := State.nvme_facts (s.sameBut_put .jeNvmeCmd 0 (nvmeWord 1 n) (by decide) (by decide)) (n := n)
        obtain ⟨-, c2⟩ := (s.put .jeNvmeCmd 0 (nvmeWord 1 n)).nvmeConnect_cases n
        have c2 := c2 (d2.trans hp) (by rw [d1, d3]; exact hr)
        rw [d1] at c2
        rw [State.putReg_nvmeConnect_idle h hl hb, c2] at e1
        exact e1
      · rw [State.putReg_nvmeDisconnect_idle h hl hb] at e2
        exact e2
  · intro s n key status lba bytes h
    refine ⟨exec_nvmeResponse_none h, fun v hn => ?_⟩
    obtain ⟨c0, c1, c2, c3⟩ := s.connectStep_cases v
    have step (hv : v.stage ≠ 0) := exec_nvmeResponse_connecting (key := key) (status := status) (lba := lba) (bytes := bytes) h hn hv
    refine ⟨fun hv hs => ?_, fun hv hs => ?_, fun hv hs hl hb => ?_, fun hv => ?_, fun hv hr => (exec_nvmeResponse_read h hn hv).1 hr,
      fun r hv hr => (exec_nvmeResponse_read h hn hv).2 r hr⟩
    · have hg : v.goodStep status lba bytes = true := by simp [NvmeSlot.goodStep, hs, hv]
      rw [step (by omega), hg, c1 hv]
    · have hg : v.goodStep status lba bytes = true := by simp [NvmeSlot.goodStep, hs, hv]
      rw [step (by omega), hg, c2 hv]
    · have hg : v.goodStep status lba bytes = true := by simp [NvmeSlot.goodStep, hs, hl, hb]
      rw [step (by omega), hg, c3 hv]
    · have hg : v.goodStep status lba bytes = false := by
        rcases hv with ⟨-, hs⟩ | ⟨hv, hl | hb⟩
        · rw [NvmeSlot.goodStep, decide_eq_false hs, Bool.false_and]
        · simp [NvmeSlot.goodStep, hv, hl]
        · simp [NvmeSlot.goodStep, hv, hb]
      rw [step (by omega), hg, c0]
  · intro s n key
    refine ⟨exec_nvmeTimeout_none, fun v hn => ?_⟩
    obtain ⟨c0, -⟩ := s.connectStep_cases v
    obtain ⟨t1, t2⟩ := exec_nvmeTimeout_some (key := key) hn
    rw [c0] at t1
    exact ⟨t1, t2⟩
  · intro s i key off data marked h
    exact ⟨exec_rdmaWrite_other h, fun q hq hs hr => exec_rdmaWrite_io h hq hs hr⟩

end Sys2Proof.Machine
end

section
/-! PROOF. Zeroisation, entropy failure, enrolment (R358, R363, R364). -/
namespace Sys2Proof.Machine

theorem actionReg_jeSecCtl : ActionReg .jeSecCtl fJeSecCtl_BUSY fJeSecCtl_RESULT := .of_busyOf rfl

theorem valid_jeSecCtl : RegRef.valid ⟨.jeSecCtl, 0, 0⟩ := RegRef.valid_hub _ rfl (by decide)

/-- A write of fields leaves everything but the registers, and the engine's events where it comes after the lock. -/
theorem State.put_eq (s : State) (r : RegId) (i : Nat) (v : W64) :
    s.put r i v = { s with regs := (s.put r i v).regs, engineEvents := (s.put r i v).engineEvents, out := (s.put r i v).out } := by
  rw [State.put, State.stored, State.storeFields]
  dsimp only
  split
  · rw [State.eventE_eq]
    split <;> rfl
  · split <;> rfl

/-! A zeroisation begins, and its end and that of an enrolment -/

/-- A zeroisation that runs goes on (R363). -/
theorem State.zeroise_running {s : State} (h1 : 1 ≤ s.sec.pending) (h3 : s.sec.pending ≤ 3) (why : Nat) : s.zeroise why = s := by
  rw [State.zeroise, if_pos (by simp [State.zeroising, h1, h3])]

theorem State.zeroise_begins {s : State} (h : s.sec.pending = 0 ∨ 4 ≤ s.sec.pending) (why : Nat) :
    s.zeroise why = { s with
      sec := { s.sec with pending := why }
      boot := { s.boot with loadEnded := s.boot.loadEnded || (s.boot.running && decide (s.fld fJeStart_STATE = 0)) } } := by
  rw [State.zeroise, if_neg]
  simp only [State.zeroising, Bool.and_eq_true, decide_eq_true_eq]
  omega

/-- What ends by what runs (R358, R363). -/
theorem exec_securityActionDone (s : State) (flashError : Bool) :
    (s.sec.pending = 0 → exec (.securityActionDone flashError) s = stepTo s) ∧
    (s.sec.pending = 4 → exec (.securityActionDone flashError) s = stepTo (s.enrolDone flashError)) ∧
    (s.sec.pending ≠ 0 → s.sec.pending ≠ 4 → exec (.securityActionDone flashError) s = stepTo s.zeroiseDone) := by
  have he : exec (.securityActionDone flashError) s = execSecurityActionDone flashError s := rfl
  refine ⟨fun hp => ?_, fun hp => ?_, fun h0 h4 => ?_⟩ <;> rw [he, execSecurityActionDone]
  · rw [hp]
    rfl
  · rw [hp]
    rfl
  · split
    · exact absurd ‹_› h0
    · exact absurd ‹_› h4
    · rfl

/-! The actions of JE_SEC_CTL -/

section
variable {s : State}

/-- What ZEROISE and PUF_ENROL write, for a 1 and 2. -/
def State.secWord (s : State) (a : Nat) : W64 := s.keepWord .jeSecCtl (BitVec.ofNat 64 (a * 2 ^ 62))

theorem actionOf_secWord (s : State) : actionOf .jeSecCtl (s.secWord 1) = 1 ∧ actionOf .jeSecCtl (s.secWord 2) = 2 := by
  have key (a : Nat) : bitsOf (s.secWord a) 62 2 = bitsOf (BitVec.ofNat 64 (a * 2 ^ 62)) 62 2 := s.bitsOf_keepWord .jeSecCtl _ (by decide)
  have ha (v : W64) : actionOf .jeSecCtl v = if bitsOf v 62 2 = 3 then 0 else bitsOf v 62 2 := rfl
  refine ⟨?_, ?_⟩ <;> rw [ha, key] <;> decide

/-- Both rows are whole writes of JE_SEC_CTL. -/
theorem exec_secCtl (s : State) :
    exec .zeroise s = stepTo (s.putReg .jeSecCtl 0 0 .full (s.secWord 1)) ∧
    exec .pufEnrol s = stepTo (s.putReg .jeSecCtl 0 0 .full (s.secWord 2)) := by
  have e1 : exec .zeroise s = stepTo (s.putKeep .jeSecCtl 0 0x4000000000000000#64) := rfl
  have e2 : exec .pufEnrol s = stepTo (s.putKeep .jeSecCtl 0 0x8000000000000000#64) := rfl
  rw [e1, e2, State.putKeep_eq _ _ _ (by decide), State.putKeep_eq _ _ _ (by decide)]
  exact ⟨rfl, rfl⟩

theorem State.act_secCtl (u : State) (v : W64) :
    u.act ⟨.jeSecCtl, 0, 0⟩ 1 v = u.zeroiseReg ∧ u.act ⟨.jeSecCtl, 0, 0⟩ 2 v = u.pufEnrol := by
  refine ⟨?_, ?_⟩ <;> simp only [State.act]

/-- An enrolment by the mode, the image and what runs (R358, R364). -/
theorem State.pufEnrol_cases (u : State) :
    (u.fld fJeStart_MODE ≠ 3 → u.fld fJeStart_IMAGE = 1 → u.pufEnrol = u.setFld fJeSecCtl_RESULT 1) ∧
    (u.fld fJeStart_MODE = 3 ∨ u.fld fJeStart_IMAGE ≠ 1 → u.sec.pending ≠ 0 → u.pufEnrol = u.setFld fJeSecCtl_RESULT 2) ∧
    (u.fld fJeStart_MODE = 3 ∨ u.fld fJeStart_IMAGE ≠ 1 → u.sec.pending = 0 →
      u.pufEnrol = ({ u with sec := { u.sec with pending := 4 } } : State).setFld fJeSecCtl_BUSY 1) := by
  have hopen (h : u.fld fJeStart_MODE = 3 ∨ u.fld fJeStart_IMAGE ≠ 1) : ¬((!u.testMode) = true ∧ u.fld fJeStart_IMAGE = 1) := by
    rintro ⟨hm, hi⟩
    rcases h with h | h
    · simp [State.testMode, h] at hm
    · exact h hi
  refine ⟨fun hm hi => ?_, fun ho hp => ?_, fun ho hp => ?_⟩ <;> rw [State.pufEnrol]
  · rw [if_pos ⟨by simp [State.testMode, hm], hi⟩]
  · rw [if_neg (hopen ho), if_pos hp]
  · rw [if_neg (hopen ho), if_neg (not_not_intro hp)]

section
variable (h : s.serving) (hb : s.fld fJeSecCtl_BUSY = 0)
include h hb

theorem State.putReg_zeroise : s.putReg .jeSecCtl 0 0 .full (s.secWord 1) = ((s.put .jeSecCtl 0 (s.secWord 1)).zeroise 1).setFld fJeSecCtl_BUSY 1 := by
  rw [actionReg_jeSecCtl.putReg_begins h valid_jeSecCtl nofun hb (actionOf_secWord s).1 (by decide), (State.act_secCtl _ _).1, State.zeroiseReg]
  rw [(State.act_secCtl _ _).1, State.zeroiseReg, State.fld_setFld_self _ _ _ _ _ (by decide)]
  decide

/-- An enrolment that its rule refuses. -/
theorem State.putReg_pufEnrol_refused {k : Nat} (hk : s.fld fJeStart_MODE ≠ 3 ∧ s.fld fJeStart_IMAGE = 1 ∧ k = 1 ∨
    (s.fld fJeStart_MODE = 3 ∨ s.fld fJeStart_IMAGE ≠ 1) ∧ s.sec.pending ≠ 0 ∧ k = 2) :
    s.putReg .jeSecCtl 0 0 .full (s.secWord 2) = s.setFld fJeSecCtl_RESULT k := by
  have hw := s.sameBut_written .jeSecCtl 0 (s.secWord 2)
  obtain ⟨c1, c2, -⟩ := (s.written .jeSecCtl 0 (s.secWord 2)).pufEnrol_cases
  rw [hw.fld fJeStart_MODE 0 0 (by decide), hw.fld fJeStart_IMAGE 0 0 (by decide)] at c1 c2
  refine actionReg_jeSecCtl.putReg_result h valid_jeSecCtl nofun hb (actionOf_secWord s).2 (by decide) (by omega) (by omega) ?_
  rw [(State.act_secCtl _ _).2]
  rcases hk with ⟨hm, hi, rfl⟩ | ⟨ho, hp, rfl⟩
  · exact c1 hm hi
  · exact c2 ho hp

/-- An enrolment that is open, where no other action runs. -/
theorem State.putReg_pufEnrol_taken (ho : s.fld fJeStart_MODE = 3 ∨ s.fld fJeStart_IMAGE ≠ 1) (hp : s.sec.pending = 0) :
    s.putReg .jeSecCtl 0 0 .full (s.secWord 2) =
      ({ s.put .jeSecCtl 0 (s.secWord 2) with sec := { s.sec with pending := 4 } } : State).setFld fJeSecCtl_BUSY 1 := by
  have hw := s.sameBut_written .jeSecCtl 0 (s.secWord 2)
  have hsec : (s.put .jeSecCtl 0 (s.secWord 2)).sec = s.sec := by rw [State.put_eq]
  have hfld (f : Fld) (hf : f.reg = .jeStart) : (s.put .jeSecCtl 0 (s.secWord 2)).fld f = s.fld f :=
    State.fld_stored_ne s _ _ _ f 0 0 fun e => by simp [hf] at e
  obtain ⟨-, -, c3⟩ := (s.written .jeSecCtl 0 (s.secWord 2)).pufEnrol_cases
  obtain ⟨-, -, d3⟩ := (s.put .jeSecCtl 0 (s.secWord 2)).pufEnrol_cases
  rw [hw.fld fJeStart_MODE 0 0 (by decide), hw.fld fJeStart_IMAGE 0 0 (by decide)] at c3
  rw [hfld fJeStart_MODE rfl, hfld fJeStart_IMAGE rfl, hsec] at d3
  rw [actionReg_jeSecCtl.putReg_begins h valid_jeSecCtl nofun hb (actionOf_secWord s).2 (by decide), (State.act_secCtl _ _).2, d3 ho hp]
  rw [(State.act_secCtl _ _).2, c3 ho hp, State.fld_setFld_self _ _ _ _ _ (by decide)]
  decide

end
end

/-- Settles O42: a zeroisation by what runs, the ends by what was pending, the actions by BUSY, the mode and the image. -/
theorem securityActions : Obligations.SecurityActions := by
  unfold Obligations.SecurityActions
  refine ⟨fun s why => ⟨fun h1 h3 => State.zeroise_running h1 h3 why, fun h => State.zeroise_begins h why⟩, fun s => ⟨rfl, rfl⟩, ?_,
    fun x => ⟨rfl, rfl, rfl, rfl, rfl⟩, ?_⟩
  · intro s flashError
    obtain ⟨c0, c4, c13⟩ := exec_securityActionDone s flashError
    exact ⟨c0, fun h1 h3 => c13 (by omega) (by omega), c4⟩
  · intro s h mask s1
    obtain ⟨e1, e2⟩ := exec_secCtl s
    obtain ⟨h1, h2⟩ := actionOf_secWord s
    refine ⟨fun hb => ?_, fun hb => ⟨?_, fun ho hp => ?_, fun ho hp => ?_, fun hm hi => ?_⟩⟩
    · rw [actionReg_jeSecCtl.putReg_busy h valid_jeSecCtl nofun hb (by rw [h1]; decide)] at e1
      rw [actionReg_jeSecCtl.putReg_busy h valid_jeSecCtl nofun hb (by rw [h2]; decide)] at e2
      exact ⟨e1, e2⟩
    · rw [State.putReg_zeroise h hb] at e1
      exact e1
    · rw [State.putReg_pufEnrol_taken h hb ho hp] at e2
      exact e2
    · rw [State.putReg_pufEnrol_refused h hb (.inr ⟨ho, hp, rfl⟩)] at e2
      exact e2
    · rw [State.putReg_pufEnrol_refused h hb (.inl ⟨hm, hi, rfl⟩)] at e2
      exact e2

end Sys2Proof.Machine
end

section
/-! PROOF. Flash actions (R366). -/
namespace Sys2Proof.Machine

theorem actionReg_jeNvmCtl : ActionReg .jeNvmCtl fJeNvmCtl_BUSY fJeNvmCtl_RESULT := .of_busyOf rfl

theorem valid_jeNvmCtl : RegRef.valid ⟨.jeNvmCtl, 0, 0⟩ := RegRef.valid_hub _ rfl (by decide)

/-! An action begins -/

/-- What NVM_READ, NVM_PROGRAM and NVM_ERASE write, for a 1 to 3. -/
def flashWord (a : Nat) (addr : BitVec 24) : W64 := BitVec.ofNat 64 (a * 2 ^ 62 + addr.toNat)

/-- An action of the flash has begun. -/
def State.flashBegun (s : State) (a addr : Nat) : State :=
  ({ s with sec := { s.sec with nvmAction := a, nvmAddr := addr } } : State).setFld fJeNvmCtl_BUSY 1

section
variable {s u : State} {addr : BitVec 24} {a : Nat}

/-- An action by what it asks, the address and the page buffer (R366). -/
theorem State.nvmAct_cases (u : State) (a addr : Nat) :
    (a ≠ 1 → u.flashClosed addr = true → u.nvmAct a addr = u.setFld fJeNvmCtl_RESULT 1) ∧
    (a = 2 → u.flashClosed addr = false → u.sec.pageBuf.length < 32 → u.nvmAct a addr = u.setFld fJeNvmCtl_RESULT 4) ∧
    (a = 1 ∨ u.flashClosed addr = false → (a = 2 → 32 ≤ u.sec.pageBuf.length) → u.nvmAct a addr = u.flashBegun a addr) := by
  refine ⟨fun ha hc => ?_, fun ha hc hl => ?_, fun hc hl => ?_⟩ <;> rw [State.nvmAct]
  · rw [if_pos ⟨ha, hc⟩]
  · rw [if_neg (by simp [hc]), if_pos ⟨ha, hl⟩]
  · rw [if_neg, if_neg]
    · rfl
    · rintro ⟨h2, hs⟩
      exact absurd (hl h2) (by omega)
    · rintro ⟨h1, hs⟩
      rcases hc with hc | hc
      · exact h1 hc
      · exact Bool.false_ne_true (hc.symm.trans hs)

/-- The addresses closed to programming and erasing (R366). -/
theorem State.flashClosed_iff (s : State) (a : Nat) : s.flashClosed a = true ↔ (0x800000 ≤ a ∧ a < 0x801000) ∨
    (s.fld fJeStart_IMAGE = 1 ∧ s.fld fJeStart_MODE ≠ 3 ∧ a / 0x400000 = s.fld fJeStart_SLOT) := by
  simp only [State.flashClosed, State.testMode, Bool.or_eq_true, Bool.and_eq_true, decide_eq_true_eq, Bool.not_eq_true',
    decide_eq_false_iff_not, ne_eq, and_assoc]
  exact Iff.rfl

theorem actionOf_flashWord (ha : a = 1 ∨ a = 2 ∨ a = 3) : actionOf .jeNvmCtl (flashWord a addr) = a :=
  actionOf_code3 (fun _ => rfl) (by omega) (by omega)

theorem State.fld_put_nvmAddr (ha : a = 1 ∨ a = 2 ∨ a = 3) : (s.put .jeNvmCtl 0 (flashWord a addr)).fld fJeNvmCtl_ADDR = addr.toNat := by
  refine (State.fld_put_operand s fJeNvmCtl_ADDR 0 a addr.toNat (by decide) (by decide) (by decide) (by omega) (by omega) (by decide)).trans ?_
  exact (congrArg (· % 2 ^ 24) (Nat.div_one _)).trans (Nat.mod_eq_of_lt addr.isLt)

theorem State.fld_written_nvmAddr (ha : a = 1 ∨ a = 2 ∨ a = 3) : (s.written .jeNvmCtl 0 (flashWord a addr)).fld fJeNvmCtl_ADDR = addr.toNat :=
  (State.fld_written s fJeNvmCtl_ADDR 0 _).trans (State.fld_put_nvmAddr ha)

theorem State.act_nvm (ha : a = 1 ∨ a = 2 ∨ a = 3) (hu : u.fld fJeNvmCtl_ADDR = addr.toNat) :
    u.act ⟨.jeNvmCtl, 0, 0⟩ a (flashWord a addr) = u.nvmAct a addr.toNat := by
  rcases ha with rfl | rfl | rfl <;> simp only [State.act, hu]

/-- What an action finds: the addresses that are closed, and the page buffer. -/
theorem State.flash_facts (h : s.SameBut .jeNvmCtl 0 u) (x : Nat) : u.flashClosed x = s.flashClosed x ∧ u.sec = s.sec := by
  refine ⟨?_, by rw [h.rest]⟩
  simp only [State.flashClosed, State.testMode, h.fld fJeStart_IMAGE 0 0 (by decide), h.fld fJeStart_MODE 0 0 (by decide),
    h.fld fJeStart_SLOT 0 0 (by decide)]

/-- The rows are whole writes of JE_NVM_CTL. -/
theorem exec_nvmCtl (s : State) (addr : BitVec 24) :
    exec (.nvmRead addr) s = stepTo (s.putReg .jeNvmCtl 0 0 .full (flashWord 1 addr)) ∧
    exec (.nvmProgram addr) s = stepTo (s.putReg .jeNvmCtl 0 0 .full (flashWord 2 addr)) ∧
    exec (.nvmErase addr) s = stepTo (s.putReg .jeNvmCtl 0 0 .full (flashWord 3 addr)) := ⟨rfl, rfl, rfl⟩

section
variable (h : s.serving)
include h

theorem State.putReg_flash_busy (ha : a = 1 ∨ a = 2 ∨ a = 3) (hb : s.fld fJeNvmCtl_BUSY = 1) :
    s.putReg .jeNvmCtl 0 0 .full (flashWord a addr) = s.setFld fJeNvmCtl_RESULT 2 :=
  actionReg_jeNvmCtl.putReg_busy h valid_jeNvmCtl nofun hb (by rw [actionOf_flashWord ha]; omega)

variable (hb : s.fld fJeNvmCtl_BUSY = 0)
include hb

/-- An action that its rule refuses. -/
theorem State.putReg_flash_refused {k : Nat} (ha : a = 2 ∨ a = 3) (hk : s.flashClosed addr.toNat = true ∧ k = 1 ∨
    a = 2 ∧ s.flashClosed addr.toNat = false ∧ s.sec.pageBuf.length < 32 ∧ k = 4) :
    s.putReg .jeNvmCtl 0 0 .full (flashWord a addr) = s.setFld fJeNvmCtl_RESULT k := by
  obtain ⟨e1, e2⟩ := State.flash_facts (s.sameBut_written .jeNvmCtl 0 (flashWord a addr)) addr.toNat
  obtain ⟨c1, c2, -⟩ := (s.written .jeNvmCtl 0 (flashWord a addr)).nvmAct_cases a addr.toNat
  rw [e1] at c1
  rw [e1, e2] at c2
  refine actionReg_jeNvmCtl.putReg_result h valid_jeNvmCtl nofun hb (actionOf_flashWord (.inr ha)) (by omega) (by omega) (by omega) ?_
  rw [State.act_nvm (.inr ha) (State.fld_written_nvmAddr (.inr ha))]
  rcases hk with ⟨hc, rfl⟩ | ⟨h2, hc, hl, rfl⟩
  · exact c1 (by omega) hc
  · exact c2 h2 hc hl

/-- An action that is open begins. -/
theorem State.putReg_flash_begins (ha : a = 1 ∨ a = 2 ∨ a = 3) (hc : a = 1 ∨ s.flashClosed addr.toNat = false)
    (hl : a = 2 → 32 ≤ s.sec.pageBuf.length) :
    s.putReg .jeNvmCtl 0 0 .full (flashWord a addr) =
      ({ s.put .jeNvmCtl 0 (flashWord a addr) with sec := { s.sec with nvmAction := a, nvmAddr := addr.toNat } } : State).setFld fJeNvmCtl_BUSY 1 := by
  obtain ⟨e1, e2⟩ := State.flash_facts (s.sameBut_written .jeNvmCtl 0 (flashWord a addr)) addr.toNat
  obtain ⟨d1, d2⟩ := State.flash_facts (s.sameBut_put .jeNvmCtl 0 (flashWord a addr) (by decide) (by decide)) addr.toNat
  obtain ⟨-, -, c3⟩ := (s.written .jeNvmCtl 0 (flashWord a addr)).nvmAct_cases a addr.toNat
  obtain ⟨-, -, d3⟩ := (s.put .jeNvmCtl 0 (flashWord a addr)).nvmAct_cases a addr.toNat
  rw [e1, e2] at c3
  rw [d1, d2] at d3
  rw [actionReg_jeNvmCtl.putReg_begins h valid_jeNvmCtl nofun hb (actionOf_flashWord ha) (by omega),
    State.act_nvm ha (State.fld_put_nvmAddr ha), d3 hc hl, State.flashBegun, d2]
  rw [State.act_nvm ha (State.fld_written_nvmAddr ha), c3 hc hl, State.flashBegun, State.fld_setFld_self _ _ _ _ _ (by decide)]
  decide

end
end

/-! The page buffer -/

/-- A write of JE_NVM_BUF adds a word to the page buffer, which holds 32 of them. -/
theorem State.putReg_nvmBuf {s : State} (h : s.serving) (v : W64) :
    s.putReg .jeNvmBuf 0 0 .full v = (s.put .jeNvmBuf 0 v).nvmWord v ∧ (s.put .jeNvmBuf 0 v).sec = s.sec := by
  refine ⟨?_, by rw [(s.sameBut_put .jeNvmBuf 0 v (by decide) (by decide)).rest]⟩
  exact State.putReg_plain h .jeNvmBuf 0 0 .full v (RegRef.valid_hub _ rfl (by decide)) rfl (.inr rfl) rfl rfl (by decide) (by decide)

/-! An action ends -/

/-- A page or a sector that is undefined takes free values. -/
theorem State.nvmSpoil_cases (s : State) (addr : Nat) :
    s.nvmSpoil 2 addr = (s.drawN 32).2.flashPut (addr / 256 * 256) ((s.drawN 32).1.flatMap fun w => leBytes 8 w.toNat) ∧
    s.nvmSpoil 3 addr = (s.drawN 512).2.flashPut (addr / 4096 * 4096) ((s.drawN 512).1.flatMap fun w => leBytes 8 w.toNat) := by
  have h2 : nvmSpan 2 addr = (addr / 256 * 256, 256) := rfl
  have h3 : nvmSpan 3 addr = (addr / 4096 * 4096, 4096) := rfl
  refine ⟨?_, ?_⟩
  · simp only [State.nvmSpoil, h2, true_or, if_true, Nat.reduceDiv]
  · simp only [State.nvmSpoil, h3, or_true, if_true, Nat.reduceDiv]

section
variable {s : State}

theorem exec_nvmActionDone_none (failed : Bool) (h : s.sec.nvmAction = 0) : exec (.nvmActionDone failed) s = .next s.settle := by
  show execNvmActionDone failed s = _
  simp only [execNvmActionDone, h, if_true, stepTo_eq]

/-- The end of an action that runs (R366). -/
def State.nvmEnded (s : State) (buf : List W64) : State :=
  ({ s with sec := { s.sec with nvmAction := 0, pageBuf := buf } } : State).setFld fJeNvmCtl_BUSY 0

theorem exec_nvmRead_done (h : s.sec.nvmAction = 1) :
    exec (.nvmActionDone false) s = .next (((s.nvmEnded s.sec.pageBuf).setFld fJeNvmCtl_RESULT 0).setReg .jeNvmData
      (BitVec.ofNat 64 (leNat ((List.range 8).map fun k => s.flashAt (s.sec.nvmAddr / 8 * 8 + k))))).settle ∧
    exec (.nvmActionDone true) s = .next ((s.nvmEnded s.sec.pageBuf).setFld fJeNvmCtl_RESULT 3).settle := by
  have he (b : Bool) : exec (.nvmActionDone b) s = execNvmActionDone b s := rfl
  have h1 (x : Nat) : nvmSpan 1 x = (x / 8 * 8, 8) := rfl
  have hn (u : State) (x : Nat) : u.nvmSpoil 1 x = u := rfl
  refine ⟨?_, ?_⟩ <;> rw [he, execNvmActionDone, ← stepTo_eq]
  · simp only [h, h1, if_false, if_true, Bool.false_eq_true, OfNat.one_ne_ofNat, one_ne_zero]
    rfl
  · simp only [h, hn, if_false, if_true, OfNat.one_ne_ofNat, one_ne_zero]
    rfl

theorem exec_nvmProgram_done (h : s.sec.nvmAction = 2) :
    exec (.nvmActionDone false) s = .next (((s.nvmEnded []).setFld fJeNvmCtl_RESULT 0).flashPut (s.sec.nvmAddr / 256 * 256)
      ((s.sec.pageBuf.flatMap fun w => leBytes 8 w.toNat).mapIdx fun k b => b &&& s.flashAt (s.sec.nvmAddr / 256 * 256 + k))).settle ∧
    exec (.nvmActionDone true) s = .next (((s.nvmEnded []).nvmSpoil 2 s.sec.nvmAddr).setFld fJeNvmCtl_RESULT 3).settle := by
  have he (b : Bool) : exec (.nvmActionDone b) s = execNvmActionDone b s := rfl
  have hs (x : Nat) : nvmSpan 2 x = (x / 256 * 256, 256) := rfl
  refine ⟨?_, ?_⟩ <;> rw [he, execNvmActionDone, ← stepTo_eq]
  · simp only [h, hs, if_false, if_true, Bool.false_eq_true, OfNat.ofNat_ne_zero, OfNat.ofNat_ne_one]
    rfl
  · simp only [h, if_false, if_true, OfNat.ofNat_ne_zero]
    rfl

theorem exec_nvmErase_done (h : s.sec.nvmAction = 3) :
    exec (.nvmActionDone false) s = .next (((s.nvmEnded s.sec.pageBuf).setFld fJeNvmCtl_RESULT 0).flashPut (s.sec.nvmAddr / 4096 * 4096)
      (List.replicate 4096 0xFF)).settle ∧
    exec (.nvmActionDone true) s = .next (((s.nvmEnded s.sec.pageBuf).nvmSpoil 3 s.sec.nvmAddr).setFld fJeNvmCtl_RESULT 3).settle := by
  have he (b : Bool) : exec (.nvmActionDone b) s = execNvmActionDone b s := rfl
  have hs (x : Nat) : nvmSpan 3 x = (x / 4096 * 4096, 4096) := rfl
  refine ⟨?_, ?_⟩ <;> rw [he, execNvmActionDone, ← stepTo_eq]
  · simp only [h, hs, if_false, Bool.false_eq_true, OfNat.ofNat_ne_zero, OfNat.ofNat_ne_one]
    rfl
  · simp only [h, if_false, if_true, OfNat.ofNat_ne_zero]
    rfl

end

/-- Settles O44: the actions by BUSY, the address and the page buffer, their ends by the action that runs. -/
theorem flashActions : Obligations.FlashActions := by
  unfold Obligations.FlashActions
  refine ⟨?_, State.flashClosed_iff, ?_, ?_, State.nvmSpoil_cases⟩
  · intro s addr h s1 go closed
    obtain ⟨e1, e2, e3⟩ := exec_nvmCtl s addr
    refine ⟨fun hb => ?_, fun hb => ⟨?_, fun hc hl => ?_, fun hc hl => ?_, fun hc => ?_, fun hc => ?_, fun hc => ?_⟩⟩
    · rw [State.putReg_flash_busy h (by decide) hb] at e1 e2 e3
      exact ⟨e1, e2, e3⟩
    · rw [State.putReg_flash_begins h hb (.inl rfl) (.inl rfl) nofun] at e1
      exact e1
    · rw [State.putReg_flash_begins h hb (.inr (.inl rfl)) (.inr hc) fun _ => hl] at e2
      exact e2
    · rw [State.putReg_flash_refused h hb (.inl rfl) (.inr ⟨rfl, hc, hl, rfl⟩)] at e2
      exact e2
    · rw [State.putReg_flash_refused h hb (.inl rfl) (.inl ⟨hc, rfl⟩)] at e2
      exact e2
    · rw [State.putReg_flash_begins h hb (.inr (.inr rfl)) (.inr hc) nofun] at e3
      exact e3
    · rw [State.putReg_flash_refused h hb (.inr rfl) (.inl ⟨hc, rfl⟩)] at e3
      exact e3
  · intro s v h s1
    obtain ⟨hp, hs⟩ := State.putReg_nvmBuf h v
    have key : exec (.nvmBufWrite v) s = stepTo ((s.put .jeNvmBuf 0 v).nvmWord v) := congrArg stepTo hp
    refine ⟨fun hl => ?_, fun hl => ?_⟩ <;> rw [key, State.nvmWord, hs]
    · rw [if_pos hl]
      rfl
    · rw [if_neg (by omega)]
      rfl
  · intro s addr s0 s1
    exact ⟨exec_nvmActionDone_none, exec_nvmRead_done, exec_nvmProgram_done, exec_nvmErase_done⟩

end Sys2Proof.Machine
end

section
/-! PROOF. Lanes leave service, are tested, return (R394 to R396). -/
namespace Sys2Proof.Machine

theorem actionReg_jsLaneCtl : ActionReg .jsLaneCtl fJsLaneCtl_BUSY fJsLaneCtl_RESULT := .of_busyOf rfl

/-! The actions by the states of the slice and of the lane -/

section
variable {s u : State} {n : SliceId} {k : Nat}

/-- In a slice that is not in service the answer is RESULT 4 (R394). -/
theorem State.lane_outOfService (h : s.sliceState n ≠ 0) :
    s.laneReturn n k = s.laneResult n 4 ∧ s.laneOffline n k = s.laneResult n 4 ∧ s.laneSelfTest n k = s.laneResult n 4 :=
  ⟨if_pos h, if_pos h, if_pos h⟩

theorem State.laneReturn_cases (h : s.sliceState n = 0) :
    (s.laneState (laneId n k).val = 0 → s.laneReturn n k = s.laneResult n 0) ∧
    (s.laneState (laneId n k).val = 1 ∨ s.laneState (laneId n k).val = 3 →
      s.laneReturn n k = (s.laneBit fJsLaneFail_PENDING (laneId n k) true).laneResult n 0) ∧
    (s.laneState (laneId n k).val = 2 → s.laneFailed (laneId n k) = true → s.laneReturn n k = s.laneResult n 3) ∧
    (s.laneState (laneId n k).val = 2 → s.laneFailed (laneId n k) = false → s.laneReturn n k = (s.laneBack (laneId n k)).laneResult n 0) := by
  refine ⟨fun hl => ?_, fun hl => ?_, fun hl hf => ?_, fun hl hf => ?_⟩ <;> rw [State.laneReturn] <;>
    simp only [h, ne_eq, not_true_eq_false, if_false]
  · simp only [hl]
  · rcases hl with hl | hl <;> simp only [hl]
  · simp only [hl, hf, if_true]
  · simp only [hl, hf, Bool.false_eq_true, if_false]

theorem State.laneOffline_cases (h : s.sliceState n = 0) :
    (s.laneState (laneId n k).val = 0 → s.laneState (partner (laneId n k)).val ≠ 0 → s.laneOffline n k = s.laneResult n 1) ∧
    (s.laneState (laneId n k).val = 0 → s.laneState (partner (laneId n k)).val = 0 →
      s.laneOffline n k = (s.laneDrain (laneId n k)).laneResult n 0) ∧
    (s.laneState (laneId n k).val = 1 → s.laneOffline n k = (s.laneBit fJsLaneFail_PENDING (laneId n k) false).laneResult n 0) ∧
    (s.laneState (laneId n k).val = 2 ∨ s.laneState (laneId n k).val = 3 → s.laneOffline n k = s.laneResult n 0) := by
  refine ⟨fun hl hp => ?_, fun hl hp => ?_, fun hl => ?_, fun hl => ?_⟩ <;> rw [State.laneOffline] <;>
    simp only [h, ne_eq, not_true_eq_false, if_false]
  · simp only [hl, hp, not_false_eq_true, if_true]
  · simp only [hl, hp, not_true_eq_false, if_false]
  · simp only [hl]
  · rcases hl with hl | hl <;> simp only [hl]

theorem State.laneSelfTest_cases (h : s.sliceState n = 0) :
    (s.laneState (laneId n k).val = 0 → s.laneState (partner (laneId n k)).val ≠ 0 → s.laneSelfTest n k = s.laneResult n 1) ∧
    (s.laneState (laneId n k).val = 0 → s.laneState (partner (laneId n k)).val = 0 → 4 ≤ s.lanesTesting n →
      s.laneSelfTest n k = s.laneResult n 5) ∧
    (s.laneState (laneId n k).val = 0 → s.laneState (partner (laneId n k)).val = 0 → s.lanesTesting n < 4 → s.laneSelfTest n k =
      (({ s with laneFrom := s.laneFrom ++ [((laneId n k).val, true)] } : State).laneDrain (laneId n k)).laneResult n 0) ∧
    (s.laneState (laneId n k).val = 2 → 4 ≤ s.lanesTesting n → s.laneSelfTest n k = s.laneResult n 5) ∧
    (s.laneState (laneId n k).val = 2 → s.lanesTesting n < 4 → s.laneSelfTest n k =
      (({ s with laneFrom := s.laneFrom ++ [((laneId n k).val, false)] } : State).setLaneState (laneId n k).val 3).laneResult n 0) ∧
    (s.laneState (laneId n k).val = 1 ∨ s.laneState (laneId n k).val = 3 → s.laneSelfTest n k = s.laneResult n 0) := by
  refine ⟨fun hl hp => ?_, fun hl hp ht => ?_, fun hl hp ht => ?_, fun hl ht => ?_, fun hl ht => ?_, fun hl => ?_⟩ <;>
    rw [State.laneSelfTest] <;> simp only [h, ne_eq, not_true_eq_false, if_false]
  · simp only [hl, hp, not_false_eq_true, if_true]
  · simp only [hl, hp, ht, not_true_eq_false, if_false, if_true]
  · simp only [hl, hp, Nat.not_le.mpr ht, not_true_eq_false, if_false]
  · simp only [hl, ht, if_true]
  · simp only [hl, Nat.not_le.mpr ht, if_false]
  · rcases hl with hl | hl <;> simp only [hl]

end

/-! The actions as writes of JS_LANE_CTL -/

/-- What LANE_RETURN, LANE_OFFLINE and LANE_SELF_TEST write, for a 1 to 3. -/
def laneWord (a : Nat) (l : Fin 32) : W64 := BitVec.ofNat 64 (a * 2 ^ 62 + l.val)

/-- The action of a code. -/
def State.laneAct (s : State) (a : Nat) (n : SliceId) (k : Nat) : State :=
  match a with
  | 1 => s.laneReturn n k
  | 2 => s.laneOffline n k
  | _ => s.laneSelfTest n k

section
variable {s u : State} {n : SliceId} {l : Fin 32} {a : Nat}

theorem actionOf_laneWord (ha : a = 1 ∨ a = 2 ∨ a = 3) : actionOf .jsLaneCtl (laneWord a l) = a :=
  actionOf_code3 (fun _ => rfl) (by omega) (by omega)

theorem State.fld_put_lane (ha : a = 1 ∨ a = 2 ∨ a = 3) : (s.put .jsLaneCtl n (laneWord a l)).fld fJsLaneCtl_LANE n = l.val := by
  refine (State.fld_put_operand s fJsLaneCtl_LANE n a l.val (by decide) (by decide) (by decide) (by omega) (by omega) (by decide)).trans ?_
  exact (congrArg (· % 2 ^ 5) (Nat.div_one _)).trans (Nat.mod_eq_of_lt l.isLt)

theorem State.fld_written_lane (ha : a = 1 ∨ a = 2 ∨ a = 3) : (s.written .jsLaneCtl n (laneWord a l)).fld fJsLaneCtl_LANE n = l.val :=
  (State.fld_written s fJsLaneCtl_LANE n _).trans (State.fld_put_lane ha)

theorem State.act_lane (ha : a = 1 ∨ a = 2 ∨ a = 3) (hu : u.fld fJsLaneCtl_LANE n = l.val) :
    u.act ⟨.jsLaneCtl, n, 0⟩ a (laneWord a l) = u.laneAct a n l := by
  have hn : Fin.ofNat 8 n.val = n := Fin.ofNat_val_eq_self n
  rcases ha with rfl | rfl | rfl <;> simp only [State.act, hu, hn, State.laneAct]

/-- The states of slices and lanes, the failed lanes and the tests are as before the write of JS_LANE_CTL. -/
theorem State.lane_facts (h : s.SameBut .jsLaneCtl n u) :
    u.sliceState n = s.sliceState n ∧ (∀ x, u.laneState x = s.laneState x) ∧ (∀ x, u.laneFailed x = s.laneFailed x) ∧
      u.lanesTesting n = s.lanesTesting n := by
  refine ⟨h.fld fJsSliceCtl_STATE n 0 (by decide), fun x => ?_, fun x => ?_, ?_⟩
  · simp only [State.laneState, h.fld fJsLaneState_STATES _ 0 (by decide)]
  · simp only [State.laneFailed, h.fld fJsLaneFail_FAILED _ 0 (by decide)]
  · have hf : u.laneFrom = s.laneFrom := by rw [h.rest]
    simp only [State.lanesTesting, hf]

/-- The rows are whole writes of JS_LANE_CTL. -/
theorem exec_laneCtl (s : State) (n : SliceId) (l : Fin 32) :
    exec (.laneReturn n l) s = stepTo (s.putReg .jsLaneCtl n 0 .full (laneWord 1 l)) ∧
    exec (.laneOffline n l) s = stepTo (s.putReg .jsLaneCtl n 0 .full (laneWord 2 l)) ∧
    exec (.laneSelfTest n l) s = stepTo (s.putReg .jsLaneCtl n 0 .full (laneWord 3 l)) := ⟨rfl, rfl, rfl⟩

section
variable (h : s.serving) (ha : a = 1 ∨ a = 2 ∨ a = 3)
include h ha

theorem State.putReg_lane_busy (hb : s.fld fJsLaneCtl_BUSY n = 1) :
    s.putReg .jsLaneCtl n 0 .full (laneWord a l) = s.setFld fJsLaneCtl_RESULT 2 n :=
  actionReg_jsLaneCtl.putReg_busy h (RegRef.valid_slice _ n rfl (by decide)) nofun hb (by rw [actionOf_laneWord ha]; omega)

variable (hb : s.fld fJsLaneCtl_BUSY n = 0)
include hb

theorem State.putReg_lane_idle :
    s.putReg .jsLaneCtl n 0 .full (laneWord a l) =
      s.orRefused .jsLaneCtl n (laneWord a l) ((s.put .jsLaneCtl n (laneWord a l)).laneAct a n l) := by
  rw [actionReg_jsLaneCtl.putReg_idle h (RegRef.valid_slice _ n rfl (by decide)) nofun hb (actionOf_laneWord ha) (by omega),
    State.act_lane ha (State.fld_put_lane ha)]

/-- An action that its rule refuses changes RESULT alone. -/
theorem State.putReg_lane_refused {x : Nat} (hx : x % 16 = x) (h0 : x ≠ 0)
    (ht : (s.written .jsLaneCtl n (laneWord a l)).laneAct a n l = (s.written .jsLaneCtl n (laneWord a l)).laneResult n x) :
    s.putReg .jsLaneCtl n 0 .full (laneWord a l) = s.setFld fJsLaneCtl_RESULT x n := by
  refine actionReg_jsLaneCtl.putReg_result h (RegRef.valid_slice _ n rfl (by decide)) nofun hb (actionOf_laneWord ha) (by omega) hx h0 ?_
  rw [State.act_lane ha (State.fld_written_lane ha)]
  exact ht

end

section
variable (h : s.serving) (hb : s.fld fJsLaneCtl_BUSY n = 0)
include h hb

theorem State.putReg_lane_outOfService (ha : a = 1 ∨ a = 2 ∨ a = 3) (hs : s.sliceState n ≠ 0) :
    s.putReg .jsLaneCtl n 0 .full (laneWord a l) = s.setFld fJsLaneCtl_RESULT 4 n := by
  obtain ⟨e1, -⟩ := State.lane_facts (s.sameBut_written .jsLaneCtl n (laneWord a l))
  obtain ⟨c1, c2, c3⟩ := State.lane_outOfService (s := s.written .jsLaneCtl n (laneWord a l)) (n := n) (k := l) (by rw [e1]; exact hs)
  refine State.putReg_lane_refused h ha hb rfl (by decide) ?_
  rcases ha with rfl | rfl | rfl
  · exact c1
  · exact c2
  · exact c3

variable (hs : s.sliceState n = 0)
include hs

/-- A lane whose partner is out of service stays in service. -/
theorem State.putReg_lane_partner (ha : a = 2 ∨ a = 3) (hl : s.laneState (laneId n l).val = 0) (hp : s.laneState (partner (laneId n l)).val ≠ 0) :
    s.putReg .jsLaneCtl n 0 .full (laneWord a l) = s.setFld fJsLaneCtl_RESULT 1 n := by
  obtain ⟨e1, e2, -⟩ := State.lane_facts (s.sameBut_written .jsLaneCtl n (laneWord a l))
  obtain ⟨c1, -⟩ := State.laneOffline_cases (k := l) (e1.trans hs)
  obtain ⟨d1, -⟩ := State.laneSelfTest_cases (k := l) (e1.trans hs)
  rw [e2, e2] at c1 d1
  refine State.putReg_lane_refused h (.inr ha) hb rfl (by decide) ?_
  rcases ha with rfl | rfl
  · exact c1 hl hp
  · exact d1 hl hp

/-- No more than four lanes of a slice are tested at once. -/
theorem State.putReg_lane_testing (ht : 4 ≤ s.lanesTesting n)
    (hl : s.laneState (laneId n l).val = 0 ∧ s.laneState (partner (laneId n l)).val = 0 ∨ s.laneState (laneId n l).val = 2) :
    s.putReg .jsLaneCtl n 0 .full (laneWord 3 l) = s.setFld fJsLaneCtl_RESULT 5 n := by
  obtain ⟨e1, e2, -, e4⟩ := State.lane_facts (s.sameBut_written .jsLaneCtl n (laneWord 3 l))
  obtain ⟨-, d0, -, d2, -⟩ := State.laneSelfTest_cases (k := l) (e1.trans hs)
  rw [e2, e4] at d0 d2
  rw [e2] at d0
  refine State.putReg_lane_refused h (.inr (.inr rfl)) hb rfl (by decide) ?_
  rcases hl with ⟨hl, hp⟩ | hl
  · exact d0 hl hp ht
  · exact d2 hl ht

/-- A lane that failed its last self-test does not return. -/
theorem State.putReg_lane_failed (hl : s.laneState (laneId n l).val = 2) (hf : s.laneFailed (laneId n l) = true) :
    s.putReg .jsLaneCtl n 0 .full (laneWord 1 l) = s.setFld fJsLaneCtl_RESULT 3 n := by
  obtain ⟨e1, e2, e3, -⟩ := State.lane_facts (s.sameBut_written .jsLaneCtl n (laneWord 1 l))
  obtain ⟨-, -, c3, -⟩ := State.laneReturn_cases (k := l) (e1.trans hs)
  rw [e2, e3] at c3
  exact State.putReg_lane_refused h (.inl rfl) hb rfl (by decide) (c3 hl hf)

end
end

/-! A drain and a self-test end -/

section
variable {s : State} {n : SliceId} {k : Fin 32}

theorem exec_laneDrainDone_other (h : s.laneState (laneId n k).val ≠ 1 ∨ s.laneQuiet (laneId n k) = false) :
    exec (.laneDrainDone n k) s = .next s.settle := by
  show execLaneDrainDone n k s = _
  rw [execLaneDrainDone, ← stepTo_eq]
  exact congrArg stepTo (if_pos (by simpa using h))

/-- A lane that is drained, with its rows spilled and its cache empty (R395). -/
def State.laneDrained (s : State) (l : LaneId) : State :=
  ((({ s with accs := s.accs.map fun (a : Acc) => if a.lane = l then { a with spilled := true } else a } : State).resetCloche l).setLaneState
    l.val 2).eventE 0x23 l 0

theorem exec_laneDrainDone_quiet (h : s.laneState (laneId n k).val = 1) (hq : s.laneQuiet (laneId n k) = true) :
    let l := laneId n k
    let s2 := s.laneDrained l
    let s3 := s2.laneBit fJsLaneFail_PENDING l false
    (s2.laneTest l ≠ none → exec (.laneDrainDone n k) s = .next (s2.setLaneState l.val 3).settle) ∧
    (s2.laneTest l = none → s2.lanePending l = false → exec (.laneDrainDone n k) s = .next s2.settle) ∧
    (s2.laneTest l = none → s2.lanePending l = true →
      exec (.laneDrainDone n k) s = .next (if s3.laneFailed l then s3.laneResult n 3 else s3.laneBack l).settle) := by
  have key : exec (.laneDrainDone n k) s = stepTo (if ((s.laneDrained (laneId n k)).laneTest (laneId n k)).isSome then
      (s.laneDrained (laneId n k)).setLaneState (laneId n k).val 3
    else if (s.laneDrained (laneId n k)).lanePending (laneId n k) then
      if ((s.laneDrained (laneId n k)).laneBit fJsLaneFail_PENDING (laneId n k) false).laneFailed (laneId n k) then
        ((s.laneDrained (laneId n k)).laneBit fJsLaneFail_PENDING (laneId n k) false).laneResult n 3
      else ((s.laneDrained (laneId n k)).laneBit fJsLaneFail_PENDING (laneId n k) false).laneBack (laneId n k)
    else s.laneDrained (laneId n k)) := by
    show execLaneDrainDone n k s = _
    rw [execLaneDrainDone]
    exact congrArg stepTo (if_neg (by simp [h, hq]))
  intro l s2 s3
  refine ⟨fun ht => ?_, fun ht hp => ?_, fun ht hp => ?_⟩ <;> rw [key]
  · rw [if_pos (Option.isSome_iff_ne_none.mpr ht), stepTo_eq]
  · rw [if_neg (by simp only [s2, l] at ht; simp [ht]), if_neg (by simp only [s2, l] at hp; simp [hp]), stepTo_eq]
  · rw [if_neg (by simp only [s2, l] at ht; simp [ht]), if_pos hp, stepTo_eq]

theorem exec_laneSelfTestDone_other (h : s.laneState (laneId n k).val ≠ 3) (block : Byte) :
    exec (.laneSelfTestDone n k block) s = .next s.settle := by
  show execLaneSelfTestDone n k block s = _
  rw [execLaneSelfTestDone, ← stepTo_eq]
  exact congrArg stepTo (if_pos h)

/-- A self-test ends: its request and a pending return are forgotten (R396). -/
def State.laneTested (s : State) (l : LaneId) : State := (s.endLaneTest l).laneBit fJsLaneFail_PENDING l false

theorem exec_laneSelfTestDone_testing (h : s.laneState (laneId n k).val = 3) :
    let l := laneId n k
    let s1 := s.laneTested l
    (s.laneTest l = some true ∨ s.lanePending l = true →
      exec (.laneSelfTestDone n k 0) s = .next ((s1.laneBit fJsLaneFail_FAILED l false).laneBack l).settle) ∧
    (s.laneTest l ≠ some true → s.lanePending l = false →
      exec (.laneSelfTestDone n k 0) s = .next ((s1.laneBit fJsLaneFail_FAILED l false).setLaneState l.val 2).settle) ∧
    (∀ block : Byte, block ≠ 0 → exec (.laneSelfTestDone n k block) s =
      .next (((((s1.laneBit fJsLaneFail_FAILED l true).setLaneState l.val 2).laneResult n 3).eventE 0x24 l block.toNat).eventE 0x23 l 1).settle) := by
  have he (block : Byte) : exec (.laneSelfTestDone n k block) s = execLaneSelfTestDone n k block s := rfl
  have h3 : ¬s.laneState (laneId n k).val ≠ 3 := not_not_intro h
  intro l s1
  refine ⟨fun ht => ?_, fun ht hp => ?_, fun block hb => ?_⟩ <;> rw [he, execLaneSelfTestDone, ← stepTo_eq]
  · exact congrArg stepTo ((if_neg h3).trans ((if_pos rfl).trans (if_pos (by simpa using ht))))
  · exact congrArg stepTo ((if_neg h3).trans ((if_pos rfl).trans (if_neg (by simpa using ⟨ht, hp⟩))))
  · exact congrArg stepTo ((if_neg h3).trans (if_neg hb))

end

/-- Settles O47: the actions by BUSY and the states of slice, lane and partner, the drain's and the self-test's end by what was asked. -/
theorem laneService : Obligations.LaneService := by
  unfold Obligations.LaneService
  refine ⟨?_, ?_, ?_, fun s l => ⟨rfl, rfl⟩, fun s n k => ⟨exec_laneDrainDone_other, exec_laneDrainDone_quiet⟩,
    fun s n k => ⟨exec_laneSelfTestDone_other, exec_laneSelfTestDone_testing⟩⟩
  · intro s n l h
    obtain ⟨e1, e2, e3⟩ := exec_laneCtl s n l
    refine ⟨fun hb => ?_, fun hb => ?_⟩
    · intro r
      rw [State.putReg_lane_busy h (by decide) hb] at e1 e2 e3
      exact ⟨e1, e2, e3⟩
    · intro v s1
      rw [State.putReg_lane_idle h (by decide) hb] at e1 e2 e3
      exact ⟨e1, e2, e3⟩
  · intro s n l h hb k r
    obtain ⟨e1, e2, e3⟩ := exec_laneCtl s n l
    refine ⟨fun hs => ?_, fun hs hl hp => ?_, fun hs hl hp ht => ?_, fun hs hl ht => ?_, fun hs hl hf => ?_⟩
    · rw [State.putReg_lane_outOfService h hb (by decide) hs] at e1 e2 e3
      exact ⟨e1, e2, e3⟩
    · rw [State.putReg_lane_partner h hb hs (by decide) hl hp] at e2 e3
      exact ⟨e2, e3⟩
    · rw [State.putReg_lane_testing h hb hs ht (.inl ⟨hl, hp⟩)] at e3
      exact e3
    · rw [State.putReg_lane_testing h hb hs ht (.inr hl)] at e3
      exact e3
    · rw [State.putReg_lane_failed h hb hs hl hf] at e1
      exact e1
  · intro s n k hs l
    obtain ⟨r0, r13, -, r2⟩ := State.laneReturn_cases (k := k) hs
    obtain ⟨-, o0, o1, o23⟩ := State.laneOffline_cases (k := k) hs
    obtain ⟨-, -, t0, -, t2, t13⟩ := State.laneSelfTest_cases (k := k) hs
    exact ⟨r0, fun hl hp => ⟨o0 hl hp, t0 hl hp⟩, fun hl => ⟨r13 (.inl hl), o1 hl, t13 (.inl hl)⟩, fun hl => ⟨r2 hl, o23 (.inl hl), t2 hl⟩,
      fun hl => ⟨r13 (.inr hl), o23 (.inr hl), t13 (.inr hl)⟩⟩

end Sys2Proof.Machine
end

section
/-! PROOF. Event FIFOs are read; injections, FIFO protection, unit tests (R383, R389, R390, R397, R401, R407). -/
namespace Sys2Proof.Machine

/-! Event FIFOs -/

/-- A row that reads an event FIFO is a read of its register. -/
theorem exec_eventRead {s : State} (h : s.serving) (p : Part) (acc : RegAcc) :
    exec (.eventRead (some p) acc) s =
      .next ((s.readEvent (some p) acc).1.emit (.readData (viewOf acc (s.readEvent (some p) acc).2) false)).settle ∧
    exec (.eventRead none acc) s = .next ((s.readEvent none acc).1.emit (.readData (viewOf acc (s.readEvent none acc).2) false)).settle := by
  have e1 : exec (.eventRead (some p) acc) s = stepTo (s.getReg .jpEvent p 0 acc) := rfl
  have e2 : exec (.eventRead none acc) s = stepTo (s.getReg .jeEvent 0 0 acc) := rfl
  have r1 : s.readReg ⟨.jpEvent, p, 0⟩ acc = s.readEvent (some p) acc := by simp only [State.readReg, partOf_val]
  have r2 : s.readReg ⟨.jeEvent, 0, 0⟩ acc = s.readEvent none acc := by simp only [State.readReg]
  rw [e1, e2, State.getReg_of_serving h _ _ _ _ (RegRef.valid_part _ p rfl (by decide)) (State.sliceGone_reg _ _ _ _ (by decide)),
    State.getReg_of_serving h _ _ _ _ (RegRef.valid_hub _ rfl (by decide)) (State.sliceGone_reg _ _ _ _ (by decide)), r1, r2]
  exact ⟨rfl, rfl⟩

section
variable {q : EventFifo} {acc : RegAcc} {r : EventRec} {rest ws : List EventRec} {w : EventRec}

theorem EventRec.word_second (r : EventRec) : r.word 1 = r.b := rfl

/-- A low read of a record repeats its word. -/
theorem EventFifo.take_lo (ha : acc = .lo) : q.take acc r rest = ({ q with last := r.word q.pos }, false) := if_pos ha

theorem EventFifo.take_first (ha : acc ≠ .lo) (hp : q.pos = 0) : q.take acc r rest = ({ q with pos := 1, last := r.word 0 }, false) := by
  simp only [EventFifo.take, if_neg ha, hp, if_true]

/-- The second word frees the record's place. -/
theorem EventFifo.take_second (ha : acc ≠ .lo) (hp : q.pos = 1) :
    (q.waiting = [] → q.take acc r rest = (⟨rest, 0, r.b, []⟩, false)) ∧
    (q.waiting = w :: ws → q.take acc r rest = (⟨rest ++ [w], 0, r.b, ws⟩, true)) := by
  refine ⟨fun hw => ?_, fun hw => ?_⟩ <;>
    simp only [EventFifo.take, if_neg ha, hp, hw, EventRec.word_second, one_ne_zero, if_false]

end

/-- A read of a partition's FIFO by its records. -/
theorem State.readEvent_part (s : State) (p : Part) (acc : RegAcc) :
    ((s.part p).events.recs = [] → s.readEvent (some p) acc = (s.setFld fJpEventStatus_UNDERRUN 1 p, (s.part p).events.last)) ∧
    ∀ r rest, (s.part p).events.recs = r :: rest → ∀ q' b, (s.part p).events.take acc r rest = (q', b) →
      s.readEvent (some p) acc = (if b then (s.modPart p fun ps => { ps with events := q' }).partVector p
        else s.modPart p fun ps => { ps with events := q' }, r.word (s.part p).events.pos) := by
  refine ⟨fun hq => ?_, fun r rest hq q' b ht => ?_⟩
  · simp only [State.readEvent, hq]
  · simp only [State.readEvent, hq, ht]

/-- A read of the engine's FIFO by its records. -/
theorem State.readEvent_engine (s : State) (acc : RegAcc) :
    (s.engineEvents.recs = [] → s.readEvent none acc = (s.setFld fJeEventStatus_UNDERRUN 1, s.engineEvents.last)) ∧
    ∀ r rest, s.engineEvents.recs = r :: rest → ∀ q' b, s.engineEvents.take acc r rest = (q', b) →
      s.readEvent none acc = (if b ∧ s.fld fJeEventStatus_MASK = 0 then ({ s with engineEvents := q' } : State).emit (.irq 1040)
        else { s with engineEvents := q' }, r.word s.engineEvents.pos) := by
  refine ⟨fun hq => ?_, fun r rest hq q' b ht => ?_⟩
  · simp only [State.readEvent, hq]
  · simp only [State.readEvent, hq, ht]
    rfl

/-! Injections -/

theorem actionReg_jeInject : ActionReg .jeInject fJeInject_BUSY fJeInject_RESULT := .of_busyOf rfl

theorem valid_jeInject : RegRef.valid ⟨.jeInject, 0, 0⟩ := RegRef.valid_hub _ rfl (by decide)

/-- The action of a register that defines the code 1 alone. -/
theorem actionOf_code1 {r : RegId} (hr : ∀ pos, actionOf r pos = if bitsOf pos 62 2 = 1 then 1 else 0) {op : Nat} (ho : op < 2 ^ 62) :
    actionOf r (BitVec.ofNat 64 (1 * 2 ^ 62 + op)) = 1 := by
  have hbits : bitsOf (BitVec.ofNat 64 (1 * 2 ^ 62 + op)) 62 2 = 1 := action_bits 1 op (by decide) ho
  rw [hr, hbits, if_pos rfl]

/-- What INJECT_ARM writes beside its action. -/
def injectOperand (c : Fin 8) (p : Part) (kind : BitVec 2) : Nat := c.val * 2 ^ 48 + p.val * 2 ^ 40 + kind.toNat * 2 ^ 32

/-- What INJECT_ARM writes. -/
def injectWord (c : Fin 8) (p : Part) (kind : BitVec 2) : W64 := BitVec.ofNat 64 (1 * 2 ^ 62 + injectOperand c p kind)

section
variable {s u : State} {c : Fin 8} {p : Part} {kind : BitVec 2}

theorem injectOperand_lt : injectOperand c p kind < 2 ^ 62 := by
  unfold injectOperand
  omega

theorem actionOf_injectWord : actionOf .jeInject (injectWord c p kind) = 1 := actionOf_code1 (fun _ => rfl) injectOperand_lt

/-- CLASS, PART and KIND as the action reads them. -/
theorem State.fld_put_inject (s : State) (c : Fin 8) (p : Part) (kind : BitVec 2) :
    (s.put .jeInject 0 (injectWord c p kind)).fld fJeInject_CLASS = c.val ∧
    (s.put .jeInject 0 (injectWord c p kind)).fld fJeInject_PART = p.val ∧
    (s.put .jeInject 0 (injectWord c p kind)).fld fJeInject_KIND = kind.toNat := by
  refine ⟨?_, ?_, ?_⟩
  · refine (State.fld_put_operand s fJeInject_CLASS 0 1 (injectOperand c p kind) (by decide) (by decide) (by decide) (by decide)
      injectOperand_lt (by decide)).trans ?_
    show injectOperand c p kind / 2 ^ 48 % 2 ^ 3 = _
    unfold injectOperand
    omega
  · refine (State.fld_put_operand s fJeInject_PART 0 1 (injectOperand c p kind) (by decide) (by decide) (by decide) (by decide)
      injectOperand_lt (by decide)).trans ?_
    show injectOperand c p kind / 2 ^ 40 % 2 ^ 4 = _
    unfold injectOperand
    omega
  · refine (State.fld_put_operand s fJeInject_KIND 0 1 (injectOperand c p kind) (by decide) (by decide) (by decide) (by decide)
      injectOperand_lt (by decide)).trans ?_
    show injectOperand c p kind / 2 ^ 32 % 2 ^ 2 = _
    unfold injectOperand
    omega

theorem State.fld_written_inject (s : State) (c : Fin 8) (p : Part) (kind : BitVec 2) :
    (s.written .jeInject 0 (injectWord c p kind)).fld fJeInject_CLASS = c.val ∧
    (s.written .jeInject 0 (injectWord c p kind)).fld fJeInject_PART = p.val ∧
    (s.written .jeInject 0 (injectWord c p kind)).fld fJeInject_KIND = kind.toNat := by
  obtain ⟨h1, h2, h3⟩ := s.fld_put_inject c p kind
  exact ⟨(State.fld_written s fJeInject_CLASS 0 _).trans h1, (State.fld_written s fJeInject_PART 0 _).trans h2,
    (State.fld_written s fJeInject_KIND 0 _).trans h3⟩

theorem State.act_inject (u : State) (v : W64) : u.act ⟨.jeInject, 0, 0⟩ 1 v = u.injectArm := by simp only [State.act]

/-- An injection of a defined class is armed; class 0 is refused (R401). -/
theorem State.injectArm_cases (h : u.fld fJeInject_CLASS = c.val ∧ u.fld fJeInject_PART = p.val ∧ u.fld fJeInject_KIND = kind.toNat) :
    (c = 0 → u.injectArm = u.setFld fJeInject_RESULT 1) ∧
    (c ≠ 0 → u.injectArm =
      (({ u with armed := some (c.val, p, kind.toNat) } : State).setFld fJeInject_BUSY 1).setFld fJeInject_RESULT 0) := by
  obtain ⟨h1, h2, h3⟩ := h
  refine ⟨fun hc => ?_, fun hc => ?_⟩ <;> rw [State.injectArm, h1]
  · rw [hc]
    exact if_pos rfl
  · have h0 : c.val ≠ 0 := fun h0 => hc (Fin.ext h0)
    rw [if_neg h0, h2, h3, partOf_val]

theorem exec_injectArm (s : State) (c : Fin 8) (p : Part) (kind : BitVec 2) :
    exec (.injectArm c p kind) s = stepTo (s.putReg .jeInject 0 0 .full (injectWord c p kind)) := rfl

section
variable (h : s.serving) (hb : s.fld fJeInject_BUSY = 0)
include h hb

theorem State.putReg_inject_refused (hc : c = 0) :
    s.putReg .jeInject 0 0 .full (injectWord c p kind) = s.setFld fJeInject_RESULT 1 := by
  obtain ⟨c0, -⟩ := State.injectArm_cases (s.fld_written_inject c p kind)
  refine actionReg_jeInject.putReg_result h valid_jeInject nofun hb actionOf_injectWord (by decide) rfl (by decide) ?_
  rw [State.act_inject]
  exact c0 hc

theorem State.putReg_inject_armed (hc : c ≠ 0) :
    s.putReg .jeInject 0 0 .full (injectWord c p kind) =
      (({ s.put .jeInject 0 (injectWord c p kind) with armed := some (c.val, p, kind.toNat) } : State).setFld fJeInject_BUSY 1).setFld
        fJeInject_RESULT 0 := by
  obtain ⟨-, c1⟩ := State.injectArm_cases (s.fld_written_inject c p kind)
  obtain ⟨-, d1⟩ := State.injectArm_cases (s.fld_put_inject c p kind)
  rw [actionReg_jeInject.putReg_done h valid_jeInject nofun hb actionOf_injectWord (by decide), State.act_inject, d1 hc]
  rw [State.act_inject, c1 hc]
  exact State.fld_setFld_self _ fJeInject_RESULT 0 0 0 (by decide)

end
end

/-! FIFO protection -/

/-- A window that ends, by whether its class passed its threshold in automatic mode (R383). -/
theorem exec_fifoErrorWindow (s : State) (c : Fin 8) :
    let k := s.fld fJeFifoStat_WINDOW c
    let past := c ≠ 0 ∧ s.fld fJeFifoCtl_AUTO c = 1 ∧ s.fld fJeFifoCtl_MODE c = 0 ∧ s.fld fJeFifoCtl_THRESH c < k
    (past → exec (.fifoErrorWindow c) s = .next ((((s.setFld fJeFifoCtl_MODE 1 c).eventE 0x26 c k)).setFld fJeFifoStat_WINDOW 0 c).settle) ∧
    (¬past → exec (.fifoErrorWindow c) s = .next (s.setFld fJeFifoStat_WINDOW 0 c).settle) := by
  have he : exec (.fifoErrorWindow c) s = execFifoErrorWindow c s := rfl
  intro k past
  refine ⟨fun hp => ?_, fun hp => ?_⟩ <;> rw [he, execFifoErrorWindow, ← stepTo_eq]
  · exact congrArg (fun t : State => stepTo (t.setFld fJeFifoStat_WINDOW 0 c)) (if_pos hp)
  · exact congrArg (fun t : State => stepTo (t.setFld fJeFifoStat_WINDOW 0 c)) (if_neg hp)

/-! The Winnow's self-test -/

theorem actionReg_jeUnitTest : ActionReg .jeUnitTest fJeUnitTest_BUSY fJeUnitTest_RESULT := .of_busyOf rfl

theorem valid_jeUnitTest : RegRef.valid ⟨.jeUnitTest, 0, 0⟩ := RegRef.valid_hub _ rfl (by decide)

/-- What WINNOW_SELF_TEST writes. -/
def unitTestWord : W64 := BitVec.ofNat 64 (1 * 2 ^ 62)

theorem actionOf_unitTestWord : actionOf .jeUnitTest unitTestWord = 1 := actionOf_code1 (op := 0) (fun _ => rfl) (by decide)

/-- The power state that is counted and reported changes no register but its own. -/
theorem State.reg_setPower (s : State) (st : Nat) (r : RegId) (i j : Nat) (h1 : r ≠ .jePwrResid) (h2 : r ≠ .jePwrStatus) :
    (s.setPower st).reg r i j = s.reg r i j := by
  rw [State.setPower]
  split
  · rfl
  · have ha : s.accrue.reg r i j = s.reg r i j := State.reg_setReg_ne _ _ fun he => h1 (congrArg RegRef.reg he).symm
    exact ((s.accrue.sameBut_setFld fJePwrStatus_STATE st 0).reg r i j h2).trans ha

theorem State.fld_restSync (s : State) (f : Fld) (i : Nat) (h1 : f.reg ≠ .jePwrResid) (h2 : f.reg ≠ .jePwrStatus) :
    s.restSync.fld f i = s.fld f i := by
  rw [State.restSync]
  split
  · rfl
  · simp only [State.fld, State.reg_setPower _ _ _ _ _ h1 h2]

/-- The Winnow tests itself in BYPASS (R397). -/
theorem State.winnowSelfTest_cases {s u : State} (h : s.SameBut .jeUnitTest 0 u) :
    (s.fld fJeWinnowCtl_STATE = 2 → u.winnowSelfTest = ((u.setFld fJeUnitTest_BUSY 1).setFld fJeUnitTest_RESULT 0).restSync) ∧
    (s.fld fJeWinnowCtl_STATE ≠ 2 → u.winnowSelfTest = u.setFld fJeUnitTest_RESULT 1) := by
  refine ⟨fun hw => ?_, fun hw => ?_⟩ <;> rw [State.winnowSelfTest, h.fld fJeWinnowCtl_STATE 0 0 (by decide)]
  · rw [if_pos hw]
  · rw [if_neg hw]

theorem exec_winnowSelfTest (s : State) : exec .winnowSelfTest s = stepTo (s.putReg .jeUnitTest 0 0 .full unitTestWord) := rfl

theorem State.act_unitTest (u : State) (v : W64) : u.act ⟨.jeUnitTest, 0, 0⟩ 1 v = u.winnowSelfTest := by simp only [State.act]

section
variable {s : State} (h : s.serving) (hb : s.fld fJeUnitTest_BUSY = 0)
include h hb

theorem State.putReg_unitTest_refused (hw : s.fld fJeWinnowCtl_STATE ≠ 2) :
    s.putReg .jeUnitTest 0 0 .full unitTestWord = s.setFld fJeUnitTest_RESULT 1 := by
  obtain ⟨-, c1⟩ := State.winnowSelfTest_cases (s.sameBut_written .jeUnitTest 0 unitTestWord)
  refine actionReg_jeUnitTest.putReg_result h valid_jeUnitTest nofun hb actionOf_unitTestWord (by decide) rfl (by decide) ?_
  rw [State.act_unitTest]
  exact c1 hw

theorem State.putReg_unitTest_begins (hw : s.fld fJeWinnowCtl_STATE = 2) :
    s.putReg .jeUnitTest 0 0 .full unitTestWord =
      (((s.put .jeUnitTest 0 unitTestWord).setFld fJeUnitTest_BUSY 1).setFld fJeUnitTest_RESULT 0).restSync := by
  obtain ⟨c2, -⟩ := State.winnowSelfTest_cases (s.sameBut_written .jeUnitTest 0 unitTestWord)
  obtain ⟨d2, -⟩ := State.winnowSelfTest_cases (s.sameBut_put .jeUnitTest 0 unitTestWord (by decide) (by decide))
  rw [actionReg_jeUnitTest.putReg_done h valid_jeUnitTest nofun hb actionOf_unitTestWord (by decide), State.act_unitTest, d2 hw]
  rw [State.act_unitTest, c2 hw, State.fld_restSync _ _ _ (by decide) (by decide)]
  exact State.fld_setFld_self _ fJeUnitTest_RESULT 0 0 0 (by decide)

end

/-- A self-test's end by whether one runs and by the block that failed (R397). -/
theorem exec_winnowSelfTestDone (s : State) (block : Byte) :
    (s.fld fJeUnitTest_BUSY ≠ 1 → exec (.winnowSelfTestDone block) s = .next s.settle) ∧
    (s.fld fJeUnitTest_BUSY = 1 →
      let s1 := (s.setFld fJeUnitTest_BUSY 0).restSync
      (block = 0 → exec (.winnowSelfTestDone block) s = .next (s1.setFld fJeUnitTest_RESULT 0).settle) ∧
      (block ≠ 0 → exec (.winnowSelfTestDone block) s = .next ((s1.setFld fJeUnitTest_RESULT 3).eventE 0x25 block.toNat 0).settle)) := by
  have he : exec (.winnowSelfTestDone block) s = execWinnowSelfTestDone block s := rfl
  refine ⟨fun hb => ?_, fun hb => ⟨fun h0 => ?_, fun h0 => ?_⟩⟩ <;> rw [he, execWinnowSelfTestDone, ← stepTo_eq]
  · rw [if_pos hb]
  · exact congrArg stepTo ((if_neg (not_not_intro hb)).trans (if_pos h0))
  · exact congrArg stepTo ((if_neg (not_not_intro hb)).trans (if_neg h0))

/-- Settles O49: a FIFO's reads by its records and the word read, the actions by BUSY, the class and the Winnow's state. -/
theorem eventsAndTests : Obligations.EventsAndTests := by
  unfold Obligations.EventsAndTests
  refine ⟨fun s p acc h => exec_eventRead h p acc, ?_, ?_, ?_, exec_fifoErrorWindow, ?_, exec_winnowSelfTestDone⟩
  · intro s p acc q with_
    obtain ⟨r0, r1⟩ := s.readEvent_part p acc
    refine ⟨r0, fun r rest hq ha => ?_, fun r rest hq ha hp => ?_, fun r rest hq ha hp hw => ?_, fun r rest w ws hq ha hp hw => ?_⟩
    · exact r1 r rest hq _ _ (EventFifo.take_lo ha)
    · rw [r1 r rest hq _ _ (EventFifo.take_first ha hp), show (s.part p).events.pos = 0 from hp]
      rfl
    · rw [r1 r rest hq _ _ ((EventFifo.take_second (w := r) (ws := []) ha hp).1 hw), show (s.part p).events.pos = 1 from hp]
      rfl
    · rw [r1 r rest hq _ _ ((EventFifo.take_second ha hp).2 hw), show (s.part p).events.pos = 1 from hp]
      rfl
  · intro s acc q with_
    obtain ⟨r0, r1⟩ := s.readEvent_engine acc
    refine ⟨r0, fun r rest hq ha => ?_, fun r rest hq ha hp => ?_, fun r rest hq ha hp hw => ?_, fun r rest w ws hq ha hp hw => ?_⟩
    · rw [r1 r rest hq _ _ (EventFifo.take_lo ha), if_neg nofun]
    · rw [r1 r rest hq _ _ (EventFifo.take_first ha hp), if_neg nofun, show s.engineEvents.pos = 0 from hp]
    · rw [r1 r rest hq _ _ ((EventFifo.take_second (w := r) (ws := []) ha hp).1 hw), if_neg nofun, show s.engineEvents.pos = 1 from hp]
      rfl
    · intro t
      rw [r1 r rest hq _ _ ((EventFifo.take_second ha hp).2 hw), show s.engineEvents.pos = 1 from hp]
      simp only [true_and]
      rfl
  · intro s c p kind h
    have key := exec_injectArm s c p kind
    refine ⟨fun hb => ?_, fun hb => ⟨fun hc => ?_, fun hc => ?_⟩⟩
    · rw [actionReg_jeInject.putReg_busy h valid_jeInject nofun hb (by rw [actionOf_injectWord]; decide)] at key
      exact key
    · rw [State.putReg_inject_refused h hb hc] at key
      exact key
    · rw [State.putReg_inject_armed h hb hc] at key
      exact key
  · intro s h
    have key := exec_winnowSelfTest s
    refine ⟨fun hb => ?_, fun hb => ⟨fun hw => ?_, fun hw => ?_⟩⟩
    · rw [actionReg_jeUnitTest.putReg_busy h valid_jeUnitTest nofun hb (by rw [actionOf_unitTestWord]; decide)] at key
      exact key
    · rw [State.putReg_unitTest_begins h hb hw] at key
      exact key
    · rw [State.putReg_unitTest_refused h hb hw] at key
      exact key

end Sys2Proof.Machine
end

section
/-! PROOF. The end of a command (R42, R216): the WAITs it releases, and that none stays blocked past its target. -/
namespace Sys2Proof.Machine

/-- A blocked WAIT has reached its target: its source stands at TARGET or past it (R42). -/
abbrev State.reached (s : State) (x : Tracker) : Prop :=
  x.op = 0x02 ∧ x.phase = .running ∧ (s.waitValue x.cmd).any (fun v => decide (cW2 x.cmd ≤ v)) = true

/-- What the end of a command makes of a tracker. -/
def State.released (s : State) (x : Tracker) : Tracker := if s.reached x then { x with phase := .done } else x

theorem State.wake_trackers (s : State) : s.wake.trackers = s.trackers.map s.released := rfl

theorem State.released_of_reached {s : State} {x : Tracker} (h : s.reached x) : s.released x = { x with phase := .done } := if_pos h

theorem State.released_of_not {s : State} {x : Tracker} (h : ¬ s.reached x) : s.released x = x := if_neg h

/-- A WAIT that still runs after the release was not due. -/
theorem State.released_running {s : State} {x : Tracker} (h : (s.released x).phase = .running) : ¬ s.reached x := fun hr => by
  rw [State.released_of_reached hr] at h
  cases h

/-- A WAIT whose source is short of TARGET has not reached it. -/
theorem State.not_reached_of_lt {s : State} {x : Tracker} {v : W64} (hv : s.waitValue x.cmd = some v) (hlt : v < cW2 x.cmd) : ¬ s.reached x := by
  rintro ⟨-, -, h⟩
  rw [hv, Option.any_some, decide_eq_true_eq] at h
  exact BitVec.not_lt.2 h hlt

theorem State.reached_of_le {s : State} {x : Tracker} {v : W64} (ho : x.op = 0x02) (hp : x.phase = .running) (hv : s.waitValue x.cmd = some v)
    (hle : cW2 x.cmd ≤ v) : s.reached x := ⟨ho, hp, by rw [hv, Option.any_some, decide_eq_true_eq]; exact hle⟩

/-- After the end of a command every blocked WAIT waits for a source short of its target. -/
theorem State.settle_waitsBlocked (s : State) : s.settle.waitsBlocked := by
  intro y hy ho hp v hv
  obtain ⟨x, -, rfl⟩ := List.mem_map.1 (State.wake_trackers s.syncObjs ▸ hy)
  have hn := State.released_running hp
  rw [State.released_of_not hn] at ho hp hv ⊢
  by_contra hlt
  exact hn (State.reached_of_le ho hp hv (BitVec.not_lt.1 hlt))

/-- A command that does not stop the block leaves the end of some state: every arm ends in stepTo, and only the return of a granule past
the end of a memory faults. -/
theorem exec_ends (c : Instr) (s t : State) (h : exec c s = .next t) : ∃ u : State, t = u.settle := by
  have stop {b : Prop} [Decidable b] {u : State} (h : (if b then .fault .outsideSpace else stepTo u) = .next t) : ∃ u : State, t = u.settle := by
    split at h
    · cases h
    · exact ⟨u, (Host.Outcome.next.inj h).symm⟩
  cases c
  case hbmReadReturn => exact stop h
  case boardReadReturn => exact stop h
  all_goals exact ⟨_, (Host.Outcome.next.inj h).symm⟩

/-- Settles O52: a step that takes no command changes nothing, and every command ends in the release of the WAITs that are due. -/
theorem waitsNeverMissed : Obligations.WaitsNeverMissed := by
  unfold Obligations.WaitsNeverMissed
  intro s t hs h
  unfold step at h
  split at h
  · cases h
    exact hs
  · obtain ⟨u, rfl⟩ := exec_ends _ _ _ h
    exact u.settle_waitsBlocked

/-- Settles O54: with no record due the end of a command is the release alone, tracker by tracker. -/
theorem settleFrame : Obligations.SettleFrame := by
  unfold Obligations.SettleFrame
  intro s hs
  rw [s.settle_of_synced hs]
  refine ⟨rfl, fun _ _ _ => rfl, fun _ => rfl, by rw [s.wake_trackers, List.length_map], fun k x hk => ?_⟩
  refine ⟨s.released x, by rw [s.wake_trackers, List.getElem?_map, hk]; rfl, ?_, fun hn => ?_, fun v ho hv hlt => ?_, fun v ho hp hv hle => ?_⟩
  · by_cases hr : s.reached x
    · exact .inr (State.released_of_reached hr)
    · exact .inl (State.released_of_not hr)
  · exact State.released_of_not fun ⟨ho, hp, _⟩ => hn.elim (· ho) (· hp)
  · exact State.released_of_not (State.not_reached_of_lt hv hlt)
  · exact State.released_of_reached (State.reached_of_le ho hp hv hle)

/-- In reset every register reads its reset value. -/
theorem State.reg_reset (r : RegId) (i j : Nat) : State.reset.reg r i j = r.resetVal i := rfl

/-- In reset a field reads zero where the reset value of its register does. -/
theorem State.fld_reset {f : Fld} {i j : Nat} (h : bitsOf (f.reg.resetVal i) f.lo f.len = 0) : State.reset.fld f i j = 0 := h

/-- Settles O53: the empty lists of the reset state, and the reset values of the registers that say a state. -/
theorem resetState : Obligations.ResetState := by
  unfold Obligations.ResetState
  have hnone {α : Type} {q : α → Prop} : ∀ x ∈ ([] : List α), q x := fun x hx => nomatch hx
  refine ⟨hnone, hnone, ⟨.nil, hnone⟩, rfl, rfl, State.reg_reset, fun _ => rfl, fun p => ?_, rfl, rfl, rfl, rfl, rfl, rfl, rfl, rfl, rfl, rfl,
    rfl, rfl, fun n => State.fld_reset (by revert n; decide)⟩
  exact decide_eq_true (State.fld_reset rfl)

end Sys2Proof.Machine
end

section
/-! PROOF. Accesses to a register: plain writes, directories, reads, malformed accesses (R5 to R9, R34, R406). -/
namespace Sys2Proof.Machine

/-- A directory is a register of its partition that takes half writes. -/
theorem isDir_facts {r : RegId} (h : isDir r = true) : r.row.space = .part ∧ 0 < r.row.count ∧ wholeOnly r = false ∧ r ≠ .jpXmark ∧
    r ≠ .jpXlatIndex ∧ (∀ pos, actionOf r pos = 0) ∧ ∀ (t old : State) i j pos, t.wrote old ⟨r, i, j⟩ pos = t := by
  simp only [isDir, Bool.or_eq_true, decide_eq_true_eq] at h
  obtain (((rfl | rfl) | rfl) | rfl) | rfl := h
  all_goals exact ⟨rfl, by decide, by decide, by decide, by decide, fun _ => rfl, fun _ _ _ _ _ => rfl⟩

/-- A write of a directory has its effect while its partition is DISABLED, and raises event 0x03 otherwise (R34, R409). -/
theorem State.writeReg_dir (s : State) {r : RegId} (h : isDir r = true) (p : Part) (acc : RegAcc) (v : W64) :
    s.writeReg (r.addr p + accOff acc) ⟨r, p, 0⟩ acc v =
      if s.partDisabled p then s.stored ⟨r, p, 0⟩ acc v else s.eventE 0x03 (r.addr p + accOff acc) (busValue acc v) := by
  obtain ⟨-, -, -, hx, hi, ha, hw⟩ := isDir_facts h
  cases hp : s.partDisabled p <;> simp [State.writeReg, h, hp, hx, hi, ha, hw, State.stored, RegRef.addr, busValue]

/-- A read of a register that is no FIFO and no count of the always-on controller. -/
theorem State.readReg_quiet (s : State) {x : RegRef} (acc : RegAcc) (hf : x.reg.fifo = false) (ht : x.reg.timed = false) :
    s.readReg x acc = (s.cleared x acc, s.viewReg x) := by
  unfold State.readReg
  split
  case h_7 => rfl
  all_goals exact absurd ‹x.reg = _› (by simp_all [RegId.fifo, RegId.timed])

/-- A read whose width or alignment is wrong (R6). -/
theorem State.busRead_malformed (s : State) {off : Nat} {w : AccW} (ho : off < 0x2000000) (ha : accOf off w = none) :
    s.busRead off w = (s.eventE 0x01 off (16 * accBytes w), 0) := by
  simp [State.busRead, ha, Nat.not_le.2 ho, State.malformed, Nat.mul_comm]

/-- A write whose width or alignment is wrong (R6). -/
theorem State.busWrite_malformed (s : State) {off : Nat} {w : AccW} (v : W64) (ho : off < 0x2000000) (ha : accOf off w = none) :
    s.busWrite off w v = s.eventE 0x01 off (1 + 16 * accBytes w) := by
  simp [State.busWrite, ha, Nat.not_le.2 ho, State.malformed, Nat.mul_comm]

/-- Settles O1, by the path of an access: the reach of a register, and what its write and its read then do. -/
theorem registerAccesses : Obligations.RegisterAccesses := by
  unfold Obligations.RegisterAccesses
  refine ⟨?_, ?_, ?_, ?_, ?_⟩
  · intro s x acc v h hx hg hp
    obtain ⟨hd, hm, ha, hi, hw, hwr, -⟩ := x.reg.plain_facts hp
    show stepTo _ = _
    rw [State.apWrite_reg h hx hg acc v (.inl hw), State.writeReg_plain s x acc v (ha _) hd hm hi, hwr, stepTo_eq]
  · intro s p r acc v h hr
    obtain ⟨hsp, hc, hw, -⟩ := isDir_facts hr
    show stepTo (s.putReg r p 0 acc v) = _
    rw [State.putReg_of_serving h r p 0 acc v (RegRef.valid_part r p hsp hc) (s.sliceGone_reg r p 0 (by simp [hsp])) (.inl hw), stepTo_eq]
    exact congrArg (fun t : State => Host.Outcome.next t.settle) (s.writeReg_dir hr p acc v)
  · intro s x acc h hx hg hf ht
    have hread := State.getReg_of_serving h x.reg x.i x.j acc hx hg
    show stepTo (s.apRead _ _) = _
    rw [BitVec.toNat_ofNat, Nat.mod_eq_of_lt (by have := RegRef.addr_lt hx; omega), Nat.div_mul_cancel (Nat.dvd_of_mod_eq_zero x.addr_aligned),
      stepTo_eq]
    simp only [State.getReg, s.readReg_quiet acc hf ht] at hread
    exact congrArg (fun t : State => Host.Outcome.next t.settle) hread
  · intro s off w h ho ha
    show stepTo (s.apRead off w) = _
    rw [State.apRead_of_serving h, State.busRead_malformed s ho ha, stepTo_eq]
  · intro s off w v h ho ha
    show stepTo (s.apWrite off w v) = _
    rw [State.apWrite_of_serving h, State.busWrite_malformed s v ho ha, stepTo_eq]

end Sys2Proof.Machine
end

section
/-! PROOF. Doorbells: how one arrives, enters the buffer and leaves it (R26, R28, R29). -/
namespace Sys2Proof.Machine

section
variable {s : State} {r : RingNo} {n : W32} {p : Part} {x : Ring}

/-- A ring whose context is not cached asks for its read (R25). -/
theorem State.needCtx_uncached (hr : s.ring r = some x) (hc : x.cached = false) :
    s.needCtx r = ({ s with ctxReads := if r ∈ s.ctxReads then s.ctxReads else s.ctxReads ++ [r] }, false) := by
  simp only [State.needCtx, hr, hc, Bool.false_eq_true, if_false]

theorem State.dbArrive_unowned (ho : s.ringOwner r.toNat = none) : s.dbArrive r n = s := by
  simp only [State.dbArrive, ho]

/-- A doorbell of a ring that is not enabled, or of a partition that is not, is discarded (R28). -/
theorem State.dbArrive_disabled (ho : s.ringOwner r.toNat = some p) (h : s.partEnabled p = false ∨ s.ring r = none) :
    s.dbArrive r n = s.dbDiscard p 0x04 fJpDbStat_DISABLED r n := by
  simp only [State.dbArrive, ho]
  rw [if_pos (h.imp_left fun he => by rw [he]; rfl)]

/-- A doorbell of an enabled ring goes on as its context allows. -/
theorem State.dbArrive_enabled (ho : s.ringOwner r.toNat = some p) (he : s.partEnabled p = true) (hr : s.ring r = some x) :
    s.dbArrive r n = if (s.needCtx r).2 then (s.needCtx r).1.dbEnter r n
      else { (s.needCtx r).1 with dbWait := (s.needCtx r).1.dbWait ++ [(r, n)] } := by
  simp only [State.dbArrive, ho]
  rw [if_neg (by simp [he, hr])]
  split <;> rename_i hn <;> rw [hn] <;> rfl

/-- A value that leaves the buffer for a ring that is not enabled is discarded. -/
theorem State.dbApply_closed (ho : s.ringOwner r.toNat = some p) (hr : s.ring r = none) :
    s.dbApply r n = s.dbDiscard p 0x04 fJpDbStat_DISABLED r n := by
  simp only [State.dbApply, ho, hr]

/-- A value that leaves the buffer for an enabled ring is compared with PRODUCED (R28). -/
theorem State.dbApply_open (ho : s.ringOwner r.toNat = some p) (hr : s.ring r = some x) :
    s.dbApply r n =
      if s.partEnabled p = false then s.dbDiscard p 0x04 fJpDbStat_DISABLED r n
      else if n = x.ctx.produced then s
      else if behind n x.ctx.produced then s.dbDiscard p 0x05 fJpDbStat_REGRESS r n
      else if x.ctx.size < (n - x.ctx.completed).toNat then s.dbDiscard p 0x06 fJpDbStat_OVERRUN r n
      else (s.modRing r fun y => { y with ctx := { y.ctx with produced := n } }).emit (.dbAccepted r) := by
  simp only [State.dbApply, ho, hr, Bool.not_eq_true']

/-- A doorbell against the ring's entry in the buffer, or anew (R29). -/
theorem State.dbEnter_open (hr : s.ring r = some x) :
    s.dbEnter r n =
      match s.dbBuf.find? (fun e => decide (e.1 = r)) with
      | none => if s.dbBuf.length < 8192 then { s with dbBuf := s.dbBuf ++ [(r, n)] } else { s with dbWait := s.dbWait ++ [(r, n)] }
      | some e =>
        if n = e.2 then s
        else if behind n e.2 then s.dbDiscard x.part 0x05 fJpDbStat_REGRESS r n
        else if x.ctx.size < (n - x.ctx.completed).toNat then s.dbDiscard x.part 0x06 fJpDbStat_OVERRUN r n
        else { s with dbBuf := s.dbBuf.map fun e => if e.1 = r then (r, n) else e } := by
  simp only [State.dbEnter, hr]
  cases s.dbBuf.find? (fun e => decide (e.1 = r)) <;> rfl

/-- A write to the doorbell arrays while the block serves (R26). -/
theorem exec_doorbellWrite_at (h : s.serving) (off : BitVec 25) (w : AccW) (v : W64) :
    exec (.doorbellWrite off w v) s = .next (s.doorbell off w v).settle := by
  show stepTo _ = _
  simp only [h.1, State.enabling_of_serving h, State.orHold_of_serving h, Bool.not_true, Bool.false_eq_true, if_false, stepTo_eq]

/-- The oldest doorbell that waits enters where the buffer has space, or an entry of its ring (R29). -/
theorem exec_doorbellSpaceFreed (hf : s.dbWait.find? (fun e => (s.ring e.1).any (·.cached)) = some (r, n))
    (hs : s.dbBuf.length < 8192 ∨ ∃ e ∈ s.dbBuf, e.1 = r) :
    exec .doorbellSpaceFreed s = .next (({ s with dbWait := eraseFirst (fun x => decide (x = (r, n))) s.dbWait } : State).dbEnter r n).settle := by
  have hroom : ¬(8192 ≤ s.dbBuf.length ∧ (!(s.dbBuf.any fun b => decide (b.1 = r))) = true) := by
    rintro ⟨hl, hb⟩
    rcases hs with hs | ⟨e, he, rfl⟩
    · omega
    · simp only [Bool.not_eq_true', List.any_eq_false, decide_eq_true_eq] at hb
      exact hb e he rfl
  show execDoorbellSpaceFreed s = _
  simp only [execDoorbellSpaceFreed, hf, if_neg hroom, stepTo_eq]

section
variable {rest : List (RingNo × W32)} (hb : s.dbBuf = (r, n) :: rest)
include hb

theorem exec_doorbellBufferTake_closed (hr : s.ring r = none) :
    exec .doorbellBufferTake s = .next (({ s with dbBuf := rest } : State).dbApply r n).settle := by
  show execDoorbellBufferTake s = _
  simp only [execDoorbellBufferTake, hb, hr, if_true, stepTo_eq]

theorem exec_doorbellBufferTake_uncached (hr : s.ring r = some x) (hc : x.cached = false) :
    exec .doorbellBufferTake s = .next ({ s with ctxReads := if r ∈ s.ctxReads then s.ctxReads else s.ctxReads ++ [r] } : State).settle := by
  show execDoorbellBufferTake s = _
  simp only [execDoorbellBufferTake, hb, hr, reduceCtorEq, if_false, State.needCtx_uncached hr hc, stepTo_eq]

theorem exec_doorbellBufferTake_cached (hr : s.ctxAt r x) :
    exec .doorbellBufferTake s = .next (({ s.ctxUsed r with dbBuf := rest } : State).dbApply r n).settle := by
  show execDoorbellBufferTake s = _
  simp only [execDoorbellBufferTake, hb, hr.1, reduceCtorEq, if_false, State.needCtx_ctxAt s r x hr, stepTo_eq]

end
end

/-- Settles O3: the arrival, the entry, the writes beside a doorbell, the wait for space and the take, each by its cases. -/
theorem doorbells : Obligations.Doorbells := by
  unfold Obligations.Doorbells
  refine ⟨?_, fun s r n x hr => State.dbEnter_open hr, ?_, fun s r n hf hs => exec_doorbellSpaceFreed hf hs, ?_⟩
  · intro s r w v h hw
    have key := exec_doorbellWrite h r w v hw
    refine ⟨fun ho => ?_, fun p ho hd => ?_, fun p x ho he hr hc => ?_, fun p x ho he hr => ?_⟩
    · rwa [State.dbArrive_unowned ho] at key
    · rwa [State.dbArrive_disabled ho hd] at key
    · rwa [State.dbArrive_enabled ho he hr, State.needCtx_uncached hr hc, if_neg Bool.false_ne_true] at key
    · rwa [State.dbArrive_enabled ho he hr.1, State.needCtx_ctxAt s r x hr, if_pos rfl] at key
  · intro s off w v h
    refine ⟨fun ho => ?_, fun ho hn => ?_⟩ <;> rw [exec_doorbellWrite_at h, State.doorbell]
    · rw [if_pos (.inr ho)]
    · rw [if_neg (by simp [h.2.1, ho]), if_neg hn]
      rfl
  · intro s r n rest hb
    refine ⟨fun p ho hr => ?_, fun x hr hc => exec_doorbellBufferTake_uncached hb hr hc, fun p x ho hr => ?_⟩
    · exact (exec_doorbellBufferTake_closed hb hr).trans (congrArg (fun t : State => Host.Outcome.next t.settle) (State.dbApply_closed ho hr))
    · exact (exec_doorbellBufferTake_cached hb hr).trans (congrArg (fun t : State => Host.Outcome.next t.settle) (State.dbApply_open ho hr.1))

end Sys2Proof.Machine
end

section
/-! PROOF. Ring contexts and command slots return (R22, R25, R415). -/
namespace Sys2Proof.Machine

/-- With 4,096 other contexts cached the least recently used of them is written back and leaves (R25). -/
theorem State.cacheCtx_full (s : State) {r v : RingNo} {l : List RingNo} {y : Ring} (hl : s.ctxLru.filter (fun y => decide (y ≠ r)) = l ++ [v])
    (hn : l.length = 4095)
    (hy : ({ s with ctxLru := r :: l, rings := updFirst (fun y => decide (y.no = r)) (fun y => { y with cached := true }) s.rings } : State).ring v =
      some y) :
    s.cacheCtx r =
      (({ s with ctxLru := r :: l, rings := updFirst (fun y => decide (y.no = r)) (fun y => { y with cached := true }) s.rings } : State).writeCtx
        v y.ctx).modRing v fun y => { y with cached := false } := by
  have htake : (r :: (l ++ [v])).take 4096 = r :: l := List.take_left' (l₁ := r :: l) (congrArg (· + 1) hn)
  have hdrop : (r :: (l ++ [v])).drop 4096 = [v] := List.drop_left' (l₁ := r :: l) (congrArg (· + 1) hn)
  have hring : (({ s with ctxLru := r :: l } : State).modRing r fun x => { x with cached := true }).ring v = some y := hy
  simp only [State.cacheCtx, hl, htake, hdrop, hring]
  rfl

section
variable {s u : State} {r : RingNo} {x : Ring}

/-- A context that its owner has given back returns poisoned, or enters the cache with the doorbells that waited for it (R25, R316). -/
theorem exec_contextReadReturn (hm : r ∈ s.ctxReads) (hr : s.ring r = some x)
    (hu : u = { s with ctxReads := s.ctxReads.filter fun q => decide (q ≠ r) }) (hj : u.jReadOk (.fetch r) (u.ctxAddr r) = (u, true)) :
    exec (.contextReadReturn r) s = .next
      (if u.rdPoison (u.ctxAddr r) 64 then u.haltRing r stPoisoned
       else (s.dbWait.filter fun e => decide (e.1 = r)).foldl (fun u e => u.dbEnter e.1 e.2)
        ((({ u with dbWait := s.dbWait.filter fun e => decide (e.1 ≠ r) } : State).jReadDone (.fetch r)).cacheCtx r)).settle := by
  have hlive : u.ring r ≠ none := by
    rw [show u.ring r = s.ring r from by rw [hu]; rfl, hr]
    exact nofun
  have hwait : u.dbWait = s.dbWait := by rw [hu]
  show execContextReadReturn r s = _
  unfold execContextReadReturn
  rw [if_pos hm, stepTo_eq, ← hu]
  simp only [hj, hwait, if_neg hlive, Bool.not_true, Bool.false_eq_true, if_false]

/-- A line of slots that arrives clean is taken whole (R415). -/
theorem exec_commandFetchReturn {t : State} {ph : Nat} {h : W32} (hr : s.ctxAt r x) (hn : x.fetchCount ≠ 0) (hh : x.ctx.halted = false)
    (hp : x.phase = .enabled) (hs : s.srcParked x.part (.ring r) = false)
    (hl : (s.ctxUsed r).look x.part (.fetch r) (x.ctx.cmdBase.toNat + x.nextFetch.toNat % x.ctx.size * 64) .read = (t, some (ph, h)))
    (hg : ∀ i, i < x.fetchCount → t.granPoison (ph / 64 + i) = false) :
    exec (.commandFetchReturn r) s = .next ((t.jReadDone (.fetch r)).modRing r fun y => { y with
      fetched := y.fetched ++ (List.range x.fetchCount).map fun i => BitVec.ofNat 512 (t.rdNat (ph + 64 * i) 64)
      ctx := { y.ctx with consumed := y.ctx.consumed + BitVec.ofNat 32 x.fetchCount } }).settle := by
  have hlive : (s.ctxUsed r).ring r = some x := hr.1
  have hgo : ¬(x.fetchCount = 0 ∨ x.ctx.halted = true ∨ x.phase = .disabling ∨ (s.ctxUsed r).srcParked x.part (.ring r) = true) := by
    rw [show (s.ctxUsed r).srcParked x.part (.ring r) = s.srcParked x.part (.ring r) from rfl, hs, hh, hp]
    simpa using hn
  have hall : (List.range x.fetchCount).takeWhile (fun i => !t.granPoison (ph / 64 + i)) = List.range x.fetchCount :=
    List.takeWhile_eq_self_iff.2 fun i hi => by rw [hg i (List.mem_range.1 hi)]; rfl
  show execCommandFetchReturn r s = _
  simp only [execCommandFetchReturn, State.needCtx_ctxAt s r x hr, hlive, if_neg hgo, hl, hall, List.length_range, if_neg hn, stepTo_eq]

end

/-- Settles O4: a context that returns, the eviction that makes room for one, and a line of slots that returns. -/
theorem contextAndCommandFetch : Obligations.ContextAndCommandFetch := by
  unfold Obligations.ContextAndCommandFetch
  refine ⟨fun s r x hm hr => ?_, fun s r v l y hl hn => ?_, fun s t r x ph h hr hn hh hp hs hl hg =>
    exec_commandFetchReturn hr hn hh hp hs hl hg⟩
  · intro s1 hj
    have key := exec_contextReadReturn (u := s1) hm hr rfl hj
    refine ⟨fun hp => ?_, fun hp hlen => ?_⟩
    · rwa [if_pos hp] at key
    · have hcache := State.cacheCtx_short (({ s1 with dbWait := s.dbWait.filter fun e => decide (e.1 ≠ r) } : State).jReadDone (.fetch r)) r hlen
      rw [if_neg (by simp [hp]), hcache] at key
      exact key
  · intro s1 hy
    exact s.cacheCtx_full hl hn hy

end Sys2Proof.Machine
end

section
/-! PROOF. Partitions: what REQ asks for, quiesce, full initialisation (R60 to R62, R355, R417, R418). -/
namespace Sys2Proof.Machine

/-! REQ of JP_CTL -/

section
variable {s : State} {p : Part} {k : Nat}

/-- The three rows are whole writes of JP_CTL. -/
theorem exec_jpCtl (s : State) (p : Part) :
    exec (.partitionEnable p) s = stepTo (s.putReg .jpCtl p 0 .full (BitVec.ofNat 64 1)) ∧
    exec (.partitionDisableDrain p) s = stepTo (s.putReg .jpCtl p 0 .full (BitVec.ofNat 64 2)) ∧
    exec (.partitionDisableStop p) s = stepTo (s.putReg .jpCtl p 0 .full (BitVec.ofNat 64 3)) := ⟨rfl, rfl, rfl⟩

theorem actionOf_jpCtl (hk : k < 4) : actionOf .jpCtl (BitVec.ofNat 64 k) = k := by
  simp only [actionOf, bitsOf, BitVec.toNat_ofNat, Nat.shiftRight_zero]
  omega

theorem valid_jpCtl (p : Part) : RegRef.valid ⟨.jpCtl, p, 0⟩ := RegRef.valid_part _ p rfl (by decide)

/-- JP_CTL holds no field. -/
theorem State.stored_jpCtl (s : State) (p : Part) (v : W64) : s.stored ⟨.jpCtl, p, 0⟩ .full v = s := by
  have hand (m : W64) : (0 : W64) &&& m = 0 := BitVec.zero_and
  exact State.stored_of_no_fields s _ _ _ (hand _) (hand _) BitVec.and_zero

/-- Before configuration lock a request has no effect but event 0x03 (R355). -/
theorem State.putReg_jpCtl_early (h : s.serving) (hl : s.locked = false) (hk : k < 4) (h0 : k ≠ 0) :
    s.putReg .jpCtl p 0 .full (BitVec.ofNat 64 k) = s.eventE 0x03 (RegId.jpCtl.addr p) k := by
  have ha := actionOf_jpCtl hk
  rw [State.putReg_early h .jpCtl p .full _ (valid_jpCtl p) rfl (.inr rfl) rfl (by decide) rfl hl (by rw [accPos, ha]; exact h0)]
  rw [show accOff .full = 0 from rfl, Nat.add_zero, busValue, if_pos rfl, BitVec.toNat_ofNat, Nat.mod_eq_of_lt (by omega)]

/-- After configuration lock a request is taken. -/
theorem State.putReg_jpCtl (h : s.serving) (hl : s.locked = true) (hk : k < 4) (h0 : k ≠ 0) :
    s.putReg .jpCtl p 0 .full (BitVec.ofNat 64 k) = s.act ⟨.jpCtl, p, 0⟩ k (BitVec.ofNat 64 k) := by
  have ha := actionOf_jpCtl hk
  rw [State.putReg_act h .jpCtl p 0 .full _ (valid_jpCtl p) rfl (.inr rfl) rfl (by decide) (fun _ => hl) (by decide) rfl
    (by rw [accPos, ha]; exact h0) rfl, State.stored_jpCtl, accPos, ha]
  rfl

/-- What the three rows do after configuration lock. -/
theorem exec_jpCtl_locked (h : s.serving) (hl : s.locked = true) :
    exec (.partitionEnable p) s = .next (s.partEnable p).settle ∧ exec (.partitionDisableDrain p) s = .next (s.partDrain p).settle ∧
    exec (.partitionDisableStop p) s = .next (s.partStop p).settle := by
  obtain ⟨h1, h2, h3⟩ := exec_jpCtl s p
  rw [h1, h2, h3, State.putReg_jpCtl h hl (by decide) (by decide), State.putReg_jpCtl h hl (by decide) (by decide),
    State.putReg_jpCtl h hl (by decide) (by decide)]
  simp only [State.act, partOf_val, stepTo_eq, and_self]

theorem State.part_disabled_only (h : s.partDisabled p = true) : s.partEnabled p = false ∧ s.partQuiescing p = false := by
  simp only [State.partDisabled, State.partEnabled, State.partQuiescing, decide_eq_true_eq, decide_eq_false_iff_not] at h ⊢
  omega

theorem State.part_quiescing_only (h : s.partQuiescing p = true) : s.partEnabled p = false ∧ s.partDisabled p = false := by
  simp only [State.partDisabled, State.partEnabled, State.partQuiescing, decide_eq_true_eq, decide_eq_false_iff_not] at h ⊢
  omega

theorem State.part_enabled_only (h : s.partEnabled p = true) : s.partDisabled p = false ∧ s.partQuiescing p = false := by
  simp only [State.partDisabled, State.partEnabled, State.partQuiescing, decide_eq_true_eq, decide_eq_false_iff_not] at h ⊢
  omega

end

/-! Quiesce -/

section
variable {s : State} {p : Part}

/-- With nothing parked the fault records close, and none is left that has been read whole. -/
theorem State.withdrawFaults_none (h : (s.part p).parked = []) :
    s.withdrawFaults p = s.modPart p fun ps => { ps with
      parked := []
      faults := (ps.faults.map fun f => { f with isOpen := false }).filter fun f => f.isOpen || decide (f.wordsRead < 4) } := by
  simp only [State.withdrawFaults, h, List.foldl_nil, State.drainFaults, State.modPart_modPart, State.part_modPart, List.filter_nil]

/-- What admission has begun for the head of a source is forgotten outside its partition. -/
def State.forgetReads (s : State) (src : Src) : State :=
  { s with
    admReads := s.admReads.filter fun (a : AdmRead) => decide (a.src ≠ src)
    jreads := s.jreads.filter fun x => decide (x.2 ≠ .admission src)
    admNoted := s.admNoted.filter fun a => decide (a.1 ≠ src)
    fmtLoads := s.fmtLoads.map fun (l : FmtLoad) => { l with srcs := l.srcs.filter fun q => decide (q.1 ≠ src) } }

/-- The requests of a source's head, its fetch among them, are parked no more. -/
def PartSt.unparkHead (ps : PartSt) (src : Src) : PartSt :=
  { ps with parked := ps.parked.filter fun x => !(decide (x.who = .admission src) || (match src with
      | .ring r => decide (x.who = .fetch r)
      | _ => false)) }

theorem State.forgetHead_eq (s : State) (p : Part) (src : Src) :
    s.forgetHead p src = (s.forgetReads src).modPart p fun ps => ps.unparkHead src := rfl

theorem State.forgetReads_modPart (s : State) (p : Part) (f : PartSt → PartSt) (src : Src) :
    (s.modPart p f).forgetReads src = (s.forgetReads src).modPart p f := rfl

/-- The head of a source is forgotten whatever the direct path holds. -/
theorem State.forgetHead_modPart_dcmd (s : State) (p : Part) (src : Src) (l : List Cmd → List Cmd) :
    (s.modPart p fun ps => { ps with dcmd := l ps.dcmd, dcmdWords := [], dcmdWait := [] }).forgetHead p src =
      (s.forgetHead p src).modPart p fun ps => { ps with dcmd := l ps.dcmd, dcmdWords := [], dcmdWait := [] } := by
  simp only [State.forgetHead_eq, State.forgetReads_modPart, State.modPart_modPart]
  rfl

theorem State.part_forgetHead (s : State) (p : Part) (src : Src) : (s.forgetHead p src).part p = (s.part p).unparkHead src := by
  rw [State.forgetHead_eq, State.part_modPart]
  rfl

theorem State.parked_forgetHead (h : (s.part p).parked = []) (src : Src) : ((s.forgetHead p src).part p).parked = [] := by
  rw [State.part_forgetHead, PartSt.unparkHead, h, List.filter_nil]

/-- A partition that enters QUIESCING with nothing parked (R61). -/
theorem State.enterQuiesce_none (h : (s.part p).parked = []) :
    let held := decide ((s.part p).dcmd ≠ []) || decide ((s.part p).dcmdWords ≠ []) || decide ((s.part p).dcmdWait ≠ [])
    let s1 := s.setFld fJpStatus_STATE 2 p
    s.enterQuiesce p =
      (((if held then s1.setFld fJpDcmdStatus_DISCARD 1 p else s1).forgetHead p (.direct p)).dropEarlyOf fun c => decide (c.part = p)).modPart p
        fun ps => { ps with
          dcmd := [], dcmdWords := [], dcmdWait := [], parked := []
          faults := (ps.faults.map fun f => { f with isOpen := false }).filter fun f => f.isOpen || decide (f.wordsRead < 4) } := by
  intro held s1
  have hs1 : s1.part p = s.part p := rfl
  have hflag : ∀ (b : Bool) (f : PartSt → PartSt), (if b then (s1.modPart p f).setFld fJpDcmdStatus_DISCARD 1 p else s1.modPart p f) =
      (if b then s1.setFld fJpDcmdStatus_DISCARD 1 p else s1).modPart p f := fun b f => by cases b <;> rfl
  have hpark : (((if held then s1.setFld fJpDcmdStatus_DISCARD 1 p else s1).forgetHead p (.direct p)).part p).parked = [] :=
    State.parked_forgetHead (by cases held <;> exact h) _
  have hdrop : ∀ (u : State) (f : PartSt → PartSt) (g : StreamCmd → Bool), (u.modPart p f).dropEarlyOf g = (u.dropEarlyOf g).modPart p f :=
    fun _ _ _ => rfl
  unfold State.enterQuiesce
  simp only [hs1, h, List.any_nil, Bool.false_eq_true, if_false, if_true, List.drop_zero, show s.setFld fJpStatus_STATE 2 p = s1 from rfl]
  rw [show (decide ((s.part p).dcmd ≠ []) || decide ((s.part p).dcmdWords ≠ []) || decide ((s.part p).dcmdWait ≠ [])) = held from rfl, hflag,
    State.forgetHead_modPart_dcmd, hdrop, State.withdrawFaults_none (by rw [State.part_modPart]; exact hpark), State.modPart_modPart]
  rfl

/-- With none of its commands admitted and no head aborted, a stopping disable moves the ends of its rings alone. -/
theorem State.stopRings_idle (ht : ∀ x ∈ s.trackers, x.part ≠ p) (ha : ∀ a ∈ s.admReads, a.aborted = false) :
    s.stopRings p = ({ s with
      rings := s.rings.map fun x => if x.part = p then { x with drainTo := some x.admitAt } else x } : State).setFld fJpStatus_STOP_MODE 1 p := by
  have hhead : ∀ src, s.headAborted src = false := fun src => by
    simp only [State.headAborted, List.any_eq_false]
    intro a hm
    simp [ha a hm]
  have hwaits : ∀ u : State, u.trackers = s.trackers → u.stopWaits p = u := fun u hu => by
    simp only [State.stopWaits, hu]
    rw [List.filter_eq_nil_iff.2 fun x hx => by simp [ht x hx]]
    rfl
  simp only [State.stopRings, hhead, Bool.false_eq_true, if_false]
  exact hwaits _ rfl

/-- Nothing of a quiescing partition is left. -/
theorem State.quiesced_of (hq : s.partQuiescing p = true) (ht : ∀ x ∈ s.trackers, x.part ≠ p) (hd : (s.part p).dcmd = [])
    (hr : ∀ x ∈ s.rings, x.part = p → x.drained = true ∧ s.recordOut x.no = false) : s.quiesced p = true := by
  simp only [State.quiesced, hq, hd, Bool.true_and, Bool.and_eq_true, Bool.not_eq_true', List.any_eq_false, List.all_eq_true, decide_true,
    and_true, decide_eq_true_eq, Bool.or_eq_true]
  refine ⟨ht, fun x hx => ?_⟩
  by_cases hp : x.part = p
  · exact .inr (hr x hx hp)
  · exact .inl hp

/-- Something of it is left. -/
theorem State.not_quiesced_of (h : (∃ x ∈ s.trackers, x.part = p) ∨ (s.part p).dcmd ≠ [] ∨
    ∃ x ∈ s.rings, x.part = p ∧ (x.drained = false ∨ s.recordOut x.no = true)) : s.quiesced p = false := by
  rw [← Bool.not_eq_true]
  intro hq
  simp only [State.quiesced, Bool.and_eq_true, Bool.not_eq_true', List.any_eq_false, List.all_eq_true, decide_eq_true_eq, Bool.or_eq_true] at hq
  obtain ⟨⟨⟨-, ht⟩, hd⟩, hr⟩ := hq
  rcases h with ⟨x, hx, hp⟩ | h | ⟨x, hx, hp, h⟩
  · exact ht x hx hp
  · exact h hd
  · rcases hr x hx with hn | ⟨h1, h2⟩
    · exact hn hp
    · rcases h with h | h
      · rw [h1] at h
        cases h
      · rw [h2] at h
        cases h

end

/-! Full initialisation -/

section
variable (s : State) (p : Part)

/-- The registers that initialisation resets read zero (R62). -/
theorem State.reg_initPart {r : RegId} {i : Nat} (h : initRegs p ⟨r, p, i⟩ = true) (hz : r.resetVal p = 0) : (s.initPart p).reg r p i = 0 := by
  refine (getAssoc_filter_out s.regs (fun x => !(initRegs p x.1)) ⟨r, p, i⟩ (r.resetVal p) fun v => ?_).trans hz
  rw [h]
  rfl

/-- What initialisation leaves of a partition's own state. -/
theorem State.part_initPart : (s.initPart p).part p = { PartSt.reset with
    turn := (s.part p).turn, lastRing := (s.part p).lastRing, inval := (s.part p).inval, retire := (s.part p).retire,
    objAct := (s.part p).objAct } := by
  simp only [State.initPart, State.part_modPart, State.part_forgetHead]
  rfl

/-- No Cloche entry is locked for the partition. -/
theorem State.cloche_initPart : ∀ e ∈ (s.initPart p).cloche, (e.lock.all fun l => decide (l.1 ≠ p)) = true := by
  intro e he
  obtain ⟨d, -, rfl⟩ := List.mem_map.1 (List.mem_filter.1 he).1
  split
  · rfl
  · cases hd : d.lock <;> simp_all

/-- No bank holds sub-keys of the partition. -/
theorem State.banks_initPart : ∀ b ∈ (s.initPart p).banks, b.part = p → b.state = .empty ∨ b = Bank.reset := by
  intro b hb hp
  obtain ⟨d, -, rfl⟩ := Vector.mem_map.1 (show b ∈ s.banks.map fun (b : Bank) => if b.part = p ∧ b.state ≠ .empty then Bank.reset else b from hb)
  split
  · exact .inr rfl
  · rename_i hn
    rw [if_neg hn] at hp
    exact .inl (by_contra fun he => hn ⟨hp, he⟩)

end

/-- Settles O5: requests by the state of the partition, quiesce by what is left, initialisation field by field. -/
theorem partitionControl : Obligations.PartitionControl := by
  unfold Obligations.PartitionControl
  refine ⟨?_, ?_, ?_, ?_, fun s p hp => State.enterQuiesce_none hp, fun s p ht ha => State.stopRings_idle ht ha, ?_, ?_, ?_⟩
  · intro s p h hl
    obtain ⟨h1, h2, h3⟩ := exec_jpCtl s p
    rw [h1, h2, h3, State.putReg_jpCtl_early h hl (by decide) (by decide), State.putReg_jpCtl_early h hl (by decide) (by decide),
      State.putReg_jpCtl_early h hl (by decide) (by decide)]
    exact ⟨rfl, rfl, rfl⟩
  · intro s p h hl hd
    obtain ⟨he, hq⟩ := State.part_disabled_only hd
    have key := exec_jpCtl_locked (p := p) h hl
    simp only [State.partEnable, State.partDrain, State.partStop, hd, he, hq, if_true, if_false, Bool.false_eq_true] at key
    exact key
  · intro s p h hl hq
    obtain ⟨he, hd⟩ := State.part_quiescing_only hq
    have key := exec_jpCtl_locked (p := p) h hl
    simp only [State.partEnable, State.partDrain, State.partStop, hd, he, hq, if_true, if_false, Bool.false_eq_true] at key
    exact key
  · intro s p h hl he
    obtain ⟨hd, hq⟩ := State.part_enabled_only he
    have key := exec_jpCtl_locked (p := p) h hl
    simp only [State.partEnable, State.partDrain, State.partStop, hd, he, hq, if_true, if_false, Bool.false_eq_true] at key
    exact key
  · intro s p hq
    refine ⟨fun ⟨ht, hd, hr⟩ => ?_, fun hw => ?_⟩
    · intro s1 s2 s3
      show stepTo (if s.quiesced p then _ else s) = _
      rw [if_pos (State.quiesced_of hq ht hd hr), stepTo_eq]
      simp only [s3, s2, s1]
      rcases (s.part p).ringAct with _ | ⟨r, e⟩ <;> rfl
    · show stepTo (if s.quiesced p then _ else s) = _
      rw [if_neg (by simp [State.not_quiesced_of hw]), stepTo_eq]
  · intro s p hi s1
    refine ⟨?_, ?_, ?_⟩
    · show stepTo (if (s.part p).initing then _ else s) = _
      rw [if_pos hi, stepTo_eq]
    · exact (State.fld_setFld_of_apart _ (f := fJpStatus_ENABLE_PENDING) (f' := fJpStatus_STATE) 0 p 0 rfl (by decide)).trans (State.fld_setFld_self _ fJpStatus_STATE 1 p 0 (by decide))
    · exact State.fld_setFld_self _ fJpStatus_ENABLE_PENDING 0 p 0 (by decide)
  · intro s p t
    have hreg {r : RegId} {i : Nat} (h : initRegs p ⟨r, p, i⟩ = true) (hz : r.resetVal p = 0) : t.reg r p i = 0 := State.reg_initPart s p h hz
    have hpart := s.part_initPart p
    refine ⟨fun i => hreg (by simp [initRegs]) rfl, hreg (by simp [initRegs]) rfl, hreg (by simp [initRegs]) rfl, hreg (by simp [initRegs]) rfl,
      hreg (by simp [initRegs]) rfl, hreg (by simp [initRegs]) rfl, ?_⟩
    simp only [t, hpart]
    exact ⟨rfl, rfl, rfl, rfl, rfl, rfl, rfl, s.cloche_initPart p, s.banks_initPart p, rfl, rfl, fun _ => rfl⟩

end Sys2Proof.Machine
end

section
/-! PROOF. The direct path: its words, its records, resync and resume (R63 to R65, R407, R416). -/
namespace Sys2Proof.Machine

section
variable {s : State} {p : Part} {v : W64}

/-- The word that a write adds to the direct path (R63). -/
def PartSt.pushWord (ps : PartSt) (v : W64) : PartSt :=
  if ps.dcmdWords.length = 7 then { ps with dcmdWords := [], dcmd := ps.dcmd ++ [cmdOfWords (ps.dcmdWords ++ [v])] }
  else { ps with dcmdWords := ps.dcmdWords ++ [v] }

theorem State.dcmdPush_eq (s : State) (p : Part) (v : W64) : s.dcmdPush p v = s.modPart p fun ps => ps.pushWord v := by
  simp only [State.dcmdPush, PartSt.pushWord, List.length_append, List.length_singleton, Nat.reduceEqDiff]

/-- A word of JP_DCMD goes to the direct path. -/
theorem State.putReg_jpDcmd (h : s.serving) (v : W64) : s.putReg .jpDcmd p 0 .full v = s.dcmdWrite p v := by
  have hand (m : W64) : (0 : W64) &&& m = 0 := BitVec.zero_and
  have hst : s.stored ⟨.jpDcmd, p, 0⟩ .full v = s := State.stored_of_no_fields s _ _ _ (hand _) (hand _) BitVec.and_zero
  rw [State.putReg_plain h .jpDcmd p 0 .full v (RegRef.valid_part _ p rfl (by decide)) rfl (.inr rfl) rfl rfl (by decide) (by decide), hst]
  simp only [State.wrote, partOf_val, accPos]

/-- A word is discarded, waits, or is pushed (R64). -/
theorem exec_dcmdWordWrite (h : s.serving) : exec (.dcmdWordWrite p v) s = .next (s.dcmdWrite p v).settle := by
  show stepTo (s.putReg .jpDcmd p 0 .full v) = _
  rw [State.putReg_jpDcmd h, stepTo_eq]

/-- The word that waits goes on, or is discarded, as the path now stands (R64). -/
theorem exec_dcmdSpaceFreed {rest : List W64} (hw : (s.part p).dcmdWait = v :: rest) :
    (s.dcmdClosed p = false → (s.part p).dcmd.length < 32 →
      exec (.dcmdSpaceFreed p) s = .next ((s.modPart p fun ps => { ps with dcmdWait := rest }).dcmdPush p v).settle) ∧
    (s.dcmdClosed p = true →
      exec (.dcmdSpaceFreed p) s = .next ((s.modPart p fun ps => { ps with dcmdWait := rest }).setFld fJpDcmdStatus_DISCARD 1 p).settle) := by
  refine ⟨fun hc hl => ?_, fun hc => ?_⟩ <;> show execDcmdSpaceFreed p s = _ <;> simp only [execDcmdSpaceFreed, hw, hc, stepTo_eq, if_true]
  rw [if_neg Bool.false_ne_true, if_neg (by omega)]

/-- A read of JP_DCMD_CPL answers what the record FIFO gives (R407). -/
theorem exec_dcmdCplRead (h : s.serving) (acc : RegAcc) :
    exec (.dcmdCplRead p acc) s = .next ((s.readDcpl p acc).1.emit (.readData (viewOf acc (s.readDcpl p acc).2) false)).settle := by
  show stepTo (s.getReg .jpDcmdCpl p 0 acc) = _
  rw [State.getReg_of_serving h .jpDcmdCpl p 0 acc (RegRef.valid_part _ p rfl (by decide)) rfl, stepTo_eq]
  simp only [State.readReg, partOf_val]

/-- The next half of the oldest record; the record goes with its second word, and the low half alone removes nothing (R65). -/
theorem State.readDcpl_cons (acc : RegAcc) {r : BitVec 128} {rest : List (BitVec 128)} (hr : (s.part p).dcpl = r :: rest)
    (hv : v = BitVec.ofNat 64 (r.toNat >>> (64 * (s.part p).dcplPos))) :
    s.readDcpl p acc = (s.modPart p fun ps =>
      if acc = .lo then { ps with dcplLast := v }
      else if ps.dcplPos = 0 then { ps with dcplLast := v, dcplPos := 1 }
      else { ps with dcplLast := v, dcpl := rest, dcplPos := 0 }, v) := by
  by_cases ha : acc = .lo
  · simp only [State.readDcpl, hr, ← hv, ha, if_true]
  · simp only [State.readDcpl, hr, ← hv, if_neg ha, State.modPart_modPart]
    exact congrArg (·, v) (State.modPart_congr s p _ _ rfl)

theorem State.readDcpl_nil (acc : RegAcc) (hr : (s.part p).dcpl = []) :
    s.readDcpl p acc = (s.setFld fJpDcmdStatus_UNDERRUN 1 p, (s.part p).dcplLast) := by
  simp only [State.readDcpl, hr]

/-- A write of the high half of JP_DCMD_STATUS that clears nothing asks for RESYNC, for RESUME, or for both (R63, R416). -/
theorem State.putReg_jpDcmdStatus (h : s.serving) (hv : accPos .hi v &&& codeMask (RegId.fields .jpDcmdStatus) .w1c = 0) :
    s.putReg .jpDcmdStatus p 0 .hi v =
      (let t := if (accPos .hi v).getLsbD 60 then s.dcmdResync p else s
       if (accPos .hi v).getLsbD 58 then t.dcmdResume p else t) := by
  have hand (m : W64) : (0 : W64) &&& m = 0 := BitVec.zero_and
  have hst : s.stored ⟨.jpDcmdStatus, p, 0⟩ .hi v = s := State.stored_of_no_fields s _ _ _ (hand _) (hand _) hv
  rw [State.putReg_plain h .jpDcmdStatus p 0 .hi v (RegRef.valid_part _ p rfl (by decide)) rfl (.inl rfl) rfl rfl (by decide) (by decide), hst]
  simp only [State.wrote, partOf_val]

end

/-- Settles O7: a word by the state of the path, a read by what the record FIFO holds, and the two requests of JP_DCMD_STATUS. -/
theorem directPath : Obligations.DirectPath := by
  unfold Obligations.DirectPath
  refine ⟨fun s p v h hc hl hw => ?_, fun s p v h hc hb => ?_, fun s p v h hc => ?_, fun s p v rest hw => ?_, fun s p acc r rest h hr => ?_,
    fun s p acc h hr => ?_, fun s p h => ?_, fun s p h => ?_⟩
  · rw [exec_dcmdWordWrite h, State.dcmdWrite, if_neg (by simp [hc]), if_neg (by simpa [hw] using hl), State.dcmdPush_eq]
    rfl
  · rw [exec_dcmdWordWrite h, State.dcmdWrite, if_neg (by simp [hc]), if_pos hb]
  · rw [exec_dcmdWordWrite h, State.dcmdWrite, if_pos hc]
  · obtain ⟨hpush, hdiscard⟩ := exec_dcmdSpaceFreed hw
    refine ⟨fun hc hl => ?_, hdiscard⟩
    rw [hpush hc hl, State.dcmdPush_eq, State.modPart_modPart]
    rfl
  · intro v
    rw [exec_dcmdCplRead h, State.readDcpl_cons acc hr rfl]
  · rw [exec_dcmdCplRead h, State.readDcpl_nil acc hr]
  · show stepTo (s.putReg .jpDcmdStatus p 0 .hi 0x10000000#64) = _
    rw [State.putReg_jpDcmdStatus h (by decide), stepTo_eq]
    rfl
  · show stepTo (s.putReg .jpDcmdStatus p 0 .hi 0x4000000#64) = _
    rw [State.putReg_jpDcmdStatus h (by decide), stepTo_eq]
    rfl

end Sys2Proof.Machine
end

section
/-! PROOF. NOP, MARK and WAIT; wait limits and external marks (R35, R40 to R44, R61). -/
namespace Sys2Proof.Machine

section
variable {s : State} {t : TrackerId} {x : Tracker}

/-- A command that ends with a status of its own. -/
theorem State.only_eq (s : State) (t : TrackerId) (st : Byte) :
    s.only t st = s.modTrk t fun y => { y with marks := { y.marks with only := some st }, phase := .done } := rfl

/-- A WAIT that may not name its source is denied (R42). -/
theorem exec_wait_denied (hx : s.startable t 0x02 = some x) (ha : s.waitAllowed x.part x.cmd = false) :
    exec (.wait t) s = .next (s.only t stWaitDenied).settle := by
  show execWait t s = _
  simp only [execWait, hx, ha, Bool.not_false, if_true, stepTo_eq]

/-- A WAIT goes to the read of its ring's mark, or runs (R44). -/
def State.waitStarted (s : State) (t : TrackerId) (x : Tracker) : State :=
  if cSource x.cmd = 0 ∧ s.ring (BitVec.ofNat 18 (cSrcIndex x.cmd)) = none then s.modTrk t fun y => { y with phase := .reading }
  else (s.modTrk t fun y => { y with phase := .running }).wake

theorem State.waitStarted_regs (s : State) (t : TrackerId) (x : Tracker) : (s.waitStarted t x).regs = s.regs := by
  unfold State.waitStarted
  split <;> rfl

/-- A WAIT that may name its source starts, and is aborted where its partition is stopping (R61). -/
theorem exec_wait_allowed (hx : s.startable t 0x02 = some x) (ha : s.waitAllowed x.part x.cmd = true) :
    exec (.wait t) s = .next ((s.waitStarted t x).stopWait x.part t).settle := by
  show execWait t s = _
  unfold execWait State.waitStarted
  simp only [hx, ha, Bool.not_true, Bool.false_eq_true, if_false, stepTo_eq]
  split <;> rfl

/-- Whether a blocked WAIT is aborted is said by the registers and its tracker. -/
theorem State.stopWait_of_regs {u : State} (hu : u.regs = s.regs) (p : Part) (t : TrackerId) :
    u.stopWait p t =
      if s.partQuiescing p = true ∧ s.fld fJpStatus_STOP_MODE p = 1 ∧ (u.trk t).any (fun y => decide (y.phase ≠ .done)) = true then u.abortCmd t
      else u := by
  simp only [State.stopWait, State.partQuiescing, State.fld_congr hu]
  rfl

section
variable {r : RingNo} (hx : s.trk t = some x) (ho : x.op = 0x02) (hp : x.phase = .reading) (hr : BitVec.ofNat 18 (cSrcIndex x.cmd) = r)
include hx ho hp hr

/-- A ring that has been enabled meanwhile needs no read of its mark (R44). -/
theorem exec_waitMarkReadReturn_live (hl : s.ring r ≠ none) : exec (.waitMarkReadReturn t) s = .next (s.run t).wake.settle := by
  obtain ⟨y, hy⟩ := Option.ne_none_iff_exists'.1 hl
  show execWaitMarkReadReturn t s = _
  simp only [execWaitMarkReadReturn, hx, ho, hp, and_self, if_true, hr, hy, stepTo_eq]

/-- The mark of a ring that is not enabled returns, unless its line is away (R44). -/
theorem exec_waitMarkReadReturn_read {u : State} {b : Bool} (hn : s.ring r = none) (hj : s.jReadOk (.cmd t) (s.ctxAddr r) = (u, b)) :
    exec (.waitMarkReadReturn t) s = .next (if b then
      (((if u.rdPoison (s.ctxAddr r) 64 then u.poisonCmd t
        else { u with heldMarks := (r, (u.readCtx r).mark) :: u.heldMarks.filter fun e => decide (e.1 ≠ r) }).run t).wake)
      else u).settle := by
  show execWaitMarkReadReturn t s = _
  simp only [execWaitMarkReadReturn, hx, ho, hp, and_self, if_true, hr, hn, hj, stepTo_eq]
  cases b
  · simp only [Bool.not_false, if_true, Bool.false_eq_true, if_false]
  · simp only [Bool.not_true, if_true, Bool.false_eq_true, if_false]
    cases u.rdPoison (s.ctxAddr r) 64 <;> simp only [if_true, Bool.false_eq_true, if_false]

end
end

/-- Settles O9: each of the three commands from its handing over, and the return of a mark. -/
theorem controlCommands : Obligations.ControlCommands := by
  unfold Obligations.ControlCommands
  refine ⟨fun s t x hx => ?_, fun s t x hx => ?_, fun s t x hx ha => exec_wait_denied hx ha, fun s p c => ?_, fun s t x hx ha => ?_,
    fun s t x hx ho hp => ?_⟩
  · show execNop t s = _
    simp only [execNop, hx, stepTo_eq]
    rfl
  · show execMark t s = _
    simp only [execMark, hx, stepTo_eq]
    rfl
  · simp only [State.waitAllowed, Bool.and_eq_true, Bool.or_eq_true, decide_eq_true_eq]
  · intro u
    rw [exec_wait_allowed hx ha, State.stopWait_of_regs (s.waitStarted_regs t x)]
    rfl
  · exact ⟨fun hl => exec_waitMarkReadReturn_live hx ho hp rfl hl, fun hn u hj => exec_waitMarkReadReturn_read hx ho hp rfl hn hj,
      fun hn u hj => exec_waitMarkReadReturn_read hx ho hp rfl hn hj⟩

section
variable {s : State} {p : Part}

/-- A WAIT of a tracker against LIMIT (R43). -/
theorem State.waitLimit_of_trk {t : TrackerId} {x : Tracker} (hx : s.trk t = some x) :
    s.waitLimit t =
      if x.op = 0x02 ∧ (x.phase = .running ∨ x.phase = .reading) ∧ s.fld fJpWaitLimit_LIMIT x.part ≠ 0 ∧
          s.fld fJpWaitLimit_LIMIT x.part ≤ x.waitCount then
        s.only t stWaitTimeout
      else s := by
  simp only [State.waitLimit, hx]

/-- A write of LIMIT is stored and compared with the WAITs of its partition (R43). -/
theorem State.putReg_jpWaitLimit (h : s.serving) (acc : RegAcc) (v : W64) :
    s.putReg .jpWaitLimit p 0 acc v = (s.stored ⟨.jpWaitLimit, p, 0⟩ acc v).limitWritten p := by
  rw [State.putReg_plain h .jpWaitLimit p 0 acc v (RegRef.valid_part _ p rfl (by decide)) rfl (.inl rfl) rfl rfl (by decide) (by decide)]
  simp only [State.wrote, partOf_val]

/-- A write of an external mark takes the half written (R41). -/
theorem State.putReg_jpXmark (h : s.serving) (i : BitVec 8) (acc : RegAcc) (v : W64) :
    s.putReg .jpXmark p i.toNat acc v = s.xmarkWritten p i.toNat ((s.reg .jpXmark p i.toNat &&& ~~~(accMask acc)) ||| accPos acc v) := by
  have hx : RegRef.valid ⟨.jpXmark, p, i.toNat⟩ := ⟨i.isLt, p.isLt⟩
  rw [State.putReg_of_serving h .jpXmark p i.toNat acc v hx rfl (.inl rfl), State.writeReg, if_neg (by simp [isDir]), if_pos rfl, partOf_val]

/-- A tick of a WAIT that is not done while the hub is awake (R43). -/
theorem exec_waitLimitTick {t : TrackerId} {x : Tracker} (hx : s.trk t = some x) (ho : x.op = 0x02) (ha : x.admitted = true) (hp : x.phase ≠ .done) :
    exec (.waitLimitTick t) s =
      .next (if s.fld fJePwrStatus_STATE < 2 then ((s.modTrk t fun y => { y with waitCount := y.waitCount + 1 }).wake).waitLimit t else s).settle := by
  show execWaitLimitTick t s = _
  simp only [execWaitLimitTick, hx, ho, ha, hp, ne_eq, not_false_eq_true, true_and, stepTo_eq]

end

/-- Settles O10: limits as they are written and as they count, marks as software and the array write them. -/
theorem waitsAndExternalMarks : Obligations.WaitsAndExternalMarks := by
  unfold Obligations.WaitsAndExternalMarks
  refine ⟨fun s p acc v h => ?_, fun s t x hx => State.waitLimit_of_trk hx, fun s t x hx ho ha hp => exec_waitLimitTick hx ho ha hp,
    fun s p i acc v h => ?_, fun s p i v => ?_⟩
  · show stepTo (s.putReg .jpWaitLimit p 0 acc v) = _
    rw [State.putReg_jpWaitLimit h, stepTo_eq]
    rfl
  · show stepTo (s.putReg .jpXmark p i.toNat acc v) = _
    rw [State.putReg_jpXmark h, stepTo_eq]
    rfl
  · show stepTo _ = _
    cases s.partEnabled p <;> rfl

end Sys2Proof.Machine
end

section
/-! PROOF. Completion records, marks that are published, interrupt hold-off (R36 to R41, R45, R65). -/
namespace Sys2Proof.Machine

/-! The record of the oldest command -/

section
variable {s : State} {x : Tracker}

theorem State.completeNow_waits (hp : x.phase ≠ .done) : s.completeNow x = (s, false) := by
  simp only [State.completeNow, if_pos hp]

/-- Of a command whose statistics are not counted nothing is left to do for them. -/
theorem State.statsStep_unbatched (hb : s.batch x.id = none) : s.statsStep x = (s, true) := by
  simp only [State.statsStep, hb]

/-- A command that was not aborted tears no object. -/
theorem State.tearAborted_other (hs : x.marks.status ≠ stFaultAborted) : s.tearAborted x = s := by
  simp only [State.tearAborted, hs, false_and, if_false]

/-- A command as its record shows it: torn where it touches a torn object (R237). -/
def State.asRecorded (s : State) (x : Tracker) : Tracker := { x with torn := x.torn || s.touchesTorn x }

section
variable (hp : x.phase = .done) (hx : s.trk x.id = some x) (hb : s.batch x.id = none) (hs : x.marks.status ≠ stFaultAborted)
  (ho : s.outstanding x.id = false)
include hp hx hb hs ho

/-- A command that is done with nothing outstanding goes on to its record, by its source (R36). -/
theorem State.completeNow_done : s.completeNow x = match (s.asRecorded x).src with
    | .ring r => s.recordRing (s.asRecorded x) r
    | .direct p => (s.recordDirect (s.asRecorded x) p, true)
    | .remote _ => (s.answerDone (s.asRecorded x), true) := by
  unfold State.completeNow
  rw [if_neg (not_not.2 hp), State.statsStep_unbatched hb]
  dsimp only
  rw [if_neg (by simp [ho]), State.tearAborted_other hs, hx]
  rfl

theorem State.completeNow_direct {p : Part} (hsrc : x.src = .direct p) : s.completeNow x = (s.recordDirect (s.asRecorded x) p, true) := by
  rw [State.completeNow_done hp hx hb hs ho, show (s.asRecorded x).src = .direct p from hsrc]

theorem State.completeNow_ring {r : RingNo} (hsrc : x.src = .ring r) : s.completeNow x = s.recordRing (s.asRecorded x) r := by
  rw [State.completeNow_done hp hx hb hs ho, show (s.asRecorded x).src = .ring r from hsrc]

end

/-- The record write of a command of a ring (R36, R38). -/
abbrev recordWrite (y : Tracker) (r : RingNo) (z : Ring) (ph : Nat) (h : W32) : WrReq :=
  ⟨ph, leBytes 16 (recordNat y y.version (z.ctx.phase y.count)), false, y.part, none, h, false, true, false, some (r, y.count),
    if cIrq y.cmd then [z.ctx.irqGroup] else [], false, false, false, false⟩

/-- A command of a ring that has its record: COMPLETED advances. -/
abbrev State.ringCompleted (s : State) (y : Tracker) (r : RingNo) : State :=
  (s.completed y).modRing r fun v => { v with ctx := { v.ctx with completed := v.ctx.completed + 1 } }

/-- The record of a ring's command joins the record before it in its granule, waits for the records before it, or is written (R38). -/
theorem State.recordRing_cases {r : RingNo} {z : Ring} {t : State} {ph : Nat} {h : W32} (hr : s.ctxAt r z) (hm : z.mute = false)
    (hl : (s.ctxUsed r).look x.part (.record x.src) ((z.ctx.cplBase.toNat + x.count.toNat % z.ctx.size * 16) % 2 ^ 64) .write = (t, some (ph, h))) :
    s.recordRing x r = match t.joinRecord (recordWrite x r z ph h) with
      | some u => (u.ringCompleted x r, true)
      | none => if t.recordOut r then (t, false) else ((t.ringCompleted x r).writeNow (recordWrite x r z ph h), true) := by
  simp only [State.recordRing, hr.1, hm, Bool.false_eq_true, if_false, State.needCtx_ctxAt s r z hr, hl] <;> rfl

end

/-! Marks -/

section
variable {s : State} {x : Tracker}

/-- A mark is published in the step that writes its record (R40). -/
theorem exec_markPublish {t : State} {y : Tracker} (hx : s.trk x.id = some x) (ho : x.op = 0x01) (hp : x.phase = .running)
    (hold : s.oldest x.src = some x) (hy : (s.publish x).trk x.id = some y) (hc : (s.publish x).completeNow y = (t, true)) :
    exec (.markPublish x.id) s = .next t.settle := by
  show execMarkPublish x.id s = _
  simp only [execMarkPublish, hx, ho, hp, hold, Option.any_some, decide_true, and_self, if_true, hy, hc, stepTo_eq]

theorem State.publish_external (he : cExternal x.cmd = true) :
    s.publish x = if s.reg .jpXmark x.part (cXmark x.cmd) < cW2 x.cmd then (s.finish x.id).setXmark x.part (cXmark x.cmd) (cW2 x.cmd)
      else s.only x.id stMarkRegress := by
  simp only [State.publish, he, if_true]

theorem State.publish_ring {r : RingNo} {z : Ring} (he : cExternal x.cmd = false) (hs : x.src = .ring r) (hr : s.ring r = some z) :
    s.publish x = if z.ctx.mark < cW2 x.cmd then
        ((s.finish x.id).modRing r fun w => { w with ctx := { w.ctx with mark := cW2 x.cmd } }).wake
      else s.only x.id stMarkRegress := by
  simp only [State.publish, he, Bool.false_eq_true, if_false, hs, hr]

end

/-! Hold-off -/

section
variable {s : State} {p : Part} {g : Nat} {ig : IrqGroup}

/-- A group of a partition, set. -/
abbrev State.setIrq (s : State) (p : Part) (g : Nat) (ig : IrqGroup) : State := s.modPart p fun ps => { ps with irq := ps.irq.set g ig }

/-- When the message of a group that has just been set is due (R39). -/
theorem State.irqDue_setIrq (hg : g < (s.part p).irq.length) : (s.setIrq p g ig).irqDue p g =
    (decide (natBits (s.fld fJpIrqPend_PEND p) g 1 = 1) && decide (natBits (s.fld fJpIrqMask_MASK p) g 1 = 0) && decide (0 < ig.count) &&
      (decide (s.fld fJpIrqMod_HOLDOFF p = 0) || (ig.elapsed && (decide (max 1 (s.fld fJpIrqMod_COUNT p) ≤ ig.count) || ig.firstElapsed)))) := by
  have hget : (((s.part p).irq.set g ig)).getD g ⟨0, true, false⟩ = ig := by
    rw [List.getD_eq_getElem?_getD, List.getElem?_set_self hg, Option.getD_some]
  simp only [State.irqDue, State.part_modPart, hget]
  rfl

/-- A group that is tried after it has been set (R39). -/
theorem State.irqTry_setIrq (s : State) (p : Part) (g : Nat) (ig : IrqGroup) :
    (s.setIrq p g ig).irqTry p g =
      if (s.setIrq p g ig).irqDue p g then (s.setIrq p g ⟨0, false, false⟩).emit (.irq (65 * p.val + g)) else s.setIrq p g ig := by
  simp only [State.irqTry, State.modPart_modPart, List.set_set]

/-- HOLDOFF elapses for a group (R39). -/
theorem exec_irqHoldoffExpiry {g : Fin 64} (hig : (s.part p).irq[g.val]? = some ig) :
    exec (.irqHoldoffExpiry p g) s = .next ((s.setIrq p g
      { ig with elapsed := true, firstElapsed := ig.firstElapsed || (ig.elapsed && decide (0 < ig.count)) }).irqTry p g).settle := by
  show execIrqHoldoffExpiry p g s = _
  simp only [execIrqHoldoffExpiry, List.getD_eq_getElem?_getD, hig, Option.getD_some, stepTo_eq]

end

/-- Settles O11: the attempt to complete, the record by its source, the publication of a mark, and the hold-off of a group. -/
theorem completionRecords : Obligations.CompletionRecords := by
  unfold Obligations.CompletionRecords
  refine ⟨?_, fun s x hp => State.completeNow_waits hp, ?_, fun s x => rfl, fun s t x y hx ho hp hold hy hc => exec_markPublish hx ho hp hold hy hc,
    fun s x he => State.publish_external he, fun s x r z he hs hr => State.publish_ring he hs hr, ?_⟩
  · intro s src x y hold u hy
    show execCompletionRecordWrite src s = _
    simp only [execCompletionRecordWrite, hold]
    rw [show (((s.drainAborted.settlePool x.id).settleScatter x.id).settleApply x.id).trk x.id = some y from hy, stepTo_eq]
  · intro s x hp hx hb hs ho y
    refine ⟨fun p hsrc => State.completeNow_direct hp hx hb hs ho hsrc, fun r z t ph h hsrc hr hm hl => ?_⟩
    intro w done
    have key := (State.completeNow_ring hp hx hb hs ho hsrc).trans (State.recordRing_cases (x := s.asRecorded x) hr hm hl)
    refine ⟨fun hj hout => ?_, fun hj hout => ?_, fun u hj => ?_⟩ <;> rw [key, show t.joinRecord (recordWrite (s.asRecorded x) r z ph h) = _ from hj]
    · exact if_neg (by simp [hout])
    · exact if_pos hout
    · rfl

  · intro s p g ig hig
    have hlen : g.val < (s.part p).irq.length := (List.getElem?_eq_some_iff.1 hig).1
    rw [exec_irqHoldoffExpiry hig, State.irqTry_setIrq, State.irqDue_setIrq hlen]
    refine ⟨fun hc he hp hm => ?_, fun hc => ?_⟩
    · rw [if_pos (by simp [hp, hm, he, Nat.pos_of_ne_zero hc])]
    · rw [if_neg (by simp [hc]), hc]
      simp only [Nat.lt_irrefl, decide_false, Bool.and_false, Bool.or_false]

end Sys2Proof.Machine
end

section
/-! PROOF. Admission: the first source that can go ahead, NOP, MARK and WAIT, a failed check, a read that returns (R30 to R33, R40, R42). -/
namespace Sys2Proof.Machine

section
variable {s s1 : State} {y : Cand} {rest : List Cand} {p : Part} {src : Src} {c : Cmd}

/-- A ring or the direct path that offers a command has it tried. -/
theorem State.tryAdmit_offered (hsrc : ∀ q, src ≠ .remote q) (ho : s.offers p src = true) : s.tryAdmit p src = s.tryCmd p src := by
  cases src with
  | remote q => exact absurd rfl (hsrc q)
  | ring r => simp only [State.tryAdmit, ho, if_true]
  | direct q => simp only [State.tryAdmit, ho, if_true]

/-- The first source in order that goes ahead passes the turn (R31). -/
theorem exec_admitCommand_first {t : State} (hr : s.ready = true) (hp : s.fld fJePwrStatus_STATE < 2) (hc : s.cands = y :: rest)
    (hsrc : ∀ q, y.src ≠ .remote q) (ho : s.offers y.part y.src = true) (ht : s.tryCmd y.part y.src = (t, true)) :
    exec .admitCommand s = .next (t.turnTaken y).settle := by
  show execAdmitCommand s = _
  simp only [execAdmitCommand, hr, hp, and_self, if_true, hc, State.tryAll, State.tryAdmit_offered hsrc ho, ht, stepTo_eq]

section
variable (hh : s.headCmd src = some c) (ht : s.trackers.length < 16384)
include hh ht

/-- A command that fails a check takes a tracker for its record (R33). -/
theorem State.tryCmd_fail {st : Byte} (hck : s.admCheck p src c = (s1, .fail st)) : s.tryCmd p src = (s1.admFail p src c st, true) := by
  simp only [State.tryCmd, if_neg (Nat.not_le.2 ht), hh, hck]

/-- A command that passes its checks is admitted while its partition has fewer than 8,192 admitted (R32). -/
theorem State.tryCmd_admit {r : AdmRes} (hck : s.admCheck p src c = (s1, r)) (hw : r ≠ .wait) (hf : ∀ st, r ≠ .fail st)
    (hroom : s1.inFlight p < 8192) : s.tryCmd p src = (s1.admitNow p src c r, true) := by
  simp only [State.tryCmd, if_neg (Nat.not_le.2 ht), hh, hck, State.trackerRoom, hroom, decide_true, if_true]

end

/-- An opcode that R35 does not define. -/
theorem State.admCheck_badOpcode (h : cOp c ∉ opcodes) : s.admCheck p src c = (s, .fail stBadOpcode) := by
  simp only [State.admCheck, if_pos h]

/-- NOP, MARK and WAIT name no table and read nothing (R35). -/
theorem State.admCheck_control (hop : cOp c ≤ 2) (hf : cmdFieldsOk c (isDirect src) = true) (hn : ∀ a ∈ s.admReads, a.src ≠ src) :
    s.admCheck p src c = (s, .ok [] 0 [] 0 0) := by
  have hfind : s.admReads.find? (fun a => decide (a.src = src)) = none := List.find?_eq_none.2 fun a ha => by simpa using hn a ha
  have hcode : cOp c = 0 ∨ cOp c = 1 ∨ cOp c = 2 := by omega
  have hdef : cOp c ∈ opcodes := by rcases hcode with h | h | h <;> rw [h] <;> decide
  have hread : admReadOf c = none ∧ namesShards (cOp c) = false ∧ s.admByOp p src c = (s, .ok [] 0 [] 0 0) := by
    rcases hcode with h | h | h <;> simp [admReadOf, namesShards, State.admByOp, h]
  obtain ⟨h1, h2, h3⟩ := hread
  unfold State.admCheck
  rw [if_neg (not_not.2 hdef), if_neg ?_, hfind]
  · simp only [h1, h2, h3, Option.isSome_none, Bool.false_eq_true, false_and, or_self, if_false]
  · cases src <;> simpa [isDirect] using hf

/-- A command without tables touches no format block. -/
theorem State.touchBlocks_nil (s : State) (p : Part) : s.touchBlocks p [] = s := by
  simp [State.touchBlocks]

/-- The admission of a command that names no table is a tracker in phase handed (R30). -/
theorem State.admitNow_control (hop : cOp c ≤ 2) : s.admitNow p src c (.ok [] 0 [] 0 0) =
    (({ s with
      trackers := s.trackers ++ [{ newTracker s.freeTracker p src (s.nextCount src) c s.admitted with background := s.srcBackground src }]
      admitted := s.admitted + 1 } : State).takeHead src).forgetHead p src := by
  have hne : ∀ k, 2 < k → cOp c ≠ k := fun k hk => by omega
  simp only [State.admitNow, if_neg (hne 0x40 (by decide)), if_neg (hne 0x41 (by decide)), if_neg (hne 0x18 (by decide)),
    if_neg (hne 0x20 (by decide)), State.touchBlocks_nil]
  rfl

/-- What has been read for the command of a source is noted. -/
abbrev State.readNoted (s : State) (src : Src) (poison : Bool) : State :=
  { s with admReads := s.admReads.map fun a => if a.src = src then { a with ready := true, poisoned := poison } else a }

/-- The read that the next command of a source waits for. -/
abbrev State.admRead (s : State) (p : Part) (src : Src) (c : Cmd) : State × Option (List Byte × Bool) :=
  match admReadOf c with
  | some n => s.readPart p (.admission src) n.1 n.2
  | none => s.readPart p (.admission src) (s.fld fJpShardDir_BASE p * 4096 + 8 * cTable c) 8

/-- A command that is still offered is checked against what was read for it: a check that fails ends it. -/
def State.readChecked (s : State) (p : Part) (src : Src) (c : Cmd) : State :=
  if s.offers p src ∧ s.trackers.length < 16384 then
    match s.admCheck p src c with
    | (u, .fail st) => u.admFail p src c st
    | _ => s
  else s

theorem State.readChecked_kept (h : s.offers p src = false ∨ ∀ st, (s.admCheck p src c).2 ≠ .fail st) : s.readChecked p src c = s := by
  unfold State.readChecked
  split
  · rename_i ho
    obtain h | h := h
    · rw [h] at ho
      cases ho.1
    · rcases hck : s.admCheck p src c with ⟨u, _ | st | _ | _⟩
      case fail => exact absurd (congrArg Prod.snd hck) (h st)
      all_goals rfl
  · rfl

theorem State.readChecked_fails {u : State} {st : Byte} (ho : s.offers p src = true) (ht : s.trackers.length < 16384)
    (hck : s.admCheck p src c = (u, .fail st)) : s.readChecked p src c = u.admFail p src c st := by
  simp only [State.readChecked, ho, ht, and_self, if_true, hck]

/-- The read that a command waits for returns, where it can go on (R173, R193, R232, R324). -/
theorem exec_admissionReadReturn {a : AdmRead} {got : Option (List Byte × Bool)}
    (ha : s.admReads.find? (fun a => decide (a.src = src) && !a.ready) = some a) (hp : s.srcPart src = some p) (hh : s.headCmd src = some c)
    (hrd : s.admRead p src c = (s1, got)) :
    exec (.admissionReadReturn src) s = .next (got.elim s1 fun b => (s1.readNoted src b.2).readChecked p src c).settle := by
  show execAdmissionReadReturn src s = _
  unfold execAdmissionReadReturn
  cases hr : admReadOf c <;> simp only [State.admRead, hr] at hrd <;> simp only [ha, hp, hh, hr, hrd, stepTo_eq] <;> cases got <;> rfl

end

/-- Settles O8: the first offer, the three control opcodes, an unknown opcode, a failed command's tracker, and the reads of admission. -/
theorem admission : Obligations.Admission := by
  unfold Obligations.Admission
  refine ⟨?_, ?_, ?_, fun s p r c st => rfl, ?_⟩
  · intro s s1 y rest c r hr hp hc hsrc ho hh ht hck
    refine ⟨fun st hst => ?_, fun hw hf hroom => ?_⟩
    · subst hst
      exact exec_admitCommand_first hr hp hc hsrc ho (State.tryCmd_fail hh ht hck)
    · exact exec_admitCommand_first hr hp hc hsrc ho (State.tryCmd_admit hh ht hck hw hf hroom)
  · intro s y rest c hr hp hc hsrc ho hh hop hf ht hn hroom
    have key := exec_admitCommand_first hr hp hc hsrc ho (State.tryCmd_admit hh ht (State.admCheck_control hop hf hn) nofun nofun hroom)
    rwa [State.admitNow_control hop] at key
  · intro s y rest c hr hp hc hsrc ho hh hop ht
    exact exec_admitCommand_first hr hp hc hsrc ho (State.tryCmd_fail hh ht (State.admCheck_badOpcode hop))
  · intro s s1 src p c a got ha hp hh hrd
    have key := exec_admissionReadReturn ha hp hh hrd
    refine ⟨fun hg => by rwa [hg] at key, ?_⟩
    rintro bs poison rfl t
    refine ⟨fun hno => ?_, fun u st ho ht hck => ?_⟩
    · rwa [Option.elim_some, State.readChecked_kept hno] at key
    · rwa [Option.elim_some, State.readChecked_fails ho ht hck] at key

end Sys2Proof.Machine
end

section
/-! PROOF. Stationary banks and early work (O19): tokens that come back, banks the array has taken, token waits, and the
run-ahead of a ring. -/
namespace Sys2Proof.Machine

/-- A receiver of buffer b whose bank k is readied and not yet taken by the array (R201). -/
def Receiver.readied (b : Fin 64) (k : Fin 2) (r : Receiver) : Bool :=
  decide (r.kind = 1) && decide (r.buffer = b) && decide (r.claim = some k) && r.readySent && !r.done

theorem exec_statBankReadyAck_of {s : State} {b : Fin 64} {k : Fin 2} {t : TrackerId} {c : StreamCmd}
    (hc : s.streams.find? (fun c => c.rcvs.any (Receiver.readied b k)) = some c) (ht : c.t = some t) :
    exec (.statBankReadyAck b k) s = .next ((s.modStream (fun y => decide (y.t = some t)) fun y =>
      { y with rcvs := updFirst (Receiver.readied b k) (fun r => { r with done := true }) y.rcvs }).settleStream t).settle := by
  unfold Receiver.readied at hc
  show execStatBankReadyAck b k s = _
  simp only [execStatBankReadyAck, stepTo_eq, hc, ht]
  rfl

/-- A wait past TOKEN_EVENT raises its event where the receiver has not raised one yet. -/
theorem exec_tokenWaitExpiry_of {s : State} {t : TrackerId} {r : Fin 64} {x : Tracker} {c : StreamCmd} {v : Receiver}
    (hx : s.trk t = some x) (hc : s.streamOf t = some c) (hv : c.rcvs[r.val]? = some v) (hw : v.waited = true)
    (hcl : v.claim = none) (hev : s.fld fJeStreamCtl_TOKEN_EVENT ≠ 0) :
    exec (.tokenWaitExpiry t r) s = .next (if v.longWait = true then s
      else (s.modRcv t r.val fun y => { y with longWait := true }).eventP x.part 0x0C v.buffer.val x.tag).settle := by
  show execTokenWaitExpiry t r s = _
  simp only [execTokenWaitExpiry, stepTo_eq, hx, hc, hv]
  cases hl : v.longWait with
  | true => simp
  | false => simp [hw, hcl, hev]

/-- The STREAMs that the run-ahead of ring r may look at. -/
def State.earlyCands (s : State) (r : RingNo) (x : Ring) : List (W32 × Cmd × Bool) :=
  (lookAhead s x.ctx.runahead x.admitAt (s.softPending r) x.fetched).filter fun y => decide (cOp y.2.1 = 0x30)

/-- Whether a STREAM that run-ahead looks at is neither started early nor left to its admission. -/
def State.earlyFresh (s : State) (r : RingNo) (x : Ring) (y : W32 × Cmd × Bool) : Bool :=
  (s.earlyOf (.ring r) y.1).isNone && !(y.1 ∈ x.noEarly)

/-- The first stream of the run-ahead that has started early, has a slot to fill and has not paused. -/
def State.earlyNext (s : State) (r : RingNo) (l : List (W32 × Cmd × Bool)) : Option StreamCmd :=
  (l.filterMap fun y => s.earlyOf (.ring r) y.1).find? fun c => decide (c.fillSlot ≠ none) && !c.paused

section
variable {s : State} {r : RingNo} {x : Ring} (hx : s.ring r = some x)
  (hopen : ¬(s.fld fJeStreamCtl_EARLY = 0 ∨ x.ctx.halted = true ∨ x.phase = .disabling ∨ (!s.partEnabled x.part) = true ∨
    s.hardPending r = true))
include hx hopen

theorem exec_earlyWorkStart_starts {y : W32 × Cmd × Bool} {u : State}
    (hy : (s.earlyCands r x).find? (s.earlyFresh r x) = some y)
    (hu : s.earlyStart x.part r y.1 y.2.1 y.2.2 = (u, true)) : exec (.earlyWorkStart r) s = .next u.settle := by
  unfold State.earlyCands State.earlyFresh at hy
  show execEarlyWorkStart r s = _
  simp only [execEarlyWorkStart, stepTo_eq, hx, if_neg hopen, hy, hu, if_true]

theorem exec_earlyWorkStart_reads (hy : (s.earlyCands r x).find? (s.earlyFresh r x) = none) {c : StreamCmd}
    (hc : s.earlyNext r (s.earlyCands r x) = some c) : exec (.earlyWorkStart r) s = .next (s.earlyLine c).settle := by
  unfold State.earlyNext at hc
  unfold State.earlyCands at hy hc
  unfold State.earlyFresh at hy
  show execEarlyWorkStart r s = _
  simp only [execEarlyWorkStart, stepTo_eq, hx, if_neg hopen, hy, Bool.false_eq_true, if_false, hc]

theorem exec_earlyWorkStart_rests (hy : (s.earlyCands r x).find? (s.earlyFresh r x) = none)
    (hc : s.earlyNext r (s.earlyCands r x) = none) : exec (.earlyWorkStart r) s = .next s.settle := by
  unfold State.earlyNext at hc
  unfold State.earlyCands at hy hc
  unfold State.earlyFresh at hy
  show execEarlyWorkStart r s = _
  simp only [execEarlyWorkStart, stepTo_eq, hx, if_neg hopen, hy, Bool.false_eq_true, if_false, hc]

end

section
variable {s s1 : State} {c : StreamCmd} {k : Nat} (hk : c.fillSlot = some k) (hm : s.mayFill c k = true)
include hk hm

theorem State.earlyLine_pause
    (ha : s.earlyAddr c.part c.range (sAddr c.desc (k * sSlotBytes c.desc + 64 * c.filledIn k)) = (s1, .pause)) :
    s.earlyLine c = s1.modStream (fun y => decide (y = c)) fun y => { y with paused := true } := by
  simp only [State.earlyLine, hk, hm, Bool.not_true, Bool.false_eq_true, if_false, ha]

/-- A line that may be read enters the slot in fill where the speculation filter has room (R208, R211). -/
theorem State.earlyLine_read {a : Nat} {e : RangeEnt}
    (ha : s.earlyAddr c.part c.range (sAddr c.desc (k * sSlotBytes c.desc + 64 * c.filledIn k)) = (s1, .read a e))
    (hf : s1.filterUse < 16384) :
    s.earlyLine c = s1.modStream (fun y => decide (y = c)) fun y =>
      { y.append k ((List.range (min (4 - sAddr c.desc (k * sSlotBytes c.desc + 64 * c.filledIn k) / 64 % 4)
          (sPiece c.desc k (k * sSlotBytes c.desc + 64 * c.filledIn k) / 64))).map fun i =>
            (BitVec.ofNat 512 (s1.rdNat (a / 64 * 64 + 64 * i) 64), s1.granPoison (a / 64 + i))) [a / 4096] with
        range := some e, touched := (y.touched ++ [e.obj]).eraseDups } := by
  have hroom : ¬(16384 ≤ s1.filterUse ∧
      (!s1.streams.any fun d => decide (d.t = none) && d.slots.any fun sl => decide (a / 4096 ∈ sl.blocks)) = true) :=
    fun h => absurd h.1 (Nat.not_le.mpr hf)
  simp only [State.earlyLine, hk, hm, Bool.not_true, Bool.false_eq_true, if_false, ha, if_neg hroom]

end

/-- Settles O19: what each event of the stationary banks and of early work does, by the lemmas above. -/
theorem stationaryBanks : Obligations.StationaryBanks := by
  unfold Obligations.StationaryBanks
  refine ⟨fun s b k => rfl, ?_, fun s t r x c v hx hc hv hw hcl hev => exec_tokenWaitExpiry_of hx hc hv hw hcl hev, ?_, ?_⟩
  · intro s b k t c mine took hc ht
    exact exec_statBankReadyAck_of hc ht
  · intro s r x hx hearly hhalt hphase hpart hhard cand
    have hopen : ¬(s.fld fJeStreamCtl_EARLY = 0 ∨ x.ctx.halted = true ∨ x.phase = .disabling ∨
        (!s.partEnabled x.part) = true ∨ s.hardPending r = true) := by
      simp [hearly, hhalt, hphase, hpart, hhard]
    exact ⟨fun y u hy hu => exec_earlyWorkStart_starts hx hopen hy hu,
      fun hy => ⟨fun c hc => exec_earlyWorkStart_reads hx hopen hy hc, exec_earlyWorkStart_rests hx hopen hy⟩⟩
  · intro s s1 c k hk hm o pa
    exact ⟨fun ha => State.earlyLine_pause hk hm ha, fun a e ha hf => State.earlyLine_read hk hm ha hf⟩

end Sys2Proof.Machine
end

section
/-! PROOF. Mixed-width tables (O22): popularity counts, the epoch scan, class moves and the slots they vacate, version switches. -/
namespace Sys2Proof.Machine

/-! Popularity counts (R111) -/

theorem exec_popCountReturn_of {s s1 : State} {q : PopAdd} {r : List PopAdd} (hq : s.popAdds = q :: r)
    (ht : ({ s with popAdds := r } : State).popTake q = .ok s1) : exec .popCountReturn s = .next s1.scanGo.settle := by
  show execPopCountReturn s = _
  simp only [execPopCountReturn, stepTo_eq, hq, ht]

/-- A count goes up by one and stops at the largest 32-bit value. -/
theorem satInt_succ_toI32 (w : W32) : (satInt 32 (toI32 w + 1)).1 = min (toI32 w + 1) (2 ^ 31 - 1) := by
  have hlo : -2 ^ 31 ≤ w.toInt := BitVec.le_toInt w
  have hhi : w.toInt < 2 ^ 31 := BitVec.toInt_lt
  unfold satInt toI32
  simp only [show 32 - 1 = 31 from rfl]
  split
  · simp only; omega
  · rw [if_neg (by omega)]; simp only; omega

section
variable {s s1 s2 : State} {q : PopAdd} {c : Nat} {bad : Bool} (hc : s.popCount q.part q.desc q.x = .ok (s1, c, bad))
  (hp : s1.putCount q.part q.desc q.x
    (BitVec.ofInt 32 (min (toI32 (BitVec.ofNat 32 c) + 1) (2 ^ 31 - 1))).toNat = .ok s2)
include hc hp

theorem State.popTake_poisoned (hb : bad = true) : s.popTake q = .ok (s2.bump fJpRakeStat_POISON_ADDS q.part) := by
  simp only [State.popTake, hc, satInt_succ_toI32, ofIntW, hp, hb, if_true]

theorem State.popTake_below (hb : bad = false) (hlt : toI32 (BitVec.ofNat 32 c) < (Desc.upThresh q.desc q.cls : Int)) :
    s.popTake q = .ok s2 := by
  simp only [State.popTake, hc, satInt_succ_toI32, ofIntW, hp, hb, Bool.false_eq_true, if_false, if_pos hlt]

theorem State.popTake_promotes {s3 : State} (hb : bad = false)
    (hge : (Desc.upThresh q.desc q.cls : Int) ≤ toI32 (BitVec.ofNat 32 c)) (hm : s2.promote q = .ok s3) :
    s.popTake q = .ok s3 := by
  simp only [State.popTake, hc, satInt_succ_toI32, ofIntW, hp, hb, Bool.false_eq_true, if_false, if_neg (Int.not_lt.mpr hge), hm]

end

/-! The epoch scan (R112, R116, R228) -/

/-- With ENABLE clear no scan is left (R116). -/
theorem State.scanGo_disabled {s : State} (h : s.fld fJePopCtl_ENABLE = 0) : s.scanGo = { s with scan := none } := by
  unfold State.scanGo
  cases hs : s.scan with
  | none => simp only [← hs]
  | some c => simp only [h, if_true]

theorem exec_epochScan_idle {s : State} (h : s.fld fJePopCtl_ENABLE = 0 ∨ s.fld fJePopCtl_EPOCH = 0) :
    exec .epochScan s = .next s.scanGo.settle := by
  show execEpochScan s = _
  simp only [execEpochScan, stepTo_eq, if_pos h]

section
variable {s : State} (hon : s.fld fJePopCtl_ENABLE ≠ 0) (hep : s.fld fJePopCtl_EPOCH ≠ 0)
include hon hep

theorem exec_epochScan_begins (hs : s.scan = none) : exec .epochScan s = .next s.beginScan.settle := by
  show execEpochScan s = _
  simp only [execEpochScan, stepTo_eq, hon, hep, or_self, if_false, hs]

theorem exec_epochScan_late {c : Scan} (hs : s.scan = some c) :
    exec .epochScan s =
      .next (({ s with scan := some { c with due := true } } : State).bump fJpPopStat_EPOCHS_LATE c.p).scanGo.settle := by
  show execEpochScan s = _
  simp only [execEpochScan, stepTo_eq, hon, hep, or_self, if_false, hs]

end

/-- Latches the count of one slice (R228). -/
def State.latchLoad (s : State) (n : SliceId) : State :=
  s.setFld fJsShardLoad_LAST_EPOCH (min (2 ^ 32 - 1) (s.lineReads[n] / 16)) n

theorem State.latchLoad_fld_self (s : State) (n : SliceId) :
    (s.latchLoad n).fld fJsShardLoad_LAST_EPOCH n = min (2 ^ 32 - 1) (s.lineReads[n] / 16) := by
  unfold State.latchLoad
  rw [State.fld_setFld_self _ _ _ _ _ (by decide)]
  exact Nat.mod_eq_of_lt (Nat.lt_of_le_of_lt (Nat.min_le_left _ _) (by decide))

theorem State.latchLoad_fld_ne (s : State) {m n : SliceId} (h : m ≠ n) :
    (s.latchLoad m).fld fJsShardLoad_LAST_EPOCH n = s.fld fJsShardLoad_LAST_EPOCH n :=
  State.fld_setFld_of_ne _ _ (by simpa using fun e => h (Fin.ext e))

/-- Latching the slices of a list leaves each of them with its count. -/
theorem State.foldl_latchLoad_fld (n : SliceId) : ∀ (l : List SliceId) (s : State),
    (l.foldl State.latchLoad s).fld fJsShardLoad_LAST_EPOCH n =
      if n ∈ l then min (2 ^ 32 - 1) (s.lineReads[n] / 16) else s.fld fJsShardLoad_LAST_EPOCH n
  | [], s => by simp
  | m :: l, s => by
    rw [List.foldl_cons, State.foldl_latchLoad_fld n l, show (s.latchLoad m).lineReads = s.lineReads from rfl]
    rcases eq_or_ne m n with rfl | hne
    · rw [State.latchLoad_fld_self]
      simp
    · rw [State.latchLoad_fld_ne s hne]
      simp [hne.symm]

theorem State.latchLoads_eq (s : State) :
    s.latchLoads = { (List.finRange 8).foldl State.latchLoad s with lineReads := Vector.replicate 8 0 } := rfl

/-- Fields lie beside the counts of lines read. -/
theorem State.fld_lineReads (u : State) (v : Vector Nat 8) (f : Fld) (i : Nat) : ({ u with lineReads := v } : State).fld f i = u.fld f i :=
  rfl

theorem State.latchLoads_fld (s : State) (n : SliceId) :
    s.latchLoads.fld fJsShardLoad_LAST_EPOCH n = min (2 ^ 32 - 1) (s.lineReads[n] / 16) := by
  rw [State.latchLoads_eq, State.fld_lineReads, State.foldl_latchLoad_fld, if_pos (List.mem_finRange n)]

theorem State.latchLoads_lineReads (s : State) (n : SliceId) : s.latchLoads.lineReads[n] = 0 := by
  rw [State.latchLoads_eq]
  simp

/-! Class moves and vacated slots (R76, R113) -/

/-- Bumps the counter of a move that is done: balanced, promoted or demoted. -/
theorem exec_classMoveDone_of {s s1 : State} {k : Fin 64} {m : RowMove} (hm : s.moves.find? (fun m => decide (m.id = k)) = some m)
    (hd : s.doMove m = .ok s1) :
    exec (.classMoveDone k) s = .next (((s1.dropMove m).slotBack m m.fromCls m.fromSlot s1.admitted).bump
      (if m.load then fJpBalanceStat_BALANCED else if m.toCls < m.fromCls then fJpPopStat_PROMOTED else fJpPopStat_DEMOTED)
      m.part).scanGo.settle := by
  show execClassMoveDone k s = _
  simp only [execClassMoveDone, stepTo_eq, hm, hd]
  split
  · rfl
  · split <;> rfl

theorem exec_classMoveDone_fault {s : State} {k : Fin 64} {m : RowMove} {a : Nat} {acc : XAcc}
    (hm : s.moves.find? (fun m => decide (m.id = k)) = some m) (hd : s.doMove m = .error (.fault a acc)) :
    exec (.classMoveDone k) s =
      .next (((s.engWait m.part (.fault a acc)).dropMove m).slotBack m m.toCls m.toSlot 0).scanGo.settle := by
  show execClassMoveDone k s = _
  simp only [execClassMoveDone, stepTo_eq, hm, hd]

theorem RowMove.id_of_find {l : List RowMove} {k : Fin 64} {m : RowMove} (hm : l.find? (fun m => decide (m.id = k)) = some m) :
    m.id = k := by
  simpa using List.find?_some hm

theorem exec_slotReturn_of {s s1 s2 : State} {b : SlotBack} {f : FreeRing}
    (hb : s.slotBacks.find? (fun b => s.trackers.all fun x => !x.admitted || decide (b.before ≤ x.serial)) = some b)
    (hf : s.ringRec b.part b.desc b.cls = .ok (s1, f)) (ha : s1.ringAppend b.part f [b.slot] = .ok s2) :
    exec .slotReturn s = .next ({ s2 with slotBacks := eraseFirst (fun y => decide (y = b)) s2.slotBacks } : State).settle := by
  show execSlotReturn s = _
  simp only [execSlotReturn, stepTo_eq, hb, hf, ha]

theorem exec_versionSwitch_of {s s1 : State} {t : TrackerId} {x : Tracker} {g : Current} (hx : s.startable t 0x40 = some x)
    (hg : s.graft.find? (fun g => decide (g.part = x.part) && decide (g.table = cTable x.cmd)) = some g)
    (hw : s.writePart x.part (.cmd t) (s.fld fJpTableDir_BASE x.part * 4096 + 128 * cTable x.cmd) (leBytes 128 g.desc.toNat)
      false (some t) = (s1, true)) :
    exec (.versionSwitch t) s = .next (s1.run t).settleSwitches.settle := by
  show execVersionSwitch t s = _
  simp only [execVersionSwitch, stepTo_eq, hx, hg, hw]

/-- Settles O22: what each event of the mixed-width tables does, by the lemmas above. -/
theorem mixedWidthTables : Obligations.MixedWidthTables := by
  unfold Obligations.MixedWidthTables
  refine ⟨fun s s1 q r hq ht => exec_popCountReturn_of hq ht, ?_, ?_, fun s n => ⟨s.latchLoads_fld n, s.latchLoads_lineReads n⟩,
    ?_, ?_, fun s s1 s2 b f hb hf ha => exec_slotReturn_of hb hf ha, fun s s1 t x g hx hg hw => exec_versionSwitch_of hx hg hw⟩
  · intro s s1 s2 q c bad hc old new hp
    exact ⟨State.popTake_poisoned hc hp, State.popTake_below hc hp, fun s3 hb hge hm => State.popTake_promotes hc hp hb hge hm⟩
  · intro s
    refine ⟨fun h => ?_, fun h => exec_epochScan_idle (.inr h), fun hon hep hs => exec_epochScan_begins hon hep hs,
      fun c hon hep hs => exec_epochScan_late hon hep hs⟩
    rw [← State.scanGo_disabled h]
    exact exec_epochScan_idle (.inl h)
  · intro s s1 k m hm hd
    obtain rfl := RowMove.id_of_find hm
    exact exec_classMoveDone_of hm hd
  · intro s k m a acc hm hd s1
    obtain rfl := RowMove.id_of_find hm
    exact exec_classMoveDone_fault hm hd

end Sys2Proof.Machine
end

section
/-! PROOF. The board tier (O34): granules that return, writes that are acknowledged, and writes that are sent. -/
namespace Sys2Proof.Machine

section
variable {s : State} {g : BitVec 46} {data : List Byte} {poisoned : Bool} {word : EccErr}

theorem exec_boardReadReturn_outside (h : s.boardBound ≤ g.toNat * 64) :
    exec (.boardReadReturn g data poisoned word) s = .fault .outsideSpace := by
  show execBoardReadReturn g data poisoned s word = _
  simp only [execBoardReadReturn, if_pos h]

theorem exec_boardReadReturn_linkDown (h : g.toNat * 64 < s.boardBound) (hst : s.fld fJeFabStatus_STATE ≠ 0) :
    exec (.boardReadReturn g data poisoned word) s = .next s.settle := by
  show execBoardReadReturn g data poisoned s word = _
  simp only [execBoardReadReturn, if_neg (Nat.not_le.mpr h), if_pos hst, stepTo_eq]

/-- Without an injection a granule arrives as it comes, and the adds that wait for its line execute. -/
theorem exec_boardReadReturn_arrives (h : g.toNat * 64 < s.boardBound) (hst : s.fld fJeFabStatus_STATE = 0) (ha : s.armed = none) :
    exec (.boardReadReturn g data poisoned .clean) s =
      .next ((s.boardArrive (s.boardPhys (g.toNat * 64)) data poisoned).addBoardLine (s.boardPhys (g.toNat * 64) / 256)).settle := by
  show execBoardReadReturn g data poisoned s .clean = _
  simp only [execBoardReadReturn, if_neg (Nat.not_le.mpr h), hst, ne_eq, not_true_eq_false, if_false, stepTo_eq]
  cases s.boardReader (s.boardPhys (g.toNat * 64) / 256) with
  | none => simp only [Bool.or_false]
  | some p => simp only [State.fifoWord_clean s 7 p ha, Bool.or_false]

end

/-! A granule that arrives (R291, R360) -/

section
variable (s : State) (a : Nat) (data : List Byte)

theorem State.boardArrive_poisoned : s.boardArrive a data true = { s with poison := insNat (a / 64) s.poison } := rfl

theorem State.boardArrive_encrypted (he : s.encrypted (physOff a) = true) :
    s.boardArrive a data false = { s with
      mem := memPutList s.mem a ((List.range 64).map fun i =>
        (Config.xtsDecrypt (s.sec.board.getD []) (physOff a / 64) data).getD i 0)
      poison := delNat (a / 64) s.poison } := by
  simp only [State.boardArrive, he, if_true, Bool.false_eq_true, if_false]

/-- The first n elements of a list of n are the list. -/
theorem map_getD_range_length {α : Type} (l : List α) (d : α) : (List.range l.length).map (fun i => l.getD i d) = l := by
  refine List.ext_getElem (by simp) fun i _ hi => ?_
  simp [List.getD_eq_getElem?_getD, List.getElem?_eq_getElem hi]

theorem State.boardArrive_plain (he : s.encrypted (physOff a) = false) (hl : data.length = 64) :
    s.boardArrive a data false = { s with mem := memPutList s.mem a data, poison := delNat (a / 64) s.poison } := by
  simp only [State.boardArrive, he, Bool.false_eq_true, if_false]
  rw [← hl, map_getD_range_length]

end

/-! Writes to the board tier (R287, R291, R292) -/

theorem exec_boardWriteAck_none {s : State} (h : s.boardWrs.find? (·.sent) = none ∨ s.fld fJeFabStatus_STATE ≠ 0) :
    exec .boardWriteAck s = .next s.settle := by
  show execBoardWriteAck s = _
  unfold execBoardWriteAck
  rw [stepTo_eq]
  rcases h with h | h
  · simp only [h]
  · cases s.boardWrs.find? (·.sent) <;> simp only [if_pos h]

theorem exec_boardWriteAck_some {s : State} {w : BoardWr} (hw : s.boardWrs.find? (·.sent) = some w)
    (hst : s.fld fJeFabStatus_STATE = 0) :
    exec .boardWriteAck s =
      .next ((({ s with boardWrs := eraseFirst (fun x => decide (x = w)) s.boardWrs } : State).boardVisible w).sendBoards).settle := by
  show execBoardWriteAck s = _
  simp only [execBoardWriteAck, stepTo_eq, hw, hst, ne_eq, not_true_eq_false, if_false]

/-- Settles O34: what arrives from the board tier and what becomes visible there, by the lemmas above. -/
theorem boardTier : Obligations.BoardTier := by
  unfold Obligations.BoardTier
  refine ⟨fun s g data poisoned word => ⟨exec_boardReadReturn_outside, exec_boardReadReturn_linkDown⟩, ?_, ?_, ?_⟩
  · intro s g data poisoned a hb hst harm
    have key := exec_boardReadReturn_arrives (data := data) (poisoned := poisoned) hb hst harm
    refine ⟨fun hp => ?_, fun hp he hl => ?_, fun hp he => ?_⟩
    · rw [hp, State.boardArrive_poisoned] at key
      exact hp ▸ key
    · rw [hp, State.boardArrive_plain s _ data he hl] at key
      exact hp ▸ key
    · rw [hp, State.boardArrive_encrypted s _ data he] at key
      intro plain
      exact hp ▸ key
  · intro s
    exact ⟨exec_boardWriteAck_none, fun w hw hst => exec_boardWriteAck_some hw hst⟩
  · intro s hst room due s1
    exact if_neg (not_not.mpr hst)

end Sys2Proof.Machine
end

section
/-! PROOF. Sleep and waking (O45): the limit, units at rest, entries with their steps, what abandons or wakes them, and what a
wake leaves. -/
namespace Sys2Proof.Machine

/-! The limit (R370) -/

/-- A running minimum is at least k where its start and every value it meets are. -/
theorem le_foldl_min_iff {α : Type} (f : α → Nat) (k : Nat) : ∀ (l : List α) (a : Nat),
    k ≤ l.foldl (fun m p => min m (f p)) a ↔ k ≤ a ∧ ∀ p ∈ l, k ≤ f p
  | [], a => by simp
  | p :: l, a => by
    rw [List.foldl_cons, le_foldl_min_iff f k l, le_min_iff, List.forall_mem_cons, and_assoc]

/-- The deepest state that the bounds of the ENABLED partitions allow (R370). -/
def State.boundLimit (s : State) : Nat :=
  ((List.range 16).filter s.partEnabled).foldl (fun m p => min m (depthOf (s.fld fJpPwrCtl_WAKE_BOUND p))) 3

theorem State.sleepLimit_eq (s : State) : s.sleepLimit =
    if s.netOpen then min (min s.boundLimit (s.fld fJePwrCtl_MAX_DEPTH)) 2 else min s.boundLimit (s.fld fJePwrCtl_MAX_DEPTH) := rfl

theorem State.le_boundLimit_iff (s : State) {k : Nat} (hk : k ≤ 3) :
    k ≤ s.boundLimit ↔ ∀ p < 16, s.partEnabled p = true → k ≤ depthOf (s.fld fJpPwrCtl_WAKE_BOUND p) := by
  rw [State.boundLimit, le_foldl_min_iff]
  simp only [List.mem_filter, List.mem_range, and_imp, hk, true_and]

theorem State.le_sleepLimit_iff (s : State) {k : Nat} (hk : k ≤ 3) :
    k ≤ s.sleepLimit ↔ k ≤ s.fld fJePwrCtl_MAX_DEPTH ∧ (s.netOpen = true → k ≤ 2) ∧
      ∀ p < 16, s.partEnabled p = true → k ≤ depthOf (s.fld fJpPwrCtl_WAKE_BOUND p) := by
  rw [State.sleepLimit_eq, ← s.le_boundLimit_iff hk]
  cases s.netOpen with
  | true => simp only [if_true, le_min_iff, true_imp_iff]; tauto
  | false => simp only [Bool.false_eq_true, if_false, le_min_iff, false_imp_iff, true_and]; tauto

theorem depthOf_cases (b : Nat) : (depthOf b = 0 ↔ b < 4) ∧ (depthOf b = 1 ↔ 4 ≤ b ∧ b < 1500) ∧
    (depthOf b = 2 ↔ 1500 ≤ b ∧ b < 30000) ∧ (depthOf b = 3 ↔ 30000 ≤ b) := by
  unfold depthOf
  split
  · omega
  · split
    · omega
    · split <;> omega

/-! Units at rest (R369) -/

section
variable {s : State} {u : RestUnit}

theorem exec_restHoldExpiry_gates (hr : s.ready = true) (ha : s.asleep = false) (hl : 1 ≤ s.sleepLimit) (hu : s.unitIdle u = true) :
    exec (.restHoldExpiry u) s = .next (s.gate u true).settle := by
  show execRestHoldExpiry u s = _
  rw [execRestHoldExpiry, stepTo_eq, if_pos (by simp [hr, ha, hl, hu])]

theorem exec_restHoldExpiry_keeps (h : s.ready = false ∨ s.asleep = true ∨ s.sleepLimit = 0 ∨ s.unitIdle u = false) :
    exec (.restHoldExpiry u) s = .next s.settle := by
  show execRestHoldExpiry u s = _
  rw [execRestHoldExpiry, stepTo_eq, if_neg]
  rintro ⟨hr, ha, hl, hu⟩
  rcases h with h | h | h | h <;> simp_all

theorem exec_restWakeDone_of (n : Bool) (h : s.unitNeeded u = n) :
    exec (.restWakeDone u) s = .next (if n then s.gate u false else s).settle := by
  show execRestWakeDone u s = _
  rw [execRestWakeDone, stepTo_eq, h]

end

/-! Entries (R371, R373) -/

theorem State.mayEnter_iff (s : State) : s.mayEnter = true ↔
    s.ready = true ∧ s.idle = true ∧ s.power.entry = 0 ∧ s.power.waking = false ∧ s.power.held = [] := by
  simp [State.mayEnter, and_assoc]

/-- A partition has no work of its own: no direct command, no invalidation, no initialisation (R371). -/
def PartSt.rests (ps : PartSt) : Prop := ps.dcmd = [] ∧ ps.inval = none ∧ ps.initing = false

theorem Tracker.blocked_iff (x : Tracker) :
    x.blocked = true ↔ x.admitted = true ∧ x.op = 0x02 ∧ (x.phase = .running ∨ x.phase = .reading) := by
  simp [Tracker.blocked, and_assoc]

/-- What an idle engine has come to the end of (R371). -/
theorem State.idle_facts {s : State} (h : s.idle = true) :
    (∀ x ∈ s.trackers, x.blocked = true) ∧ s.dbBuf = [] ∧ (∀ p, (s.part p).rests) ∧ s.streams = [] ∧ s.sctx = [] ∧
      s.objMoves = [] ∧ s.moves = [] ∧ s.scan = none ∧ s.walks = [] ∧ s.actionBusy = false := by
  simp only [State.idle, Bool.and_eq_true, and_assoc, List.all_eq_true, List.isEmpty_iff, Option.isNone_iff_eq_none,
    Bool.not_eq_true'] at h
  obtain ⟨htrk, hdb, -, hpart, -, hstr, hctx, hobj, hmov, hscan, hwalk, -, hbusy⟩ := h
  refine ⟨htrk, hdb, fun p => ?_, hstr, hctx, hobj, hmov, hscan, hwalk, hbusy⟩
  obtain ⟨hd, -, -, hinv, -, hinit⟩ := hpart p (List.mem_finRange p)
  exact ⟨hd, hinv, hinit⟩

/-- An entry begins, at its first step. -/
def State.beginEntry (s : State) (e : Nat) : State := { s with power := { s.power with entry := e, step := 1, trigger := false } }

section
variable {s : State}

theorem exec_dormantHoldExpiry_enters (hm : s.mayEnter = true) (ha : s.asleep = false) (hl : 2 ≤ s.sleepLimit) :
    exec .dormantHoldExpiry s = .next (s.beginEntry 1).settle := by
  show execDormantHoldExpiry s = _
  rw [execDormantHoldExpiry, stepTo_eq, if_pos (by simp [hm, ha, hl])]
  rfl

theorem exec_dormantHoldExpiry_keeps (h : s.mayEnter = false ∨ s.asleep = true ∨ s.sleepLimit < 2) :
    exec .dormantHoldExpiry s = .next s.settle := by
  show execDormantHoldExpiry s = _
  rw [execDormantHoldExpiry, stepTo_eq, if_neg]
  rintro ⟨hm, ha, hl⟩
  rcases h with h | h | h
  · exact Bool.false_ne_true (h.symm.trans hm)
  · rw [h] at ha
    exact Bool.false_ne_true ha
  · omega

theorem exec_overwinterHoldExpiry_enters (hm : s.mayEnter = true) (hst : s.fld fJePwrStatus_STATE = 2) (hl : 3 ≤ s.sleepLimit) :
    exec .overwinterHoldExpiry s = .next (s.beginEntry 2).settle := by
  show execOverwinterHoldExpiry s = _
  rw [execOverwinterHoldExpiry, stepTo_eq, if_pos ⟨hm, hst, hl⟩]
  rfl

theorem exec_overwinterHoldExpiry_keeps (h : s.mayEnter = false ∨ s.fld fJePwrStatus_STATE ≠ 2 ∨ s.sleepLimit < 3) :
    exec .overwinterHoldExpiry s = .next s.settle := by
  show execOverwinterHoldExpiry s = _
  rw [execOverwinterHoldExpiry, stepTo_eq, if_neg]
  rintro ⟨hm, hst, hl⟩
  rcases h with h | h | h
  · exact Bool.false_ne_true (h.symm.trans hm)
  · exact h hst
  · omega

end

/-! The steps of an entry (R373) -/

theorem exec_sleepEntryStepDone_none {s : State} (h : s.power.entry = 0) : exec .sleepEntryStepDone s = .next s.settle := by
  show execSleepEntryStepDone s = _
  rw [execSleepEntryStepDone, stepTo_eq, if_pos h]

/-- A trigger has come before step 4. -/
def State.entryStopped (s : State) : Prop := s.power.trigger = true ∧ s.power.step < 4

/-- The step in which pages flip back, of an entry into Overwinter. -/
def State.entryFlips (s : State) : Prop := s.power.entry = 2 ∧ s.power.step = 2

section
variable {s s1 : State} {done : Bool} (he : s.power.entry ≠ 0) (hw : s.entryWork = (s1, done))
include he hw

theorem exec_sleepEntryStepDone_abandons (hs : s1.entryStopped) (hd : done = true ∨ s1.entryFlips) :
    exec .sleepEntryStepDone s = .next s1.abandonEntry.settle := by
  show execSleepEntryStepDone s = _
  rw [execSleepEntryStepDone, stepTo_eq, if_neg he]
  simp only [hw]
  rw [if_pos]
  obtain ⟨ht, hst⟩ := hs
  refine ⟨ht, hst, hd.imp_right fun hf => ?_⟩
  obtain ⟨h2, hstep⟩ := hf
  simp [h2, hstep]

/-- The end of a step whose entry goes on. -/
theorem exec_sleepEntryStepDone_goes (hs : ¬(s1.entryStopped ∧ (done = true ∨ s1.entryFlips))) :
    exec .sleepEntryStepDone s = .next (if done = false then s1
      else if s1.power.step < entrySteps s1.power.entry then { s1 with power := { s1.power with step := s1.power.step + 1 } }
      else s1.finishEntry).settle := by
  show execSleepEntryStepDone s = _
  rw [execSleepEntryStepDone, stepTo_eq, if_neg he]
  simp only [hw]
  rw [if_neg]
  · simp only [Bool.not_eq_true']
  · rintro ⟨ht, hst, hd⟩
    refine hs ⟨⟨ht, hst⟩, hd.imp_right fun hf => ?_⟩
    simpa [State.entryFlips] using hf

end

theorem State.finishEntry_eq (s : State) : s.finishEntry =
    (let s2 := ({ s with power := { s.power with entry := 0, step := 0, trigger := false } } : State).setPower (s.power.entry + 1)
     let s3 := (if s.power.entry = 2 then s2.emit (.fabReady false) else s2).emit (.ppmReq (s2.request (s.power.entry + 1)))
     if s.power.trigger then s3.trigger else s3) := by
  simp only [State.finishEntry, Nat.reduceEqDiff]

/-- The pre-aggregation of every slice is flushed. -/
def State.flushAllPre (s : State) : State :=
  (List.finRange 8).foldl (fun (u : State) (n : SliceId) => u.flushPre n fun _ => true) s

section
variable {s : State}

theorem State.entryWork_irq (he : s.power.entry = 1) (hs : s.power.step = 1) : s.entryWork = (s.irqFlush, true) := by
  simp only [State.entryWork, he, hs]

theorem State.entryWork_buffers (he : s.power.entry = 1) (hs : s.power.step = 2) : s.entryWork =
    if s.flushAllPre.buffersQuiet = true then (s.flushAllPre.drainWcb fun _ => true, true) else (s.flushAllPre, false) := by
  simp only [State.entryWork, he, hs]
  rfl

theorem State.entryWork_pages (he : s.power.entry = 2) (hs : s.power.step = 2) : s.entryWork =
    (s.recallAll, !(s.recallAll.pages.any fun y => decide (y.2 ≠ .device))) := by
  simp only [State.entryWork, he, hs]

theorem State.entryWork_contexts (he : s.power.entry = 2) (hs : s.power.step = 3) : s.entryWork =
    (s.saveContexts.drainWcb fun _ => true, true) := by
  simp only [State.entryWork, he, hs]

/-- The steps in which nothing of the model has to be done. -/
theorem State.entryWork_rest (h1 : s.power.entry = 1 → 3 ≤ s.power.step)
    (h2 : s.power.entry = 2 → s.power.step = 1 ∨ 4 ≤ s.power.step) : s.entryWork = (s, true) := by
  unfold State.entryWork
  split
  case h_1 he hs => have := h1 he; omega
  case h_2 he hs => have := h1 he; omega
  case h_3 he hs => have := h2 he; omega
  case h_4 he hs => have := h2 he; omega
  case h_5 => rfl

end

/-! Wake triggers (R372) -/

section
variable {s : State}

theorem State.trigger_entering (h : s.power.entry ≠ 0) : s.trigger = { s with power := { s.power with trigger := true } } := by
  rw [State.trigger, if_pos h]

theorem State.trigger_asleep (h : s.power.entry = 0) (ha : s.asleep = true) :
    s.trigger = { s with power := { s.power with waking := true } } := by
  rw [State.trigger, if_neg (not_not.mpr h), if_pos ha]

theorem State.trigger_awake (h : s.power.entry = 0) (ha : s.asleep = false) : s.trigger = s := by
  rw [State.trigger, if_neg (not_not.mpr h), ha]
  rfl

theorem exec_wakeTrigger_of {c : Wake} (h : c ≠ .resetPin ∨ s.boot.running = true) :
    exec (.wakeTrigger c) s = .next s.trigger.settle := by
  show execWakeTrigger c s = _
  cases c with
  | resetPin => simp only [execWakeTrigger, stepTo_eq, h.resolve_left (fun hn => hn rfl), if_true]
  | aperture => rfl
  | doorbell => rfl
  | window => rfl
  | message => rfl
  | grant => rfl

theorem exec_wakeTrigger_pin (h : s.boot.running = false) : exec (.wakeTrigger .resetPin) s = .next s.settle := by
  show execWakeTrigger .resetPin s = _
  simp only [execWakeTrigger, stepTo_eq, h, Bool.false_eq_true, if_false]

theorem exec_fabWakeReq_wakes (h : s.fld fJePwrStatus_STATE = 3 ∨ s.power.entry = 2) :
    exec .fabWakeReq s = .next s.trigger.settle := by
  show execFabWakeReq s = _
  rw [execFabWakeReq, stepTo_eq, if_pos h]

theorem exec_fabWakeReq_keeps (h : ¬(s.fld fJePwrStatus_STATE = 3 ∨ s.power.entry = 2)) : exec .fabWakeReq s = .next s.settle := by
  show execFabWakeReq s = _
  rw [execFabWakeReq, stepTo_eq, if_neg h]

end

/-! The end of a wake (R372, R374, R375) -/

theorem exec_wakeDone_none {s : State} (h : s.power.waking = false) : exec .wakeDone s = .next s.settle := by
  show execWakeDone s = _
  rw [execWakeDone, stepTo_eq, h]
  rfl

/-- A sleeping engine without what Overwinter loses. -/
def State.afterSleep (s : State) : State :=
  if s.fld fJePwrStatus_STATE = 3 then s.overwinterLoss.emit (.fabReady true) else s

theorem exec_wakeDone_of {s : State} (h : s.power.waking = true) : exec .wakeDone s =
    (let s1 := s.afterSleep
     let s2 := ({ s1 with power := { s1.power with waking := false } } : State).awake
     .next ((s2.bump fJePwrStatus_WAKES).emit (.ppmReq (s2.request 0))).replayAll.settle) := by
  show execWakeDone s = _
  simp only [execWakeDone, stepTo_eq, h, Bool.not_true, Bool.false_eq_true, if_false, decide_eq_true_eq, State.afterSleep]

/-! What an awake engine reports -/

theorem State.accrue_fld (s : State) (f : Fld) (h : f.reg ≠ .jePwrResid) : s.accrue.fld f = s.fld f := by
  have ha : s.accrue.reg f.reg = s.reg f.reg := State.reg_setReg_ne _ _ fun he => h (congrArg RegRef.reg he).symm
  simp only [State.fld, ha]

theorem State.setPower_state (s : State) {st : Nat} (h : st < 4) : (s.setPower st).fld fJePwrStatus_STATE = st := by
  rw [State.setPower]
  split
  next he => exact he
  next =>
    refine (State.fld_setFld_self s.accrue fJePwrStatus_STATE st 0 0 (by decide)).trans (Nat.mod_eq_of_lt ?_)
    exact h

/-- A change of the power state leaves the register's fields below STATE. -/
theorem State.setPower_fld (s : State) (st : Nat) {f : Fld} (hr : f.reg = .jePwrStatus) (hf : f.lo + f.len ≤ 62) :
    (s.setPower st).fld f = s.fld f := by
  rw [State.setPower]
  split
  · rfl
  · have h1 : (s.accrue.setFld fJePwrStatus_STATE st).fld f = s.accrue.fld f :=
      State.fld_setFld_of_apart s.accrue (f := fJePwrStatus_STATE) st 0 0 hr (.inl hf)
    exact h1.trans (s.accrue_fld f (hr ▸ by decide))

theorem State.awake_fields (s : State) : s.awake.fld fJePwrStatus_STATE = 0 ∧ s.awake.fld fJePwrStatus_LANES_GATED = 0 ∧
    s.awake.fld fJePwrStatus_WINNOW_GATED = 0 := by
  rw [State.awake]
  generalize (if s.asleep then s.sleepEnergy else s) = u
  refine ⟨State.setPower_state _ (by decide), ?_, ?_⟩
  · rw [State.setPower_fld _ _ rfl (by decide), State.fld_setFld_of_apart _ (f := fJePwrStatus_WINNOW_GATED) (f' := fJePwrStatus_LANES_GATED) _ _ _ rfl
        (.inr (by decide)),
      State.fld_setFld_self _ _ _ _ _ (by decide), Nat.zero_mod]
  · rw [State.setPower_fld _ _ rfl (by decide), State.fld_setFld_self _ _ _ _ _ (by decide), Nat.zero_mod]

/-! What Overwinter loses (R374) -/

/-- A reseed changes the generators and draws free values. -/
theorem State.reseed_keeps {α : Type} (g : State → α)
    (hg : ∀ (u : State) sr n, g { u with sr := sr, freeCtr := n } = g u) (s : State) (n : SliceId) : g (s.reseed n) = g s := by
  unfold State.reseed
  refine foldl_keeps _ g (fun u i => ?_) _ s
  split
  · exact hg u _ u.freeCtr
  · exact hg u _ (u.freeCtr + 1)

theorem State.countLost_keeps {α : Type} (g : State → α) (hg : ∀ (u : State) regs, g { u with regs := regs } = g u)
    (s : State) (l : List ClocheEnt) : g (s.countLost l) = g s := by
  unfold State.countLost
  refine foldl_keeps _ g (fun u e => ?_) l s
  split
  · exact hg u _
  · rfl

/-- What Overwinter takes from the units that lose their state, after the Cloches. -/
def State.overwinterWipe (s : State) : State :=
  { s with
    rcache := [], rpast := [], walkFaults := [], xnoted := [], ctxLru := [], graft := [], fmt := [], popAdds := [], scan := none
    rings := s.rings.map fun (x : Ring) => { x with cached := false }
    banks := Vector.replicate 2 Bank.reset
    lineReads := Vector.replicate 8 0 }

theorem State.resetCloche_mem (s : State) (l : LaneId) : (s.resetCloche l).mem = s.mem :=
  State.countLost_keeps State.mem (fun _ _ => rfl) s _

theorem State.resetCloche_trackers (s : State) (l : LaneId) : (s.resetCloche l).trackers = s.trackers :=
  State.countLost_keeps State.trackers (fun _ _ => rfl) s _

/-- Overwinter wipes a state that has memory and trackers as before, and then reseeds the generators. -/
theorem State.overwinterLoss_wipes (s : State) : ∃ u : State, u.mem = s.mem ∧ u.trackers = s.trackers ∧
    ∀ {α : Type} (g : State → α), (∀ (v : State) sr n, g { v with sr := sr, freeCtr := n } = g v) →
      g s.overwinterLoss = g u.overwinterWipe :=
  ⟨(List.finRange 256).foldl (fun (u : State) (l : LaneId) => u.resetCloche l) s,
    foldl_keeps _ State.mem State.resetCloche_mem _ s, foldl_keeps _ State.trackers State.resetCloche_trackers _ s,
    fun g hg => foldl_keeps _ g (State.reseed_keeps g hg) _ _⟩

theorem State.overwinterLoss_facts (s : State) :
    s.overwinterLoss.rcache = [] ∧ s.overwinterLoss.graft = [] ∧ s.overwinterLoss.fmt = [] ∧ s.overwinterLoss.ctxLru = [] ∧
    s.overwinterLoss.scan = none ∧ s.overwinterLoss.banks = Vector.replicate 2 Bank.reset ∧
    (∀ x ∈ s.overwinterLoss.rings, x.cached = false) ∧ s.overwinterLoss.mem = s.mem ∧
    s.overwinterLoss.trackers = s.trackers := by
  obtain ⟨u, hmem, htrk, keeps⟩ := s.overwinterLoss_wipes
  refine ⟨keeps State.rcache fun _ _ _ => rfl, keeps State.graft fun _ _ _ => rfl, keeps State.fmt fun _ _ _ => rfl,
    keeps State.ctxLru fun _ _ _ => rfl, keeps State.scan fun _ _ _ => rfl, keeps State.banks fun _ _ _ => rfl, ?_,
    (keeps State.mem fun _ _ _ => rfl).trans hmem, (keeps State.trackers fun _ _ _ => rfl).trans htrk⟩
  rw [keeps State.rings fun _ _ _ => rfl]
  intro x hx
  obtain ⟨y, -, rfl⟩ := List.mem_map.mp hx
  rfl

/-- Settles O45: what rest, the entries into Dormant and Overwinter, their triggers and a wake do, by the lemmas above. -/
theorem sleepAndWake : Obligations.SleepAndWake := by
  unfold Obligations.SleepAndWake
  refine ⟨fun s k hk => s.le_sleepLimit_iff hk, depthOf_cases, fun s u => ?_, fun s hm => ?_, fun s => ?_,
    fun s h => exec_sleepEntryStepDone_none h, ?_, fun s => ?_, ?_, ?_, ?_, ?_⟩
  · exact ⟨exec_restHoldExpiry_gates, exec_restHoldExpiry_keeps, exec_restWakeDone_of true, exec_restWakeDone_of false⟩
  · obtain ⟨hready, hidle, hentry, hwaking, hheld⟩ := s.mayEnter_iff.mp hm
    obtain ⟨htrk, hdb, hpart, hstr, hctx, hobj, hmov, hscan, hwalk, hbusy⟩ := State.idle_facts hidle
    exact ⟨hready, hentry, hwaking, hheld, hbusy, fun x hx => x.blocked_iff.mp (htrk x hx), hdb, hstr, hctx, hobj, hmov, hscan,
      hwalk, hpart⟩
  · exact ⟨exec_dormantHoldExpiry_enters, exec_dormantHoldExpiry_keeps, exec_overwinterHoldExpiry_enters,
      exec_overwinterHoldExpiry_keeps⟩
  · intro s s1 done he hw early flips
    refine ⟨fun hs hd => exec_sleepEntryStepDone_abandons he hw hs hd, fun hd hs => ?_, fun hd hs hlt => ?_, fun hd hs hge => ?_⟩
    · rw [exec_sleepEntryStepDone_goes he hw fun h => hs ⟨h.1, h.2.resolve_left (by simp [hd])⟩, if_pos hd]
    · rw [exec_sleepEntryStepDone_goes he hw fun h => hs h.1, if_neg (by simp [hd]), if_pos hlt]
    · intro s2 s3
      rw [exec_sleepEntryStepDone_goes he hw fun h => hs h.1, if_neg (by simp [hd]), if_neg (Nat.not_lt.mpr hge),
        State.finishEntry_eq]
  · intro s1
    refine ⟨State.entryWork_irq, fun he hs hq => ?_, fun he hs hq => ?_, State.entryWork_pages, State.entryWork_contexts,
      fun he hs => State.entryWork_rest (fun _ => hs) (by omega), fun he hs => State.entryWork_rest (by omega) (fun _ => hs), rfl⟩
    · exact (State.entryWork_buffers he hs).trans (if_pos hq)
    · exact (State.entryWork_buffers he hs).trans (if_neg (Bool.eq_false_iff.mp hq))
  · intro s c
    refine ⟨fun hc => ⟨fun h => ?_, fun h ha => ?_, fun h ha => ?_⟩, fun hc h => hc ▸ exec_wakeTrigger_pin h⟩
    · rw [exec_wakeTrigger_of hc, State.trigger_entering h]
    · rw [exec_wakeTrigger_of hc, State.trigger_asleep h ha]
    · rw [exec_wakeTrigger_of hc, State.trigger_awake h ha]
  · intro s
    refine ⟨fun hst h => ?_, fun h => ?_, fun hst h => exec_fabWakeReq_keeps (by tauto)⟩
    · rw [exec_fabWakeReq_wakes (.inl hst), State.trigger_asleep h (by simp [State.asleep, hst])]
    · rw [exec_fabWakeReq_wakes (.inr h), State.trigger_entering (by omega)]
  · exact fun s => ⟨exec_wakeDone_none, exec_wakeDone_of⟩
  · exact fun s => ⟨s.awake_fields, rfl, s.overwinterLoss_facts⟩

end Sys2Proof.Machine
end

section
/-! PROOF. The Sieve (O12): lines of the streams, pipelines and what their entries come to, remap reads that return, and HOLD_LANE. -/
namespace Sys2Proof.Machine

theorem State.trk_id {s : State} {t : TrackerId} {x : Tracker} (h : s.trk t = some x) : x.id = t := by
  simpa using List.find?_some h

/-! Lines of a stream (R66, R68) -/

/-- A line that is new to its batch, and that can be read, joins the line buffer. -/
theorem exec_indexStreamLineReturn_joins {s s1 : State} {t : TrackerId} {k : IdxStream} {line : BitVec 32} {bt : Batch} {x : Tracker}
    {lo hi : Nat} {phs : List (Nat × W32)} (hb : s.batch t = some bt) (hx : s.trk t = some x) (hgiven : bt.given = false)
    (habort : x.marks.aborted = false) (hspan : bt.lineSpan k line.toNat = (lo, hi)) (hlt : lo < hi)
    (hnew : ∀ l ∈ bt.lines, l.kind ≠ k ∨ l.line ≠ line.toNat)
    (hread : s.lookAll x.part (.cmd t) .read (granAddrs lo (hi - lo)) = (s1, some phs)) :
    exec (.indexStreamLineReturn t k line) s =
      .next ((s1.modBatch t fun b => { b with lines := b.lines ++ [s1.lineOf k line.toNat lo phs x.serial] }).deal t).settle := by
  have hold : (bt.lines.any fun l => decide (l.kind = k) && decide (l.line = line.toNat)) = false := by
    simpa [List.any_eq_false, ← imp_iff_not_or] using hnew
  have hopen : ¬hi ≤ lo := Nat.not_le.mpr hlt
  show execIndexStreamLineReturn t k line s = _
  simp only [execIndexStreamLineReturn, stepTo_eq, hb, hx, hspan, hgiven, habort, hold, hopen, Bool.false_eq_true, or_false, if_false,
    hread]

/-! Pipelines (R70, R77) -/

/-- A pipeline with its item moved past the entry that was taken. -/
def State.pipeNext (s : State) (k : Fin 32) (it : PipeItem) : State :=
  { s with pipes := s.pipes.set k (updFirst (fun i => decide (i.t = it.t) && decide (i.bag = it.bag))
      (fun i => { i with next := it.next + 1 }) s.pipes[k]) }

section
variable {s s1 u : State} {k : Fin 32} {it : PipeItem} {rest : List PipeItem} {x : Tracker} {bt : Batch} {g : Bag} {d : Desc} {e : Ent}

/-- An item whose entry can be taken: the pipeline moves on, and the bag leaves it with its last entry. -/
theorem State.intakeItem_takes (hx : s.trk it.t = some x) (hb : s.batch it.t = some bt) (hg : s.bag it.t it.bag = some g)
    (hd : x.desc = some d) (hres : (bt.kind = .pool ∨ bt.kind = .keyed) → g.reserved = true) (hlt : it.next < g.stop)
    (he : bt.entry g it.next = some e) (harm : s.armed = none) (ht : s.takeEntry x d bt g it.next e = (s1, true)) :
    s.intakeItem k .clean it =
      (if g.stop ≤ it.next + 1 ∧ g.whole = true then (s1.pipeNext k it).endBag k g.t g.bag else s1.pipeNext k it, true) := by
  have hwait : ¬((decide (bt.kind = .pool) || decide (bt.kind = .keyed)) = true ∧ (!g.reserved) = true) := by
    rintro ⟨hk, hn⟩
    simp [hres (by simpa using hk)] at hn
  simp only [State.intakeItem, hx, hb, hg, hd, if_neg hwait, if_neg (Nat.not_le.mpr hlt), he, ht, State.fifoWord_clean s 1 x.part harm,
    Bool.or_false, State.pipeNext]
  split <;> rfl

/-- The head of a pipeline goes first. -/
theorem State.intake_head (hp : s.pipes[k] = it :: rest) (hx : s.trk it.t = some x) (hi : s.intakeItem k .clean it = (u, true)) (n : Nat) :
    s.intake k .clean (n + 1) = u.intake k .clean n := by
  simp only [State.intake, hp, State.intakeTry, hx, List.not_mem_nil, if_false, hi]

theorem State.intake_of_empty {err : EccErr} (hp : s.pipes[k] = []) (n : Nat) : s.intake k err n = s := by
  cases n with
  | zero => rfl
  | succ n => simp only [State.intake, hp, State.intakeTry]

/-- No entry of the pipeline waits for a row. -/
theorem State.rowsAgain_of_none (h : s.rowWaits = []) : s.rowsAgain k = s := by
  simp only [State.rowsAgain, h, List.filter_nil, List.foldl_nil]

theorem exec_fanOutQueueFreed_head (hp : s.pipes[k] = it :: rest) (hx : s.trk it.t = some x) (hi : s.intakeItem k .clean it = (u, true)) :
    exec (.fanOutQueueFreed k) s = .next u.flushAll.settle := by
  show execFanOutQueueFreed k s = _
  rw [execFanOutQueueFreed, stepTo_eq, State.intake_head hp hx hi]
  rfl

/-- A pipeline that its head leaves empty. -/
theorem exec_sieveEntryIntake_last (habort : ∀ y ∈ s.trackers, y.marks.aborted = false) (hrow : s.rowWaits = [])
    (hp : s.pipes[k] = it :: rest) (hx : s.trk it.t = some x) (hi : s.intakeItem k .clean it = (u, true)) (hu : u.pipes[k] = []) :
    exec (.sieveEntryIntake k .clean) s = .next u.flushAll.settle := by
  show execSieveEntryIntake k s .clean = _
  rw [execSieveEntryIntake, stepTo_eq, State.drainAborted_none s habort, State.rowsAgain_of_none hrow, State.intake_head hp hx hi,
    State.intake_of_empty hu]

end

/-! What an entry comes to (R70 to R72, R74) -/

section
variable (s : State) (x : Tracker) {d : Desc} {bt : Batch} {g : Bag} (i : Nat) {e : Ent}

theorem State.takeEntry_poisoned (hg : g.rerun ≠ .running) (hp : e.poison = true) :
    s.takeEntry x d bt g i e = (s.dropEntry x g.bag false .poisoned, true) := by
  simp only [State.takeEntry, hp, decide_eq_false hg, if_true]

theorem State.takeEntry_padded (hg : g.rerun ≠ .running) (hp : e.poison = false) (hpad : bt.isPad e.x = true) :
    s.takeEntry x d bt g i e = (s.dropEntry x g.bag false .padded, true) := by
  simp only [State.takeEntry, hp, hpad, decide_eq_false hg, Bool.false_eq_true, if_false, if_true]

theorem State.takeEntry_outOfRange (hg : g.rerun ≠ .running) (hp : e.poison = false) (hpad : bt.isPad e.x = false)
    (hm : d.mapIndex e.x.toNat = .outOfRange) : s.takeEntry x d bt g i e = (s.dropEntry x g.bag false .outOfRange, true) := by
  simp only [State.takeEntry, hp, hpad, hm, decide_eq_false hg, Bool.false_eq_true, if_false]

/-- In modes 0 to 3 the mapping of an index is known at once. -/
theorem State.takeEntry_mapped (hg : g.rerun ≠ .running) (hp : e.poison = false) (hpad : bt.isPad e.x = false)
    (ho : d.mapIndex e.x.toNat ≠ .outOfRange) (hr : d.mapIndex e.x.toNat ≠ .remap) :
    s.takeEntry x d bt g i e = s.mapped x d bt g.bag i e false (rowsOf (d.mapIndex e.x.toNat)) := by
  simp only [State.takeEntry, hp, hpad, decide_eq_false hg, Bool.false_eq_true, if_false]

theorem State.mapped_eq (s : State) (x : Tracker) (d : Desc) (bt : Batch) (b i : Nat) (e : Ent) (quiet : Bool) (rows : List RowRef) :
    s.mapped x d bt b i e quiet rows =
      if bt.weighted = true ∧ notFinite32 e.w = true then (s.dropEntry x b quiet .badWeight, true) else s.acceptEntry x d b i e quiet rows :=
  rfl

/-- A poisoned entry of a command that has bags poisons its bag. -/
theorem State.dropEntry_poisoned (b : Nat) (hop : x.op ≠ 0x21) :
    s.dropEntry x b false .poisoned = (((s.poisonBag x.id b).modBatch x.id fun y =>
      { y with counts := { y.counts with poisoned := y.counts.poisoned + 1 } }).bump fJpSieveDrop_POISONED x.part).modTrk x.id fun y =>
        { y with detail := y.detail + 1 } := by
  simp only [State.dropEntry, hop, ne_eq, not_false_eq_true, and_self, if_true, Bool.false_eq_true, if_false]
  rfl

end

/-! Remap reads (R74, R76) -/

section
variable {s s1 : State} {t : TrackerId} {v : W64} {x : Tracker} {bt : Batch} {d : Desc} {w : RemapWait} {bs : List Byte} {poison : Bool}

/-- The entry that waited goes on where its mapping lets it. -/
theorem State.settleRemap_one {val : Option (Option (Nat × Nat))} (hq : ((s.bag x.id w.bag).any fun g => decide (g.rerun = .running)) = false)
    (hr : s.remapped x d bt w.bag w.i ⟨w.x, w.w, false⟩ false val = (s1, true)) :
    s.settleRemap x d bt val val [w] =
      ({ s1 with remapWaits := eraseFirst (fun y => decide (y = w)) s1.remapWaits } : State).tokenBag x.id w.bag := by
  simp only [State.settleRemap, hq, Bool.false_eq_true, if_false, hr]

/-- The first read of an index in a window stands for it, and settles the entries that wait for it. -/
theorem exec_remapReadReturn_first (habort : ∀ y ∈ s.trackers, y.marks.aborted = false) (hx : s.trk t = some x) (hb : s.batch t = some bt)
    (hd : x.desc = some d) (hw : s.remapWaits.filter (fun w => decide (w.t = t) && decide (w.x = v)) = [w])
    (hnew : ∀ m ∈ bt.remaps, m.1 ≠ v)
    (hread : s.readPart x.part (.cmd t) (d.remapBase + 4 * v.toNat) 4 = (s1, some (bs, poison))) :
    exec (.remapReadReturn t v) s =
      .next (((s1.modBatch t fun b =>
        { b with remaps := b.remaps ++ [(v, if poison then none else some (d.remapSlot (leNat bs)))] }).settleRemap x d bt
          (if poison then none else some (d.remapSlot (leNat bs))) (if poison then none else some (d.remapSlot (leNat bs))) [w]).flushAll).settle := by
  have hfind : bt.remaps.find? (fun m => decide (m.1 = v)) = none := by simpa using hnew
  show execRemapReadReturn t v s = _
  simp only [execRemapReadReturn, stepTo_eq, State.drainAborted_none s habort, hx, hb, hw, hd, hfind, hread, List.cons_ne_nil, if_false]

end

/-! HOLD_LANE (R80) -/

/-- A write of SIEVE_CTL stores its fields, and releases the holds past a lowered HOLD_LANE. -/
theorem exec_sieveCtlWrite_of {s : State} (h : s.serving) (acc : RegAcc) (v : W64) :
    exec (.sieveCtlWrite acc v) s =
      .next (if (s.stored ⟨.jeSieveCtl, 0, 0⟩ acc v).holdLane < s.holdLane then
          (s.stored ⟨.jeSieveCtl, 0, 0⟩ acc v).trimHolds (s.stored ⟨.jeSieveCtl, 0, 0⟩ acc v).heldRows.length
        else s.stored ⟨.jeSieveCtl, 0, 0⟩ acc v).settle := by
  show stepTo _ = _
  rw [stepTo_eq, State.putReg_plain h .jeSieveCtl 0 0 acc v (RegRef.valid_hub _ rfl (by decide)) (State.sliceGone_reg s _ _ _ (by decide))
    (.inl rfl) rfl rfl (by decide) (by decide)]
  rfl

/-- Settles O12: what lines, entries, remap reads and HOLD_LANE do in the Sieve, by the lemmas above. -/
theorem sieveIntake : Obligations.SieveIntake := by
  unfold Obligations.SieveIntake
  refine ⟨?_, ?_, ?_, ?_, ?_, fun s acc v h => exec_sieveCtlWrite_of h acc v⟩
  · intro s s1 t k line bt x lo hi phs hb hx hgiven habort hspan hlt hnew hread
    exact exec_indexStreamLineReturn_joins hb hx hgiven habort hspan hlt hnew hread
  · intro s s1 s2 k it rest x bt g d e hp hx hb hg hd hres hlt he harm ht hs2
    have hi := State.intakeItem_takes (k := k) hx hb hg hd hres hlt he harm ht
    rw [show s1.pipeNext k it = s2 from hs2.symm] at hi
    refine ⟨fun hmore => ?_, fun hlast hwhole => ?_, fun hlast hwhole habort hrow hempty => ?_⟩
    · rw [if_neg fun hc => absurd hc.1 (Nat.not_le.mpr hmore)] at hi
      exact exec_fanOutQueueFreed_head hp hx hi
    · rw [if_pos ⟨hlast.ge, hwhole⟩] at hi
      exact exec_fanOutQueueFreed_head hp hx hi
    · rw [if_pos ⟨hlast.ge, hwhole⟩] at hi
      exact exec_sieveEntryIntake_last habort hrow hp hx hi hempty
  · intro s x d bt g i e hg
    exact ⟨s.takeEntry_poisoned x i hg, s.takeEntry_padded x i hg, s.takeEntry_outOfRange x i hg,
      fun hp hpad ho hr => s.takeEntry_mapped x i hg hp hpad ho hr⟩
  · intro s x b det
    exact ⟨rfl, rfl, rfl, fun hop => s.dropEntry_poisoned x b hop⟩
  · intro s s1 t v x bt d w bs poison habort hx hb hd hw hnew hread val s2 hq go
    have key := exec_remapReadReturn_first habort hx hb hd hw hnew hread
    refine ⟨fun hp => ?_, fun hp hslot => ?_, fun c i s3 hp hslot hm => ?_⟩
    · have hval : val = none := if_pos hp
      rw [key, State.settleRemap_one (val := val) hq (by rw [hval]; rfl)]
    · have hval : val = some none := by simp only [val, hp, hslot, Bool.false_eq_true, if_false]
      rw [key, State.settleRemap_one (val := val) hq (by rw [hval]; rfl)]
    · have hval : val = some (some (c, i)) := by simp only [val, hp, hslot, Bool.false_eq_true, if_false]
      rw [key, State.settleRemap_one (val := val) hq (by rw [hval]; exact hm)]

end Sys2Proof.Machine
end

section
/-! PROOF. Gathers and preloads start, locks are cleared, format blocks are installed, generators are seeded (O13). -/
namespace Sys2Proof.Machine

/-! Starts (R66, R135, R136) -/

section
variable {s : State} {t : TrackerId} {x : Tracker}

/-- A gather that runs, with its batch at the Sieve and its delivery at the hub. -/
def State.gatherStarted (s : State) (t : TrackerId) (x : Tracker) (served : Bool) : State :=
  { (s.modTrk t fun y => { y with phase := .running }) with
    batches := s.batches ++ [newBatch t x.cmd .pool served]
    deliveries := s.deliveries ++ [deliveryOf t x.cmd served (cW5 x.cmd) (cStride x.cmd)] }

theorem exec_gatherPool_own (hx : s.startable t 0x10 = some x) (hs : s.servedOf t = none) :
    exec (.gatherPool t) s = .next ((s.gatherStarted t x false).deal t).settle := by
  show execGatherPool t s = _
  simp only [execGatherPool, stepTo_eq, hx, hs, Option.isSome_none]
  rfl

/-- A gather that another engine asked for has its bags with it. -/
theorem exec_gatherPool_served {y : Served} (hx : s.startable t 0x10 = some x) (hs : s.servedOf t = some y) :
    exec (.gatherPool t) s = .next (((s.gatherStarted t x true).pushGiven t (servedBags y.msg)).settlePool t).settle := by
  show execGatherPool t s = _
  simp only [execGatherPool, stepTo_eq, hx, hs, Option.isSome_some]
  rfl

theorem exec_clochePreload_of (hx : s.startable t 0x50 = some x) :
    exec (.clochePreload t) s =
      .next (({ (s.modTrk t fun y => { y with phase := .running }) with
        batches := s.batches ++ [newBatch t x.cmd .preload false] } : State).deal t).settle := by
  show execClochePreload t s = _
  simp only [execClochePreload, stepTo_eq, hx]
  rfl

theorem exec_clocheUnlock_of (hx : s.startable t 0x51 = some x) :
    exec (.clocheUnlock t) s =
      .next ((s.unlockWhere fun k => decide (k.1 = x.part) && (cAll x.cmd || decide (k.2 = cTable x.cmd))).finish t).settle := by
  show execClocheUnlock t s = _
  simp only [execClocheUnlock, stepTo_eq, hx]

end

/-! Format blocks (R88, R95, R96) -/

/-- The load of a format block is over. -/
def State.loadOver (s : State) (l : FmtLoad) : State := { s with fmtLoads := eraseFirst (fun x => decide (x = l)) s.fmtLoads }

section
variable {s s1 : State} {src : Src} {l : FmtLoad} {bs : List Byte}
  (hl : s.fmtLoads.find? (fun l => l.srcs.any fun y => decide (y.1 = src)) = some l)
include hl

theorem exec_formatBlockLoadDone_poisoned
    (hr : s.readPart l.part (.admission src) l.base (fmtBlockSize l.dim) = (s1, some (bs, true))) :
    exec (.formatBlockLoadDone src) s =
      .next ((l.srcs.map (·.1)).eraseDups.foldl (fun u q => u.failHead q stPoisoned) (s1.loadOver l)).settle := by
  show execFormatBlockLoadDone src s = _
  simp only [execFormatBlockLoadDone, stepTo_eq, hl, hr, if_true]
  rfl

/-- Some command waits for a block that is being read. -/
theorem FmtLoad.srcs_ne_nil : l.srcs ≠ [] := by
  have hany := List.find?_some hl
  rintro h
  simp [h] at hany

/-- A block that every table which waits for it accepts is installed once idle blocks have made room. -/
theorem exec_formatBlockLoadDone_installs
    (hr : s.readPart l.part (.admission src) l.base (fmtBlockSize l.dim) = (s1, some (bs, false)))
    (hok : ∀ y ∈ l.srcs, Desc.blockOk y.2 bs = true) (hroom : (s1.loadOver l).blockRoom (ceilDiv bs.length 512) = true) :
    exec (.formatBlockLoadDone src) s =
      .next (({ (s1.loadOver l).evictBlocks (ceilDiv bs.length 512) 16 with
        fmt := ⟨l.part, l.base, l.version, bs⟩ :: ((s1.loadOver l).evictBlocks (ceilDiv bs.length 512) 16).fmt } : State).bump
          fJeFmtStat_LOADS).settle := by
  have hgood : (l.srcs.filter fun y => Desc.blockOk y.2 bs) = l.srcs := List.filter_eq_self.mpr hok
  have hfail : (l.srcs.filter fun y => !(Desc.blockOk y.2 bs) && (s1.loadOver l).isCurrent l.part y.2) = [] :=
    List.filter_eq_nil_iff.mpr fun y hy => by simp [hok y hy]
  have hne := FmtLoad.srcs_ne_nil hl
  unfold State.loadOver at *
  show execFormatBlockLoadDone src s = _
  simp only [execFormatBlockLoadDone, stepTo_eq, hl, hr, Bool.false_eq_true, if_false, hgood, hfail, hne, List.map_nil,
    List.eraseDups_nil, List.foldl_nil, hroom, Bool.not_true]

end

/-! Generators (R106) -/

/-- RESEED is written with the register's other fields, and seeds the slice's generators. -/
theorem exec_srReseed_of {s : State} (h : s.serving) {n : SliceId} (hn : s.sliceState n < 2) (v : W64) :
    exec (.srReseed n v) s = .next ((s.put .jsSrCtl n (v ||| 4)).reseed n).settle := by
  have hbit : (v ||| 4 : W64).getLsbD 2 = true := by
    simp only [BitVec.getLsbD_or, Bool.or_eq_true]
    exact .inr (by decide)
  have hw : ∀ u : State, u.wrote s ⟨.jsSrCtl, n, 0⟩ (v ||| 4) = u.reseed n := fun u => by
    simp only [State.wrote, hbit, if_true, Fin.ofNat_val_eq_self]
  show stepTo _ = _
  rw [stepTo_eq, State.putReg_plain h .jsSrCtl n 0 .full _ (RegRef.valid_slice _ n rfl (by decide)) (State.sliceGone_served s _ n hn)
    (.inr rfl) rfl rfl (by decide) (by decide)]
  exact congrArg (fun u : State => Host.Outcome.next u.settle) (hw _)

/-- Settles O13: what starts a batch, ends a lock, installs a block and seeds the generators, by the lemmas above. -/
theorem poolingStarts : Obligations.PoolingStarts := by
  unfold Obligations.PoolingStarts
  refine ⟨fun s t x hx => ⟨fun hs => exec_gatherPool_own hx hs, fun y hs => exec_gatherPool_served hx hs⟩,
    fun s t x hx => exec_clochePreload_of hx, fun s t x hx => exec_clocheUnlock_of hx, ?_, fun s n v h hn => exec_srReseed_of h hn v⟩
  intro s s1 src l bs poison hl hr s2
  refine ⟨fun hp => ?_, fun hp hok hroom => ?_⟩
  · subst hp
    exact exec_formatBlockLoadDone_poisoned hl hr
  · subst hp
    exact exec_formatBlockLoadDone_installs hl hr hok hroom

end Sys2Proof.Machine
end

section
/-! PROOF. Lanes and Cloches (O14): the turn of an entry in its lane, misses and fills, discarded fan-out words, partials at the hub,
re-runs, ageing and flushes. -/
namespace Sys2Proof.Machine

/-! A lane's turn (R79, R81, R125 to R129) -/

/-- The entry that a lane serves leaves its queue. -/
def State.laneTakes (s : State) (w : LaneWork) : State := { s with laneQ := eraseFirst (fun y => decide (y = w)) s.laneQ }

section
variable {s v : State} {w : LaneWork} {a : Nat} {mask : BitVec 4} {rest : List (Nat × BitVec 4)} {par : Bool}

theorem State.laneServe_full (hf : s.laneFull w.lane = true) (err : EccErr) : s.laneServe w par err = s := by
  simp only [State.laneServe, hf, if_true]

/-- Without an error or an injection the entry is looked up as it is. -/
theorem State.laneServe_looks (hf : s.laneFull w.lane = false) (harm : s.armed = none) :
    s.laneServe w par .clean = (s.laneTakes w).laneLook w par w.todo := by
  have hword : ∀ p, (s.laneTakes w).fifoWord 2 p .clean = (s.laneTakes w, false) := fun p => State.fifoWord_clean _ 2 p harm
  unfold State.laneTakes at *
  simp only [State.laneServe, hf, Bool.false_eq_true, if_false, hword, Bool.or_false]

theorem State.laneLook_waits (hw : s.laneWaits w.lane a = true) :
    s.laneLook w par ((a, mask) :: rest) = { s with laneQ := { w with todo := (a, mask) :: rest } :: s.laneQ } := by
  rw [State.laneLook, if_pos hw]

section
variable (hw : s.laneWaits w.lane a = false) (hheld : s.clocheAt w.lane (lineKey a) ≠ none ∨ s.holdWanted w.lane (lineKey a) = false)
include hw hheld

/-- A line that stands in the Cloche, or that no held row names, takes no way from a hold: it is looked up. -/
theorem State.laneLook_tries {hit : Bool} (hl : s.clocheLookup w.lane (lineKey a) mask par = (v, hit)) :
    s.laneLook w par ((a, mask) :: rest) =
      if hit then (v.holdLine w.lane (lineKey a)).laneLook w false rest else v.missEnter { w with todo := rest } a mask := by
  have hfree : ¬(s.clocheAt w.lane (lineKey a) = none ∧ s.holdWanted w.lane (lineKey a) = true) := by
    rintro ⟨hc, hh⟩
    rcases hheld with h | h
    · exact h hc
    · simp [h] at hh
  cases hit <;> simp only [State.laneLook, hw, Bool.false_eq_true, if_false, if_neg hfree, hl, if_true]

/-- A hit of the last line: the entry is applied. -/
theorem State.laneLook_last (hl : s.clocheLookup w.lane (lineKey a) mask par = (v, true)) :
    s.laneLook w par [(a, mask)] = (v.holdLine w.lane (lineKey a)).laneApply { w with todo := [] } := by
  rw [State.laneLook_tries hw hheld hl, if_pos rfl]
  rfl

theorem State.laneLook_misses (hl : s.clocheLookup w.lane (lineKey a) mask par = (v, false)) :
    s.laneLook w par ((a, mask) :: rest) = v.missEnter { w with todo := rest } a mask := by
  rw [State.laneLook_tries hw hheld hl, if_neg Bool.false_ne_true]

end

/-- The next row reference of a lane, or its next fan-out entry with a good header. -/
def State.laneTurn (s : State) (l : LaneId) (w : LaneWork) (par : Bool) (c : Instr) : Prop :=
  (c = .laneRowReference l par .clean ∧ s.laneQ.find? (fun w => decide (w.lane = l) && !w.fan) = some w) ∨
    (c = .fanOutEntry l false par .clean ∧ s.laneQ.find? (fun w => decide (w.lane = l) && w.fan) = some w)

section
variable {l : LaneId} {c : Instr}

theorem State.laneTurn.lane_eq (h : s.laneTurn l w par c) : w.lane = l := by
  rcases h with ⟨-, h⟩ | ⟨-, h⟩
  all_goals
    have hp := List.find?_some h
    simp only [Bool.and_eq_true, decide_eq_true_eq] at hp
    exact hp.1

/-- Both kinds of entry take their turn alike. -/
theorem State.laneTurn.exec_eq (h : s.laneTurn l w par c) :
    exec c s = .next (if s.laneGated l then s else s.laneServe w par .clean).settle := by
  rcases h with ⟨rfl, h⟩ | ⟨rfl, h⟩
  · show execLaneRowReference l par s .clean = _
    simp only [execLaneRowReference, stepTo_eq, h]
  · show execFanOutEntry l false s par .clean = _
    simp only [execFanOutEntry, stepTo_eq, h, Bool.false_eq_true, if_false]

end

/-! Misses (R126, R228) -/

theorem State.readBoards_of_not_board {l : List Nat} (h : ∀ b ∈ l, s.isBoard b = false) : s.readBoards l = s := by
  have hnone : l.filter s.isBoard = [] := List.filter_eq_nil_iff.mpr fun b hb => by simp [h b hb]
  simp only [State.readBoards, hnone, List.foldl_nil]

/-- A miss of a line that is on its way joins its tracker. -/
theorem State.missEnter_joins (h : (s.misses.any fun m => decide (m.lane = w.lane) && decide (m.line = lineKey a)) = true) :
    s.missEnter w a mask = { s with
      misses := updFirst (fun m => decide (m.lane = w.lane) && decide (m.line = lineKey a))
        (fun m => { m with granules := m.granules ||| mask, work := m.work ++ [w] }) s.misses } := by
  simp only [State.missEnter, h, if_true]

/-- A foreground line of HBM takes a tracker of its own, and counts in its slice's load. -/
theorem State.missEnter_opens (hhbm : s.isHbm a = true)
    (h : (s.misses.any fun m => decide (m.lane = w.lane) && decide (m.line = lineKey a)) = false)
    (hfore : (s.trk w.t).any (·.background) = false) (hboard : s.isBoard (a / 256 * 256) = false) :
    s.missEnter w a mask = { s with
      misses := s.misses ++ [⟨w.lane, lineKey a, a / 256 * 256, mask, [w]⟩]
      lineReads := s.lineReads.set (laneSlice w.lane) (s.lineReads[laneSlice w.lane] + 1) } := by
  simp only [State.missEnter, h, hhbm, hfore, Bool.false_eq_true, if_false, Bool.not_false, Bool.and_self, if_true]
  exact State.readBoards_of_not_board fun b hb => by
    obtain rfl := List.mem_singleton.mp hb
    exact hboard

/-! Discarded fan-out words (R384, R385) -/

theorem exec_fanOutEntry_discards {l : LaneId} {x : Tracker} {err : EccErr}
    (h : s.laneQ.find? (fun w => decide (w.lane = l) && w.fan) = some w) (hg : s.laneGated l = false) (hx : s.trk w.t = some x) :
    exec (.fanOutEntry l true par err) s =
      .next ((((s.laneTakes w).unattributed x.part 2).poisonBag w.t w.bag).applied w).settle := by
  show execFanOutEntry l true s par err = _
  simp only [execFanOutEntry, stepTo_eq, h, hg, hx, Bool.false_eq_true, if_false, if_true, Option.map_some, Option.getD_some]
  rfl

end

/-! Fills (R126, R127, R141, R378, R380) -/

/-- The granules of a mask that a test picks. -/
def granMask (g : BitVec 4) (f : Nat → Bool) : BitVec 4 :=
  (List.range 4).foldl (fun (v : BitVec 4) k => if g.getLsbD k && f k then v ||| BitVec.ofNat 4 (2 ^ k) else v) 0

theorem granMask_congr (g : BitVec 4) {f h : Nat → Bool} (hf : ∀ k < 4, f k = h k) : granMask g f = granMask g h := by
  simp only [granMask, List.range_succ, List.range_zero, List.nil_append, List.cons_append, List.foldl_cons, List.foldl_nil,
    hf 0 (by decide), hf 1 (by decide), hf 2 (by decide), hf 3 (by decide)]

theorem granMask_none (g : BitVec 4) {f : Nat → Bool} (hf : ∀ k < 4, f k = false) : granMask g f = 0 := by
  rw [granMask_congr g hf]
  revert g
  decide

theorem granMask_all (g : BitVec 4) {f : Nat → Bool} (hf : ∀ k < 4, f k = true) : granMask g f = g := by
  rw [granMask_congr g hf]
  revert g
  decide

/-- The miss is over, and a parity error on its way is counted. -/
def State.missOver (s : State) (m : Miss) (l : LaneId) (par : Bool) : State :=
  let s2 : State := { s with misses := eraseFirst (fun y => decide (y = m)) s.misses }
  if par then s2.bump fJsPathStat_PARITY (l.val / 32) else s2

/-- What a fill from HBM costs: energy for its granules, and bandwidth of its command. -/
def State.fillCounted (s : State) (m : Miss) (x : Tracker) (t : TrackerId) : State :=
  let n := ((List.range 4).filter fun k => m.granules.getLsbD k).length
  if s.isHbm m.base then
    (s.setReg .jeEnergyBits (s.reg .jeEnergyBits + BitVec.ofNat 64 (512 * n))).bwRead x.part (some t) m.base (64 * n)
  else s

/-- An entry that waited for a line, some of whose granules came poisoned. -/
def LaneWork.given (w : LaneWork) (base : Nat) (poisoned : BitVec 4) : LaneWork :=
  { w with bad := w.bad || decide (w.needs base &&& poisoned ≠ 0) }

theorem LaneWork.given_clean (w : LaneWork) (base : Nat) : w.given base 0 = w := by
  simp [LaneWork.given]

/-- A line of which nothing is good is not installed (R141). -/
theorem State.installFill_none (s : State) (m : Miss) : s.installFill m 0 = s := by
  simp [State.installFill]

section
variable {s s1 u : State} {l : LaneId} {line : BitVec 48} {m : Miss} {w : LaneWork} {rest : List LaneWork} {x : Tracker}
  (hm : s.misses.find? (fun m => decide (m.lane = l) && decide (m.line = line.toNat)) = some m)
include hm

/-- A fill whose line may not be read yet only begins its wait. -/
theorem exec_laneFillReturn_waits (hok : s.fillOk m = (u, false)) (par : Bool) (err : EccErr) :
    exec (.laneFillReturn l line par err) s = .next u.settle := by
  show execLaneFillReturn l line par s err = _
  simp only [execLaneFillReturn, stepTo_eq, hm, hok, Bool.not_false, if_true]

section
variable (hwork : m.work = w :: rest) (hx : s.trk w.t = some x) (hok : s.fillOk m = (s1, true)) (harm : s1.armed = none)
include hwork hx hok harm

/-- A filled line: what came good is installed, and every entry that waited goes on. -/
theorem exec_laneFillReturn_fills (par : Bool) (bad : Nat → Bool)
    (hbad : ∀ k < 4, (par || (s1.missOver m l par).granPoison (m.base / 64 + k) (some x.serial)) = bad k) :
    exec (.laneFillReturn l line par .clean) s =
      .next (m.work.foldl (fun u v => u.laneLook (v.given m.base (granMask m.granules bad)) false v.todo)
        (((s1.missOver m l par).fillCounted m x w.t).installFill m (granMask m.granules fun k => !(bad k)))).settleWcb.settle := by
  have harm2 : (s1.missOver m l par).armed = none := by
    unfold State.missOver
    cases par <;> exact harm
  have hword : (s1.missOver m l par).fifoWord 3 x.part .clean = (s1.missOver m l par, false) := State.fifoWord_clean _ 3 _ harm2
  have hpart : ((m.work.head?.bind fun w => s.trk w.t).map (·.part)).getD 0 = x.part := by simp [hwork, hx]
  have hserial : (m.work.head?.bind fun w => s.serialOf w.t) = some x.serial := by simp [hwork, State.serialOf, hx]
  have hhead : m.work.head?.map (·.t) = some w.t := by simp [hwork]
  have hmask := granMask_congr m.granules hbad
  have hgood := granMask_congr m.granules (f := fun k => !(par || (s1.missOver m l par).granPoison (m.base / 64 + k) (some x.serial)))
    (h := fun k => !(bad k)) fun k hk => by rw [hbad k hk]
  rw [← hmask, ← hgood]
  show execLaneFillReturn l line par s .clean = _
  unfold State.missOver at *
  simp only [execLaneFillReturn, stepTo_eq, hm, hok, Bool.not_true, Bool.false_eq_true, if_false, hpart, hserial, hhead, hword, Bool.or_false]
  rfl

end

end

/-! Partials at the hub (R139, R140) and re-runs (R103) -/

theorem exec_slicePartialArrive_of {s : State} {n : SliceId} {q : Partial} {x : Tracker} {bt : Batch} {d : Desc}
    (hq : s.partials.find? (fun q => decide (q.n = n)) = some q) (hx : s.trk q.t = some x) (hb : s.batch q.t = some bt)
    (hd : x.desc = some d) (harm : s.armed = none) :
    exec (.slicePartialArrive n .clean) s =
      .next ((({ s with partials := eraseFirst (fun y => decide (y = q)) s.partials } : State).joinPartial d bt.mode q).hubStep
        q.t q.bag).settle := by
  have hx1 : ({ s with partials := eraseFirst (fun y => decide (y = q)) s.partials } : State).trk q.t = some x := hx
  have hb1 : ({ s with partials := eraseFirst (fun y => decide (y = q)) s.partials } : State).batch q.t = some bt := hb
  have hword := State.fifoWord_clean { s with partials := eraseFirst (fun y => decide (y = q)) s.partials } 4 x.part harm
  show execSlicePartialArrive n s .clean = _
  simp only [execSlicePartialArrive, stepTo_eq, hq, hx1, hb1, hword, hd, Bool.false_eq_true, if_false]

theorem exec_rerunPlaceFreed_of {s : State} {g : Bag} (hg : s.bags.find? (fun g => decide (g.rerun = .waiting)) = some g) :
    exec .rerunPlaceFreed s = .next (if s.rerunning < 1024 then s.startRerun g else s).settle := by
  show execRerunPlaceFreed s = _
  simp only [execRerunPlaceFreed, stepTo_eq, hg]

/-! Flushes (R133) -/

/-- A flush looks at nothing of the registers. -/
theorem State.flushSlice_of_regs {s u : State} (h : u = { s with regs := u.regs }) (n : SliceId) :
    u.flushSlice n = { u with
      cloche := (s.cloche.map fun e => if laneSlice e.lane = n then { e with valid := 0 } else e).filter fun e =>
        !(decide (laneSlice e.lane = n)) || decide (e.lock ≠ none) || e.held
      evb := s.evb.filter fun x => !(decide (laneSlice x.lane = n))
      trees := s.trees.filter fun t => !(decide (laneSlice t.lane = n)) } := by
  rw [h]
  simp only [State.flushSlice, decide_eq_true_eq]

/-- The word that sets FLUSH and keeps the fields of its register. -/
def State.flushWord (s : State) (n : SliceId) : W64 :=
  (s.reg .jsClocheCtl n &&& (codeMask (RegId.fields .jsClocheCtl) .rw ||| codeMask (RegId.fields .jsClocheCtl) .rwl)) ||| 4

theorem exec_clocheFlush_of {s : State} (h : s.serving) {n : SliceId} (hn : s.sliceState n < 2) :
    exec (.clocheFlush n) s = .next ((s.put .jsClocheCtl n (s.flushWord n)).flushSlice n).settle := by
  have hbit : (s.flushWord n).getLsbD 2 = true := by
    simp only [State.flushWord, BitVec.getLsbD_or, Bool.or_eq_true]
    exact .inr (by decide)
  have hw : ∀ u : State, u.wrote s ⟨.jsClocheCtl, n, 0⟩ (s.flushWord n) = u.flushSlice n := fun u => by
    simp only [State.wrote, hbit, if_true, Fin.ofNat_val_eq_self]
  have hput := State.putReg_plain h .jsClocheCtl n 0 .full (s.flushWord n) (RegRef.valid_slice _ n rfl (by decide))
    (State.sliceGone_served s _ n hn) (.inr rfl) rfl rfl (by decide) (by decide)
  show stepTo (s.putReg .jsClocheCtl n 0 .full (s.flushWord n)) = _
  rw [stepTo_eq, hput]
  exact congrArg (fun u : State => Host.Outcome.next u.settle) (hw _)

/-- Settles O14: what lanes, fills, partials, re-runs, ageing and flushes do, by the lemmas above. -/
theorem lanesAndCloches : Obligations.LanesAndCloches := by
  unfold Obligations.LanesAndCloches
  refine ⟨?_, ?_, fun s l w x par err h hg hx => exec_fanOutEntry_discards h hg hx, ?_,
    fun s n q x bt d hq hx hb hd harm => exec_slicePartialArrive_of hq hx hb hd harm, fun s g hg => exec_rerunPlaceFreed_of hg,
    fun s n => rfl, ?_⟩
  · intro s l w a mask rest par c hc htodo u
    have hturn : s.laneTurn l w par c := hc
    have hexec := hturn.exec_eq
    obtain rfl := hturn.lane_eq
    have hserve : s.laneGated w.lane = false → s.laneFull w.lane = false → s.armed = none →
        exec c s = .next (u.laneLook w par ((a, mask) :: rest)).settle := fun hg hf harm => by
      rw [hexec, hg, if_neg Bool.false_ne_true, State.laneServe_looks hf harm, htodo]
      rfl
    refine ⟨fun hstop => ?_, fun hg hf harm hw => ?_, fun v hg hf harm hw hheld hl hlast => ?_, fun v hg hf harm hw hheld hl => ?_⟩
    · rw [hexec]
      rcases hstop with hg | hf
      · rw [if_pos hg]
      · rw [State.laneServe_full hf, ite_self]
    · rw [hserve hg hf harm, State.laneLook_waits hw, ← htodo]
    · rw [hserve hg hf harm, hlast, State.laneLook_last hw hheld hl]
    · rw [hserve hg hf harm, State.laneLook_misses hw hheld hl]
  · intro s w a mask hhbm mine n
    exact ⟨State.missEnter_joins, fun h hfore hboard => State.missEnter_opens hhbm h hfore hboard⟩
  · intro s s1 l line m w rest x hm hwork hx
    refine ⟨fun u par err hok => exec_laneFillReturn_waits hm hok par err, fun hok harm => ⟨fun hgood => ?_, ?_⟩⟩
    · have key := exec_laneFillReturn_fills hm hwork hx hok harm false (fun _ => false) hgood
      rw [granMask_none _ fun _ _ => rfl, granMask_all _ (f := fun _ => !false) fun _ _ => rfl] at key
      simp only [LaneWork.given_clean] at key
      exact key
    · have key := exec_laneFillReturn_fills hm hwork hx hok harm true (fun _ => true) fun _ _ => rfl
      rw [granMask_all _ fun _ _ => rfl, granMask_none _ (f := fun _ => !true) fun _ _ => rfl, State.installFill_none] at key
      exact key
  · intro s n h hn s1
    rw [exec_clocheFlush_of h hn, State.flushSlice_of_regs (State.put_only s .jsClocheCtl n _ (by decide) (by decide))]
    rfl

end Sys2Proof.Machine
end

section
/-! PROOF. Scatter commands (O20): their starts, gradients that return, optimiser states, landing reports, and entries that fail
their ECC. -/
namespace Sys2Proof.Machine

/-! Starts (R66, R169, R182) -/

section
variable {s : State} {t : TrackerId} {x : Tracker}

/-- A scatter that runs, with its batch at the Sieve. -/
def State.scatterStarted (s : State) (t : TrackerId) (x : Tracker) (served : Bool) : State :=
  { (s.modTrk t fun y => { y with phase := .running }) with batches := s.batches ++ [newBatch t x.cmd .scatter served] }

theorem exec_scatterAdd_own (hx : s.startable t 0x20 = some x) (hs : s.servedOf t = none) :
    exec (.scatterAdd t) s = .next ((s.scatterStarted t x false).deal t).settle := by
  show execScatterAdd t s = _
  simp only [execScatterAdd, stepTo_eq, hx, hs, Option.isSome_none]
  rfl

theorem exec_scatterAdd_served {y : Served} (hx : s.startable t 0x20 = some x) (hs : s.servedOf t = some y) :
    exec (.scatterAdd t) s = .next ((s.scatterStarted t x true).pushGiven t (servedBags y.msg)).settle := by
  show execScatterAdd t s = _
  simp only [execScatterAdd, stepTo_eq, hx, hs, Option.isSome_some]
  rfl

/-- The four words of PARAMS are LR, EPS, BETA and WD of the command. -/
theorem exec_scatterApply_of (hx : s.startable t 0x21 = some x) :
    exec (.scatterApply t) s =
      .next (({ (s.modTrk t fun y => { y with phase := .running }) with
        batches := s.batches ++ [newBatch t x.cmd .apply false]
        applies := s.applies ++ [⟨t, cRule x.cmd, BitVec.ofNat 32 (bitsOf x.body (32 * 0) 32), BitVec.ofNat 32 (bitsOf x.body (32 * 1) 32),
          BitVec.ofNat 32 (bitsOf x.body (32 * 2) 32), BitVec.ofNat 32 (bitsOf x.body (32 * 3) 32), [], false⟩] } : State).deal t).settle := by
  show execScatterApply t s = _
  simp only [execScatterApply, stepTo_eq, hx]
  rfl

end

/-! Gradients of the bags of a SCATTER_ADD (R169, R170, R172, R386) -/

/-- Columns of a bag's gradient. -/
def Tracker.gradCols (x : Tracker) (d : Desc) : Nat := if x.shards = [] then d.dim else x.total

/-- Bytes from one bag's gradient to the next (R169). -/
def Tracker.gradStride (x : Tracker) (d : Desc) : Nat := if cStride x.cmd = 0 then 4 * x.gradCols d else cStride x.cmd

/-- No error, no entry that it strikes. -/
theorem State.bufErrFirst_clean (s : State) (l : List PreAgg) : s.bufErrFirst l .clean = s := by
  cases l <;> rfl

section
variable {s : State} {t : TrackerId} {bag : BitVec 21} {x : Tracker}

theorem exec_gradientReadReturn_add (hx : s.trk t = some x) (hop : x.op = 0x20) :
    exec (.gradientReadReturn t bag .clean) s = .next (s.scatterGrad x bag.toNat).settle := by
  show execGradientReadReturn t bag s .clean = _
  simp only [execGradientReadReturn, stepTo_eq, hx, hop, if_true, State.bufErrFirst_clean]

section
variable {b : Nat} {c : Scatter} {g : Bag} {d : Desc} (hc : s.scatterOf x.id = some c) (hg : s.bag x.id b = some g) (hd : x.desc = some d)
  (htok : g.token = true) (hnew : g.bag ∉ c.gradsDone) (habort : x.marks.aborted = false) (hrun : x.phase = .running)
include hc hg hd htok hnew habort hrun

/-- A gradient that is kept is not read again. -/
theorem State.scatterGrad_kept {z : Nat × List (W32 × Bool)} (hz : c.grads.find? (fun z => decide (z.1 = b)) = some z) :
    s.scatterGrad x b = s.formBag x d c g z.2 := by
  simp only [State.scatterGrad, hc, hg, hd, htok, hnew, habort, hrun, hz, Bool.not_true, Bool.false_eq_true, ne_eq, not_true_eq_false,
    or_false, if_false]

theorem State.scatterGrad_served {y : Served} (hz : c.grads.find? (fun z => decide (z.1 = b)) = none) (hs : s.servedOf x.id = some y) :
    s.scatterGrad x b = s.formBag x d c g (servedGrad y.msg b) := by
  simp only [State.scatterGrad, hc, hg, hd, htok, hnew, habort, hrun, hz, hs, Bool.not_true, Bool.false_eq_true, ne_eq, not_true_eq_false,
    or_false, if_false]

theorem State.scatterGrad_read {s1 : State} {grad : List (W32 × Bool)} (hz : c.grads.find? (fun z => decide (z.1 = b)) = none)
    (hs : s.servedOf x.id = none)
    (hr : s.readCols x.part x.id ((cW5 x.cmd).toNat + b * x.gradStride d) (x.gradCols d) = (s1, some grad)) :
    s.scatterGrad x b = (if grad.any (·.2) then s1.poisonCmd x.id else s1).formBag x d c g grad := by
  unfold Tracker.gradStride Tracker.gradCols at hr
  simp only [State.scatterGrad, hc, hg, hd, htok, hnew, habort, hrun, hz, hs, hr, Bool.not_true, Bool.false_eq_true, ne_eq,
    not_true_eq_false, or_false, if_false]

end

/-! Gradients of the listed rows of a SCATTER_APPLY (R182, R183) -/

theorem exec_gradientReadReturn_apply {err : EccErr} (hx : s.trk t = some x) (hop : x.op = 0x21) :
    exec (.gradientReadReturn t bag err) s = .next (s.applyGrad x bag.toNat).settle := by
  have hne : ¬x.op = 0x20 := by simp [hop]
  show execGradientReadReturn t bag s err = _
  simp only [execGradientReadReturn, stepTo_eq, hx, if_neg hne, if_pos hop]

section
variable {s1 : State} {i : Nat} {a : Apply} {d : Desc} {r : ApplyRow} {g : List (W32 × Bool)} (ha : s.applyOf x.id = some a)
  (hd : x.desc = some d) (hr : a.rows.find? (fun r => decide (r.i = i) && decide (r.grad = none)) = some r) (hl : s.localShard x = true)
  (hread : s.readCols x.part x.id ((cW3 x.cmd).toNat + 4 * d.dim * i) d.dim = (s1, some g))
include ha hd hr hl hread

/-- A poisoned gradient drops its row. -/
theorem State.applyGrad_poisoned (hp : g.any (·.2) = true) :
    s.applyGrad x i =
      (((s1.modTrk x.id fun y => { y with detail := y.detail + 1 }).poisonCmd x.id).dropRow x.id i).settleApply x.id := by
  simp only [State.applyGrad, ha, hd, hr, hl, hread, hp, Bool.not_true, Bool.false_eq_true, if_false, if_true]

/-- Rule 0 has no optimiser state: the parameters are updated at once. -/
theorem State.applyGrad_plain (hp : g.any (·.2) = false) (h0 : a.rule = 0) :
    s.applyGrad x i = s1.applyParams x d { r with grad := some (g.map (·.1)) } a.lr := by
  simp only [State.applyGrad, ha, hd, hr, hl, hread, hp, h0, Bool.not_true, Bool.false_eq_true, if_false, if_true]

/-- The other rules update the row's optimiser state first. -/
theorem State.applyGrad_state {st : Desc} {s2 : State} {ph : Nat} {h : W32} (hp : g.any (·.2) = false) (h0 : a.rule ≠ 0)
    (hst : x.desc2 = some st)
    (hlook : s1.look x.part (.cmd x.id) (st.rowBase 0 + r.x / 16 * st.stride 0 + 4 * (r.x % 16)) .add = (s2, some (ph, h))) :
    s.applyGrad x i =
      ((s2.modRows x.id fun l => updFirst (fun q => decide (q.i = i)) (fun _ => { r with grad := some (g.map (·.1)) }) l).queueOps x
        [⟨s2.sliceOf ph, x.part, some x.id, h, ph, .applyState i (meanSquare (g.map (·.1))), false, false, false⟩]).settleApply x.id := by
  simp only [State.applyGrad, ha, hd, hr, hl, hread, hp, if_neg h0, hst, hlook, Bool.not_true, Bool.false_eq_true, if_false]

end

/-! Optimiser states (R183, R185) -/

theorem exec_applyStateReturn_of {a : Apply} {d : Desc} {r : ApplyRow} {v : W32} (hx : s.trk t = some x) (ha : s.applyOf t = some a)
    (hr : a.rows.find? (fun r => r.state.isSome) = some r) (hv : r.state = some v) (hd : x.desc = some d) :
    exec (.applyStateReturn t) s = .next (s.applyParams x d r (applyFactor a v)).settle := by
  show execApplyStateReturn t s = _
  simp only [execApplyStateReturn, stepTo_eq, hx, ha, hr, hv, hd, Option.getD_some]

/-! Landing reports (R181, R188) -/

section
variable {n : SliceId} {c : Scatter} (hx : s.trk t = some x) (hc : s.scatterOf t = some c) (hend : c.ended.getLsbD n = true)
  (hrep : c.reported.getLsbD n = false) (hadd : s.adding n t = false)
include hx hc hend hrep hadd

/-- A slice without a scale-gradient place reports. -/
theorem exec_landingReport_reports (hp : (c.places.filter fun y => decide (y.n = n)) = []) :
    exec (.landingReport n t) s =
      .next ((s.modScatter t fun c => { c with reported := c.reported ||| BitVec.ofNat 8 (2 ^ n.val) }).settleScatter t).settle := by
  show execLandingReport n t s = _
  simp only [execLandingReport, stepTo_eq, hx, hc, hend, hrep, hadd, hp, Bool.not_true, Bool.false_eq_true, or_false, if_false, if_true]

/-- One with places adds them into their records first. -/
theorem exec_landingReport_places {s1 : State} {l : List AddOp} (hp : (c.places.filter fun y => decide (y.n = n)) ≠ [])
    (hops : s.sgradOps x (c.places.filter fun y => decide (y.n = n)) = (s1, some l)) :
    exec (.landingReport n t) s =
      .next ((s1.modScatter t fun c => { c with places := c.places.filter fun y => decide (y.n ≠ n) }).queueOps x l).settle := by
  show execLandingReport n t s = _
  simp only [execLandingReport, stepTo_eq, hx, hc, hend, hrep, hadd, if_neg hp, hops, Bool.not_true, Bool.false_eq_true, or_false, if_false]

end

end

/-! Entries that fail their ECC (R186) -/

theorem State.bufErr_uncorrectable {s : State} {e : PreAgg} {x : Tracker} (hx : s.trk e.c.t = some x) :
    s.bufErr e .uncorrectable = ((({ s with
      preagg := s.preagg.filter fun y => decide (y ≠ e)
      mergeStore := s.mergeStore.filter fun y => decide (y ≠ e) } : State).bump fJsRakeStat_BUF_UNCORR e.n).loseWrite x.part (some e.c.t)
        e.c.obj) := by
  simp only [State.bufErr, hx, Option.map_some, Option.getD_some]

/-- Settles O20: how scatter commands start, form, apply, land and lose entries, by the lemmas above. -/
theorem scatterCommands : Obligations.ScatterCommands := by
  unfold Obligations.ScatterCommands
  refine ⟨fun s t x hx => ⟨fun hs => exec_scatterAdd_own hx hs, fun y hs => exec_scatterAdd_served hx hs⟩,
    fun s t x hx => exec_scatterApply_of hx, ?_, ?_, ?_, ?_, fun s e x hx => ⟨rfl, rfl, State.bufErr_uncorrectable hx⟩⟩
  · intro s t bag x c g d hx hop hc hg hd htok hnew habort hrun n stride
    have hexec := exec_gradientReadReturn_add (bag := bag) hx hop
    obtain rfl := State.trk_id hx
    refine ⟨fun s1 grad hz hs hr => ?_, fun y hz hs => ?_, fun z hz => ?_⟩
    · rw [hexec, State.scatterGrad_read hc hg hd htok hnew habort hrun hz hs hr]
    · rw [hexec, State.scatterGrad_served hc hg hd htok hnew habort hrun hz hs]
    · rw [hexec, State.scatterGrad_kept hc hg hd htok hnew habort hrun hz]
  · intro s s1 t i x a d r g err hx hop ha hd hr hl hread r1
    have hexec := exec_gradientReadReturn_apply (bag := i) (err := err) hx hop
    obtain rfl := State.trk_id hx
    refine ⟨fun hp => ?_, fun hp h0 => ?_, fun st s2 ph h hp h0 hst hlook => ?_⟩
    · rw [hexec, State.applyGrad_poisoned ha hd hr hl hread hp]
    · rw [hexec, State.applyGrad_plain ha hd hr hl hread hp h0]
    · rw [hexec, State.applyGrad_state ha hd hr hl hread hp h0 hst hlook]
  · intro s t x a d r v hx ha hr hv hd
    exact exec_applyStateReturn_of hx ha hr hv hd
  · intro s n t x c hx hc hend hrep hadd mine
    exact ⟨fun hp => exec_landingReport_reports hx hc hend hrep hadd hp,
      fun s1 l hp hops => exec_landingReport_places hx hc hend hrep hadd hp hops⟩

end Sys2Proof.Machine
end

section
/-! PROOF. Feeder queues (O15): what makes a queue wait, the tile that its first ready command sends, and a tile that is accepted. -/
namespace Sys2Proof.Machine

/-! Tiles that leave (R144, R146 to R148) -/

section
variable {s : State} {q : Fin 64}

/-- The commands with tiles left for a queue, in the order in which it serves them. -/
def State.queueWork (s : State) (q : Fin 64) : List Delivery :=
  s.deliveries.filter fun dl => decide (dl.kind = 1) && decide (fdQueue dl.dest = q.val) && !dl.tilesDone

theorem exec_feedTileSend_waits (h : s.credits[q] = 0 ∨ natBits (s.fld fJeFeedEn_ENABLED) q 1 = 0) :
    exec (.feedTileSend q) s = .next s.settle := by
  show execFeedTileSend q s = _
  simp only [execFeedTileSend, stepTo_eq, if_pos h]

/-- An enabled queue with a credit looks for a tile among its commands. -/
theorem exec_feedTileSend_looks (hcred : s.credits[q] ≠ 0) (hon : natBits (s.fld fJeFeedEn_ENABLED) q 1 = 1) :
    exec (.feedTileSend q) s = .next (s.tileFrom q (s.queueWork q)).settle := by
  have hfree : ¬(s.credits[q] = 0 ∨ natBits (s.fld fJeFeedEn_ENABLED) q 1 = 0) := by
    rintro (h | h)
    · exact hcred h
    · simp [h] at hon
  show execFeedTileSend q s = _
  simp only [execFeedTileSend, stepTo_eq, if_neg hfree]
  rfl

/-- The first command sends its next tile, where that is ready. -/
theorem State.tileFrom_sends {dl : Delivery} {rest : List Delivery} {x : Tracker} {bt : Batch} {d : Desc}
    {tile : List (List Nat) × List Bool × List Nat} (hx : s.trk dl.t = some x) (hb : s.batch dl.t = some bt) (hover : dl.over bt = false)
    (hd : x.desc = some d) (htile : s.tileOf x d bt dl = some tile) :
    s.tileFrom q (dl :: rest) = (s.sendTile x bt dl q tile).settlePool x.id := by
  simp only [State.tileFrom, hx, hb, hover, hd, Option.bind_some, htile, Bool.false_eq_true, if_false]

end

/-! Tiles that are accepted (R144, R148) -/

section
variable {s : State} {q : Fin 64} {y : TileSent} {x : Tracker} {dl : Delivery}

/-- The oldest tile of a queue is accepted: with the last one of a row block the bags of the block are delivered. -/
theorem exec_feedTileAck_accepts (hy : s.tiles.find? (fun y => decide (y.q = q)) = some y) (hx : s.trk y.t = some x)
    (hdl : s.deliveries.find? (fun dl => decide (dl.t = y.t)) = some dl) :
    let s1 : State := { s with tiles := eraseFirst (fun z => decide (z = y)) s.tiles }
    let block := s.bags.filter fun g => decide (g.t = y.t) && !g.delivered && decide ((fdRow dl.dest + g.bag) / dl.rowsOf = y.rowBlock)
    exec (.feedTileAck q) s =
      .next (if y.last then (block.foldl (fun u g => u.markDelivered x g.bag) s1).settlePool y.t else s1).settle := by
  intro s1 block
  have hx1 : ({ s with tiles := eraseFirst (fun z => decide (z = y)) s.tiles } : State).trk y.t = some x := hx
  show execFeedTileAck q s = _
  simp only [execFeedTileAck, stepTo_eq, hy, hx1, hdl]
  rfl

end

/-- Settles O15: enables and credits as they arrive, a queue that waits, the tile of its first ready command, and an accepted tile. -/
theorem feederQueues : Obligations.FeederQueues := by
  unfold Obligations.FeederQueues
  refine ⟨fun s mask => rfl, fun s q n => rfl, fun s q h => exec_feedTileSend_waits h, ?_,
    fun s q y x dl hy hx hdl => exec_feedTileAck_accepts hy hx hdl⟩
  intro s q dl rest x bt d rows pois clips hcred hon hwork hx hb hover hd htile
  have hfirst : s.queueWork q = dl :: rest := hwork
  rw [exec_feedTileSend_looks hcred hon, hfirst, State.tileFrom_sends hx hb hover hd htile]
  rfl

end Sys2Proof.Machine
end

section
/-! PROOF. Keyed heads (O16): a lookup's start, its binding, its queries, the scores and pairs of a head, and its weights. -/
namespace Sys2Proof.Machine

/-! Starts (R150, R162) -/

theorem exec_keyedLookup_of {s : State} {t : TrackerId} {x : Tracker} (hx : s.startable t 0x18 = some x) :
    exec (.keyedLookup t) s =
      .next ({ (s.modTrk t fun y => { y with phase := .running }) with
        batches := s.batches ++ [{ newBatch t x.cmd .keyed true with bagCount := x.bags }]
        deliveries := s.deliveries ++ [deliveryOf t x.cmd false (cW3 x.cmd) (cKeyedStride x.cmd)] } : State).settle := by
  show execKeyedLookup t s = _
  simp only [execKeyedLookup, stepTo_eq, hx]
  rfl

/-! Binding (R161 to R163) -/

/-- A bank holds the layer of a keyed command, in a given state. -/
def State.bankHas (s : State) (p : Part) (k : KeyedCmd) (st : BankState) (b : Fin 2) : Bool :=
  s.banks[b].holds p k.layer (BitVec.ofNat 64 (kBase k.desc)) && decide (s.banks[b].state = st)

/-- The banks that a keyed command may bind to, in their order: those that hold its layer RESIDENT or POISONED (R163). -/
def State.bindBank (s : State) (p : Part) (k : KeyedCmd) : Option (Fin 2) :=
  (List.finRange 2).find? fun b => s.bankHas p k .resident b || s.bankHas p k .poisoned b

theorem State.bankHas_iff (s : State) (p : Part) (k : KeyedCmd) (st : BankState) (b : Fin 2) :
    s.bankHas p k st b = true ↔ s.banks[b].holds p k.layer (BitVec.ofNat 64 (kBase k.desc)) = true ∧ s.banks[b].state = st := by
  simp [State.bankHas]

/-- A RESIDENT bank of the layer is bound to where no bank before it holds the layer. -/
theorem State.bindBank_first {s : State} {p : Part} {k : KeyedCmd} {b : Fin 2} (hb : s.bankHas p k .resident b = true)
    (hfirst : ∀ c < b, s.banks[c].holds p k.layer (BitVec.ofNat 64 (kBase k.desc)) = false) : s.bindBank p k = some b := by
  refine (List.find?_ofFn_eq_some_of_injective fun _ _ h => h).mpr ⟨by rw [hb, Bool.true_or], fun c hc => ?_⟩
  have hother : ∀ st, s.bankHas p k st c = false := fun st => by rw [State.bankHas, hfirst c hc, Bool.false_and]
  simp [hother]

theorem State.bindBank_none {s : State} {p : Part} {k : KeyedCmd}
    (h : ∀ b, s.bankHas p k .resident b = false ∧ s.bankHas p k .poisoned b = false) : s.bindBank p k = none :=
  List.find?_eq_none.mpr fun b _ => by simp [h b]

/-- The demand fill of a keyed command (R161, R203). -/
def State.demandFill (s : State) (p : Part) (k : KeyedCmd) (t : TrackerId) : Fill :=
  ⟨p, k.layer, BitVec.ofNat 64 (kBase k.desc), kImageLen k.desc, kNA k.desc, kDim k.desc, t, true,
    s.fillTarget p k.layer (BitVec.ofNat 64 (kBase k.desc)), none⟩

section
variable {s : State} {t : TrackerId} {k : KeyedCmd} {x : Tracker}

/-- A command without a demand fill takes no fill and no stream with it when it binds. -/
theorem State.bindTo_of_no_demand {b : Fin 2} (hd : s.demandOf t = none) :
    s.bindTo t b = ({ (s.modKeyed t fun k => { k with bank := some b }) with
      lastBound := b, fills := s.fills.filter fun f => !(f.demand && decide (f.t = t)) } : State).releaseCtx := by
  simp only [State.bindTo, hd, Option.isSome_none, Bool.false_eq_true, if_false]
  rfl

section
variable (hk : s.keyedOf t = some k) (hx : s.trk t = some x) (hrun : x.phase = .running) (hgate : s.winnowGated = false)
  (hq : k.bank = none) (hlive : k.stage ≠ .aborted)
include hk hx hrun hgate hq hlive

/-- A queued command binds to a RESIDENT bank of its layer with room for one more user. -/
theorem exec_winnowBind_binds {b : Fin 2} (hb : s.bindBank x.part k = some b) (hres : s.banks[b].state = .resident)
    (hroom : s.bankUsers b < 64) : exec (.winnowBind t) s = .next (s.bindTo t b).settle := by
  unfold State.bindBank State.bankHas at hb
  show execWinnowBind t s = _
  simp only [execWinnowBind, stepTo_eq, hk, hx, hgate, hrun, hlive, hq, hb, hres, Nat.not_le.mpr hroom, Bool.false_eq_true, ne_eq,
    not_true_eq_false, or_self, if_false, reduceCtorEq, decide_false, Bool.and_false]

/-- What a queued command does where no bank has its layer, and it has asked for no fill. -/
theorem exec_winnowBind_lacks (hb : s.bindBank x.part k = none) (hd : s.demandOf t = none) :
    exec (.winnowBind t) s = .next (
      if (List.finRange 2).any (s.bankHas x.part k .filling) then s.fillWait k
      else if s.fld fJeWinnowCtl_DEMAND = 1 ∧ 16 ≤ s.streamMax x.part then
        (({ s with fills := s.fills ++ [s.demandFill x.part k t] } : State).bump fJeWinnowStat_DEMAND_FILLS).fillWait k
      else (({ s with keyed := s.keyed.filter fun y => decide (y.t ≠ t) } : State).bump fJpKeyedStat_ABSENT x.part.val).only t
        stSubkeysAbsent).settle := by
  unfold State.bindBank State.bankHas at hb
  show execWinnowBind t s = _
  simp only [execWinnowBind, stepTo_eq, hk, hx, hgate, hrun, hlive, hq, hb, hd, Bool.false_eq_true, ne_eq, not_true_eq_false, or_self,
    if_false, Option.isSome_none]
  rfl

end

/-! Queries (R150, R154, R164) -/

section
variable {q : Query} {rest : List Query} (hk : s.keyedOf x.id = some k) (hidle : k.stage = .idle) (hq : k.ahead = q :: rest) (n : Nat)
include hk hidle hq

/-- A clean query goes to the array. -/
theorem State.nextHeads_clean (hp : q.poison = false) (hr : q.reject = false) :
    s.nextHeads x (n + 1) = (s.modKeyed x.id fun y => { y with ahead := y.ahead.drop 1 }).modKeyed x.id fun y =>
      { y with stage := .query, q := q.q } := by
  simp only [State.nextHeads, hk, hidle, hq, hp, hr, Bool.false_eq_true, if_false]

/-- A query with a value that is not finite has its head rejected. -/
theorem State.nextHeads_rejects {s1 : State} (hp : q.poison = false) (hr : q.reject = true) (hend : s.rejectHead x k = (s1, true)) :
    s.nextHeads x (n + 1) = (s1.modKeyed x.id fun y => { y with ahead := y.ahead.drop 1 }).nextHeads x n := by
  simp only [State.nextHeads, hk, hidle, hq, hp, hr, Bool.false_eq_true, if_false, if_true, hend]

/-- A poisoned query ends its head poisoned. -/
theorem State.nextHeads_poisons {s1 : State} (hp : q.poison = true)
    (hend : s.endHead x k [] (List.replicate k.k noSel) true = (s1, true)) :
    s.nextHeads x (n + 1) = (s1.modKeyed x.id fun y => { y with ahead := y.ahead.drop 1 }).nextHeads x n := by
  simp only [State.nextHeads, hk, hidle, hq, hp, if_true, hend]

end

/-- With no query read ahead there is no head to go on with. -/
theorem State.nextHeads_of_none_ahead (hk : s.keyedOf x.id = some k) (hq : k.ahead = []) (n : Nat) : s.nextHeads x n = s := by
  cases n with
  | zero => rfl
  | succ n =>
    simp only [State.nextHeads, hk, hq]
    cases k.stage <;> rfl

/-- The next query of a command whose turn it is returns behind those read ahead. -/
theorem exec_winnowQueryReturn_reads {s1 : State} {bs : List Byte} {poison : Bool} (hk : s.keyedOf t = some k) (hx : s.trk t = some x)
    (hgate : s.winnowGated = false) (hq : k.ahead = []) (hturn : s.headTurn k x.part = true)
    (hread : s.readPart x.part (.cmd t) ((k.query.toNat + 2 * (2 * kDim k.desc) * k.taken) % 2 ^ 64) (2 * (2 * kDim k.desc)) =
      (s1, some (bs, poison))) :
    let q := (List.range (2 * kDim k.desc)).map fun i => BitVec.ofNat 16 (bytesAt bs (2 * i) 2)
    let s2 : State := if k.taken % k.group = 0 then { s1 with queryTurn := x.part } else s1
    exec (.winnowQueryReturn t) s =
      .next ((s2.modKeyed t fun k => { k with ahead := k.ahead ++ [⟨q, poison, q.any badBf16⟩] }).nextHeads x 9).settle := by
  have hnone : s.nextHeads x 9 = s := State.nextHeads_of_none_ahead (by rw [State.trk_id hx, hk]) hq 9
  show execWinnowQueryReturn t s = _
  simp only [execWinnowQueryReturn, stepTo_eq, hx, hgate, hnone, hk, hturn, hread, Bool.false_eq_true, if_false, Bool.not_true, or_self]

/-! Scores (R153, R155, R156) -/

section
variable {b : Fin 2} (hk : s.keyedOf t = some k) (hb : k.bank = some b) (hgate : s.winnowGated = false)
include hk hgate

theorem exec_winnowPairsSelected_pairs (hst : k.stage = .setB) :
    exec (.winnowPairsSelected t) s =
      .next (s.modKeyed t fun y => { y with stage := .pairs, pairs := topK y.k (pairsOf (kNB y.desc) y.topA y.topB) }).settle := by
  show execWinnowPairsSelected t s = _
  simp only [execWinnowPairsSelected, stepTo_eq, hk, hst, hgate, Bool.not_false, and_self, if_true]

include hb

/-- Set A is scored against the first half of the query. -/
theorem exec_winnowSetScored_first (hst : k.stage = .query) :
    exec (.winnowSetScored t) s =
      .next (s.modKeyed t fun y => { y with
        stage := .setA, topA := topK k.k (s.banks[b].scores (k.q.take (kDim k.desc)) (kDim k.desc) 0 (kNA k.desc)) }).settle := by
  show execWinnowSetScored t s = _
  simp only [execWinnowSetScored, stepTo_eq, hk, hb, hgate, hst, Bool.false_eq_true, if_false, if_true]

/-- Set B is scored against the second half, and the head is counted. -/
theorem exec_winnowSetScored_second (hst : k.stage = .setA) :
    exec (.winnowSetScored t) s =
      .next ((s.modKeyed t fun y => { y with
        stage := .setB
        topB := topK k.k (s.banks[b].scores (k.q.drop (kDim k.desc)) (kDim k.desc) (kNA k.desc) (kNB k.desc)) }).bump
          fJeWinnowStat_HEADS).settle := by
  show execWinnowSetScored t s = _
  simp only [execWinnowSetScored, stepTo_eq, hk, hb, hgate, hst, Bool.false_eq_true, if_false, if_true, reduceCtorEq]

end

/-! Weights (R157, R159, R160) -/

section
variable (hk : s.keyedOf t = some k) (hx : s.trk t = some x) (hst : k.stage = .pairs) (hgate : s.winnowGated = false)
include hk hx hst hgate

/-- The entries of weight other than 0 and the whole selection end the head. -/
theorem exec_winnowWeightsDone_ends {ws : List (Nat × W32)} (hw : softmax (kTemp k.desc) k.pairs = some ws) :
    exec (.winnowWeightsDone t) s =
      .next ((s.endHead x k ((ws.filter fun y => decide (y.2 ≠ 0#32)).map fun y => (BitVec.ofNat 64 y.1, y.2))
        ((ws.map fun y => if y.2 = 0#32 then noSel else (BitVec.ofNat 32 y.1, y.2)) ++ List.replicate (k.k - ws.length) noSel)
        false).1.nextHeads x 9).settle := by
  show execWinnowWeightsDone t s = _
  simp only [execWinnowWeightsDone, stepTo_eq, hk, hx, hst, hgate, hw, Bool.false_eq_true, ne_eq, not_true_eq_false, or_self, if_false,
    List.length_map]

theorem exec_winnowWeightsDone_rejects (hw : softmax (kTemp k.desc) k.pairs = none) :
    exec (.winnowWeightsDone t) s = .next ((s.rejectHead x k).1.nextHeads x 9).settle := by
  show execWinnowWeightsDone t s = _
  simp only [execWinnowWeightsDone, stepTo_eq, hk, hx, hst, hgate, hw, Bool.false_eq_true, ne_eq, not_true_eq_false, or_self, if_false]

end

end

/-- A selection has weights unless its greatest score is not finite. -/
theorem softmax_eq_none_iff (temp : W32) (m : Nat × W32) (l : List (Nat × W32)) :
    softmax temp (m :: l) = none ↔ notFinite32 m.2 = true := by
  simp only [softmax]
  split
  · exact iff_of_true rfl ‹_›
  · exact iff_of_false nofun ‹_›

/-- Settles O16: a lookup's start, its binding by what the banks hold, its queries, its scores and its weights, by the lemmas above. -/
theorem keyedHeads : Obligations.KeyedHeads := by
  unfold Obligations.KeyedHeads
  refine ⟨fun s t x hx => exec_keyedLookup_of hx, ?_, fun s k => rfl, ?_, ?_, ?_, ?_, softmax_eq_none_iff⟩
  · intro s t k x hk hx hrun hgate hq hlive base some_
    have has (st : BankState) (b : Fin 2) : s.bankHas x.part k st b = true ↔ some_ b st := s.bankHas_iff x.part k st b
    refine ⟨fun b hres hfirst hroom hd => ?_, fun hno hd => ?_⟩
    · rw [exec_winnowBind_binds hk hx hrun hgate hq hlive (State.bindBank_first ((has .resident b).mpr hres) hfirst) hres.2 hroom,
        State.bindTo_of_no_demand hd]
    · have hnone : s.bindBank x.part k = none := State.bindBank_none fun b => by
        simp only [Bool.eq_false_iff, ne_eq, has]
        exact hno b
      have hfill : ((List.finRange 2).any (s.bankHas x.part k .filling) = true) ↔ ∃ b, some_ b .filling := by
        simp only [List.any_eq_true, List.mem_finRange, true_and, has]
      rw [exec_winnowBind_lacks hk hx hrun hgate hq hlive hnone hd]
      refine ⟨fun hf => ?_, fun hf hdem hmax => ?_, fun hf hor => ?_⟩
      · rw [if_pos (hfill.mpr hf)]
      · rw [if_neg (by rw [hfill]; exact not_exists.mpr hf), if_pos ⟨hdem, hmax⟩]
        rfl
      · rw [if_neg (by rw [hfill]; exact not_exists.mpr hf), if_neg (by omega)]
  · intro s s1 t k x bs poison hk hx hgate hq hturn hread
    exact exec_winnowQueryReturn_reads hk hx hgate hq hturn hread
  · intro s s1 x n k q rest hk hidle hq
    exact ⟨fun hp hr => State.nextHeads_clean hk hidle hq n hp hr, fun hp hr hend => State.nextHeads_rejects hk hidle hq n hp hr hend,
      fun hp hend => State.nextHeads_poisons hk hidle hq n hp hend⟩
  · intro s t k b hk hb hgate
    exact ⟨fun hst => exec_winnowSetScored_first hk hb hgate hst, fun hst => exec_winnowSetScored_second hk hb hgate hst,
      fun hst => exec_winnowPairsSelected_pairs hk hgate hst⟩
  · intro s t k x hk hx hst hgate
    exact ⟨fun ws hw => exec_winnowWeightsDone_ends hk hx hst hgate hw, fun hw => exec_winnowWeightsDone_rejects hk hx hst hgate hw⟩

end Sys2Proof.Machine
end

section
/-! PROOF. Sub-key banks (O17): fills that start and end, and the Winnow out of service and back. -/
namespace Sys2Proof.Machine

/-! Fills start (R161, R203) -/

/-- Fills that wait for a bank start while the Winnow is IN_SERVICE alone. -/
theorem exec_subkeyFillStart_of (s : State) : exec .subkeyFillStart s =
    .next (if s.fld fJeWinnowCtl_STATE ≠ 0 then s else s.startFills (s.fills.filter fun f => decide (f.bank = none))).settle := rfl

section
variable {s s1 : State} {f : Fill} {rest : List Fill}

/-- A fill without its stream lets the next one try. -/
theorem State.startFills_no_stream (h : s.fillStream f = (s1, false)) : s.startFills (f :: rest) = s1.startFills rest := by
  simp only [State.startFills, h]

/-- A fill whose target has users or is being filled lets the next one try. -/
theorem State.startFills_target_used (h : s.fillStream f = (s1, true))
    (hu : 0 < s1.bankUsers f.target ∨ s1.banks[f.target].state = .filling) : s.startFills (f :: rest) = s1.startFills rest := by
  simp only [State.startFills, h, if_pos hu]

theorem State.startFills_begins (h : s.fillStream f = (s1, true)) (hu : s1.bankUsers f.target = 0)
    (hf : s1.banks[f.target].state ≠ .filling) : s.startFills (f :: rest) = s1.beginFill f := by
  have hfree : ¬(0 < s1.bankUsers f.target ∨ s1.banks[f.target].state = .filling) := not_or.mpr ⟨by omega, hf⟩
  simp only [State.startFills, h, if_neg hfree]

/-- A fill has its stream: a STREAM command's own, or the one its demand fill has begun. -/
theorem State.fillStream_has (h : f.demand = false ∨ (s.streamOf f.t).isSome = true) : s.fillStream f = (s, true) := by
  rw [State.fillStream, if_pos]
  simpa [State.streamOf] using h

section
variable (hd : f.demand = true) (hn : s.streamOf f.t = none)
include hd hn

/-- A demand fill without a stream has to begin one. -/
theorem State.fillStream_needs_stream : ¬((!f.demand) = true ∨ s.streams.any (fun c => decide (c.t = some f.t)) = true) := by
  simpa [State.streamOf, hd] using hn

theorem State.fillStream_full (hroom : (s.makeRoom f.part 16 s.streams.length).streamRoom f.part 16 = false) :
    s.fillStream f = (s.makeRoom f.part 16 s.streams.length, false) := by
  rw [State.fillStream, if_neg (State.fillStream_needs_stream hd hn)]
  exact if_neg (by simp [hroom])

/-- A demand fill takes a context with 16 units. -/
theorem State.fillStream_takes (hroom : (s.makeRoom f.part 16 s.streams.length).streamRoom f.part 16 = true) :
    (s.fillStream f).2 = true ∧
      (s.fillStream f).1.sctx = (s.makeRoom f.part 16 s.streams.length).sctx ++ [⟨f.part, demandId f.t, 4, 18, 16⟩] := by
  rw [State.fillStream, if_neg (State.fillStream_needs_stream hd hn)]
  simp only [hroom, if_true, and_self]

end

end

/-! Fills end (R161, R203) -/

section
variable {s : State} {b : Fin 2} {f : Fill} (hf : s.fills.find? (fun f => decide (f.bank = some b)) = some f)
include hf

theorem exec_subkeyFillEnd_waits (h : 2 * s.banks[b].keys.length < f.bytes) : exec (.subkeyFillEnd b) s = .next s.settle := by
  show execSubkeyFillEnd b s = _
  simp only [execSubkeyFillEnd, stepTo_eq, hf, if_pos h]

/-- A complete image ends its fill, and completes the sub-key receivers of its stream. -/
theorem exec_subkeyFillEnd_ends (h : f.bytes ≤ 2 * s.banks[b].keys.length) :
    exec (.subkeyFillEnd b) s =
      .next (({ (s.fillDone b f) with streams := updFirst (fun c => decide (c.t = some f.t)) (fun c : StreamCmd =>
        { c with rcvs := c.rcvs.map fun (r : Receiver) => if r.kind = 2 then { r with done := true } else r }) (s.fillDone b f).streams } :
          State).settleStream f.t).settle := by
  show execSubkeyFillEnd b s = _
  simp only [execSubkeyFillEnd, stepTo_eq, hf, if_neg (Nat.not_lt.mpr h)]

end

/-! Out of service and back (R167, R397) -/

/-- What WINNOW_BYPASS (REQ 2) and WINNOW_RETURN (REQ 1) write. -/
def State.winnowWord (s : State) (a : Nat) : W64 :=
  (s.reg .jeWinnowCtl &&& codeMask (RegId.fields .jeWinnowCtl) .rw) ||| BitVec.ofNat 64 a

/-- A whole write of JE_WINNOW_CTL that asks for an action takes it: nothing refuses one. -/
theorem State.putKeep_winnow {s : State} (h : s.serving) {a : Nat} (h0 : a ≠ 0) (ha : a < 3) :
    s.putKeep .jeWinnowCtl 0 (BitVec.ofNat 64 a) =
      (s.put .jeWinnowCtl 0 (s.winnowWord a)).act ⟨.jeWinnowCtl, 0, 0⟩ a (s.winnowWord a) :=
  State.putKeep_plain h .jeWinnowCtl 0 a (BitVec.ofNat 64 a) (RegRef.valid_hub _ rfl (by decide)) (State.sliceGone_reg s _ _ _ (by decide))
    rfl (by decide) nofun (by decide) rfl (fun _ _ _ => rfl) (fun w => winnow_action w a ha) h0 rfl

/-- A write of the register leaves STATE to the Winnow. -/
theorem State.fld_put_winnowState (s : State) (v : W64) : (s.put .jeWinnowCtl 0 v).fld fJeWinnowCtl_STATE = s.fld fJeWinnowCtl_STATE :=
  State.fld_stored_kept s fJeWinnowCtl_STATE 0 0 .full v (by decide) (by decide) (by decide)

theorem exec_winnowBypass_acts {s : State} (h : s.serving) :
    exec .winnowBypass s = .next (s.put .jeWinnowCtl 0 (s.winnowWord 2)).winnowBypass.settle :=
  congrArg stepTo (State.putKeep_winnow h (by decide) (by decide))

theorem exec_winnowReturn_acts {s : State} (h : s.serving) :
    exec .winnowReturn s = .next (s.put .jeWinnowCtl 0 (s.winnowWord 1)).winnowReturn.settle :=
  congrArg stepTo (State.putKeep_winnow h (by decide) (by decide))

/-- A Winnow IN_SERVICE begins to drain: what is queued or waits for a bank is bypassed, and the fills are given up. -/
theorem State.winnowBypass_drains {s u : State} (hkeyed : u.keyed = s.keyed) (hfills : u.fills = s.fills)
    (hst : u.fld fJeWinnowCtl_STATE = 0) :
    let s2 := (s.keyed.filter fun k => decide (k.bank = none) && decide (k.stage ≠ .aborted)).foldl
      (fun (u : State) (k : KeyedCmd) => u.only k.t stWinnowBypassed) u
    let s3 := (s.fills.filter fun f => !f.demand).foldl (fun (u : State) (f : Fill) => u.only f.t stWinnowBypassed) s2
    u.winnowBypass =
      ({ s3 with
        keyed := s3.keyed.filter fun k => decide (k.bank ≠ none) || decide (k.stage = .aborted)
        banks := s3.banks.map fun (b : Bank) => if b.state = .filling then Bank.reset else b
        fills := []
        streams := s3.streams.filter fun c => !(s.fills.any fun f => f.demand && decide (c.t = some f.t)) } : State).releaseCtx.setFld
          fJeWinnowCtl_STATE 1 := by
  rw [State.winnowBypass, hst, ← hkeyed, ← hfills]
  rfl

/-- A draining Winnow forgets the return it was asked for. -/
theorem State.winnowBypass_withdraws {u : State} (hst : u.fld fJeWinnowCtl_STATE = 1) :
    u.winnowBypass = u.setFld fJeWinnowCtl_ENABLE_PENDING 0 := by
  simp only [State.winnowBypass, hst]

theorem State.winnowReturn_cases (u : State) :
    (u.fld fJeWinnowCtl_STATE = 1 → u.winnowReturn = u.setFld fJeWinnowCtl_ENABLE_PENDING 1) ∧
    (u.fld fJeWinnowCtl_STATE = 2 → u.winnowReturn = ({ u with winnowInit := true } : State).restSync) := by
  refine ⟨fun hst => ?_, fun hst => ?_⟩ <;> simp only [State.winnowReturn, hst]

/-- Both banks EMPTY, and the Winnow BYPASSED. -/
def State.winnowDrained (s : State) : State := ({ s with banks := Vector.replicate 2 Bank.reset } : State).setFld fJeWinnowCtl_STATE 2

/-- A Winnow whose last bound command has ended is BYPASSED, or goes on to the return it owes. -/
theorem exec_winnowDrainDone_drained {s : State} (hst : s.fld fJeWinnowCtl_STATE = 1)
    (hk : s.keyed.all (fun k => decide (k.bank = none)) = true) :
    exec .winnowDrainDone s =
      .next (if s.fld fJeWinnowCtl_ENABLE_PENDING = 1 then (s.winnowDrained.setFld fJeWinnowCtl_ENABLE_PENDING 0).winnowReturn
        else s.winnowDrained.restSync).settle := by
  have hp : s.winnowDrained.fld fJeWinnowCtl_ENABLE_PENDING = s.fld fJeWinnowCtl_ENABLE_PENDING :=
    State.fld_setFld_of_apart s.emptyBanks (f := fJeWinnowCtl_STATE) 2 0 0 rfl (by decide)
  show execWinnowDrainDone s = _
  rw [execWinnowDrainDone, stepTo_eq, if_pos ⟨hst, hk⟩, ← hp]
  rfl

/-- The return that a drained Winnow owes begins its reinitialisation. -/
theorem State.winnowReturn_drained (s : State) : (s.winnowDrained.setFld fJeWinnowCtl_ENABLE_PENDING 0).winnowReturn =
    ({ (s.winnowDrained.setFld fJeWinnowCtl_ENABLE_PENDING 0) with winnowInit := true } : State).restSync := by
  refine (State.winnowReturn_cases _).2 ?_
  rw [State.fld_setFld_of_apart _ (f := fJeWinnowCtl_ENABLE_PENDING) (f' := fJeWinnowCtl_STATE) 0 0 0 rfl (by decide)]
  exact State.fld_setFld_self _ fJeWinnowCtl_STATE 2 0 0 (by decide)

theorem exec_winnowReinitDone_of {s : State} (hi : s.winnowInit = true) (hb : s.fld fJeUnitTest_BUSY = 0) :
    exec .winnowReinitDone s =
      .next (({ s with banks := Vector.replicate 2 Bank.reset, winnowInit := false } : State).setFld fJeWinnowCtl_STATE 0).settle := by
  show execWinnowReinitDone s = _
  rw [execWinnowReinitDone, stepTo_eq, if_pos ⟨hi, hb⟩]
  rfl

/-- Settles O17: fills that start and end, and the Winnow's bypass, drain, return and reinitialisation, by the lemmas above. -/
theorem subkeyBanks : Obligations.SubkeyBanks := by
  unfold Obligations.SubkeyBanks
  refine ⟨fun s hst => ?_, fun s hst => ?_, fun s s1 f rest => ⟨State.startFills_no_stream, State.startFills_target_used,
    State.startFills_begins⟩, fun s f => ⟨State.fillStream_has, fun hd hn => ⟨State.fillStream_full hd hn, State.fillStream_takes hd hn⟩⟩,
    fun s b f hf => ⟨exec_subkeyFillEnd_waits hf, exec_subkeyFillEnd_ends hf⟩, fun s h => ?_, fun s h => ?_, fun s hst hk => ?_,
    fun s hi hb => exec_winnowReinitDone_of hi hb⟩
  · rw [exec_subkeyFillStart_of, if_pos hst]
  · rw [exec_subkeyFillStart_of, if_neg (not_not_intro hst)]
  · have hrest := (s.sameBut_put .jeWinnowCtl 0 (s.winnowWord 2) (by decide) (by decide)).rest
    refine ⟨fun hst => ?_, fun hst => ?_⟩ <;> rw [← s.fld_put_winnowState (s.winnowWord 2)] at hst
    · rw [exec_winnowBypass_acts h, State.winnowBypass_drains (by rw [hrest]) (by rw [hrest]) hst]
      rfl
    · rw [exec_winnowBypass_acts h, State.winnowBypass_withdraws hst]
      rfl
  · obtain ⟨c1, c2⟩ := State.winnowReturn_cases (s.put .jeWinnowCtl 0 (s.winnowWord 1))
    rw [s.fld_put_winnowState] at c1 c2
    refine ⟨fun hst => ?_, fun hst => ?_⟩
    · rw [exec_winnowReturn_acts h, c1 hst]
      rfl
    · rw [exec_winnowReturn_acts h, c2 hst]
      rfl
  · have key := exec_winnowDrainDone_drained hst hk
    refine ⟨fun hp => ?_, fun hp => ?_⟩
    · rw [key, if_neg (by omega)]
      rfl
    · rw [key, if_pos hp, State.winnowReturn_drained]
      rfl

end Sys2Proof.Machine
end

section
/-! PROOF. The link of the Rake (O21): messages that arrive, acknowledgements, requests to send again, end tokens, the flush of an
entry, and an adder's read. -/
namespace Sys2Proof.Machine

/-! Messages that arrive (R174, R175, R186) -/

section
variable {s : State} {n : SliceId} {m : RakeMsg} {rest : List RakeMsg}

/-- A link whose oldest message has arrived. -/
def RakeLink.arrived (l : RakeLink) (rest : List RakeMsg) : RakeLink := { l with flight := rest }

/-- One whose message arrived whole: its poisoned arrivals in a row end. -/
def RakeLink.arrivedWhole (l : RakeLink) (m : RakeMsg) (rest : List RakeMsg) : RakeLink :=
  { l.arrived rest with fails := l.fails.filter fun y => decide (y.1 ≠ m.seq) }

variable (hm : s.links[n].flight = m :: rest) (harm : s.armed = none) (err : EccErr)
include hm harm

/-- A poisoned message is discarded, counted and asked for again. -/
theorem exec_rakeMessageArrive_poisoned :
    exec (.rakeMessageArrive n true err .clean) s =
      .next (s.setLink n { s.links[n].arrived rest with
        resend := s.links[n].resend ++ [m.seq]
        fails := putAssoc s.links[n].fails m.seq (s.links[n].failsOf m.seq + 1) }).settle := by
  show execRakeMessageArrive n true s err .clean = _
  simp only [execRakeMessageArrive, stepTo_eq, hm, State.fifoWord_clean _ _ _ harm, true_or, if_true]
  rfl

/-- A message in sequence is acknowledged, and its contributions merged. -/
theorem exec_rakeMessageArrive_inSequence (hseq : m.seq = s.links[n].expect) :
    let s1 := s.setLink n { s.links[n].arrivedWhole m rest with
      expect := s.links[n].expect + 1
      acks := s.links[n].acks ++ [m.seq] }
    exec (.rakeMessageArrive n false err .clean) s =
      .next (m.items.foldl (fun u c => u.mergeContrib n c)
        (s1.bufErrFirst ((s1.preaggOf n).filter fun e => m.items.any fun c => e.c.same c) err)).settle := by
  intro s1
  show execRakeMessageArrive n false s err .clean = _
  simp only [execRakeMessageArrive, stepTo_eq, hm, State.fifoWord_clean _ _ _ harm, Bool.false_eq_true, or_self, if_false, if_pos hseq]
  rfl

/-- One out of sequence is discarded: acknowledged where it is a duplicate, and left where it is ahead of its turn. -/
theorem exec_rakeMessageArrive_outOfSequence (hseq : m.seq ≠ s.links[n].expect) :
    exec (.rakeMessageArrive n false err .clean) s =
      .next (s.setLink n (if 2048 ≤ (m.seq - s.links[n].expect).toNat then
          { s.links[n].arrivedWhole m rest with acks := s.links[n].acks ++ [m.seq] }
        else s.links[n].arrivedWhole m rest)).settle := by
  show execRakeMessageArrive n false s err .clean = _
  simp only [execRakeMessageArrive, stepTo_eq, hm, State.fifoWord_clean _ _ _ harm, Bool.false_eq_true, or_self, if_false, if_neg hseq]
  rw [apply_ite (s.setLink n)]
  rfl

end

/-! What the hub hears of a slice (R174, R188, R400) -/

section
variable {s : State} {n : SliceId} {q : BitVec 12} {rest : List (BitVec 12)}

/-- An acknowledgement takes its message out of the replay store, and forming goes on. -/
theorem exec_rakeAck_arrives (hq : s.links[n].acks = q :: rest) :
    exec (.rakeAck n false) s =
      .next ((s.setLink n { s.links[n] with
        acks := rest, replay := s.links[n].replay.filter fun m => decide (m.seq ≠ q) }).pumpLink n).settle := by
  show execRakeAck n s false = _
  simp only [execRakeAck, stepTo_eq, hq, Bool.false_eq_true, if_false]

/-- A lost one has its message sent again. -/
theorem exec_rakeAck_lost (hq : s.links[n].acks = q :: rest) :
    exec (.rakeAck n true) s =
      .next (s.setLink n { s.links[n] with
        acks := rest, flight := s.links[n].flight ++ s.links[n].replay.filter fun m => decide (m.seq = q) }).settle := by
  show execRakeAck n s true = _
  simp only [execRakeAck, stepTo_eq, hq, if_true]

/-- A request to send again fails the slice at RESEND poisoned arrivals, and is served before. -/
theorem exec_rakeResendRequest_of (hq : s.links[n].resend = q :: rest) :
    let again := s.links[n].replay.filter fun m => decide ((m.seq - q).toNat < 2048)
    let s1 := s.setLink n { s.links[n] with resend := rest, flight := s.links[n].flight ++ again }
    exec (.rakeResendRequest n) s =
      .next (if s.resendLimit ≤ s.links[n].failsOf q then (s.eventE 0x20 n q.toNat).failSlice n 2
        else if again.any (fun m => decide (m.seq = q)) then s1.bump fJsRakeStat_RESENT n else s1).settle := by
  intro again s1
  show execRakeResendRequest n s = _
  simp only [execRakeResendRequest, stepTo_eq, hq]
  rfl

end

/-! End tokens (R176, R186) -/

/-- A token whose contributions have been merged, and the only one of its slice, is the one that arrives. -/
theorem State.endToken_found {s : State} {n : SliceId} {t : TrackerId} (hmem : (n, t) ∈ s.endTokens)
    (howes : s.links[n].owes t = false) (honly : ∀ y ∈ s.endTokens, y.1 = n → y = (n, t)) :
    s.endTokens.find? (fun y => decide (y.1 = n) && !(s.links[n].owes y.2)) = some (n, t) := by
  refine find?_of_unique hmem (by simpa using howes) fun y hy hpick => ?_
  exact honly y hy (of_decide_eq_true (Bool.and_eq_true_iff.mp hpick).1)

/-- The end token that is found flushes the entries of its command, the first of them struck by an error. -/
theorem exec_rakeEndToken_of {s : State} {n : SliceId} {t : TrackerId} (err : EccErr)
    (hy : s.endTokens.find? (fun y => decide (y.1 = n) && !(s.links[n].owes y.2)) = some (n, t)) :
    let s1 : State := { s with endTokens := eraseFirst (fun z => decide (z = (n, t))) s.endTokens }
    exec (.rakeEndToken n err) s =
      .next (((s1.bufErrFirst ((s1.preaggOf n).filter fun e => decide (e.c.t = t)) err).flushPre n fun e => decide (e.c.t = t)).modScatter t
        fun c => { c with ended := c.ended ||| BitVec.ofNat 8 (2 ^ n.val) }).settle := by
  intro s1
  show execRakeEndToken n s err = _
  simp only [execRakeEndToken, stepTo_eq, hy]
  rfl

/-! Flushes and adds (R176, R178) -/

/-- The operation of some entries, spelled out. -/
theorem flushOp_toList (n : SliceId) (p : Part) (cs : List Contrib) :
    (flushOp n p cs).toList = match cs with
      | [] => []
      | c :: r => [⟨n, p, some c.t, c.obj, c.addr / 64 * 64, .scatter (c :: r), false, false, (c :: r).any (·.old)⟩] := by
  cases cs <;> rfl

/-- The read of the oldest operation that nothing holds, on a line that no agent may hold. -/
theorem exec_adderReadReturn_of {s s1 : State} {n : SliceId} {o : AddOp}
    (ho : s.addQ.find? (fun o => decide (o.n = n) && !(s.isBoard o.addr) && (o.issued || !(s.flipping o.addr)) && !(s.bankWaits (o.addr / 64))) =
      some o) (htr : s.tracked o.addr = false)
    (hadd : ({ s with addQ := eraseFirst (fun y => decide (y = o)) s.addQ } : State).addHbm (sliceGens n) o = some s1) :
    exec (.adderReadReturn n) s = .next s1.settleWcb.settle := by
  have hstep : s.addStep n o = s1 := by simp only [State.addStep, htr, hadd, Bool.false_eq_true, if_false]
  show execAdderReadReturn n s = _
  simp only [execAdderReadReturn, stepTo_eq, ho, hstep]

/-- Settles O21: the messages, acknowledgements, resends and end tokens of the Rake's link, a flush and an add, by the lemmas above. -/
theorem rakeLinks : Obligations.RakeLinks := by
  unfold Obligations.RakeLinks
  refine ⟨fun s n m rest hm harm => ⟨fun err hseq => exec_rakeMessageArrive_inSequence hm harm err hseq,
      fun err hseq => exec_rakeMessageArrive_outOfSequence hm harm err hseq, fun err => exec_rakeMessageArrive_poisoned hm harm err⟩,
    fun s n q rest hq => ⟨exec_rakeAck_arrives hq, exec_rakeAck_lost hq⟩, fun s n q rest hq => exec_rakeResendRequest_of hq,
    fun s n t err hmem howes honly => exec_rakeEndToken_of err (State.endToken_found hmem howes honly), ?_,
    fun s s1 n o ho htr hadd => exec_adderReadReturn_of ho htr hadd⟩
  intro s e x hx mate
  simp only [State.flushEntry, hx, Option.map_some, Option.getD_some, flushOp_toList] <;> rfl

end Sys2Proof.Machine
end

section
/-! PROOF. The write-combining buffer (O26): writes that are accepted or wait, the way of a write, entries that take one, their age, their
merge reads, and their way to HBM. -/
namespace Sys2Proof.Machine

/-! The oldest write of a slice (R245) -/

section
variable {s : State} {n : SliceId} {w : WrReq} {r : List WrReq} (hboard : s.isBoard w.addr = false) (hn : s.sliceOf w.addr = n)
include hboard hn

theorem State.acceptWrite_takes {s1 : State} (htry : ({ s with wrQ := r } : State).tryWrite w = some s1) :
    s.acceptWrite n [] (w :: r) = s1 := by
  simp only [State.acceptWrite, hboard, hn, List.any_nil, Bool.false_eq_true, ne_eq, not_true_eq_false, or_self, if_false, List.nil_append, htry]

/-- A write that waits lets the ones behind it try. -/
theorem State.acceptWrite_passes (htry : ({ s with wrQ := r } : State).tryWrite w = none) :
    s.acceptWrite n [] (w :: r) = (s.noteFull w).1.acceptWrite n [(s.noteFull w).2] r := by
  simp only [State.acceptWrite, hboard, hn, List.any_nil, Bool.false_eq_true, ne_eq, not_true_eq_false, or_self, if_false, List.nil_append, htry]

variable (hq : s.wrQ = w :: r)
include hq

theorem exec_wcbWriteAccept_accepted {s1 : State} (htry : ({ s with wrQ := r } : State).tryWrite w = some s1) :
    exec (.wcbWriteAccept n) s = .next s1.settleHome.settle := by
  show execWcbWriteAccept n s = _
  rw [execWcbWriteAccept, stepTo_eq, hq, State.acceptWrite_takes hboard hn htry]

theorem exec_wcbWriteAccept_waits (htry : ({ s with wrQ := r } : State).tryWrite w = none) (hlast : r = []) :
    exec (.wcbWriteAccept n) s = .next ({ (s.noteFull w).1 with wrQ := [(s.noteFull w).2] } : State).settleHome.settle := by
  show execWcbWriteAccept n s = _
  rw [execWcbWriteAccept, stepTo_eq, hq, State.acceptWrite_passes hboard hn htry, hlast, State.acceptWrite]

end

/-! The way of a write (R260, R297, R304) -/

section
variable {s : State} {w : WrReq} {n : SliceId}

theorem State.tryWrite_flips (h : s.wrPlace w = .flips) : s.tryWrite w = none := by simp only [State.tryWrite, h]

theorem State.tryWrite_lost (h : s.wrPlace w = .lost) : s.tryWrite w = some (s.writeLost w.part w.owner w.obj w.record w.plain) := by
  simp only [State.tryWrite, h]

theorem State.tryWrite_home (h : s.wrPlace w = .home n) :
    s.tryWrite w = if s.homeLoad n < 512 then some (s.homeJ (hbmLine w.addr) (.jWrite w) .inv) else none := by
  simp only [State.tryWrite, h]

theorem State.tryWrite_buffer (h : s.wrPlace w = .buffer n) : s.tryWrite w = s.takeWcb n w := by simp only [State.tryWrite, h]

/-- The first wait for an entry is counted, and not again. -/
theorem State.noteFull_first (h : s.wrPlace w = .buffer n) (hfirst : w.waited = false) :
    s.noteFull w = (s.bump fJsWcbStat_FULL_WAITS n, { w with waited := true }) := by
  simp only [State.noteFull, h, hfirst]

/-- Cores may hold the line of an address: its page is tracked, and the line has an entry or an open transaction. -/
def State.lineShared (s : State) (a : Nat) : Bool :=
  s.tracked a && ((s.trOf (hbmLine a)).isSome || (s.txnOn (hbmLine a)).isSome)

section
variable {c k : Nat} (hc : s.channelOf w.addr = some (c, k))

theorem State.wrPlace_flips (hissued : w.issued = false) (hhome : w.atHome = false) (hflip : s.flipping w.addr = true) :
    s.wrPlace w = .flips := by
  simp [State.wrPlace, hflip, hissued, hhome]

variable (hflip : s.flipping w.addr = false)
include hc hflip

theorem State.wrPlace_lost (hok : s.sliceServes (Fin.ofNat 8 (c / 32)) (w.owner.bind s.serialOf) = false) : s.wrPlace w = .lost := by
  simp only [State.wrPlace, hflip, hc, hok, Bool.false_eq_true, false_and, Bool.not_false, if_false, if_true]

variable (hok : s.sliceServes (Fin.ofNat 8 (c / 32)) (w.owner.bind s.serialOf) = true) (hhome : w.atHome = false)
include hok hhome

/-- A write of a served channel goes through its line's home where cores may hold the line, and else to the buffer. -/
theorem State.wrPlace_served : s.wrPlace w =
    if s.lineShared w.addr = true then .home (Fin.ofNat 8 (c / 32)) else .buffer (Fin.ofNat 8 (c / 32)) := by
  simp only [State.wrPlace, State.lineShared, hflip, hc, hok, hhome, Bool.false_eq_true, false_and, Bool.not_true, Bool.not_false, if_false,
    true_and, Bool.and_eq_true, Bool.or_eq_true]

end

end

/-! A write that enters the buffer (R245, R248) -/

/-- A buffer whose entries are `l` once it has taken a write: copies and early work that the write covers go, and from 1,792 entries on all
are eligible. -/
def State.tookWrite (s : State) (n : SliceId) (w : WrReq) (l : List WcbEnt) : State :=
  let s1 := ({ s with wcb := l } : State).settleWcb
  let s2 := (s1.writeActs w).peak fJsWcbStat_PEAK (s1.wcbCount n) n
  (if 1792 ≤ s2.wcbCount n then s2.makeEligible fun e => decide (e.n = n) else s2).recordSeen w.part w.irq

/-- The partition that a write is charged to. -/
def WrReq.chargedTo (w : WrReq) : Option Part := if w.plain then none else some w.part

/-- A write is background traffic. -/
def State.bgWrite (s : State) (w : WrReq) : Bool := s.bgOf w.owner && decide (w.record = none)

section
variable {s : State} {n : SliceId} {w : WrReq} (hz : w.zeroLine = false)
include hz

section
variable (hnone : s.wcb.find? (fun e => e.covers (w.addr / 64) && decide (e.state ≠ .writing)) = none)
include hnone

/-- A granule without an entry takes a new one. -/
theorem State.takeWcb_opens (hroom : s.wcbCount n < 2048) :
    s.takeWcb n w = some (s.tookWrite n w (s.wcb ++
      [(⟨n, w.addr / 64, 0, 0, false, w.chargedTo, s.bgWrite w, .open_, false, 0⟩ : WcbEnt).merge (w.addr % 64) w.bytes w.poison])) := by
  simp only [State.takeWcb, hz, hnone, if_pos hroom, Bool.false_eq_true, if_false]
  rfl

/-- A full buffer takes none. -/
theorem State.takeWcb_full (hfull : 2048 ≤ s.wcbCount n) : s.takeWcb n w = none := by
  simp only [State.takeWcb, hz, hnone, if_neg (Nat.not_lt.mpr hfull), Bool.false_eq_true, if_false]

end

/-- The entry of the granule takes the write. -/
theorem State.takeWcb_merges {e : WcbEnt} (he : s.wcb.find? (fun e => e.covers (w.addr / 64) && decide (e.state ≠ .writing)) = some e)
    (hplain : e.zmask = 0) :
    s.takeWcb n w = some (s.tookWrite n w (updFirst (fun x => decide (x = e))
      (fun x => { x.merge (w.addr % 64) w.bytes w.poison with part := w.chargedTo, bg := s.bgWrite w }) s.wcb)) := by
  simp only [State.takeWcb, hz, he, if_pos hplain, Bool.false_eq_true, if_false]
  rfl

end

/-- Entries on their way to HBM take no write. -/
theorem find?_open_none {l : List WcbEnt} {g : Nat} (h : ∀ e ∈ l, e.covers g = true → e.state = .writing) :
    l.find? (fun e => e.covers g && decide (e.state ≠ .writing)) = none := by
  simpa [List.find?_eq_none] using h

/-! Merge reads (R246, R256) -/

section
variable {s : State} {n : SliceId} {g : BitVec 46}

/-- The entry of a granule in a slice, at a point of its way. -/
def State.entryAt (s : State) (n : SliceId) (g : BitVec 46) (st : WcbState) (e : WcbEnt) : Bool :=
  decide (e.n = n) && decide (e.granule = s.hbmPhys (g.toNat * 64) / 64) && decide (e.state = st)

/-- A merge read that no entry wants, or of a bank that waits, does nothing. -/
theorem exec_mergeReadReturn_idle
    (h : s.wcb.find? (s.entryAt n g .merging) = none ∨ s.bankWaits (s.hbmPhys (g.toNat * 64) / 64) = true) :
    exec (.mergeReadReturn n g) s = .next s.settle := by
  unfold State.entryAt at h
  show execMergeReadReturn n g s = _
  rw [execMergeReadReturn, stepTo_eq]
  rcases h with hnone | hwait
  · simp only [hnone]
  · simp only [hwait, if_true]
    split <;> rfl

theorem exec_mergeReadReturn_merges {e : WcbEnt} (he : s.wcb.find? (s.entryAt n g .merging) = some e)
    (hbank : s.bankWaits (s.hbmPhys (g.toNat * 64) / 64) = false) :
    exec (.mergeReadReturn n g) s =
      .next (({ s with wcb := updFirst (s.entryAt n g .merging) s.mergeEntry s.wcb } : State).bwEntry e 1).settleWcb.settle := by
  unfold State.entryAt at *
  show execMergeReadReturn n g s = _
  simp only [execMergeReadReturn, stepTo_eq, he, hbank, Bool.false_eq_true, if_false]

/-! Write-backs (R247, R249) -/

theorem exec_wcbWriteBackDone_idle {bad : Bool} (h : s.wcb.find? (s.entryAt n g .writing) = none) :
    exec (.wcbWriteBackDone n g bad) s = .next s.settle := by
  unfold State.entryAt at h
  show execWcbWriteBackDone n g s bad = _
  simp only [execWcbWriteBackDone, stepTo_eq, h]

/-- The data of an entry of one granule reach HBM, poisoned where the entry is or fails its ECC, and the entry frees. -/
theorem exec_wcbWriteBackDone_stores {e : WcbEnt} (bad : Bool) (he : s.wcb.find? (s.entryAt n g .writing) = some e) (hplain : e.zmask = 0) :
    let s0 := if bad then s.bump fJsEccStat_WCB_UNCORR n else s
    let s1 := (s0.putGran e.granule e.granBytes (e.poison || bad)).bwEntry { e with poison := e.poison || bad } 1
    exec (.wcbWriteBackDone n g bad) s =
      .next (({ s1 with wcb := eraseFirst (s.entryAt n g .writing) s1.wcb } : State).settleWcb.settleHome).settle := by
  intro s0 s1
  unfold State.entryAt at *
  show execWcbWriteBackDone n g s bad = _
  simp only [execWcbWriteBackDone, stepTo_eq, he, State.writeBackEntry, if_pos hplain]
  rfl

end

/-- A granule whose row is not being remapped is written in memory itself. -/
theorem State.putGran_unheld {s : State} {g : Nat} (bs : List Byte) (bad : Bool) (h : s.heldGran g = none) :
    s.putGran g bs bad = { s with
      mem := memPutList s.mem (g * 64) bs
      poison := if bad then insNat g s.poison else delNat g s.poison
      badReads := s.badReads.filter fun y => decide (y ≠ g) } := by
  simp only [State.putGran, h, Option.isSome_none, Bool.false_eq_true, if_false]

/-! Entries that go to HBM (R247, R256) -/

/-- A lone entry has none before it to wait for. -/
theorem startEntries_singleton (go : WcbEnt → Bool) (e : WcbEnt) :
    startEntries go [] [e] = [if go e then { e with state := .writing } else e] := by
  simp [startEntries]

section
variable {s : State} {e : WcbEnt} (hone : s.wcb = [e])
include hone

/-- A whole eligible entry goes once its pseudo-channel has turned, where its bank does not wait. -/
theorem State.settleWcb_starts (hwaits : e.waits = true) (hturn : s.turned e = true) (hbank : s.bankWaits e.granule = false) :
    s.settleWcb = { s with wcb := [{ e with state := .writing }] } := by
  simp [State.settleWcb, hone, startEntries_singleton, hwaits, hturn, hbank]

theorem State.settleWcb_stays (h : e.waits = false ∨ s.turned e = false ∨ s.bankWaits e.granule = true) : s.settleWcb = s := by
  have hgo : (e.waits && s.turned e && !(s.bankWaits e.granule)) = false := by
    rcases h with h | h | h <;> simp [h]
  rw [State.settleWcb, hone, startEntries_singleton, hgo, if_neg Bool.false_ne_true, ← hone]
  exact ite_self s

end

/-- Settles O26: how a write finds its way and enters the buffer, and how an entry ages, merges and goes to HBM, by the lemmas above. -/
theorem writeCombining : Obligations.WriteCombining := by
  unfold Obligations.WriteCombining
  refine ⟨fun s n w r hq hboard hn => ⟨fun s1 htry => exec_wcbWriteAccept_accepted hboard hn hq htry,
      fun htry hlast => exec_wcbWriteAccept_waits hboard hn hq htry hlast⟩,
    fun s w n => ⟨State.tryWrite_flips, State.tryWrite_lost, fun h hroom => (State.tryWrite_home h).trans (if_pos hroom),
      fun h hfull => (State.tryWrite_home h).trans (if_neg (Nat.not_lt.mpr hfull)), State.tryWrite_buffer, State.noteFull_first⟩, ?_, ?_,
    fun e off bs bad => rfl, fun s n g => rfl,
    fun s n g => ⟨exec_mergeReadReturn_idle, fun e he hbank => exec_mergeReadReturn_merges he hbank⟩,
    fun s e hone => ⟨State.settleWcb_starts hone, State.settleWcb_stays hone⟩,
    fun s n g bad => ⟨exec_wcbWriteBackDone_idle, fun e he hplain => exec_wcbWriteBackDone_stores bad he hplain⟩,
    fun s g bs bad h => State.putGran_unheld bs bad h⟩
  · intro s w c k hc hissued hhome n ok shared
    refine ⟨State.wrPlace_flips hissued hhome, fun hflip hok => State.wrPlace_lost hc hflip hok, fun hflip hok hsh => ?_,
      fun hflip hok hsh => ?_⟩
    · exact (State.wrPlace_served hc hflip hok hhome).trans (if_pos hsh)
    · exact (State.wrPlace_served hc hflip hok hhome).trans (if_neg (Bool.eq_false_iff.mp hsh))
  · intro s n w hz part bg accepted
    exact ⟨fun hnone => ⟨State.takeWcb_opens hz (find?_open_none hnone), State.takeWcb_full hz (find?_open_none hnone)⟩,
      fun e he hplain => State.takeWcb_merges hz he hplain⟩

end Sys2Proof.Machine
end

section
/-! PROOF. Configuration lock with the quotas of streams (O59): what CONFIG_LOCK does, and how its check fails. -/
namespace Sys2Proof.Machine

theorem valid_jeCfgLock : RegRef.valid ⟨.jeCfgLock, 0, 0⟩ := RegRef.valid_hub _ rfl (by decide)

/-- Software sets no field of JE_CFG_LOCK: a write of it leaves the register as it was. -/
theorem State.put_jeCfgLock (s : State) (v : W64) : s.put .jeCfgLock 0 v = s := by
  have hnew : s.newFields ⟨.jeCfgLock, 0, 0⟩ .full v = s.reg .jeCfgLock := BitVec.eq_of_getLsbD_eq fun n _ =>
    s.newFields_bit ⟨.jeCfgLock, 0, 0⟩ .full v n (by
      rw [RegId.fieldsAt_eq _ _ (by decide), show codeMask (RegId.fields .jeCfgLock) .rw ||| codeMask (RegId.fields .jeCfgLock) .rwl |||
        codeMask (RegId.fields .jeCfgLock) .w1c = 0#64 by decide]
      exact BitVec.getLsbD_zero)
  have hrwl : codeMask (RegId.fieldsAt .jeCfgLock 0) .rwl &&& accMask .full = 0 := by decide
  simp only [State.put, State.stored, State.storeFields, accPos, hnew, if_true, hrwl, ne_eq, not_true_eq_false, false_and, if_false]

/-- A lock that is not BUSY runs its checks on the configuration as it stands (R356). -/
theorem exec_configLock_idle {s : State} (h : s.serving) (hb : s.fld fJeCfgLock_BUSY = 0) :
    exec .configLock s = .next s.configLock.settle := by
  have hmask (w : W64) : w &&& (codeMask (RegId.fieldsAt .jeCfgLock 0) .rw ||| codeMask (RegId.fieldsAt .jeCfgLock 0) .rwl) = 0#64 := by
    rw [show codeMask (RegId.fieldsAt .jeCfgLock 0) .rw ||| codeMask (RegId.fieldsAt .jeCfgLock 0) .rwl = 0#64 by decide]
    exact BitVec.and_zero
  show stepTo (s.putKeep .jeCfgLock 0 0x8000000000000000#64) = _
  rw [State.putKeep_plain h .jeCfgLock 0 1 _ valid_jeCfgLock rfl rfl (by decide) nofun (by decide) (by simp [State.regBusy, busyOf, hb])
    (fun t old pos => rfl) (fun w => by rw [hmask]; decide) (by decide) rfl, State.put_jeCfgLock]
  rfl

theorem sumParts_eq_sum (f : Nat → Nat) : sumParts f = ((List.range 16).map f).sum := List.sum_eq_foldl.symm

/-- Quotas of streams past 128 fail the lock check, if nothing before them does, with a RESULT of its four bits that is not 0 (R196, R356). -/
theorem State.lockFault_of_streamQuota {s : State} (h : 128 < sumParts fun p => s.fld fJpStreamQuota_MIN p) :
    ∃ r p, s.lockFault = some (r, p) ∧ r ≠ 0 ∧ r < 16 := by
  rw [State.lockFault, if_pos h]
  split
  · exact ⟨8, 0, rfl, by decide, by decide⟩
  split
  · exact ⟨9, 0, rfl, by decide, by decide⟩
  split
  next p _ => exact ⟨1, p, rfl, by decide, by decide⟩
  next =>
    split
    · exact ⟨2, 0, rfl, by decide, by decide⟩
    split
    · exact ⟨3, 0, rfl, by decide, by decide⟩
    · exact ⟨4, 0, rfl, by decide, by decide⟩

/-- A configuration whose check fails stays as it is: RESULT and PART name the failure, and event 0x61 tells it (R356). -/
theorem State.configLock_fails {s : State} {r p : Nat} (h : s.lockFault = some (r, p)) :
    s.configLock = ((s.setFld fJeCfgLock_RESULT r).setFld fJeCfgLock_PART p).eventE 0x61 r p := by
  simp only [State.configLock, h]

/-- Settles O59: the check of the quotas fails, if none before it does, and a failed lock sets RESULT and PART alone. -/
theorem streamQuotaLock : Obligations.StreamQuotaLock := by
  unfold Obligations.StreamQuotaLock
  intro s h hb hsum
  obtain ⟨r, p, hfault, h0, h16⟩ := State.lockFault_of_streamQuota (sumParts_eq_sum _ ▸ hsum)
  refine ⟨(s.setFld fJeCfgLock_RESULT r).setFld fJeCfgLock_PART p, r, p, ?_, h0, ?_, ?_, fun q => ?_⟩
  · rw [exec_configLock_idle h hb, State.configLock_fails hfault]
  · calc ((s.setFld fJeCfgLock_RESULT r).setFld fJeCfgLock_PART p).fld fJeCfgLock_RESULT
        = (s.setFld fJeCfgLock_RESULT r).fld fJeCfgLock_RESULT := State.fld_setFld_of_apart _ _ _ _ rfl (by decide)
      _ = r % 2 ^ 4 := State.fld_setFld_self _ _ _ _ _ (by decide)
      _ = r := Nat.mod_eq_of_lt h16
  · have hkept := calc ((s.setFld fJeCfgLock_RESULT r).setFld fJeCfgLock_PART p).fld fJeCfgLock_LOCKED
        = (s.setFld fJeCfgLock_RESULT r).fld fJeCfgLock_LOCKED := State.fld_setFld_of_apart _ _ _ _ rfl (by decide)
      _ = s.fld fJeCfgLock_LOCKED := State.fld_setFld_of_apart _ _ _ _ rfl (by decide)
    simp only [State.locked, hkept]
  · rw [State.fld_setFld_of_ne _ _ (by simp), State.fld_setFld_of_ne _ _ (by simp)]

end Sys2Proof.Machine
end

section
/-! PROOF. Streams (O18): the start of a stream, the reads of its source, deliveries and staging reads, and catch-up readers that rejoin. -/
namespace Sys2Proof.Machine

/-- A stream without a receiver of KIND 2 runs, and claims the banks of its receivers (R201). -/
theorem exec_stream_of {s : State} {t : TrackerId} {x : Tracker} {c : StreamCmd} (hx : s.startable t 0x30 = some x)
    (hc : s.streamOf t = some c) (hkind : ∀ r ∈ c.rcvs, r.kind ≠ 2) : exec (.stream t) s = .next ((s.run t).firstClaims x c).settle := by
  have hnone : c.rcvs.find? (fun r => decide (r.kind = 2)) = none := by simpa using hkind
  show execStream t s = _
  simp only [execStream, stepTo_eq, hx, hc, hnone]

/-! Source reads (R192, R200, R336) -/

/-- Stream offset of the next line that enters slot k. -/
def StreamCmd.nextOff (c : StreamCmd) (k : Nat) : Nat := k * sSlotBytes c.desc + 64 * c.filledIn k

/-- Granules of the source line that one read brings to slot k. -/
def StreamCmd.lineGrans (c : StreamCmd) (k : Nat) : Nat :=
  min (4 - sAddr c.desc (c.nextOff k) / 64 % 4) (sPiece c.desc k (c.nextOff k) / 64)

/-- The stream of tracker t stands in range e. -/
def State.standsIn (s : State) (t : TrackerId) (e : Option RangeEnt) : State :=
  s.modStream (fun y => decide (y.t = some t)) fun y => { y with range := e }

/-- A source read of n granules has been counted, and a parity error on its way with it. -/
def State.sourceRead (s : State) (x : Tracker) (t : TrackerId) (par : Bool) (a n : Nat) : State :=
  ((if par then s.bump fJePathStat_PARITY else s).bwRead x.part (some t) a (64 * n)).jReadDone (.cmd t)

section
variable {s s1 : State} {t : TrackerId} {x : Tracker} {c : StreamCmd} {k a : Nat} {e : Option RangeEnt} (hx : s.trk t = some x)
  (hc : s.streamOf t = some c) (hk : c.fillSlot = some k) (hrun : x.phase = .running) (hm : s.mayFill c k = true)
  (hlook : s.streamLook x c.range (srcAccess x) (sAddr c.desc (c.nextOff k)) = (s1, some (a, e)))
include hx hc hk hrun hm hlook

/-- The next line of a source in remote storage is asked for by a read command. -/
theorem exec_streamSourceReturn_remote (par : Bool) (err : EccErr) (ha : physSpace a = 2) :
    exec (.streamSourceReturn t par err) s =
      .next ((s1.standsIn t e).remoteRead t none k (sPiece c.desc k (c.nextOff k)) a).settle := by
  have hgo : ¬(x.phase ≠ .running ∨ (!s.mayFill c k) = true) := by simp [hrun, hm]
  unfold StreamCmd.nextOff at hlook
  show execStreamSourceReturn t par s err = _
  simp only [execStreamSourceReturn, stepTo_eq, hx, hc, hk, if_neg hgo, hlook, if_pos ha]
  rfl

/-- The next line of a source in memory enters the slot in fill, with its poison. -/
theorem exec_streamSourceReturn_memory (par : Bool) (ha : physSpace a ≠ 2)
    (harm : ((s1.standsIn t e).sourceRead x t par a (c.lineGrans k)).armed = none) :
    let u := (s1.standsIn t e).sourceRead x t par a (c.lineGrans k)
    exec (.streamSourceReturn t par .clean) s =
      .next (u.modStream (fun y => decide (y.t = some t)) fun y => y.append k ((List.range (c.lineGrans k)).map fun i =>
        (BitVec.ofNat 512 (u.rdNat (a + 64 * i) 64), par || u.granPoison (a / 64 + i) (some x.serial))) []).settle := by
  have hgo : ¬(x.phase ≠ .running ∨ (!s.mayFill c k) = true) := by simp [hrun, hm]
  have hword := State.fifoWord_clean _ 6 x.part harm
  unfold StreamCmd.nextOff at hlook
  unfold State.sourceRead State.standsIn StreamCmd.lineGrans StreamCmd.nextOff at hword ⊢
  show execStreamSourceReturn t par s .clean = _
  simp only [execStreamSourceReturn, stepTo_eq, hx, hc, hk, if_neg hgo, hlook, if_neg ha, hword, Bool.or_false, State.putGrans]

end

/-! Deliveries (R199, R200) -/

/-- A receiver in the group whose next slot is full takes it as the staging read gives it. -/
theorem exec_streamReceiverAccept_takes {s s1 s2 : State} {t : TrackerId} {r : Fin 64} {par : Option (Fin 4096)} {fails : Bool}
    {x : Tracker} {c : StreamCmd} {v : Receiver} {sl : SSlot} {gs : List (BitVec 512 × Bool)} (hx : s.trk t = some x)
    (hc : s.streamOf t = some c) (hv : c.rcvs[r.val]? = some v) (hclaim : v.kind = 1 → v.claim ≠ none) (hrun : x.phase = .running)
    (hheld : s.claimsHeld t c = true) (hdone : v.done = false) (hready : v.readySent = false) (hslots : v.slots < sSlotCount c.desc)
    (hbound : v.atBound = false) (hdrop : v.dropped = false)
    (hsl : c.slots.find? (fun sl => decide (sl.k = v.slots) && sl.full c.desc) = some sl)
    (hread : s.stagingRead x c r v sl par fails = (s1, some gs))
    (hgive : s1.deliverSlot x c.desc v (v.slots * sSlotBytes c.desc) gs = (s2, true)) :
    exec (.streamReceiverAccept t r par fails) s = .next (s2.accepted x r.val v gs).settle := by
  have hclaimed : (decide (v.kind = 1) && decide (v.claim = none)) = false := by simpa using hclaim
  have hgo : ¬(x.phase ≠ .running ∨ (!s.claimsHeld t c) = true ∨ v.done = true ∨ v.readySent = true ∨ sSlotCount c.desc ≤ v.slots ∨
      v.atBound = true) := by simp [hrun, hheld, hdone, hready, hbound, hslots]
  show execStreamReceiverAccept t r s par fails = _
  simp only [execStreamReceiverAccept, stepTo_eq, hx, hc, hv, Option.any_some, hclaimed, Bool.false_eq_true, if_false, Option.getD_some,
    if_neg hgo, hdrop, hsl, hread, hgive]

/-- Line j of a slot has met a parity error for receiver i, and its n granules are read from the source once more. -/
def State.rereads (s : State) (x : Tracker) (i : Fin 64) (k j n : Nat) : State :=
  ((s.modRcv x.id i.val fun r => { r with again := some j }).bump fJePathStat_PARITY).fetchFor x i k (4 * j) n 4

section
variable {s : State} {x : Tracker} {c : StreamCmd} {i : Fin 64} {v : Receiver} {sl : SSlot} {fails : Bool} (hv : v.again = none)
include hv

/-- A staging read without an error gives the slot as it stands. -/
theorem State.stagingRead_clean : s.stagingRead x c i v sl none fails = (s, some (sl.data.zip sl.poison)) := by
  simp [State.stagingRead, hv]

/-- A line of the slot in error is replaced by what its source gives a second time, poisoned where that read fails too (R200). -/
theorem State.stagingRead_again {j : Fin 4096} (hj : 4 * j.val < (sl.data.zip sl.poison).length) :
    let n := min 4 (sSlotGrans c.desc sl.k - 4 * j.val)
    let u := s.rereads x i sl.k j n
    n ≤ (u.bufOf x.id i).length → s.stagingRead x c i v sl (some j) fails = (if fails then u.bump fJePathStat_PARITY else u,
      some ((sl.data.zip sl.poison).take (4 * j.val) ++ (u.bufOf x.id i).map (fun g => (g.1, g.2 || fails)) ++
        (sl.data.zip sl.poison).drop (4 * j.val + n))) := by
  intro n u hline
  have hall : ¬(u.bufOf x.id i).length < n := Nat.not_lt.mpr hline
  unfold u State.rereads n at hall ⊢
  simp only [State.stagingRead, hv, if_pos hj, Option.isSome_some, if_true, Option.none_or, if_neg hall]

end

/-- A dropped receiver at the end of a slot rejoins its group where its next slot is held, and goes on reading where it is not (R206). -/
theorem exec_catchupSlotBoundary_of {s : State} {t : TrackerId} {r : Fin 64} {x : Tracker} {c : StreamCmd} {v : Receiver}
    (hx : s.trk t = some x) (hc : s.streamOf t = some c) (hv : c.rcvs[r.val]? = some v) (hdrop : v.dropped = true)
    (hbound : v.atBound = true) :
    exec (.catchupSlotBoundary t r) s = .next (if c.slots.any (fun sl => decide (sl.k = v.slots)) then
        (s.modRcv t r.val fun y => { y with dropped := false, reader := false, atBound := false }).bump fJpStreamStat_REJOINS x.part.val
      else s.modRcv t r.val fun y => { y with atBound := false }).settle := by
  have hgo : ¬((!v.dropped) = true ∨ (!v.atBound) = true) := by simp [hdrop, hbound]
  show execCatchupSlotBoundary t r s = _
  simp only [execCatchupSlotBoundary, stepTo_eq, hx, hc, hv, if_neg hgo]

/-- Settles O18: a stream's start, its source reads, its deliveries and staging reads, and its rejoining receivers, by the lemmas above. -/
theorem streams : Obligations.Streams := by
  unfold Obligations.Streams
  refine ⟨fun s t x c hx hc hkind => exec_stream_of hx hc hkind, ?_,
    fun s s1 s2 t r par fails x c v sl gs hx hc hv hclaim hrun hheld hdone hready hslots hbound hdrop hsl hread hgive =>
      exec_streamReceiverAccept_takes hx hc hv hclaim hrun hheld hdone hready hslots hbound hdrop hsl hread hgive,
    fun s x c i v sl fails hv => ⟨State.stagingRead_clean hv, fun j hj => State.stagingRead_again hv hj⟩,
    fun s t r x c v hx hc hv hdrop hbound => exec_catchupSlotBoundary_of hx hc hv hdrop hbound⟩
  intro s s1 t par x c k a e hx hc hk hrun hm o pa hlook s2
  exact ⟨fun err ha => exec_streamSourceReturn_remote hx hc hk hrun hm hlook par err ha,
    fun ha harm => exec_streamSourceReturn_memory hx hc hk hrun hm hlook par ha harm⟩

end Sys2Proof.Machine
end

section
/-! PROOF. Moves of objects (O24): a move's start, the copy of a chunk, the opening of a copied chunk, and the end of a move. -/
namespace Sys2Proof.Machine

/-- What a move waits for: some partition has a transfer on its way that was translated for the spans (R223, R282). -/
theorem State.any_inTransit_iff (s : State) (spans : List (Nat × Nat)) :
    (List.finRange 16).any (fun p => s.inTransit p spans) = true ↔ ∃ p : Part, s.inTransit p spans = true := by
  simp only [List.any_eq_true, List.mem_finRange, true_and]

theorem State.not_any_inTransit {s : State} {spans : List (Nat × Nat)} (h : ∀ p : Part, s.inTransit p spans = false) :
    ¬(List.finRange 16).any (fun p => s.inTransit p spans) = true := by
  rw [State.any_inTransit_iff]
  rintro ⟨p, hp⟩
  exact Bool.false_ne_true ((h p).symm.trans hp)

/-- A move starts with the copy of its first chunk (R223). -/
theorem exec_objectMove_of {s : State} {t : TrackerId} {x : Tracker} {o : Obj} (hx : s.startable t 0x41 = some x)
    (ho : s.obj x.part (cObject x.cmd) = some o) :
    let m : Move := ⟨t, x.part, cObject x.cmd, 0, false, false, s.objPhys o, 0, []⟩
    exec (.objectMove t) s =
      .next ((({ s.run t with objMoves := s.objMoves ++ [m] } : State).modObj x.part (cObject x.cmd) id).copyChunk m o).settle := by
  show execObjectMove t s = _
  simp only [execObjectMove, stepTo_eq, hx, ho]

/-! Copies (R223, R227) -/

section
variable {s : State} {m : Move} {o : Obj}

/-- The bytes that the chunk in turn has at its old place. -/
def Move.chunkSpan (m : Move) (o : Obj) : List (Nat × Nat) := [(m.old + m.chunk * 2 ^ 21, o.chunkLen m.chunk)]

/-- A chunk waits while something translated for it is on its way; what the Rake holds for it has gone on. -/
theorem State.copyChunk_waits (h : ∃ p : Part, (s.flushSpans (m.chunkSpan o)).inTransit p (m.chunkSpan o) = true) :
    s.copyChunk m o = s.flushSpans (m.chunkSpan o) := by
  rw [← State.any_inTransit_iff, Move.chunkSpan] at h
  rw [State.copyChunk, if_pos h, Move.chunkSpan]

/-- A chunk with nothing on its way is copied granule by granule, poison with it, and its writes are issued. -/
theorem State.copyChunk_copies (h : ∀ p : Part, (s.flushSpans (m.chunkSpan o)).inTransit p (m.chunkSpan o) = false) :
    let src := m.old + m.chunk * 2 ^ 21
    let dst := o.target.toNat + m.chunk * 2 ^ 21
    let s0 := s.flushSpans (m.chunkSpan o)
    s.copyChunk m o =
      ((List.range (o.chunkLen m.chunk / 64)).foldl (fun (u : State) k =>
        let v := u.issueWrite (dst + 64 * k) (s0.rdBytes (src + 64 * k) 64) (s0.granPoison (src / 64 + k)) m.part (some m.t) m.handle
        if s0.granPoison (src / 64 + k) then v.poisonCmd m.t else v) s0).modObjMove m.t fun y => { y with issued := true } := by
  replace h := State.not_any_inTransit h
  rw [Move.chunkSpan] at h
  rw [State.copyChunk, if_neg h, Move.chunkSpan]

end

section
variable {s : State} {t : TrackerId} {m : Move} {x : Tracker} {o : Obj}
  (hm : s.objMoves.find? (fun m => decide (m.t = t)) = some m) (hx : s.trk t = some x) (ho : s.obj m.part m.handle = some o)

include hm in
/-- A move found by a tracker is the move of that tracker. -/
theorem State.t_of_find_objMoves : m.t = t := by
  simpa using List.find?_some hm

include hm hx ho

/-! Chunks that open (R223, R225, R227) -/

/-- Until its range is retargeted, a move copies its chunk, waits for its writes, stops on a lost one, or opens the chunk and goes on. -/
theorem exec_objectMoveChunkDone_of (hfin : m.finishing = false) :
    exec (.objectMoveChunkDone t) s = .next (
      if !m.issued then s.copyChunk m o
      else if s.outstanding t then s
      else if x.marks.lost then s.stopMove m
      else
        let m1 : Move := { m with chunk := m.chunk + 1, issued := false }
        let s2 := (s.openChunk m o).modObjMove t fun _ => m1
        if m1.chunk < o.chunks then s2.copyChunk m1 o else s2.retarget m1 o).settle := by
  have hgo : ¬m.finishing = true := by simp [hfin]
  show execObjectMoveChunkDone t s = _
  simp only [execObjectMoveChunkDone, stepTo_eq, hm, hx, ho, if_neg hgo]

/-! The end of a move (R223, R272) -/

/-- A move whose range is not retargeted yet goes on as it stands. -/
theorem exec_objectMoveFinish_early (hfin : m.finishing = false) : exec (.objectMoveFinish t) s = .next s.settle := by
  show execObjectMoveFinish t s = _
  simp only [execObjectMoveFinish, stepTo_eq, hm, hx, ho, hfin, Bool.not_false, if_true]

/-- A retargeted move waits for what was translated under the old mapping, or reads the entry again and is done. -/
theorem exec_objectMoveFinish_of (hfin : m.finishing = true) :
    let s1 := s.flushSpans m.spans
    exec (.objectMoveFinish t) s = .next (
      if (List.finRange 16).any (fun p => s1.inTransit p m.spans) then s1
      else (({ (s1.reread m.part o.range m.gen).1 with objMoves := s1.objMoves.filter fun y => decide (y.t ≠ t) } : State).modObj m.part
        m.handle fun y => { y with moving := false, tier := cTier x.cmd }).finish t).settle := by
  show execObjectMoveFinish t s = _
  simp only [execObjectMoveFinish, stepTo_eq, hm, hx, ho, hfin, Bool.not_true, Bool.false_eq_true, if_false]

end

/-- Settles O24: a move's start, the copy of a chunk, the opening of a copied one, the new range, and the end of a move, by the lemmas above. -/
theorem objectMoves : Obligations.ObjectMoves := by
  unfold Obligations.ObjectMoves
  refine ⟨fun s t x o hx ho => exec_objectMove_of hx ho, fun s m o => ⟨State.copyChunk_waits, State.copyChunk_copies⟩, ?_,
    fun s m o => rfl, ?_⟩
  · intro s t m x o hm hx ho hfin
    have key := exec_objectMoveChunkDone_of hm hx ho hfin
    obtain rfl := State.t_of_find_objMoves hm
    refine ⟨fun hi => ?_, fun hi hout => ?_, fun hi hout hlost => ?_, fun hi hout hlost => ?_⟩ <;>
      simp only [hi, Bool.not_false, Bool.not_true, Bool.false_eq_true, if_false, if_true] at key
    · exact key
    · rwa [if_pos hout] at key
    · rwa [if_neg (by simp [hout]), if_pos hlost] at key
    · rwa [if_neg (by simp [hout]), if_neg (by simp [hlost])] at key
  · intro s t m x o hm hx ho s1 s2
    refine ⟨exec_objectMoveFinish_early hm hx ho, fun hfin hwait => ?_, fun hfin hnone => ?_⟩ <;>
      rw [exec_objectMoveFinish_of hm hx ho hfin]
    · rw [if_pos ((State.any_inTransit_iff _ _).mpr hwait)]
    · rw [if_neg (State.not_any_inTransit hnone)]
      rfl

end Sys2Proof.Machine
end

section
/-! PROOF. Memory (O55) and the interleave (O57): bytes written in a row read back, canonical memories with the same contents are the same,
and lines and places of mapped channels answer each other one to one. -/
namespace Sys2Proof.Machine

/-! Bytes written in a row (R247) -/

/-- Bytes written in a row leave every byte before and behind them. -/
theorem memGet_memPutList_outside {m : List Host.Cell} {a x : Nat} {bs : List Byte} (h : Memory.wf m) (hx : x < a ∨ a + bs.length ≤ x) :
    memGet (memPutList m a bs) x = memGet m x := by
  induction bs generalizing m a with
  | nil => rfl
  | cons b r ih =>
    rw [List.length_cons] at hx
    calc memGet (memPutList (memPut m a b) (a + 1) r) x = memGet (memPut m a b) x := ih (Memory.wf_memPut a b h) (by omega)
      _ = memGet m x := memGet_memPut_ne b h (by omega)

/-- Bytes written in a row read back. -/
theorem memGet_memPutList_inside {m : List Host.Cell} {a k : Nat} {bs : List Byte} {b : Byte} (h : Memory.wf m) (hk : bs[k]? = some b) :
    memGet (memPutList m a bs) (a + k) = b := by
  induction bs generalizing m a k with
  | nil => simp at hk
  | cons c r ih =>
    have hwf := Memory.wf_memPut a c h
    cases k with
    | zero =>
      obtain rfl : c = b := by simpa using hk
      exact (memGet_memPutList_outside hwf (.inl (Nat.lt_succ_self a))).trans (memGet_memPut_self a c h)
    | succ k =>
      rw [show a + (k + 1) = a + 1 + k by omega]
      exact ih hwf (by simpa using hk)

/-! The canonical form (log entry 5) -/

theorem memGet_cons_of_lt {k x : Nat} (v : Byte) (r : List Host.Cell) (h : k < x) : memGet ((k, v) :: r) x = memGet r x := by
  rw [memGet, if_neg (by omega), if_neg (by omega)]

/-- What a canonical memory holds behind its first cell reads as unwritten up to that cell. -/
theorem Memory.memGet_tail_of_le {c : Host.Cell} {r : List Host.Cell} {x : Nat} (h : Memory.wf (c :: r)) (hx : x ≤ c.1) :
    memGet r x = unwritten :=
  memGet_of_lt fun y hy => Nat.lt_of_le_of_lt hx ((List.pairwise_cons.mp h.1).1 y hy)

/-- A memory with the contents of a canonical one has its first cell no later. -/
theorem Memory.head_le_of_same {c c' : Host.Cell} {r r' : List Host.Cell} (h : Memory.wf (c :: r))
    (hsame : ∀ x, memGet (c' :: r') x = memGet (c :: r) x) : c'.1 ≤ c.1 := by
  by_contra hlt
  have hread : memGet (c :: r) c.1 = c.2 := by simp [memGet]
  have hnone : memGet (c' :: r') c.1 = unwritten := by
    rw [memGet, if_neg (by omega), if_pos (by omega)]
  exact h.2 c List.mem_cons_self (by rw [← hread, ← hsame, hnone])

/-- Canonical memories with the same contents are the same data. -/
theorem Memory.eq_of_same {m m' : List Host.Cell} (h : Memory.wf m) (h' : Memory.wf m') (hsame : ∀ x, memGet m' x = memGet m x) : m' = m := by
  induction m generalizing m' with
  | nil =>
    cases m' with
    | nil => rfl
    | cons c r =>
      have hread := hsame c.1
      simp only [memGet, if_true] at hread
      exact absurd hread (h'.2 c List.mem_cons_self)
  | cons c r ih =>
    cases m' with
    | nil =>
      have hread := hsame c.1
      simp only [memGet, if_true] at hread
      exact absurd hread.symm (h.2 c List.mem_cons_self)
    | cons c' r' =>
      obtain ⟨k, v⟩ := c
      obtain ⟨k', v'⟩ := c'
      obtain rfl : k' = k := Nat.le_antisymm (Memory.head_le_of_same h hsame) (Memory.head_le_of_same h' fun x => (hsame x).symm)
      obtain rfl : v' = v := by simpa [memGet] using hsame k'
      have htail : ∀ x, memGet r' x = memGet r x := fun x => by
        rcases Nat.lt_or_ge k' x with hx | hx
        · rw [← memGet_cons_of_lt v' r' hx, ← memGet_cons_of_lt v' r hx, hsame]
        · rw [Memory.memGet_tail_of_le h' hx, Memory.memGet_tail_of_le h hx]
      rw [ih (Memory.wf_tail h) (Memory.wf_tail h') htail]

/-- Settles O55: bytes in a row by the writes of single bytes, and the canonical form by its first cells. -/
theorem memoryCells : Obligations.MemoryCells := by
  unfold Obligations.MemoryCells
  exact fun m a bs h => ⟨Memory.wf_memPutList a bs h, fun k b hk => memGet_memPutList_inside h hk,
    fun x hx => memGet_memPutList_outside h hx, fun m' h' hsame => Memory.eq_of_same h h' hsame⟩

/-! The interleave (R241) -/

/-- The fold of R241 of a line's index in its channel. -/
def lineHash (m : Nat) : Nat := (m ^^^ (m >>> 8) ^^^ (m >>> 16) ^^^ (m >>> 24)) % 256

section
variable {mapped : List Nat} (hne : mapped ≠ [])
include hne

theorem hashLine_of_mapped (L : Nat) : hashLine mapped L =
    (mapped[(L % mapped.length + lineHash (L / mapped.length)) % mapped.length]?).map fun g => (g, L / mapped.length) := by
  have hn : mapped.length ≠ 0 := by simpa using hne
  simp only [hashLine, if_neg hn, lineHash]

/-- A line lies at index m of channel g: m is its number over the number of channels, and the hash picks g. -/
theorem hashLine_eq_some_iff {L g m : Nat} : hashLine mapped L = some (g, m) ↔
    L / mapped.length = m ∧ mapped[(L % mapped.length + lineHash m) % mapped.length]? = some g := by
  rw [hashLine_of_mapped hne, Option.map_eq_some_iff]
  constructor
  · rintro ⟨g', hg, heq⟩
    obtain ⟨rfl, rfl⟩ := Prod.mk.inj heq
    exact ⟨rfl, hg⟩
  · rintro ⟨rfl, hg⟩
    exact ⟨g, hg, rfl⟩

/-- No two lines lie in the same place. -/
theorem hashLine_inj (hnd : mapped.Nodup) {L L' : Nat} {y : Nat × Nat} (h : hashLine mapped L = some y) (h' : hashLine mapped L' = some y) :
    L = L' := by
  obtain ⟨g, m⟩ := y
  obtain ⟨hm, hg⟩ := (hashLine_eq_some_iff hne).mp h
  obtain ⟨hm', hg'⟩ := (hashLine_eq_some_iff hne).mp h'
  have hpos : 0 < mapped.length := List.length_pos_iff.mpr hne
  have hplace : L % mapped.length + lineHash m ≡ L' % mapped.length + lineHash m [MOD mapped.length] :=
    (List.getElem?_inj (Nat.mod_lt _ hpos) hnd).mp (hg.trans hg'.symm)
  have hrem : L % mapped.length = L' % mapped.length := by
    simpa [Nat.ModEq] using Nat.ModEq.add_right_cancel' (lineHash m) hplace
  rw [← Nat.div_add_mod L mapped.length, ← Nat.div_add_mod L' mapped.length, hm, hm', hrem]

/-- Every place of a mapped channel holds a line: the hash taken back from the channel's position. -/
theorem hashLine_surj {g : Nat} (hg : g ∈ mapped) (m : Nat) : ∃ L, hashLine mapped L = some (g, m) := by
  obtain ⟨i, hi, rfl⟩ := List.mem_iff_getElem.mp hg
  have hpos : 0 < mapped.length := List.length_pos_iff.mpr hne
  refine ⟨mapped.length * m + (i + (mapped.length - lineHash m % mapped.length)) % mapped.length, (hashLine_eq_some_iff hne).mpr ⟨?_, ?_⟩⟩
  · rw [Nat.mul_add_div hpos, Nat.div_eq_of_lt (Nat.mod_lt _ hpos), Nat.add_zero]
  · have hback : mapped.length - lineHash m % mapped.length + lineHash m ≡ 0 [MOD mapped.length] := by
      have hlt := Nat.mod_lt (lineHash m) hpos
      calc mapped.length - lineHash m % mapped.length + lineHash m
          ≡ mapped.length - lineHash m % mapped.length + lineHash m % mapped.length [MOD mapped.length] :=
            Nat.ModEq.add_left _ (Nat.mod_modEq _ _).symm
        _ = mapped.length := by omega
        _ ≡ 0 [MOD mapped.length] := by simp [Nat.ModEq]
    have hplace : ((mapped.length * m + (i + (mapped.length - lineHash m % mapped.length)) % mapped.length) % mapped.length + lineHash m) %
        mapped.length = i := by
      rw [Nat.mul_add_mod, Nat.mod_mod, Nat.mod_add_mod, Nat.add_assoc]
      exact Eq.trans (Nat.ModEq.add_left i hback) (Nat.mod_eq_of_lt hi)
    rw [hplace, List.getElem?_eq_getElem hi]

end

/-- Settles O57: the channel by the hash, lines of one place by the order of the mapped channels, and a line for each place. -/
theorem linesInterleaved : Obligations.LinesInterleaved := by
  unfold Obligations.LinesInterleaved
  exact fun mapped hnd hne => ⟨hashLine_of_mapped hne, fun L L' y => hashLine_inj hne hnd, fun g hg m => hashLine_surj hne hg m⟩

end Sys2Proof.Machine
end

section
/-! PROOF. Write-backs (O56): what the memory holds after a granule is written, the granules of an entry of the write-combining buffer, and
reads before and after the entry has gone to HBM. -/
namespace Sys2Proof.Machine

/-! Bytes of a number -/

theorem getElem?_leBytes {n k : Nat} (v : Nat) (h : k < n) : (leBytes n v)[k]? = some (BitVec.ofNat 8 (v >>> (8 * k))) := by
  induction n generalizing k v with
  | zero => omega
  | succ n ih =>
    cases k with
    | zero => rfl
    | succ k =>
      rw [leBytes, List.getElem?_cons_succ, ih _ (by omega), show 8 * (k + 1) = 8 + 8 * k by omega, Nat.shiftRight_add,
        Nat.shiftRight_eq_div_pow v 8]

@[simp] theorem length_leBytes (n v : Nat) : (leBytes n v).length = n := by
  induction n generalizing v with
  | zero => rfl
  | succ n ih => rw [leBytes, List.length_cons, ih]

theorem leNat_leBytes (n v : Nat) : leNat (leBytes n v) = v % 2 ^ (8 * n) := by
  induction n generalizing v with
  | zero => simp [leBytes, leNat, Nat.mod_one]
  | succ n ih => rw [leBytes, leNat, ih, BitVec.toNat_ofNat, Nat.mul_succ, Nat.add_comm, Nat.add_comm (8 * n), Nat.pow_add, Nat.mod_mul, Nat.add_comm]

/-- The bytes of a word make it up. -/
theorem ofNat_leNat_leBytes (n : Nat) (d : BitVec (8 * n)) : BitVec.ofNat (8 * n) (leNat (leBytes n d.toNat)) = d := by
  rw [leNat_leBytes, Nat.mod_eq_of_lt d.isLt, BitVec.ofNat_toNat, BitVec.setWidth_eq]

theorem leBytes_zero (n : Nat) : leBytes n 0 = List.replicate n 0 := by
  induction n with
  | zero => rfl
  | succ n ih => rw [leBytes, Nat.zero_div, ih, List.replicate_succ]; rfl

/-- Byte `a` of the granule it lies in. -/
def granByte (d : BitVec 512) (a : Nat) : Byte := BitVec.ofNat 8 (d.toNat >>> (8 * (a % 64)))

theorem memGet_granule {m : List Host.Cell} (h : Memory.wf m) (d : BitVec 512) (a : Nat) :
    memGet (memPutList m (a / 64 * 64) (leBytes 64 d.toNat)) a = granByte d a := by
  have hread := memGet_memPutList_inside (a := a / 64 * 64) h (getElem?_leBytes d.toNat (Nat.mod_lt a (by decide : 0 < 64)))
  rwa [Nat.div_add_mod'] at hread

/-! Sets of granules -/

theorem mem_insNat {a b : Nat} {l : List Nat} : b ∈ insNat a l ↔ b = a ∨ b ∈ l := by
  induction l with
  | nil => simp [insNat]
  | cons k r ih =>
    rw [insNat]
    split_ifs with hlt heq
    · rw [List.mem_cons]
    · subst heq
      simp
    · rw [List.mem_cons, ih, List.mem_cons]
      tauto

/-! Row hold buffers (R256) -/

/-- What a row hold buffer holds of a granule. -/
def RowHold.gran (h : RowHold) (g : Nat) : Option (BitVec 512 × Bool) := (h.grans.find? fun x => decide (x.1 = g)).map (·.2)

/-- A granule of a row hold buffer, as a write of granule g leaves it. -/
def putHeld (g : Nat) (bs : List Byte) (bad : Bool) (x : Nat × BitVec 512 × Bool) : Nat × BitVec 512 × Bool :=
  if x.1 = g then (g, BitVec.ofNat 512 (leNat bs), bad) else x

theorem putHeld_fst (g : Nat) (bs : List Byte) (bad : Bool) (x : Nat × BitVec 512 × Bool) : (putHeld g bs bad x).1 = x.1 := by
  unfold putHeld
  split
  next h => exact h.symm
  next => rfl

/-- A row hold buffer after a write of a granule. -/
def RowHold.put (h : RowHold) (g : Nat) (bs : List Byte) (bad : Bool) : RowHold := { h with grans := h.grans.map (putHeld g bs bad) }

theorem RowHold.gran_put (h : RowHold) (g g' : Nat) (bs : List Byte) (bad : Bool) :
    (h.put g bs bad).gran g' = (h.gran g').map fun d => if g' = g then (BitVec.ofNat 512 (leNat bs), bad) else d := by
  have hkey : (fun x : Nat × BitVec 512 × Bool => decide (x.1 = g')) ∘ putHeld g bs bad = fun x => decide (x.1 = g') :=
    funext fun x => by rw [Function.comp_apply, putHeld_fst]
  rw [RowHold.gran, RowHold.put, List.find?_map, hkey, RowHold.gran, Option.map_map, Option.map_map]
  refine Option.map_congr fun x hx => ?_
  obtain rfl : x.1 = g' := by simpa using List.find?_some hx
  simp only [Function.comp_apply, putHeld]
  split <;> rfl

/-! One granule is written (R243, R244, R256) -/

section
variable {s : State} {g : Nat} {bs : List Byte} {bad : Bool}

theorem State.putGran_held (h : (s.heldGran g).isSome = true) :
    s.putGran g bs bad = { s with rowHolds := s.rowHolds.map fun y => y.put g bs bad } := by
  rw [State.putGran, if_pos h]
  rfl

/-- A write of a granule changes memory, what of it is poisoned or found uncorrectable, and the row hold buffers alone. -/
theorem State.putGran_eq (s : State) (g : Nat) (bs : List Byte) (bad : Bool) : s.putGran g bs bad = { s with
    mem := (s.putGran g bs bad).mem, poison := (s.putGran g bs bad).poison, badReads := (s.putGran g bs bad).badReads
    rowHolds := (s.putGran g bs bad).rowHolds } := by
  unfold State.putGran
  split <;> rfl

theorem memOk_putGran (h : memOk s) : memOk (s.putGran g bs bad) := by
  rw [State.putGran]
  split
  · exact h
  · exact Memory.wf_memPutList _ _ h

/-- A held granule takes what is written to it, and every other one stays as it was, held or not. -/
theorem State.heldGran_putGran (g' : Nat) :
    (s.putGran g bs bad).heldGran g' = (s.heldGran g').map fun d => if g' = g then (BitVec.ofNat 512 (leNat bs), bad) else d := by
  cases h : s.heldGran g with
  | some d =>
    rw [State.putGran_held (by rw [h]; rfl)]
    show (s.rowHolds.map fun y => y.put g bs bad).findSome? (fun y => y.gran g') = (s.rowHolds.findSome? fun y => y.gran g').map _
    rw [List.findSome?_map, List.map_findSome?]
    exact congrArg (fun f => s.rowHolds.findSome? f) (funext fun y => RowHold.gran_put y g g' bs bad)
  | none =>
    have hkept : (s.putGran g bs bad).heldGran g' = s.heldGran g' := by rw [State.putGran_unheld bs bad h]; rfl
    rw [hkept]
    by_cases hg : g' = g
    · rw [hg, h]
      rfl
    · simp only [if_neg hg, Option.map_id']

/-- A write of a granule leaves the memory's bytes of every other one. -/
theorem State.memGet_putGran_other (h : memOk s) (hlen : bs.length = 64) {a : Nat} (ha : a / 64 ≠ g) :
    memGet (s.putGran g bs bad).mem a = memGet s.mem a := by
  rw [State.putGran]
  split
  · rfl
  · exact memGet_memPutList_outside h (by omega)

theorem State.putGran_unheld_mem (hheld : s.heldGran g = none) : (s.putGran g bs bad).mem = memPutList s.mem (g * 64) bs := by
  rw [State.putGran_unheld _ _ hheld]

/-- A byte of a granule that is written is the written one, wherever the granule stands; every other byte stays. -/
theorem State.storedByte_putGran (h : memOk s) (d : BitVec 512) (a : Nat) :
    (s.putGran g (leBytes 64 d.toNat) bad).storedByte a = if a / 64 = g then granByte d a else s.storedByte a := by
  rw [State.storedByte, State.storedByte, State.heldGran_putGran]
  cases hheld : s.heldGran (a / 64) with
  | some x =>
    simp only [Option.map_some]
    split
    · rw [ofNat_leNat_leBytes 64 d]
      rfl
    · rfl
  | none =>
    simp only [Option.map_none]
    split
    next hg =>
      subst hg
      rw [State.putGran_unheld_mem hheld]
      exact memGet_granule h d a
    next hg => exact State.memGet_putGran_other h (length_leBytes _ _) hg

/-- A granule that is written has the poison of the write; every other granule stays. -/
theorem State.storedPoison_putGran (g' : Nat) :
    (s.putGran g bs bad).storedPoison g' = if g' = g then bad else s.storedPoison g' := by
  rw [State.storedPoison, State.storedPoison, State.heldGran_putGran]
  cases hheld : s.heldGran g' with
  | some x =>
    simp only [Option.map_some]
    split <;> rfl
  | none =>
    simp only [Option.map_none]
    split
    next hg =>
      subst hg
      rw [State.putGran_unheld _ _ hheld]
      cases bad <;> simp [mem_insNat, delNat]
    next hg =>
      rw [State.putGran]
      split
      · rfl
      · cases bad <;> simp [mem_insNat, delNat, hg]

end

/-! The granules of an entry (R247, R248) -/

/-- The granules that a write-back of an entry writes. -/
def WcbEnt.grans (e : WcbEnt) : List Nat :=
  if e.zmask = 0 then [e.granule] else ((List.range 4).filter fun k => e.zmask.getLsbD k).map (e.granule / 4 * 4 + ·)

/-- They are those that it covers. -/
theorem WcbEnt.mem_grans {e : WcbEnt} {g : Nat} : g ∈ e.grans ↔ e.covers g = true := by
  rw [WcbEnt.grans, WcbEnt.covers]
  split
  · simp [eq_comm]
  · simp only [List.mem_map, List.mem_filter, List.mem_range, Bool.and_eq_true, decide_eq_true_eq]
    constructor
    · rintro ⟨k, ⟨hk, hbit⟩, rfl⟩
      exact ⟨by omega, by rwa [show (e.granule / 4 * 4 + k) % 4 = k by omega]⟩
    · rintro ⟨hline, hbit⟩
      exact ⟨g % 4, ⟨Nat.mod_lt _ (by decide), hbit⟩, by omega⟩

/-- A write of some granules with the same data. -/
def State.writeGrans (s : State) (gs : List Nat) (d : BitVec 512) (bad : Bool) : State :=
  gs.foldl (fun (u : State) g => u.putGran g (leBytes 64 d.toNat) bad) s

section
variable {s : State} {d : BitVec 512} {bad : Bool}

theorem memOk_writeGrans (h : memOk s) (gs : List Nat) : memOk (s.writeGrans gs d bad) :=
  List.foldlRecOn gs _ h fun _ hu _ _ => memOk_putGran hu

theorem State.storedByte_writeGrans (h : memOk s) (gs : List Nat) (a : Nat) :
    (s.writeGrans gs d bad).storedByte a = if a / 64 ∈ gs then granByte d a else s.storedByte a := by
  induction gs generalizing s with
  | nil => rfl
  | cons g r ih =>
    rw [State.writeGrans, List.foldl_cons, ← State.writeGrans, ih (memOk_putGran h), State.storedByte_putGran h]
    by_cases hr : a / 64 ∈ r <;> simp [hr]

theorem State.storedPoison_writeGrans (gs : List Nat) (g : Nat) :
    (s.writeGrans gs d bad).storedPoison g = if g ∈ gs then bad else s.storedPoison g := by
  induction gs generalizing s with
  | nil => rfl
  | cons g' r ih =>
    rw [State.writeGrans, List.foldl_cons, ← State.writeGrans, ih, State.storedPoison_putGran]
    by_cases hr : g ∈ r <;> simp [hr]

/-- What a write of granules leaves alone: all but memory, its poison and the row hold buffers. -/
theorem State.writeGrans_keeps {γ : Type} (f : State → γ)
    (hf : ∀ (u : State) m p b r, f { u with mem := m, poison := p, badReads := b, rowHolds := r } = f u) (gs : List Nat) :
    f (s.writeGrans gs d bad) = f s :=
  foldl_keeps _ f (fun _ _ => by rw [State.putGran_eq]; exact hf _ _ _ _ _) gs s

end

section
variable {s : State} {e : WcbEnt} (hzero : e.zmask ≠ 0 → e.data = 0)
include hzero

theorem State.writeBackEntry_eq : s.writeBackEntry e = s.writeGrans e.grans e.data e.poison := by
  rw [State.writeBackEntry, State.writeGrans, WcbEnt.grans]
  split
  · rfl
  next hz =>
    have hdata : e.data.toNat = 0 := (congrArg BitVec.toNat (hzero hz)).trans BitVec.toNat_zero
    rw [hdata, leBytes_zero, List.foldl_map, List.foldl_filter]

end

/-! Reads through the buffer (R246) -/

/-- Entries that do not cover a granule show no byte of it. -/
theorem wcbByte_uncovered {l : List WcbEnt} {a : Nat} (h : ∀ f ∈ l, f.covers (a / 64) = false) (old : Byte) : wcbByte l a old = old := by
  rw [wcbByte]
  refine List.foldlRecOn (motive := fun b => b = old) l _ rfl fun b hb f hf => ?_
  rw [h f hf, if_neg (by simp), hb]

theorem wcbByte_append (l r : List WcbEnt) (a : Nat) (old : Byte) : wcbByte (l ++ r) a old = wcbByte r a (wcbByte l a old) :=
  List.foldl_append

theorem wcbByte_cons (e : WcbEnt) (r : List WcbEnt) (a : Nat) (old : Byte) : wcbByte (e :: r) a old =
    wcbByte r a (if e.covers (a / 64) ∧ e.mask.getLsbD (a % 64) then granByte e.data a else old) := rfl

/-- The poison of a granule that entries of the buffer lie over. -/
def wcbPoison (l : List WcbEnt) (g : Nat) (old : Bool) : Bool :=
  (l.filter fun e => e.covers g).foldl (fun b e => if e.mask = BitVec.allOnes 64 then e.poison else b || e.poison) old

theorem wcbPoison_append (l r : List WcbEnt) (g : Nat) (old : Bool) : wcbPoison (l ++ r) g old = wcbPoison r g (wcbPoison l g old) := by
  rw [wcbPoison, List.filter_append, List.foldl_append]
  rfl

theorem wcbPoison_uncovered {l : List WcbEnt} {g : Nat} (h : ∀ f ∈ l, f.covers g = false) (old : Bool) : wcbPoison l g old = old := by
  rw [wcbPoison, List.filter_eq_nil_iff.mpr fun f hf => by simp [h f hf]]
  rfl

theorem wcbPoison_cons (e : WcbEnt) (r : List WcbEnt) (g : Nat) (old : Bool) : wcbPoison (e :: r) g old =
    wcbPoison r g (if e.covers g then (if e.mask = BitVec.allOnes 64 then e.poison else old || e.poison) else old) := by
  rw [wcbPoison, List.filter_cons]
  split <;> rfl

/-- Whether a granule reads poisoned, from the poison that the buffer and the memory give it. -/
def State.granPoisonOver (s : State) (g : Nat) (base : Bool) : Bool :=
  let mine := s.wrQ.filter fun w => w.shown && decide (w.addr / 64 = g)
  let held := mine.foldl (fun b w => if w.bytes.length = 64 then w.poison else b || w.poison) base
  if s.isHbm (g * 64) then
    held || (match s.channelOf (g * 64) with
      | some (c, _) => !(s.sliceServes (Fin.ofNat 8 (c / 32)) none)
      | none => true)
  else if s.isBoard (g * 64) then
    held || s.boardWrs.any (fun w => w.poison && decide (w.addr / 64 = g)) || decide (s.fld fJeFabStatus_STATE = 2) ||
      (decide (s.fld fJeSecStatus_ZEROISED = 1) && s.encrypted (physOff (g * 64)))
  else held

theorem State.granPoison_eq (s : State) (g : Nat) :
    s.granPoison g = s.granPoisonOver g (wcbPoison s.wcb g (s.storedPoison g)) := rfl

/-! An entry goes to HBM and leaves the buffer (R246 to R248) -/

section
variable {s : State} {pre post : List WcbEnt} {e : WcbEnt} (hwcb : s.wcb = pre ++ e :: post) (hwhole : e.mask = BitVec.allOnes 64)
  (hzero : e.zmask ≠ 0 → e.data = 0) (hold : ∀ f ∈ pre, ∀ g, e.covers g = true → f.covers g = false)

/-- The state once an entry's data have reached HBM and the buffer holds the others. -/
def State.leftWcb (s : State) (e : WcbEnt) (l : List WcbEnt) : State := { s.writeBackEntry e with wcb := l }

include hzero

/-- Nothing but memory, its poison, the row hold buffers and the buffer itself changes. -/
theorem State.leftWcb_keeps {γ : Type} (f : State → γ)
    (hf : ∀ (u : State) m p b r l, f { u with mem := m, poison := p, badReads := b, rowHolds := r, wcb := l } = f u) (l : List WcbEnt) :
    f (s.leftWcb e l) = f s := by
  have hbuf : ∀ u : State, f { u with wcb := l } = f u := fun u => hf u u.mem u.poison u.badReads u.rowHolds l
  rw [State.leftWcb, State.writeBackEntry_eq hzero, hbuf]
  exact State.writeGrans_keeps f (fun u m p b r => hf u m p b r u.wcb) e.grans

theorem State.storedByte_leftWcb (h : memOk s) (l : List WcbEnt) (a : Nat) :
    (s.leftWcb e l).storedByte a = if e.covers (a / 64) then granByte e.data a else s.storedByte a := by
  simp only [← WcbEnt.mem_grans]
  exact (congrArg (State.storedByte · a) (State.writeBackEntry_eq hzero)).trans (State.storedByte_writeGrans h e.grans a)

theorem State.storedPoison_leftWcb (l : List WcbEnt) (g : Nat) :
    (s.leftWcb e l).storedPoison g = if e.covers g then e.poison else s.storedPoison g := by
  simp only [← WcbEnt.mem_grans]
  exact (congrArg (State.storedPoison · g) (State.writeBackEntry_eq hzero)).trans (State.storedPoison_writeGrans e.grans g)

include hwcb hwhole hold

/-- Every byte reads as it did. -/
theorem State.rdByte_leftWcb (h : memOk s) (a : Nat) : (s.leftWcb e (pre ++ post)).rdByte a = s.rdByte a := by
  have hbuf : wcbByte (pre ++ post) a ((s.leftWcb e (pre ++ post)).storedByte a) = wcbByte s.wcb a (s.storedByte a) := by
    rw [hwcb, wcbByte_append, wcbByte_append, wcbByte_cons, State.storedByte_leftWcb hzero h]
    cases hc : e.covers (a / 64) with
    | true =>
      have hpre : ∀ f ∈ pre, f.covers (a / 64) = false := fun f hf => hold f hf _ hc
      have hbit : e.mask.getLsbD (a % 64) = true := by
        rw [hwhole, BitVec.getLsbD_allOnes]
        exact decide_eq_true (Nat.mod_lt a (by decide))
      rw [wcbByte_uncovered hpre, wcbByte_uncovered hpre, if_pos rfl, if_pos ⟨rfl, hbit⟩]
    | false => simp
  have hwait : (s.leftWcb e (pre ++ post)).wrQ = s.wrQ := State.leftWcb_keeps hzero State.wrQ (fun _ _ _ _ _ _ => rfl) _
  have hboard : (s.leftWcb e (pre ++ post)).boardWrs = s.boardWrs := State.leftWcb_keeps hzero State.boardWrs (fun _ _ _ _ _ _ => rfl) _
  rw [State.rdByte, State.rdByte, hwait, hboard, ← hbuf]
  rfl

/-- Every granule is poisoned as it was. -/
theorem State.granPoison_leftWcb (g : Nat) : (s.leftWcb e (pre ++ post)).granPoison g = s.granPoison g := by
  have hbuf : wcbPoison (pre ++ post) g ((s.leftWcb e (pre ++ post)).storedPoison g) = wcbPoison s.wcb g (s.storedPoison g) := by
    rw [hwcb, wcbPoison_append, wcbPoison_append, wcbPoison_cons, State.storedPoison_leftWcb hzero]
    cases hc : e.covers g with
    | true =>
      have hpre : ∀ f ∈ pre, f.covers g = false := fun f hf => hold f hf _ hc
      rw [wcbPoison_uncovered hpre, wcbPoison_uncovered hpre, if_pos rfl, if_pos rfl, if_pos hwhole]
    | false => simp
  rw [State.granPoison_eq, State.granPoison_eq, ← hbuf]
  exact State.leftWcb_keeps hzero (fun u => u.granPoisonOver g _) (fun _ _ _ _ _ _ => rfl) _

end

/-- Settles O56: the granules of the entry hold its data and its poison, and nothing in the buffer before it hid them. -/
theorem writeBacksUnseen : Obligations.WriteBacksUnseen := by
  unfold Obligations.WriteBacksUnseen
  intro s pre post e h hwcb hwhole hzero hold
  refine ⟨State.rdByte_leftWcb hwcb hwhole hzero hold h, State.granPoison_leftWcb hwcb hwhole hzero hold, ?_, fun g hg => ?_⟩
  · exact (State.writeBackEntry_eq hzero : s.writeBackEntry e = _) ▸ memOk_writeGrans h e.grans
  · exact (State.storedPoison_leftWcb hzero (pre ++ post) g).trans (if_neg (by simp [hg]))

end Sys2Proof.Machine
end

section
/-! PROOF. Checked reads, spare rows, refresh, test access (O25): what a granule's check does, the error tracker, how a row takes a remap
entry, and the end of a remap. -/
namespace Sys2Proof.Machine

/-! Checked reads (R243) -/

/-- What the check of granule g, in the place pl, does where memory does not hold the granule poisoned. -/
def State.checked (s : State) (g : Nat) (pl : RowPlace) : CheckResult → State
  | .clean => s.setBad g false
  | .corrected => ((s.setBad g false).bump fJsEccStat_CORR pl.n).trackError pl
  | .poisonPattern => (s.setBad g true).bump fJsEccStat_POISON_READS pl.n
  | .uncorrectable => (((s.setBad g true).bump fJsEccStat_UNCORR pl.n).eventE 0x30 pl.chan pl.evB).remapStart pl

section
variable {s : State} {g : BitVec 46} {r : CheckResult} {pl : RowPlace}

/-- A granule of the memory has its check done, by its number. -/
theorem exec_hbmReadReturn (hin : g.toNat * 64 < s.hbmBound) :
    exec (.hbmReadReturn g r) s = .next (s.checkRead (g.toNat * 64) r).settle :=
  if_neg (Nat.not_le.mpr hin)

theorem exec_hbmReadReturn_past (hpast : s.hbmBound ≤ g.toNat * 64) : exec (.hbmReadReturn g r) s = .fault .outsideSpace :=
  if_pos hpast

variable {off : Nat} (hpl : s.placeOf off = some pl)
include hpl

/-- A slice out of service and a bank that waits return no read. -/
theorem State.checkRead_unread (h : s.sliceServes pl.n none = false ∨ s.bankWaits (s.hbmPhys off / 64) = true) : s.checkRead off r = s := by
  simp only [State.checkRead, hpl]
  exact if_pos (h.imp_left fun h => by simp [h])

variable (hserves : s.sliceServes pl.n none = true) (hbank : s.bankWaits (s.hbmPhys off / 64) = false)
include hserves hbank

/-- A granule that memory holds poisoned answers with the poison pattern. -/
theorem State.checkRead_poisoned (hpoison : s.hbmPhys off / 64 ∈ s.poison) (hheld : s.heldGran (s.hbmPhys off / 64) = none) :
    s.checkRead off r = s.bump fJsEccStat_POISON_READS pl.n := by
  simp [State.checkRead, hpl, hserves, hbank, hpoison, hheld]

/-- Any other granule answers what its check says. -/
theorem State.checkRead_checked (hpoison : s.hbmPhys off / 64 ∉ s.poison) : s.checkRead off r = s.checked (s.hbmPhys off / 64) pl r := by
  simp only [State.checkRead, hpl, hserves, hbank, hpoison, Bool.not_true, Bool.false_eq_true, or_self, false_and, if_false]
  cases r <;> rfl

end

/-! The error tracker (R256) -/

/-- An entry of the error tracker counts the errors of a row. -/
def RowPlace.tracks (r : RowPlace) (e : ErrRow) : Bool :=
  decide (e.n = r.n) && decide (e.ch = r.ch) && decide (e.pc = r.pc) && decide (e.bank = r.bank) && decide (e.row = r.row)

/-- The errors counted of a row. -/
def State.rowErrors (s : State) (r : RowPlace) : Nat := ((s.errRows.find? r.tracks).map (·.count)).getD 0

/-- The tracker's entries of other rows. -/
def State.otherRows (s : State) (r : RowPlace) : List ErrRow := s.errRows.filter fun e => !(r.tracks e)

section
variable {s : State} {r : RowPlace}

theorem State.trackError_full (h : max 1 (s.fld fJsHbmCtl_ROW_CE_THRESH r.n) ≤ s.rowErrors r + 1) :
    s.trackError r = ({ s with errRows := s.otherRows r } : State).remapStart r :=
  if_pos h

theorem State.trackError_counts (h : s.rowErrors r + 1 < max 1 (s.fld fJsHbmCtl_ROW_CE_THRESH r.n))
    (hroom : ((s.otherRows r).filter fun e => decide (e.n = r.n) && decide (e.ch = r.ch)).length < 16) :
    s.trackError r = { s with errRows := s.otherRows r ++ [⟨r.n, r.ch, r.pc, r.bank, r.row, s.rowErrors r + 1⟩] } := by
  refine (if_neg (Nat.not_le.mpr h)).trans ?_
  exact congrArg (fun l => ({ s with errRows := l ++ [⟨r.n, r.ch, r.pc, r.bank, r.row, s.rowErrors r + 1⟩] } : State))
    (if_neg (Nat.not_le.mpr hroom))

end

/-! Rows that are remapped (R256 to R258) -/

section
variable {s : State} {r : RowPlace}

/-- The remap entries of a slice. -/
def State.remapTable (s : State) (n : SliceId) : List W64 := (List.range 512).map (s.remapEntry n)

/-- The rows of a place's bank that stand in the remap table. -/
def State.spareUsed (s : State) (r : RowPlace) : Nat := ((s.remapTable r.n).filter r.sameBank).length

/-- No spare or no entry is left for a row. -/
def State.spareOut (s : State) (r : RowPlace) : State := (s.bump fJsRemapStat_SPARE_OUT r.n).eventE 0x31 r.chan r.evB

theorem State.remapStart_off (h : s.fld fJsHbmCtl_REMAP r.n = 0) : s.remapStart r = s := if_pos h

/-- The first free entry of a table. -/
theorem State.find?_remapFree {i : Nat} (hi : i < 512) (hbusy : ∀ j, j < i → remapState (s.remapEntry r.n j) ≠ 0)
    (hfree : remapState (s.remapEntry r.n i) = 0) :
    (List.range 512).find? (fun i => decide (remapState (s.remapEntry r.n i) = 0)) = some i := by
  simpa [List.find?_range_eq_some, hfree, hi] using hbusy

theorem State.find?_remapFree_none (hfull : ∀ j, j < 512 → remapState (s.remapEntry r.n j) ≠ 0) :
    (List.range 512).find? (fun i => decide (remapState (s.remapEntry r.n i) = 0)) = none := by
  simpa [List.find?_eq_none] using hfull

variable (hon : s.fld fJsHbmCtl_REMAP r.n ≠ 0) (hidle : ∀ v ∈ s.remapTable r.n, r.sameBank v = true → remapState v ≠ 1)

include hidle in
/-- A row none of whose bank's rows is being copied is not being copied itself. -/
theorem State.remapTable_uncopied :
    ((s.remapTable r.n).any fun v => r.sameBank v && decide (remapState v = 1) && decide (bitsOf v 34 16 = r.row)) = false := by
  refine List.any_eq_false.mpr fun v hv => ?_
  simp only [Bool.and_eq_true, decide_eq_true_eq, not_and]
  exact fun h => absurd h.2 (hidle v hv h.1)

include hon hidle

/-- It takes the first free entry, where its bank has a spare. -/
theorem State.remapStart_at {i : Nat} (hi : i < 512) (hbusy : ∀ j, j < i → remapState (s.remapEntry r.n j) ≠ 0)
    (hfree : remapState (s.remapEntry r.n i) = 0) : s.remapStart r =
    if s.spareUsed r < Config.spareRows r.n r.ch r.pc.toNat r.bank then (s.setReg .jsRemap (r.entry 1) r.n i).holdRow r i else s.spareOut r := by
  have hnone := State.remapTable_uncopied hidle
  unfold State.remapTable at hnone
  simp only [State.remapStart, if_neg hon, hnone, State.find?_remapFree hi hbusy hfree, Bool.false_eq_true, if_false]
  rfl

/-- With no entry free it stays where it is. -/
theorem State.remapStart_full (hfull : ∀ j, j < 512 → remapState (s.remapEntry r.n j) ≠ 0) : s.remapStart r = s.spareOut r := by
  have hnone := State.remapTable_uncopied hidle
  unfold State.remapTable at hnone
  simp only [State.remapStart, if_neg hon, hnone, State.find?_remapFree_none hfull, Bool.false_eq_true, if_false]
  rfl

end

/-! Remaps that end (R256, R258) -/

section
variable {s : State} {n : SliceId} {i : Fin 512}

theorem exec_rowRemapDone_idle (h : remapState (s.remapEntry n i) ≠ 1) : exec (.rowRemapDone n i) s = .next s.settle := by
  show execRowRemapDone n i s = _
  rw [execRowRemapDone, stepTo_eq, if_pos h]

/-- An entry whose copy ends is ACTIVE: its rows are written back, and the copy of the always-on controller follows. -/
theorem exec_rowRemapDone_ends (h : remapState (s.remapEntry n i) = 1) :
    let w := putBits (s.remapEntry n i) 62 2 2
    let s0 := (s.rowHolds.filter fun h => decide (h.n = n) && decide (h.i = i.val)).foldl (fun (u : State) h => u.freeRow h) s
    let s1 := (s0.setReg .jsRemap w n i).bump fJsRemapStat_REMAPS n
    exec (.rowRemapDone n i) s =
      .next ({ s1 with remapCopy := putAssoc s1.remapCopy (512 * n.val + i.val) w } : State).settleWcb.settle := by
  show execRowRemapDone n i s = _
  rw [execRowRemapDone, stepTo_eq, if_neg (not_not.mpr h)]

end

/-! Test access (R262) -/

theorem exec_testAccessRequest (s : State) (n : SliceId) : exec (.testAccessRequest n) s = .next
    (if 2 ≤ s.sliceState n ∨ s.fld fJeStart_MODE = 3 then ({ s with out := s.out ++ [.testGrant n] } : State) else s.eventE 0x33 n 0).settle := rfl

/-- Settles O25: the checks of a granule read, the errors of a row, its remap and the end of one, refresh and test access, by the lemmas above. -/
theorem hbmRowsAndTest : Obligations.HbmRowsAndTest := by
  unfold Obligations.HbmRowsAndTest
  refine ⟨?_, fun s g r => exec_hbmReadReturn_past, fun s r => ⟨State.trackError_full, State.trackError_counts⟩, ?_,
    fun s n i => ⟨exec_rowRemapDone_idle, exec_rowRemapDone_ends⟩, fun s n => ⟨rfl, rfl⟩, ?_⟩
  · intro s g pl hin hpl ph arrives
    refine ⟨fun r h => ?_, fun hserves hbank => ⟨fun r hpoison hheld => ?_, fun hpoison => ?_⟩⟩
    · rw [exec_hbmReadReturn hin, State.checkRead_unread hpl h]
    · rw [exec_hbmReadReturn hin, State.checkRead_poisoned hpl hserves hbank hpoison hheld]
    · simp only [exec_hbmReadReturn hin, State.checkRead_checked hpl hserves hbank hpoison]
      exact ⟨rfl, rfl, rfl, rfl⟩
  · intro s r all used out
    refine ⟨State.remapStart_off, fun hon hidle => ⟨fun i hi hbusy hfree => ?_, State.remapStart_full hon hidle⟩⟩
    have hat := State.remapStart_at hon hidle hi hbusy hfree
    exact ⟨fun hlt => hat.trans (if_pos hlt), fun hge => hat.trans (if_neg (Nat.not_lt.mpr hge))⟩
  · intro s n
    rw [exec_testAccessRequest]
    exact ⟨fun h => by rw [if_pos h], fun hin hmode => by rw [if_neg (by omega)]⟩

end Sys2Proof.Machine
end

section
/-! PROOF. Slices leave service and return, and heartbeats (O48): the actions of JS_SLICE_CTL by the state of the slice, the ends of drain and
return, and one beat of a slice. -/
namespace Sys2Proof.Machine

/-! The actions of JS_SLICE_CTL (R398, R399) -/

/-- What SLICE_RETURN and SLICE_TAKE_OUT write, for a 1 and 2: an action and no operand. -/
def sliceWord (a : Nat) : W64 := BitVec.ofNat 64 (a * 2 ^ 62 + 0)

theorem actionOf_sliceWord {a : Nat} (ha : a < 3) : actionOf .jsSliceCtl (accPos .full (sliceWord a)) = a := by
  have hbits : bitsOf (accPos .full (sliceWord a)) 62 2 = a := action_bits a 0 (by omega) (Nat.two_pow_pos 62)
  simp only [actionOf, hbits]
  exact if_neg (by omega)

section
variable {s : State} (h : s.serving) (n : SliceId)
include h

/-- The hub serves the register in every state of the slice, and it has no BUSY: its action is taken. -/
theorem State.putAct_jsSliceCtl {a : Nat} (ha : a < 3) (h0 : a ≠ 0) :
    s.putAct .jsSliceCtl n a 0 = (s.put .jsSliceCtl n (sliceWord a)).act ⟨.jsSliceCtl, n, 0⟩ a (accPos .full (sliceWord a)) :=
  State.putAct_plain h .jsSliceCtl n a 0 (RegRef.valid_slice _ n rfl (by decide)) (by simp [State.sliceGone, hubServed]) rfl nofun nofun
    nofun rfl (fun _ _ _ => rfl) (actionOf_sliceWord ha) h0 rfl

theorem exec_sliceReturn : exec (.sliceReturn n) s = .next ((s.put .jsSliceCtl n (sliceWord 1)).sliceReturn n).settle := by
  show stepTo (s.putAct .jsSliceCtl n 1 0) = _
  rw [State.putAct_jsSliceCtl h n (by decide) (by decide), stepTo_eq]
  simp only [State.act, Fin.ofNat_val_eq_self]

theorem exec_sliceTakeOut : exec (.sliceTakeOut n) s = .next ((s.put .jsSliceCtl n (sliceWord 2)).sliceTakeOut n).settle := by
  show stepTo (s.putAct .jsSliceCtl n 2 0) = _
  rw [State.putAct_jsSliceCtl h n (by decide) (by decide), stepTo_eq]
  simp only [State.act, Fin.ofNat_val_eq_self]

end

/-! A slice in service is taken out (R399) -/

/-- The drain of a slice begins, for the commands admitted before the request. -/
def State.startDrain (s : State) (n : SliceId) : State :=
  ({ ((s.setFld fJsSliceCtl_STATE 1 n).setFld fJsSliceCtl_ENABLE_PENDING 0 n).sliceResult n 0 with
    drainFrom := s.drainFrom.set n s.admitted } : State).flushPre n fun _ => true

section
variable {s : State} {n : SliceId} (hin : s.sliceState n = 0)
include hin

/-- It drains, unless the window is enabled or it is the last slice in service. -/
theorem State.sliceTakeOut_inService : s.sliceTakeOut n =
    if s.fld fJeWinCtl_ENABLED = 1 then s.sliceResult n 1
    else if ∀ m ∈ s.slicesIn, m = n then s.sliceResult n 3
    else s.startDrain n := by
  simp only [State.sliceTakeOut, hin, List.all_eq_true, decide_eq_true_eq]
  rfl

end

/-! Drains and returns that end (R261, R398, R399) -/

section
variable {s : State} {n : SliceId}

theorem exec_sliceDrainDone_idle (h : s.sliceState n ≠ 1 ∨ s.sliceQuiet n = false) : exec (.sliceDrainDone n) s = .next s.settle := by
  show execSliceDrainDone n s = _
  rw [execSliceDrainDone, stepTo_eq, if_pos (h.imp_right fun h => by simp [h])]

/-- A quiet slice is OUT once its buffers are written back, or goes on to its return where that is pending. -/
theorem exec_sliceDrainDone_ends (h : s.sliceState n = 1) (hquiet : s.sliceQuiet n = true) :
    let s1 := ((s.drainWcb fun m => decide (m = n)).setFld fJsSliceCtl_STATE 2 n).eventE 0x22 n 0
    exec (.sliceDrainDone n) s = .next (if s1.fld fJsSliceCtl_ENABLE_PENDING n = 1 then
      (s1.setFld fJsSliceCtl_ENABLE_PENDING 0 n).setFld fJsSliceCtl_STATE 3 n else s1).settle := by
  show execSliceDrainDone n s = _
  rw [execSliceDrainDone, stepTo_eq, if_neg (by simp [h, hquiet])]

theorem exec_sliceReturnDone_idle (h : s.sliceState n ≠ 3) (passed : Bool) : exec (.sliceReturnDone n passed) s = .next s.settle := by
  show execSliceReturnDone n passed s = _
  rw [execSliceReturnDone, stepTo_eq, if_pos h]

variable (h : s.sliceState n = 3)
include h

/-- A slice whose self-test passed is in service with empty caches, its channels as never written. -/
theorem exec_sliceReturnDone_passed :
    let mine (a : Nat) : Bool := s.isHbm a && (s.channelOf a).any fun y => decide (y.1 / 32 = n.val)
    exec (.sliceReturnDone n true) s = .next (((List.finRange 256).filter fun l => decide (laneSlice l = n)).foldl
      (fun (u : State) l => u.resetCloche l) ((s.forget mine).setFld fJsSliceCtl_STATE 0 n)).settle := by
  intro mine
  have hmine : mine = fun a => s.isHbm a && (match s.channelOf a with
      | some (c, _) => decide (c / 32 = n.val)
      | none => false) := funext fun a => by
    show (s.isHbm a && _) = _
    cases s.channelOf a <;> rfl
  show execSliceReturnDone n true s = _
  rw [execSliceReturnDone, stepTo_eq, if_neg (not_not.mpr h), hmine]
  rfl

theorem exec_sliceReturnDone_failed : exec (.sliceReturnDone n false) s = .next (s.failSlice n 3).settle := by
  show execSliceReturnDone n false s = _
  rw [execSliceReturnDone, stepTo_eq, if_neg (not_not.mpr h)]
  rfl

end

/-! Heartbeats (R400) -/

/-- A heartbeat goes out to a slice, which has then left k in a row unanswered. -/
def State.beatSent (s : State) (n : SliceId) (k : Nat) : State :=
  ({ s with missedBeats := s.missedBeats.set n k } : State).emit (.heartbeat n)

section
variable {s : State} {n : SliceId}

theorem exec_sliceHeartbeat_idle {answered : Byte} (h : s.ready = false ∨ s.asleep = true) :
    exec (.sliceHeartbeat answered) s = .next s.settle := by
  show execSliceHeartbeat answered s = _
  rw [execSliceHeartbeat, stepTo_eq, if_pos (h.imp_left fun h => by simp [h])]

theorem exec_sliceHeartbeat_asked {answered : Byte} (hready : s.ready = true) (hawake : s.asleep = false) :
    exec (.sliceHeartbeat answered) s =
      .next ((List.finRange 8).foldl (fun (u : State) n => u.beat n (answered.getLsbD n.val)) s).settle := by
  show execSliceHeartbeat answered s = _
  rw [execSliceHeartbeat, stepTo_eq, if_neg (by simp [hready, hawake])]

/-- A slice out of service has no heartbeat. -/
theorem State.beat_gone (h : 2 ≤ s.sliceState n) (b : Bool) : s.beat n b = s := if_pos h

theorem State.beat_of_live (h : s.sliceState n < 2) (b : Bool) :
    let k := if b then 0 else s.missedBeats[n] + 1
    s.beat n b = if 4 ≤ k then ({ s.beatSent n k with missedBeats := s.missedBeats.set n 0 } : State).failSlice n 1 else s.beatSent n k := by
  intro k
  have hset : (s.missedBeats.set n k).set n 0 = s.missedBeats.set n 0 := Vector.set_set ..
  refine (if_neg (Nat.not_le.mpr h)).trans ?_
  rw [← hset]
  rfl

end

/-- Settles O48: the actions by the state of the slice, the ends of a drain and of a return, and the beats, by the lemmas above. -/
theorem sliceService : Obligations.SliceService := by
  unfold Obligations.SliceService
  refine ⟨fun s n h => ⟨exec_sliceReturn h n, exec_sliceTakeOut h n⟩, ?_, fun s n => ⟨exec_sliceDrainDone_idle, exec_sliceDrainDone_ends⟩,
    fun s n => ⟨exec_sliceReturnDone_idle, fun h => ⟨exec_sliceReturnDone_passed h, exec_sliceReturnDone_failed h⟩⟩,
    fun s answered => ⟨exec_sliceHeartbeat_idle, exec_sliceHeartbeat_asked⟩, ?_⟩
  · intro s n
    refine ⟨fun h => ?_, fun h hwin => ?_, fun h hwin hlast => ?_, fun h hwin hother => ?_, fun h => ?_, fun h => ?_, fun h => ?_, fun h => ?_⟩
    · simp only [State.sliceReturn, h]
    · rw [State.sliceTakeOut_inService h, if_pos hwin]
    · rw [State.sliceTakeOut_inService h, if_neg (by omega), if_pos hlast]
    · have hnot : ¬∀ m ∈ s.slicesIn, m = n := fun hall => by
        obtain ⟨m, hm, hne⟩ := hother
        exact hne (hall m hm)
      rw [State.sliceTakeOut_inService h, if_neg (by omega), if_neg hnot]
      rfl
    all_goals simp only [State.sliceReturn, State.sliceTakeOut, h, and_self]
  · intro s n
    refine ⟨State.beat_gone, fun h => ⟨(State.beat_of_live h true).trans (if_neg (by simp)), fun hfew => ?_, fun hmany => ?_⟩⟩
    · exact (State.beat_of_live h false).trans (if_neg (Nat.not_le.mpr (Nat.succ_lt_succ hfew)))
    · exact (State.beat_of_live h false).trans (if_pos (Nat.succ_le_succ hmany))

end Sys2Proof.Machine
end

section
/-! PROOF. Power, reset and the start of the engine (O40): power good and its loss, the engine reset with what it leaves, and je_rst_n. -/
namespace Sys2Proof.Machine

/-! Power (R244, R249, R258, R352, R357) -/

section
variable {s : State}

theorem exec_powerOnReset_on (h : s.boot.porGood = true) : exec .powerOnReset s = .next s.settle := by
  show execPowerOnReset s = _
  rw [execPowerOnReset, stepTo_eq, if_pos h]

/-- As power becomes good the device secret is what the PUF and the helper record give. -/
theorem exec_powerOnReset_off (h : s.boot.porGood = false) :
    let dev := Config.pufExtract s.sec.pufDraw s.helper
    let s1 : State := { s with boot := { s.boot with porGood := true }, sec := { s.sec with kDev := dev, pufDraw := s.sec.pufDraw + 1 } }
    exec .powerOnReset s = .next (s1.setFld fJeSecStatus_DEV_KEY dev.isSome.toNat).settle := by
  show execPowerOnReset s = _
  rw [execPowerOnReset, stepTo_eq, if_neg (by simp [h])]

theorem exec_powerLoss_off (h : s.boot.porGood = false) : exec .powerLoss s = .next s.settle := by
  show execPowerLoss s = _
  rw [execPowerLoss, stepTo_eq, if_neg (by simp [h])]

theorem exec_powerLoss_on (h : s.boot.porGood = true) : exec .powerLoss s = .next s.powerLoss.settle := by
  show execPowerLoss s = _
  rw [execPowerLoss, stepTo_eq, if_pos h]

/-- The block as the loss of power leaves it, before HBM and the board tier go over to ENGINE 0. -/
def State.unpowered (s : State) : State :=
  { (({ s with wcb := [] } : State).forget s.isHbm).resetDomains with
    regs := [], remapCopy := [], sec := { State.reset.sec with pufDraw := s.sec.pufDraw }, boot := State.reset.boot }

/-- What ENGINE does not name is as that leaves it. -/
theorem State.powerLoss_keeps {γ : Type} (g : State → γ) (hg : ∀ (u : State) m p b, g { u with mem := m, poison := p, badReads := b } = g u) :
    g s.powerLoss = g s.unpowered :=
  State.rekey_keeps g hg s.unpowered _

/-! Engine reset (R249, R352) -/

theorem exec_engineReset_stopped (h : s.boot.running = false) : exec .engineReset s = .next s.settle := by
  show execEngineReset s = _
  rw [execEngineReset, stepTo_eq, if_neg (by simp [h])]

theorem exec_engineReset_running (h : s.boot.running = true) : exec .engineReset s = .next s.countPower.engineReset.settle := by
  show execEngineReset s = _
  rw [execEngineReset, stepTo_eq, if_pos h]

/-- What a reset of the domains sets, and neither a register nor ENGINE names, is so after an engine reset, whatever stood in the buffers. -/
theorem State.engineReset_sets {γ : Type} {c : γ} (g : State → γ)
    (hg : ∀ (u : State) m p b, g { u with mem := m, poison := p, badReads := b } = g u) (hregs : ∀ (u : State) r, g { u with regs := r } = g u)
    (hreset : ∀ u : State, g u.resetDomains = c) : g s.engineReset = c :=
  (State.rekey_keeps g hg _ _).trans ((hregs _ _).trans ((hregs _ _).trans (hreset _)))

/-! What every domain reset leaves (R352) -/

theorem State.reg_resetDomains_kept {r : RegId} (h : alwaysOnReg r = true) (i j : Nat) : s.resetDomains.reg r i j = s.reg r i j :=
  getAssoc_filter_in s.regs _ _ _ fun _ => h

theorem State.reg_resetDomains_reset {r : RegId} (h : alwaysOnReg r = false) (i j : Nat) : s.resetDomains.reg r i j = State.reset.reg r i j :=
  (getAssoc_filter_out s.regs _ _ _ fun _ => h).trans (State.reg_reset r i j).symm

/-! je_rst_n rises (R106, R342, R353, R364) -/

/-- The engine runs: the pin is sampled, the flash's density taken and every slice's generators seeded. -/
def State.started (s : State) (recover : Bool) (density : BitVec 6) : State :=
  let s1 : State := { s with boot := { s.boot with running := true, recover := recover, noFlash := decide (density.toNat < 24) } }
  (List.finRange 8).foldl (fun s n => s.reseed n) (s1.setFld fJeNvmCtl_DENSITY_LOG2 density.toNat)

variable {recover : Bool} {density : BitVec 6} {test : Byte}

theorem exec_engineStart_idle (h : s.boot.porGood = false ∨ s.boot.running = true) :
    exec (.engineStart recover density test) s = .next s.settle := by
  show execEngineStart recover density test s = _
  rw [execEngineStart, stepTo_eq, if_pos (h.imp_left fun h => by simp [h])]

theorem exec_engineStart_starts (hpower : s.boot.porGood = true) (hstopped : s.boot.running = false) :
    exec (.engineStart recover density test) s = .next
      (if test = 0 then s.started recover density else (s.started recover density).secTestFails test.toNat).settle := by
  show execEngineStart recover density test s = _
  rw [execEngineStart, stepTo_eq, if_neg (by simp [hpower, hstopped])]
  rfl

end

/-- Settles O40: power good and its loss, the reset of a running engine and what it leaves, and the start, by the lemmas above. -/
theorem powerAndReset : Obligations.PowerAndReset := by
  unfold Obligations.PowerAndReset
  refine ⟨fun s => ⟨exec_powerOnReset_off, exec_powerOnReset_on⟩, fun s => ⟨exec_powerLoss_off, fun h => ⟨exec_powerLoss_on h, ?_⟩⟩,
    fun s => ⟨exec_engineReset_stopped, fun h => ⟨exec_engineReset_running h, ?_⟩⟩, fun s => rfl,
    fun s => ⟨rfl, rfl, rfl, fun r i j h => State.reg_resetDomains_kept h i j, fun r i j h => State.reg_resetDomains_reset h i j⟩,
    fun s recover density => ⟨fun h test => exec_engineStart_idle h, fun hpower hstopped => ⟨?_, fun test htest => ?_⟩⟩⟩
  · exact ⟨State.powerLoss_keeps State.regs fun _ _ _ _ => rfl, State.powerLoss_keeps State.wcb fun _ _ _ _ => rfl,
      State.powerLoss_keeps State.remapCopy fun _ _ _ _ => rfl, State.powerLoss_keeps (fun u => u.sec.kDev) fun _ _ _ _ => rfl,
      State.powerLoss_keeps (fun u => u.boot.porGood) fun _ _ _ _ => rfl, State.powerLoss_keeps (fun u => u.boot.running) fun _ _ _ _ => rfl,
      State.powerLoss_keeps State.flash fun _ _ _ _ => rfl, State.powerLoss_keeps State.trackers fun _ _ _ _ => rfl,
      State.powerLoss_keeps State.qps fun _ _ _ _ => rfl⟩
  · exact ⟨State.engineReset_sets State.trackers (fun _ _ _ _ => rfl) (fun _ _ => rfl) fun _ => rfl,
      State.engineReset_sets State.wcb (fun _ _ _ _ => rfl) (fun _ _ => rfl) fun _ => rfl,
      State.engineReset_sets State.wrQ (fun _ _ _ _ => rfl) (fun _ _ => rfl) fun _ => rfl,
      State.engineReset_sets State.trellis (fun _ _ _ _ => rfl) (fun _ _ => rfl) fun _ => rfl,
      State.engineReset_sets State.qps (fun _ _ _ _ => rfl) (fun _ _ => rfl) fun _ => rfl,
      State.engineReset_sets (fun u => u.boot.running) (fun _ _ _ _ => rfl) (fun _ _ => rfl) fun _ => rfl,
      State.engineReset_sets (fun u => u.boot.porGood) (fun _ _ _ _ => rfl) (fun _ _ => rfl) fun _ => rfl⟩
  · exact (exec_engineStart_starts hpower hstopped).trans (by rw [if_pos rfl]; rfl)
  · exact (exec_engineStart_starts hpower hstopped).trans (by rw [if_neg htest]; rfl)

end Sys2Proof.Machine
end

section
/-! PROOF. Image choice, the end of the start, configuration lock (O41): which image acts and why one is rejected, what READY leaves, and what
CONFIG_LOCK answers. -/
namespace Sys2Proof.Machine

/-! Image choice (R345, R353, R363) -/

/-- Why the image tried first is rejected, 0 where it is accepted: that of the slot that SLOT names, or a load that a zeroisation ended. -/
def State.firstReason (s : State) : Nat := if s.boot.loadEnded then 0x0A else s.imageReason (s.slotByte (s.fld fJeBootSel_SLOT))

/-- Why the other image is rejected. -/
def State.otherReason (s : State) : Nat := s.imageReason (s.slotByte (1 - s.fld fJeBootSel_SLOT))

/-- The image tried first is rejected. -/
def State.rejectFirst (s : State) : State :=
  ((s.setFld fJeStart_FALLBACK 1).setFld fJeStart_FAIL_FIRST s.firstReason).eventE 0x60 (s.fld fJeBootSel_SLOT) s.firstReason

section
variable {s : State}

theorem exec_imageCheckDone_idle (h : s.boot.running = false ∨ s.fld fJeStart_STATE ≠ 0) : exec .imageCheckDone s = .next s.settle := by
  show execImageCheckDone s = _
  rw [execImageCheckDone, stepTo_eq, if_pos (h.imp_left fun h => by simp [h])]

/-- The first acceptable image of the two acts, the one that SLOT names before the other. -/
theorem exec_imageCheckDone_tries (hrun : s.boot.running = true) (hstate : s.fld fJeStart_STATE = 0) : exec .imageCheckDone s = .next (
    if s.firstReason = 0 then (s.acceptImage (s.fld fJeBootSel_SLOT)).setFld fJeStart_STATE 1
    else if s.otherReason = 0 then (s.rejectFirst.acceptImage (1 - s.fld fJeBootSel_SLOT)).setFld fJeStart_STATE 1
    else ((s.rejectFirst.setFld fJeStart_FAIL_SECOND s.otherReason).eventE 0x60 (1 - s.fld fJeBootSel_SLOT) s.otherReason).setFld
      fJeStart_STATE 1).settle := by
  show execImageCheckDone s = _
  rw [execImageCheckDone, stepTo_eq, if_neg (by simp [hrun, hstate])]
  rfl

theorem exec_imageCheckDone_first (hrun : s.boot.running = true) (hstate : s.fld fJeStart_STATE = 0) (ha : s.firstReason = 0) :
    exec .imageCheckDone s = .next ((s.acceptImage (s.fld fJeBootSel_SLOT)).setFld fJeStart_STATE 1).settle := by
  rw [exec_imageCheckDone_tries hrun hstate, if_pos ha]

theorem exec_imageCheckDone_other (hrun : s.boot.running = true) (hstate : s.fld fJeStart_STATE = 0) (ha : s.firstReason ≠ 0)
    (hb : s.otherReason = 0) :
    exec .imageCheckDone s = .next ((s.rejectFirst.acceptImage (1 - s.fld fJeBootSel_SLOT)).setFld fJeStart_STATE 1).settle := by
  rw [exec_imageCheckDone_tries hrun hstate, if_neg ha, if_pos hb]

theorem exec_imageCheckDone_none (hrun : s.boot.running = true) (hstate : s.fld fJeStart_STATE = 0) (ha : s.firstReason ≠ 0)
    (hb : s.otherReason ≠ 0) : exec .imageCheckDone s = .next (((s.rejectFirst.setFld fJeStart_FAIL_SECOND s.otherReason).eventE 0x60
      (1 - s.fld fJeBootSel_SLOT) s.otherReason).setFld fJeStart_STATE 1).settle := by
  rw [exec_imageCheckDone_tries hrun hstate, if_neg ha, if_neg hb]

/-- A flash too small holds no image. -/
theorem State.imageReason_noFlash (h : s.boot.noFlash = true) (rd : Nat → Byte) : s.imageReason rd = 1 := if_pos h

theorem State.firstReason_noFlash (h : s.boot.noFlash = true) (hload : s.boot.loadEnded = false) : s.firstReason = 1 := by
  rw [State.firstReason, hload, State.imageReason_noFlash h]
  rfl

end

/-! The end of the start (R144, R201, R258, R259, R261, R353) -/

section
variable {s : State} {failedSlices : Byte} {failedLanes training test : BitVec 256} {mended : List (SliceId × Fin 512)}

theorem exec_startReady_idle (h : s.boot.running = false ∨ s.fld fJeStart_STATE ≠ 1) :
    exec (.startReady failedSlices failedLanes training test mended) s = .next s.settle := by
  show execStartReady failedSlices failedLanes training test mended s = _
  rw [execStartReady, stepTo_eq, if_pos (h.imp_left fun h => by simp [h])]

/-- The slices and channels that a start leaves in service, with their rows repaired. -/
def State.unitsReady (s : State) (failedSlices : Byte) (failedLanes training test : BitVec 256) (mended : List (SliceId × Fin 512)) : State :=
  (List.finRange 8).foldl (fun u n => u.repair mended n)
    ((s.startUnits failedSlices failedLanes).startChannels (startOut failedSlices failedLanes) training test)

theorem exec_startReady_ends (hrun : s.boot.running = true) (hstate : s.fld fJeStart_STATE = 1) :
    exec (.startReady failedSlices failedLanes training test mended) s =
      .next (s.unitsReady failedSlices failedLanes training test mended).startEnd.settle := by
  show execStartReady failedSlices failedLanes training test mended s = _
  rw [execStartReady, stepTo_eq, if_neg (by simp [hrun, hstate])]
  rfl

/-- READY is reached: both resynchronisations go out, and the vector of the engine's events where it is due. -/
def State.reachReady (s : State) : State :=
  let s1 := ((s.setFld fJeStart_STATE 2).emit .feedResync).emit .statResync
  if s1.engineEvents.recs ≠ [] ∧ s1.fld fJeEventStatus_MASK = 0 then s1.emit (.irq 1040) else s1

theorem State.reachReady_state (s : State) : s.reachReady.fld fJeStart_STATE = 2 := by
  have hset (u : State) : (u.setFld fJeStart_STATE 2).fld fJeStart_STATE = 2 := State.fld_setFld_self u fJeStart_STATE 2 0 0 (by decide)
  have hemit (u : State) (o : Out) : (u.emit o).fld fJeStart_STATE = u.fld fJeStart_STATE := rfl
  unfold State.reachReady
  dsimp only
  split
  · rw [hemit, hemit, hemit, hset]
  · rw [hemit, hemit, hset]

/-- The start ends at READY, after the lock that its image asks for. -/
theorem State.startEnd_eq (s : State) :
    s.startEnd = (if decide (s.boot.image ≠ []) && imgLockAtStart s.imageByte then s.configLock else s).reachReady := rfl

theorem State.startEnd_state (s : State) : s.startEnd.fld fJeStart_STATE = 2 := by
  rw [State.startEnd_eq, State.reachReady_state]

/-- With no image there is no lock. -/
theorem State.startEnd_unlocked (h : s.boot.image = []) : s.startEnd = s.reachReady := by
  rw [State.startEnd_eq, if_neg (by simp [h])]

/-! A start where nothing failed (R259) -/

theorem startOut_none : startOut 0 0 = fun _ => false := funext fun n => by simp [startOut, pairFailed]

theorem lanesFailed_none (n : SliceId) : lanesFailed 0 n = [] := by simp [lanesFailed]

theorem State.startUnits_none (s : State) : s.startUnits 0 0 = s := by
  simp only [State.startUnits, startOut_none, lanesFailed_none, List.filter_false, List.foldl_nil, List.foldl_fixed]

theorem State.startChannels_none (s : State) (out : SliceId → Bool) : s.startChannels out 0 0 = s.fixMapped (s.startTried out) := by
  simp [State.startChannels]

/-- Every channel that is not mapped out is mapped. -/
theorem State.unitsReady_none (s : State) :
    s.unitsReady 0 0 0 0 [] = (List.finRange 8).foldl (fun u n => u.repair [] n) (s.fixMapped (s.startTried fun _ => false)) := by
  rw [State.unitsReady, State.startUnits_none, startOut_none, State.startChannels_none]

theorem State.unitsReady_none_image (s : State) : (s.unitsReady 0 0 0 0 []).boot.image = s.boot.image := by
  have hboot := foldl_keeps (fun (u : State) n => u.repair [] n) State.boot (fun u n => u.repair_boot [] n) (List.finRange 8)
    (s.fixMapped (s.startTried fun _ => false))
  rw [State.unitsReady_none, hboot, State.fixMapped_image]

end

/-! Configuration lock (R356) -/

section
variable {s : State}

theorem exec_configLock_busy (h : s.serving) (hb : s.fld fJeCfgLock_BUSY = 1) :
    exec .configLock s = .next (s.setFld fJeCfgLock_RESULT 10).settle := by
  show stepTo (s.putKeep .jeCfgLock 0 0x8000000000000000#64) = _
  rw [State.putKeep, State.putReg_busy h .jeCfgLock 0 .full _ valid_jeCfgLock rfl (.inr rfl) rfl (by decide) nofun (by decide)
    (by simp [State.regBusy, busyOf, hb]) ?_, stepTo_eq]
  · rfl
  · have hmask : codeMask (RegId.fieldsAt .jeCfgLock 0) .rw ||| codeMask (RegId.fieldsAt .jeCfgLock 0) .rwl = 0#64 := by decide
    rw [hmask, BitVec.and_zero]
    decide

/-- The configuration is locked where every check passes. -/
theorem State.configLock_passes (h : s.lockFault = none) :
    s.configLock = ((s.setFld fJeCfgLock_LOCKED 1).setFld fJeCfgLock_RESULT 0).setFld fJeCfgLock_PART 0 := by
  simp only [State.configLock, h]

end

/-- Settles O41: the image that acts, the end of the start, and the lock's checks, by the lemmas above. -/
theorem startAndLock : Obligations.StartAndLock := by
  unfold Obligations.StartAndLock
  refine ⟨fun s => ⟨exec_imageCheckDone_idle, fun hrun hstate => ?_⟩, fun s slot => rfl,
    fun s failedSlices failedLanes training test mended => ⟨exec_startReady_idle, fun hrun hstate =>
      ⟨exec_startReady_ends hrun hstate, State.startEnd_state _⟩⟩, fun s hrun hstate himage => ?_, fun s h => ?_⟩
  · exact ⟨exec_imageCheckDone_first hrun hstate, exec_imageCheckDone_other hrun hstate, exec_imageCheckDone_none hrun hstate,
      fun hflash => ⟨State.imageReason_noFlash hflash _, State.firstReason_noFlash hflash⟩⟩
  · have himage' := (State.unitsReady_none_image s).trans himage
    rw [exec_startReady_ends hrun hstate, State.startEnd_unlocked himage', State.unitsReady_none]
    rfl
  · simp only [State.put_jeCfgLock]
    exact ⟨exec_configLock_busy h, fun hb hpass => by rw [exec_configLock_idle h hb, State.configLock_passes hpass],
      fun r p hb hfault => by rw [exec_configLock_idle h hb, State.configLock_fails hfault]⟩

end Sys2Proof.Machine
end

section
/-! PROOF. Every command completes (O51): each arm of the dispatch ends in stepTo, but for two returns past the end of their memory. -/
namespace Sys2Proof.Machine

/-- A granule that lies in the board tier returns. -/
theorem exec_boardReadReturn_completes {s : State} {g : BitVec 46} {data : List Byte} {poisoned : Bool} {word : EccErr}
    (hin : g.toNat * 64 < s.boardBound) : ∃ t, exec (.boardReadReturn g data poisoned word) s = .next t :=
  ⟨_, if_neg (Nat.not_le.mpr hin)⟩

/-- Settles O51: the two returns by where their granule lies, and every other command by its arm. -/
theorem commandsComplete : Obligations.CommandsComplete := by
  unfold Obligations.CommandsComplete
  intro c s
  cases c
  case hbmReadReturn g r =>
    obtain hin | hpast := Nat.lt_or_ge (g.toNat * 64) s.hbmBound
    · exact .inl ⟨_, exec_hbmReadReturn hin⟩
    · exact .inr ⟨exec_hbmReadReturn_past hpast, .inl ⟨g, r, rfl, hpast⟩⟩
  case boardReadReturn g data poisoned word =>
    obtain hin | hpast := Nat.lt_or_ge (g.toNat * 64) s.boardBound
    · exact .inl (exec_boardReadReturn_completes hin)
    · exact .inr ⟨exec_boardReadReturn_outside hpast, .inr ⟨g, data, poisoned, word, rfl, hpast⟩⟩
  all_goals exact .inl ⟨_, rfl⟩

end Sys2Proof.Machine
end

section
/-! PROOF. Address translation (O27): fault records are read and answered, and the reads of a walk return. -/
namespace Sys2Proof.Machine

/-! Reads of JP_FAULT (R280, R407) -/

/-- A row that reads JP_FAULT is a read of its register. -/
theorem exec_faultRead {s : State} (h : s.serving) (p : Part) (acc : RegAcc) :
    exec (.faultRead p acc) s = .next ((s.readFault p acc).1.emit (.readData (viewOf acc (s.readFault p acc).2) false)).settle := by
  have hread : s.readReg ⟨.jpFault, p, 0⟩ acc = s.readFault p acc := by simp only [State.readReg, partOf_val]
  show stepTo (s.getReg .jpFault p 0 acc) = _
  rw [State.getReg_of_serving h _ _ _ _ (RegRef.valid_part _ p rfl (by decide)) (State.sliceGone_reg _ _ _ _ (by decide)), hread, stepTo_eq]

section
variable {s : State} {p : Part} {acc : RegAcc}

theorem State.readFault_none (h : (s.part p).faults.find? (fun f => decide (f.wordsRead < 4)) = none) :
    s.readFault p acc = (s.setFld fJpFaultStatus_UNDERRUN 1 p, (s.part p).faultLast) := by
  simp only [State.readFault, h]

/-- The word of a record is the last value read, and a read of the low half removes nothing. -/
theorem State.readFault_word {f : FaultRec} (h : (s.part p).faults.find? (fun f => decide (f.wordsRead < 4)) = some f) :
    let s1 := s.modPart p fun ps => { ps with faultLast := f.word f.wordsRead }
    s.readFault p acc = (if acc = .lo then s1 else (s1.modPart p fun ps => { ps with
      faults := updFirst (fun x => decide (x.id = f.id)) (fun x => { x with wordsRead := x.wordsRead + 1 }) ps.faults }).drainFaults p,
      f.word f.wordsRead) := by
  simp only [State.readFault, h]
  split <;> rfl

end

/-! Replies (R281) -/

section
variable {s : State} {p : Part} {id : BitVec 16} {f : FaultRec}

/-- A reply writes JP_FAULT_REPLY, which keeps nothing of it (R286). -/
theorem State.put_jpFaultReply (s : State) (i : Nat) (v : W64) : s.put .jpFaultReply i v = s := by
  have hmask (a : Access) (ha : codeMask (RegId.fields .jpFaultReply) a = 0#64) : codeMask (RegId.fieldsAt .jpFaultReply i) a = 0#64 := by
    rw [RegId.fieldsAt_eq _ _ (by decide), ha]
  refine State.stored_of_no_fields s ⟨.jpFaultReply, i, 0⟩ .full v ?_ ?_ ?_
  · exact (congrArg (· &&& _) (hmask .rw (by decide))).trans BitVec.zero_and
  · exact (congrArg (· &&& _) (hmask .rwl (by decide))).trans BitVec.zero_and
  · exact (congrArg (_ &&& ·) (hmask .w1c (by decide))).trans BitVec.and_zero

/-- The action and the record that a reply's word names, for a 1 and 2. -/
theorem faultReply_word {a : Nat} (ha : a < 3) (id : BitVec 16) :
    natBits (BitVec.ofNat 64 (a * 2 ^ 62 + id.toNat)).toNat 62 2 = a ∧
      BitVec.ofNat 16 (BitVec.ofNat 64 (a * 2 ^ 62 + id.toNat)).toNat = id := by
  have hid := id.isLt
  have hword : (BitVec.ofNat 64 (a * 2 ^ 62 + id.toNat)).toNat = a * 2 ^ 62 + id.toNat := by
    rw [BitVec.toNat_ofNat, Nat.mod_eq_of_lt (by omega)]
  rw [hword, natBits, Nat.shiftRight_eq_div_pow]
  refine ⟨by omega, BitVec.eq_of_toNat_eq ?_⟩
  rw [BitVec.toNat_ofNat]
  omega

/-- While the block serves its aperture a reply is taken. -/
theorem State.putAct_faultReply (h : s.serving) (p : Part) (id : BitVec 16) {a : Nat} (ha : a = 1 ∨ a = 2) :
    s.putAct .jpFaultReply p a id.toNat = if a = 1 then s.faultRetry p id else s.faultAbort p id := by
  have hlt := id.isLt
  obtain ⟨haction, hid⟩ := faultReply_word (a := a) (by omega) id
  have hact : s.act ⟨.jpFaultReply, p, 0⟩ a (accPos .full (BitVec.ofNat 64 (a * 2 ^ 62 + id.toNat))) =
      s.faultReply p (BitVec.ofNat 64 (a * 2 ^ 62 + id.toNat)).toNat := by
    obtain rfl | rfl := ha <;> simp only [State.act, partOf_val] <;> rfl
  rw [State.putAct_plain h .jpFaultReply p a id.toNat (RegRef.valid_part _ p rfl (by decide)) (State.sliceGone_reg _ _ _ _ (by decide)) rfl
    (by decide) nofun (by decide) rfl (fun _ _ _ => rfl) (actionOf_code (fun _ => rfl) (by omega) (by omega)) (by omega) rfl,
    State.put_jpFaultReply, hact]
  simp only [State.faultReply, haction, hid]
  obtain rfl | rfl := ha <;> rfl

theorem exec_faultRetry (h : s.serving) (p : Part) (id : BitVec 16) : exec (.faultRetry p id) s = .next (s.faultRetry p id).settle :=
  congrArg stepTo (State.putAct_faultReply h p id (.inl rfl))

theorem exec_faultAbort (h : s.serving) (p : Part) (id : BitVec 16) : exec (.faultAbort p id) s = .next (s.faultAbort p id).settle :=
  congrArg stepTo (State.putAct_faultReply h p id (.inr rfl))

theorem State.faultReply_stale (h : (s.part p).faults.find? (fun f => decide (f.id = id) && f.isOpen) = none) :
    s.faultRetry p id = s.setFld fJpFaultStatus_REPLY_STALE 1 p ∧ s.faultAbort p id = s.setFld fJpFaultStatus_REPLY_STALE 1 p := by
  simp only [State.faultRetry, State.faultAbort, h, and_self]

/-- A reply has closed its record, whose requests no longer wait for it. -/
def State.answered (s : State) (p : Part) (id : BitVec 16) : State :=
  s.modPart p fun ps => { ps with
    faults := updWhere (fun x => decide (x.id = id) && x.isOpen) (fun x => { x with isOpen := false }) ps.faults
    parked := ps.parked.filter fun x => decide (x.rec_ ≠ some id) }

theorem State.closeFault_answered (s : State) (p : Part) (id : BitVec 16) :
    ((s.closeFault p id).modPart p fun ps => { ps with parked := ps.parked.filter fun x => decide (x.rec_ ≠ some id) }) = s.answered p id :=
  State.modPart_modPart s p _ _

variable (h : (s.part p).faults.find? (fun f => decide (f.id = id) && f.isOpen) = some f)
include h

theorem State.faultRetry_open : s.faultRetry p id = (((s.answered p id).freshWalks p).forgetRanges fun e =>
    decide (e.part = p) && decide (BitVec.ofNat 32 e.index = f.range)).drainFaults p := by
  simp only [State.faultRetry, h, State.closeFault_answered]

theorem State.faultAbort_open : s.faultAbort p id = (((s.part p).parked.filter fun x => decide (x.rec_ = some id)).foldl
    (fun u x => u.abortParker p x.addr x.who) (s.answered p id)).drainFaults p := by
  simp only [State.faultAbort, h, State.closeFault_answered]

end

/-! The reads of a walk (R275) -/

theorem exec_walkReadReturn (s : State) (k : Fin 16) : exec (.walkReadReturn k) s = .next (s.walkStep k).engGo.settle := rfl

/-- The line of the key array that a walk reads next. -/
def Walk.mid (w : Walk) : Nat := if w.lo = w.hi then w.lo else (w.lo + w.hi + 1) / 2

/-- The address of that line. -/
def Walk.lineAddr (w : Walk) : Nat := w.keys + 256 * w.mid

/-- The keys in use on that line (R268). -/
def State.lineKeys (s : State) (w : Walk) : List (Nat × Nat) :=
  keysOf (s.rdBytes w.lineAddr 256) (min 16 (2 ^ s.fld fJpXlatTable_SIZE_LOG2 w.part))

/-- The last key on that line at or below the address. -/
def State.lastKey (s : State) (w : Walk) : Option (Nat × Nat) := ((s.lineKeys w).filter fun q => decide (q.1 ≤ w.addr)).getLast?

/-- The address of entry i of the range table (R269). -/
def State.entryAddr (s : State) (p : Part) (i : Nat) : Nat := s.fld fJpXlatTable_BASE p * 4096 + 32 * i

section
variable {s : State} {k : Fin 16} {w : Walk} (hwalk : s.walks.find? (fun w => decide (w.k = k)) = some w)
include hwalk

theorem State.walkStep_keys (hentry : w.entry = none) (hok : s.jReadOk (.walk k) w.lineAddr = (s, true)) :
    s.walkStep k = (s.jReadDone (.walk k)).walkKeys w := by
  have haddr : s.walkAddr w = w.lineAddr := by simp only [State.walkAddr, hentry, Walk.lineAddr, Walk.mid]
  simp only [State.walkStep, hwalk, haddr, hok, hentry, Bool.not_true, Bool.false_eq_true, if_false]

theorem State.walkStep_entry {i : Nat} (hentry : w.entry = some i) (hok : s.jReadOk (.walk k) (s.entryAddr w.part i) = (s, true)) :
    s.walkStep k = (s.jReadDone (.walk k)).walkEntry w i := by
  have haddr : s.walkAddr w = s.entryAddr w.part i := by simp only [State.walkAddr, hentry, State.entryAddr]
  simp only [State.walkStep, hwalk, haddr, hok, hentry, Bool.not_true, Bool.false_eq_true, if_false]

end

/-! A key line returns (R268, R275) -/

section
variable {s : State} {w : Walk}

theorem State.walkKeys_poisoned (h : s.rdPoison w.lineAddr 256 = true) :
    s.walkKeys w = s.endWalk w (some (.walkPoison, noRange, 0)) := if_pos h

variable (hclean : s.rdPoison w.lineAddr 256 = false)
include hclean

/-- Before its last line a walk goes on in the lines below it, or from it on, as its first key says. -/
theorem State.walkKeys_halves {st i : Nat} {r : List (Nat × Nat)} (hne : w.lo ≠ w.hi) (hkeys : s.lineKeys w = (st, i) :: r) :
    s.walkKeys w = { s with
      walks := updFirst (fun x => decide (x.k = w.k)) (fun x => if w.addr < st then { x with hi := w.mid - 1 } else { x with lo := w.mid })
        s.walks } := by
  simp only [State.lineKeys, Walk.lineAddr, Walk.mid, if_neg hne] at hclean hkeys
  simp only [State.walkKeys, Walk.mid, if_neg hne, hclean, hkeys, Bool.false_eq_true, if_false, List.head?_cons, decide_eq_true_eq]
  congr 2
  funext x
  split <;> rfl

variable (heq : w.lo = w.hi)
include heq

/-- The last line gives the entry of its last key at or below the address, or a fault. -/
theorem State.walkKeys_last : s.walkKeys w = (s.lastKey w).elim
    (s.endWalk w (some (.noRange, noRange, 0)) fun a => decide (a ≤ w.addr))
    fun q => if 2 ^ min (s.fld fJpXlatTable_SIZE_LOG2 w.part) 20 ≤ q.2 then
        s.endWalk w (some (.malformed, BitVec.ofNat 32 q.2, 0)) fun a => decide (q.1 ≤ a) && decide (a ≤ w.addr)
      else { s with walks := updFirst (fun x => decide (x.k = w.k)) (fun x => { x with entry := some q.2 }) s.walks } := by
  simp only [State.lastKey, State.lineKeys, Walk.lineAddr, Walk.mid, if_pos heq] at hclean ⊢
  simp only [State.walkKeys, if_pos heq, hclean, Bool.false_eq_true, if_false]
  generalize List.getLast? _ = key
  cases key <;> rfl

theorem State.walkKeys_found {st i : Nat} (hkey : s.lastKey w = some (st, i)) (hin : i < 2 ^ min (s.fld fJpXlatTable_SIZE_LOG2 w.part) 20) :
    s.walkKeys w = { s with walks := updFirst (fun x => decide (x.k = w.k)) (fun x => { x with entry := some i }) s.walks } := by
  rw [State.walkKeys_last hclean heq, hkey]
  exact if_neg (Nat.not_le.mpr hin)

theorem State.walkKeys_outside {st i : Nat} (hkey : s.lastKey w = some (st, i))
    (hout : 2 ^ min (s.fld fJpXlatTable_SIZE_LOG2 w.part) 20 ≤ i) :
    s.walkKeys w = s.endWalk w (some (.malformed, BitVec.ofNat 32 i, 0)) fun a => decide (st ≤ a) && decide (a ≤ w.addr) := by
  rw [State.walkKeys_last hclean heq, hkey]
  exact if_pos hout

theorem State.walkKeys_absent (habove : ∀ q ∈ s.lineKeys w, w.addr < q.1) :
    s.walkKeys w = s.endWalk w (some (.noRange, noRange, 0)) fun a => decide (a ≤ w.addr) := by
  rw [State.walkKeys_last hclean heq, State.lastKey, List.filter_eq_nil_iff.mpr fun q hq => by simpa using habove q hq]
  rfl

end

/-! The entry of a walk returns (R269, R275, R282) -/

/-- Entry i of a partition's range table, as memory holds it. -/
def State.entryWord (s : State) (p : Part) (i : Nat) : Nat := s.rdNat (s.entryAddr p i) 32

/-- That entry in the form of the range cache. -/
def State.rangeEntry (s : State) (p : Part) (i : Nat) : RangeEnt := entryOf p i (s.entryWord p i)

/-- The entry is VALID, and no invalidation has missed its GEN (R269, R282). -/
abbrev State.entryValid (s : State) (p : Part) (i : Nat) : Prop := natBits (s.entryWord p i) 0 1 = 1 ∧ i ∉ (s.part p).unmapped

theorem State.not_entryValid_iff {s : State} {p : Part} {i : Nat} :
    natBits (s.entryWord p i) 0 1 = 0 ∨ i ∈ (s.part p).unmapped ↔ ¬s.entryValid p i := by
  have hbit : natBits (s.entryWord p i) 0 1 < 2 := Nat.mod_lt _ (by decide)
  rw [not_and_or, not_not, show natBits (s.entryWord p i) 0 1 = 0 ↔ ¬natBits (s.entryWord p i) 0 1 = 1 by omega]

section
variable {s : State} {w : Walk} {i : Nat}

theorem State.walkEntry_held (h : s.rangeHeld w.part i = true) : s.walkEntry w i = s := if_pos h

variable (hfree : s.rangeHeld w.part i = false)
include hfree

theorem State.walkEntry_poisoned (h : s.rdPoison (s.entryAddr w.part i) 32 = true) :
    s.walkEntry w i = s.endWalk w (some (.walkPoison, BitVec.ofNat 32 i, 0)) :=
  (if_neg (Bool.eq_false_iff.mp hfree)).trans (if_pos h)

variable (hclean : s.rdPoison (s.entryAddr w.part i) 32 = false)
include hclean

theorem State.walkEntry_invalid (h : ¬s.entryValid w.part i) :
    s.walkEntry w i = s.endWalk w (some (.noRange, BitVec.ofNat 32 i, (s.rangeEntry w.part i).gen)) fun a =>
      decide ((s.rangeEntry w.part i).start ≤ a) && decide (a < (s.rangeEntry w.part i).start + (s.rangeEntry w.part i).len) :=
  (if_neg (Bool.eq_false_iff.mp hfree)).trans ((if_neg (Bool.eq_false_iff.mp hclean)).trans (if_pos (State.not_entryValid_iff.mpr h)))

variable (hvalid : s.entryValid w.part i)
include hvalid

/-- An entry that is VALID is checked, then filled. -/
theorem State.walkEntry_valid : s.walkEntry w i =
    let ent := s.rangeEntry w.part i
    if s.entryBad (s.entryWord w.part i) then s.endWalk w (some (.malformed, BitVec.ofNat 32 i, ent.gen)) fun a =>
      decide (ent.start ≤ a) && decide (a < ent.start + ent.len)
    else if !(ent.covers w.part w.addr) then s.endWalk w (some (.noRange, BitVec.ofNat 32 i, ent.gen)) fun a =>
      decide (ent.start + ent.len ≤ a) && decide (a ≤ w.addr)
    else (s.fillRange ent).endWalk w none :=
  (if_neg (Bool.eq_false_iff.mp hfree)).trans ((if_neg (Bool.eq_false_iff.mp hclean)).trans
    (if_neg fun h => State.not_entryValid_iff.mp h hvalid))

end

/-! The obligation -/

/-- Settles O27: the reads of JP_FAULT and the replies by the record they find, the two reads of a walk by what they return. -/
theorem faultsAndWalks : Obligations.FaultsAndWalks := by
  unfold Obligations.FaultsAndWalks
  refine ⟨fun s p acc h => ⟨fun hnone => ?_, fun f hfind => ?_⟩, fun s p id h => ⟨fun hnone => ?_, fun f hfind => ?_⟩,
    fun s k w hwalk hentry => ?_, fun s k w i hwalk hentry => ?_⟩
  · rw [exec_faultRead h, State.readFault_none hnone]
  · rw [exec_faultRead h, State.readFault_word hfind]
  · obtain ⟨hretry, habort⟩ := State.faultReply_stale hnone
    rw [exec_faultRetry h, exec_faultAbort h, hretry, habort]
    exact ⟨rfl, rfl⟩
  · rw [exec_faultRetry h, exec_faultAbort h, State.faultRetry_open hfind, State.faultAbort_open hfind]
    exact ⟨rfl, rfl⟩
  · intro mid la ks s1 go hok
    have hgo {t : State} (ht : s1.walkKeys w = t) : go t := by
      show exec (.walkReadReturn k) s = _
      rw [exec_walkReadReturn, State.walkStep_keys hwalk hentry hok, ht]
    exact ⟨fun hpoison => hgo (State.walkKeys_poisoned (s := s1) hpoison),
      fun hclean hne st i r hkeys => hgo (State.walkKeys_halves (s := s1) hclean hne hkeys),
      fun hclean heq st i hkey hin => hgo (State.walkKeys_found (s := s1) hclean heq hkey hin),
      fun hclean heq st i hkey hout => hgo (State.walkKeys_outside (s := s1) hclean heq hkey hout),
      fun hclean heq habove => hgo (State.walkKeys_absent (s := s1) hclean heq habove)⟩
  · intro base rg e ent here s1 go valid hok
    have hgo {t : State} (ht : s1.walkEntry w i = t) : go t := by
      show exec (.walkReadReturn k) s = _
      rw [exec_walkReadReturn, State.walkStep_entry hwalk hentry hok, ht]
    have hchecked (hfree : s.rangeHeld w.part i = false) (hclean : s.rdPoison base 32 = false) (hvalid : valid) :=
      State.walkEntry_valid (s := s1) hfree hclean hvalid
    have hformed (hfree : s.rangeHeld w.part i = false) (hclean : s.rdPoison base 32 = false) (hvalid : valid) (hgood : s.entryBad e = false) :=
      (hchecked hfree hclean hvalid).trans (if_neg (Bool.eq_false_iff.mp hgood))
    exact ⟨fun hheld => hgo (State.walkEntry_held hheld), fun hfree hpoison => hgo (State.walkEntry_poisoned hfree hpoison),
      fun hfree hclean hinvalid => hgo (State.walkEntry_invalid hfree hclean hinvalid),
      fun hfree hclean hvalid hbad => hgo ((hchecked hfree hclean hvalid).trans (if_pos hbad)),
      fun hfree hclean hvalid hgood hmiss => hgo ((hformed hfree hclean hvalid hgood).trans (if_pos (congrArg (!·) hmiss))),
      fun hfree hclean hvalid hgood hcover =>
        hgo ((hformed hfree hclean hvalid hgood).trans (if_neg (Bool.eq_false_iff.mp (congrArg (!·) hcover))))⟩

end Sys2Proof.Machine
end

section
/-! PROOF. Requests of the fabric's agents (O29): where they are refused, and how the home of a line serves them (R293 to R308). -/
namespace Sys2Proof.Machine

/-! The rows -/

section
variable {s : State} {a : Byte} {x : BitVec 36} {lost : Bool}

/-- Each row by which an agent makes a request of window offset x answers the state t. -/
def State.requestsAnswer (s : State) (a : Byte) (x : BitVec 36) (lost : Bool) (data : List Byte) (mask : BitVec 256) (op : AtomicOp)
    (t : State) : Prop :=
  exec (.rdShared a x lost) s = .next t.settle ∧ exec (.rdOwn a x lost) s = .next t.settle ∧ exec (.upgrade a x lost) s = .next t.settle ∧
    exec (.rdCur a x lost) s = .next t.settle ∧ exec (.wrLine a x data lost) s = .next t.settle ∧
    exec (.wrPart a x mask data lost) s = .next t.settle ∧ exec (.atomic a x op lost) s = .next t.settle

variable (h : s.serving)
include h

theorem exec_rdShared : exec (.rdShared a x lost) s = .next (s.coreReq a x .rdShared lost).settle :=
  congrArg stepTo (State.orHold_of_serving h _ _)

theorem exec_rdOwn : exec (.rdOwn a x lost) s = .next (s.coreReq a x .rdOwn lost).settle := congrArg stepTo (State.orHold_of_serving h _ _)

theorem exec_upgrade : exec (.upgrade a x lost) s = .next (s.coreReq a x .upgrade lost).settle :=
  congrArg stepTo (State.orHold_of_serving h _ _)

theorem exec_rdCur : exec (.rdCur a x lost) s = .next (s.coreReq a x .rdCur lost).settle := congrArg stepTo (State.orHold_of_serving h _ _)

theorem exec_wrLine {data : List Byte} :
    exec (.wrLine a x data lost) s = .next (s.coreReq a x (.write (BitVec.allOnes 256) data) lost).settle :=
  congrArg stepTo (State.orHold_of_serving h _ _)

theorem exec_wrPart {mask : BitVec 256} {data : List Byte} :
    exec (.wrPart a x mask data lost) s = .next (s.coreReq a x (.write mask data) lost).settle :=
  congrArg stepTo (State.orHold_of_serving h _ _)

theorem exec_atomic {op : AtomicOp} :
    exec (.atomic a x op lost) s = .next (s.coreReq a x (.atomic (x.toNat % 256 / atomSize op * atomSize op) op) lost).settle :=
  congrArg stepTo (State.orHold_of_serving h _ _)

/-- What a caching request answers, whichever it is, its three rows answer. -/
theorem exec_caching_requests {t : ReqKind → State} (ht : ∀ req, req.caching = true → s.coreReq a x req lost = t req) :
    exec (.rdShared a x lost) s = .next (t .rdShared).settle ∧ exec (.rdOwn a x lost) s = .next (t .rdOwn).settle ∧
    exec (.upgrade a x lost) s = .next (t .upgrade).settle := by
  rw [exec_rdShared h, exec_rdOwn h, exec_upgrade h, ht .rdShared rfl, ht .rdOwn rfl, ht .upgrade rfl]
  exact ⟨rfl, rfl, rfl⟩

/-- What every kind of request answers, the seven rows answer. -/
theorem State.requestsAnswer_of {t : State} (ht : ∀ req, s.coreReq a x req lost = t) (data : List Byte) (mask : BitVec 256) (op : AtomicOp) :
    s.requestsAnswer a x lost data mask op t := by
  obtain ⟨hs, ho, hu⟩ := exec_caching_requests h (t := fun _ => t) fun req _ => ht req
  refine ⟨hs, ho, hu, ?_, ?_, ?_, ?_⟩
  · rw [exec_rdCur h, ht]
  · rw [exec_wrLine h, ht]
  · rw [exec_wrPart h, ht]
  · rw [exec_atomic h, ht]

end

/-! Requests that do not reach a home (R293, R294, R296, R312) -/

/-- A dead agent is refused, whatever it asks for. -/
theorem State.agentRefused_of_dead {s : State} {a : Byte} (h : s.agentBit .jeFabDeadmask a = true) (caching : Bool) :
    s.agentRefused a caching = true := by
  simp only [State.agentRefused, h, Bool.true_or]

section
variable {s : State} {a : Byte} {x : BitVec 36} {req : ReqKind} {lost : Bool} (hlink : s.fld fJeFabStatus_STATE = 0)
include hlink

theorem State.coreReq_disabled (hoff : s.fld fJeWinCtl_ENABLED = 0) :
    s.coreReq a x req lost = (s.eventE 0x40 a.toNat x.toNat).emit (.fabError a x.toNat) :=
  (if_neg (not_not.mpr hlink)).trans (if_pos hoff)

variable (hon : s.fld fJeWinCtl_ENABLED = 1)
include hon

theorem State.coreReq_refused (href : s.agentRefused a req.caching = true) : s.coreReq a x req lost = s.emit (.fabError a x.toNat) :=
  (if_neg (not_not.mpr hlink)).trans ((if_neg (by omega)).trans (if_pos href))

variable (hlive : s.agentRefused a req.caching = false)
include hlive

theorem State.coreReq_homeless (hhome : s.homeOf (s.winLine x) = none) : s.coreReq a x req lost = s.emit (.fabError a x.toNat) := by
  simp only [State.coreReq, hlink, hon, hlive, hhome, ne_eq, not_true_eq_false, if_false, Nat.one_ne_zero, Bool.false_eq_true]

variable {n : SliceId} {set : Nat} (hhome : s.homeOf (s.winLine x) = some (n, set))
include hhome

/-- A request whose line has a home, by what the window and the slice do. -/
theorem State.coreReq_of_home :
    (s.fab.winAction = 3 → s.coreReq a x req lost = (s.bump fJsTrellisStat_RETRIES n.val).emit (.retry a (s.winLine x) 1024)) ∧
    (s.fab.winAction ≠ 3 → s.sliceServes n none = false → s.coreReq a x req lost = s.emit (.fabError a x.toNat)) ∧
    (s.fab.winAction ≠ 3 → s.sliceServes n none = true →
      s.coreReq a x req lost = (if lost then s.entryLost (s.winLine x) else s).coreGo n set ⟨some a, s.winLine x, req⟩ a) := by
  refine ⟨fun hmove => ?_, fun hstay hserves => ?_, fun hstay hserves => ?_⟩ <;>
    simp only [State.coreReq, hlink, hon, hlive, hhome, ne_eq, not_true_eq_false, if_false, Nat.one_ne_zero, Bool.false_eq_true]
  · rw [if_pos hmove]
  · rw [if_neg hstay, if_pos (by rw [hserves]; rfl)]
  · rw [if_neg hstay, if_neg (by rw [hserves]; decide)]

end

/-- A request that is served at once goes to the home of its line. -/
theorem State.coreReq_homeFree {s : State} {a : Byte} {x : BitVec 36} {n : SliceId} {set : Nat} {req : ReqKind} {lost : Bool}
    (hfree : s.homeFree a x n set req.caching) :
    s.coreReq a x req lost = (if lost then s.entryLost (s.winLine x) else s).coreGo n set ⟨some a, s.winLine x, req⟩ a := by
  obtain ⟨hlink, hon, hstay, hhome, hserves, hlive, -, -⟩ := hfree
  obtain ⟨-, -, hgo⟩ := State.coreReq_of_home (lost := lost) hlink hon hlive hhome
  exact hgo hstay hserves

/-! Requests at a line that nothing holds (R308) -/

section
variable {s : State} {a : Byte} {x : BitVec 36} {n : SliceId} {set : Nat} {req : ReqKind} {u : State} (hfree : s.homeFree a x n set req.caching)
  (hpage : s.biasOf (s.pageOf (s.lineAddr (s.winLine x))) ≠ .toDevice)
include hfree hpage

/-- What the home answers decides a request at once: served, it is settled; one that must wait is held while there is room. -/
theorem State.coreReq_served :
    (s.serveReq ⟨some a, s.winLine x, req⟩ = (u, .done) → s.coreReq a x req = u.settleHome) ∧
    (s.serveReq ⟨some a, s.winLine x, req⟩ = (u, .wait) → u.homeLoad n < 512 →
      s.coreReq a x req = { u with coreReqs := u.coreReqs ++ [⟨some a, s.winLine x, req⟩] }) := by
  have hgo := State.coreReq_homeFree (lost := false) hfree
  obtain ⟨-, -, -, -, -, -, hquiet, hnone⟩ := hfree
  have hkeep : ¬(req.caching = true ∧ s.biasOf (s.pageOf (s.lineAddr (s.winLine x))) = .toDevice) := fun hc => hpage hc.2
  have hclear : ¬((s.txnOn (s.winLine x)).isSome = true ∨ s.coreReqs.any (fun y => decide (y.line = s.winLine x)) = true) := by
    simpa [hquiet] using hnone
  refine ⟨fun hs => ?_, fun hs hroom => ?_⟩ <;> rw [hgo] <;>
    simp only [Bool.false_eq_true, if_false, State.coreGo, if_neg hkeep, if_neg hclear, hs]
  exact if_neg (Nat.not_le.mpr hroom)

end

/-! Service by the line's page (R296) -/

section
variable {s : State} {q : CoreReq} {n : SliceId} {set : Nat} (hhome : s.homeOf q.line = some (n, set)) (hserves : s.sliceServes n none = true)
  (hwin : s.inWindow (s.lineAddr q.line) = true)
include hhome hserves hwin

theorem State.serveReq_device (hbias : s.biasOf (s.pageOf (s.lineAddr q.line)) = .device) (hq : q.req.caching = true) :
    s.serveReq q = (s.startFlip (s.pageOf (s.lineAddr q.line)), .wait) := by
  simp only [State.serveReq, hhome, hserves, hwin, hbias, hq, Bool.not_true, Bool.false_eq_true, if_false, or_true, and_self, if_true]

variable (hbias : s.biasOf (s.pageOf (s.lineAddr q.line)) = .shared)
include hbias

/-- A line of a shared page is served by its entry. -/
theorem State.serveReq_shared :
    (s.trOf q.line = none → s.serveReq q = s.serveI n set q) ∧
    (∀ e, s.trOf q.line = some e → e.state = .x → s.serveReq q = s.serveX n set e q) ∧
    (∀ e, s.trOf q.line = some e → e.state ≠ .x → s.serveReq q = s.serveS n set e q) := by
  have hflip : s.flipping (s.lineAddr q.line) = false := by simp [State.flipping, hbias]
  refine ⟨fun he => ?_, fun e he hx => ?_, fun e he hx => ?_⟩ <;>
    simp only [State.serveReq, hhome, hserves, hwin, hbias, hflip, he, Bool.not_true, Bool.false_eq_true, if_false, or_self, reduceCtorEq]
  · rw [if_pos hx]
  · rw [if_neg hx]

end

/-- A request that finds its line of a shared page in no entry. -/
theorem State.coreReq_unlisted {s : State} {a : Byte} {x : BitVec 36} {n : SliceId} {set : Nat} {req : ReqKind} {u : State}
    (hfree : s.homeFree a x n set req.caching) (hpage : s.pageIs x .shared) (he : s.trOf (s.winLine x) = none)
    (hu : s.serveI n set ⟨some a, s.winLine x, req⟩ = (u, .done)) : s.coreReq a x req = u.settleHome := by
  obtain ⟨hwin, hbias⟩ := hpage
  obtain ⟨hdone, -⟩ := State.coreReq_served (u := u) hfree (by simp [hbias])
  obtain ⟨-, -, -, hhome, hserves, -, -, -⟩ := hfree
  obtain ⟨hnone, -, -⟩ := State.serveReq_shared (q := ⟨some a, s.winLine x, req⟩) hhome hserves hwin hbias
  exact hdone ((hnone he).trans hu)

/-! A line with no entry (R301, R304) -/

/-- The state with a fresh entry of a line in the first free way of its set. -/
def State.entered (s : State) (n : SliceId) (set line : Nat) : State :=
  let used := s.trellis.filter fun e => decide (e.n = n) && decide (e.set = set)
  let s0 : State := { s with trellis := s.trellis ++ [⟨n, set, firstFree (used.map (·.way)) 16 0, line, .s, false, [], none, [], s.clock⟩] }
  s0.peak fJsTrellisUse_PEAK (s0.trellis.filter fun e => decide (e.n = n)).length n.val

section
variable {s : State} {n : SliceId} {set line : Nat} {a : Byte}

section
variable (hroom : (s.trellis.filter fun e => decide (e.n = n) && decide (e.set = set)).length < 16)
include hroom

/-- A set with a free way takes the line. -/
theorem State.takeTrWay_room : s.takeTrWay n set line = (s.entered n set line, .done) := if_pos hroom

/-- A caching request is granted the line in its new way: shared, or as its only holder. -/
theorem State.serveI_caching :
    s.serveI n set ⟨some a, line, .rdShared⟩ =
      ((s.entered n set line).grantLine a line true fun e => e.share a (decide (s.fld fJeFabCtl_FWD_EN = 1)), .done) ∧
    (∀ req, req = .rdOwn ∨ req = .upgrade →
      s.serveI n set ⟨some a, line, req⟩ = ((s.entered n set line).grantLine a line true fun e => e.own a, .done)) := by
  refine ⟨?_, ?_⟩
  · simp only [State.serveI, State.takeTrWay_room hroom]
  · rintro req (rfl | rfl) <;> simp only [State.serveI, State.takeTrWay_room hroom]

end

/-- A read, a write and an atomic are served at the memory. -/
theorem State.serveI_rdCur :
    s.serveI n set ⟨some a, line, .rdCur⟩ = (s.emit (.grant a line (some (s.lineData line).1) (s.lineData line).2), .done) := rfl

theorem State.serveI_write {m : BitVec 256} {data : List Byte} {u : State} (hu : s.takeAll n (coreWrites (s.lineAddr line) m data) = some u) :
    s.serveI n set ⟨some a, line, .write m data⟩ = (u.emit (.ack a line), .done) := by
  simp only [State.serveI, ReqKind.isAtomic, Bool.false_eq_true, if_false, State.serveMem, hu, Option.map_some]

theorem State.serveI_atomic {off : Nat} {op : AtomicOp} {u : State} {old : W64}
    (hu : (s.placeAtomic n set none).1.doAtomic n line off op = some (u, old)) :
    s.serveI n set ⟨some a, line, .atomic off op⟩ = (u.emit (.old a old), .done) := by
  simp only [State.serveI, ReqKind.isAtomic, if_true, State.serveMem, hu, Option.map_some]

end

/-! A line in X: its owner is asked (R304, R305) -/

section
variable {s : State} {n : SliceId} {set line : Nat} {e : TrEnt} {a : Byte}

theorem State.serveX_rdShared (hother : e.holders ≠ [a]) :
    s.serveX n set e ⟨some a, line, .rdShared⟩ = s.openFor e ⟨some a, line, .rdShared⟩ e.holders .share := if_neg (by simpa using hother)

theorem State.serveX_own {req : ReqKind} (hreq : req = .rdOwn ∨ req = .upgrade) (hother : e.holders ≠ [a]) :
    s.serveX n set e ⟨some a, line, req⟩ = s.openFor e ⟨some a, line, req⟩ e.holders .inv := by
  rcases hreq with rfl | rfl <;> exact if_neg (by simpa using hother)

theorem State.serveX_rdCur (ag : Option Byte) :
    s.serveX n set e ⟨ag, line, .rdCur⟩ = s.openFor e ⟨ag, line, .rdCur⟩ e.holders .cur := rfl

theorem State.serveX_write (ag : Option Byte) (m : BitVec 256) (d : List Byte) :
    s.serveX n set e ⟨ag, line, .write m d⟩ = s.openFor e ⟨ag, line, .write m d⟩ e.holders .inv := rfl

end

/-! A line in S or F (R303, R304) -/

section
variable {s : State} {n : SliceId} {set line : Nat} {e : TrEnt} {a : Byte}

/-- Without another forwarder to ask, RD_SHARED is granted at once. -/
theorem State.serveS_rdShared_now (hfwd : e.state ≠ .f ∨ e.fwd = none ∨ e.fwd = some a) :
    s.serveS n set e ⟨some a, line, .rdShared⟩ =
      (s.grantLine a line true fun e => e.share a (decide (s.fld fJeFabCtl_FWD_EN = 1)), .done) := by
  simp only [State.serveS]
  split
  · rename_i f hf hown
    rw [if_pos (by simpa [hf, hown] using hfwd)]
  · rfl

/-- The forwarder of a line in F is asked first. -/
theorem State.serveS_rdShared_forward {f : Byte} (hf : e.state = .f) (hfwd : e.fwd = some f) (hne : f ≠ a) :
    s.serveS n set e ⟨some a, line, .rdShared⟩ = s.openFor e ⟨some a, line, .rdShared⟩ [f] .fwd := by
  simp only [State.serveS, hf, hfwd, if_neg hne]

theorem State.serveS_rdOwn : s.serveS n set e ⟨some a, line, .rdOwn⟩ = s.takeOwn e ⟨some a, line, .rdOwn⟩ a true := rfl

theorem State.serveS_upgrade :
    s.serveS n set e ⟨some a, line, .upgrade⟩ = s.takeOwn e ⟨some a, line, .upgrade⟩ a (!(e.ovf || decide (a ∈ e.holders))) := rfl

theorem State.serveS_write (ag : Option Byte) (m : BitVec 256) (d : List Byte) :
    s.serveS n set e ⟨ag, line, .write m d⟩ = s.openFor e ⟨ag, line, .write m d⟩ (s.holdersOf e) .inv := rfl

/-- A new owner waits for the other holders, where there are any. -/
theorem State.takeOwn_cases (s : State) (e : TrEnt) (q : CoreReq) (a : Byte) (data : Bool) :
    ((s.holdersOf e).filter (fun h => decide (h ≠ a)) = [] → s.takeOwn e q a data = (s.grantLine a q.line data fun e => e.own a, .done)) ∧
    ((s.holdersOf e).filter (fun h => decide (h ≠ a)) ≠ [] →
      s.takeOwn e q a data = s.openFor e q ((s.holdersOf e).filter fun h => decide (h ≠ a)) .inv) := by
  simp only [State.takeOwn]
  split
  · rename_i hnone
    exact ⟨fun _ => rfl, fun hsome => absurd hnone hsome⟩
  · rename_i hsome
    exact ⟨fun hnone => absurd hnone hsome, fun _ => rfl⟩

end

/-- An entry that fails its check: event 0x41, and every live agent is snooped (R300). -/
theorem State.entryLost_alone {s : State} {line : Nat} {e : TrEnt} (he : s.trOf line = some e) (hquiet : s.txnOn line = none) :
    let s1 := (s.eventE 0x41 e.n (e.set * 16 + e.way)).openTxn none line none .recall (s.liveAgents.map fun a => (a, .inv))
    s.entryLost line =
      ({ s1 with txns := updFirst (fun x => decide (x.line = line)) (fun x => { x with lost := true }) s1.txns } : State).settleHome := by
  simp only [State.entryLost, he, hquiet]

/-! The obligation -/

/-- Settles O29: where a request is refused, and how the home of its line serves it, by the line's page and entry. -/
theorem coherentRequests : Obligations.CoherentRequests := by
  unfold Obligations.CoherentRequests
  refine ⟨?_, ?_, ?_, ?_, ?_, State.takeOwn_cases, fun s line e => State.entryLost_alone, ?_⟩
  · intro s a x lost data mask op h hlink all
    have hall {t : State} (ht : ∀ req, s.coreReq a x req lost = t) : all t := State.requestsAnswer_of h ht data mask op
    refine ⟨fun hoff => hall fun req => State.coreReq_disabled hlink hoff, fun hon href => ?_,
      fun hon hlive => ⟨fun hhome => hall fun req => State.coreReq_homeless hlink hon (hlive _) hhome, fun n set hhome => ?_⟩⟩
    · obtain ⟨hs, ho, hu⟩ := exec_caching_requests (lost := lost) h (t := fun _ => s.emit (.fabError a x.toNat)) fun req hreq =>
        State.coreReq_refused hlink hon (hreq.symm ▸ href)
      exact ⟨hs, ho, hu, fun hdead => hall fun req => State.coreReq_refused hlink hon (State.agentRefused_of_dead hdead _)⟩
    · have hcases (req : ReqKind) := State.coreReq_of_home (req := req) (lost := lost) hlink hon (hlive _) hhome
      refine ⟨fun hmove => hall fun req => ?_, fun hstay hserves => hall fun req => ?_⟩ <;> obtain ⟨hretry, hgone, -⟩ := hcases req
      · exact hretry hmove
      · exact hgone hstay hserves
  · intro s a x n set h hfree hpage he line used hroom s0 s1
    have hserve {req : ReqKind} {u : State} (hreq : req.caching = true) (hu : s.serveI n set ⟨some a, line, req⟩ = (u, .done)) :=
      State.coreReq_unlisted (hreq.symm ▸ hfree) hpage he hu
    obtain ⟨hshared, hown⟩ := State.serveI_caching (line := line) (a := a) hroom
    rw [exec_rdShared h, exec_rdOwn h, exec_upgrade h, hserve rfl hshared, hserve rfl (hown _ (.inl rfl)), hserve rfl (hown _ (.inr rfl))]
    exact ⟨rfl, rfl, rfl⟩
  · intro s a x n set h hfree hpage he line
    have hserve {req : ReqKind} {u : State} (hreq : req.caching = false) (hu : s.serveI n set ⟨some a, line, req⟩ = (u, .done)) :=
      State.coreReq_unlisted (hreq.symm ▸ hfree) hpage he hu
    refine ⟨?_, fun data u hu => ?_, fun mask data u hu => ?_, fun op u old hu => ?_⟩
    · rw [exec_rdCur h, hserve rfl State.serveI_rdCur]
    · rw [exec_wrLine h, hserve rfl (State.serveI_write hu)]
    · rw [exec_wrPart h, hserve rfl (State.serveI_write hu)]
    · rw [exec_atomic h, hserve rfl (State.serveI_atomic hu)]
  · intro s a x n set h hfree hpage page s1 hroom held
    obtain ⟨hwin, hbias⟩ := hpage
    refine exec_caching_requests h (t := held) fun req hreq => ?_
    obtain ⟨-, hwait⟩ := State.coreReq_served (u := s1) (hreq.symm ▸ hfree) (by simp [hbias])
    obtain ⟨-, -, -, hhome, hserves, -, -, -⟩ := hfree
    exact hwait (State.serveReq_device (q := ⟨some a, s.winLine x, req⟩) hhome hserves hwin hbias hreq) hroom
  · rintro s ⟨ag, line, req⟩ n set e hhome hserves hwin hbias he
    obtain ⟨-, hx, hs⟩ := State.serveReq_shared hhome hserves hwin hbias
    refine ⟨fun hown hother => ?_, fun hclean => ?_⟩
    · rw [hx e he hown]
      refine ⟨?_, ?_, ?_, ?_⟩
      · rintro rfl hag
        obtain ⟨a, rfl⟩ := Option.ne_none_iff_exists'.mp hag
        exact State.serveX_rdShared (hother a rfl)
      · intro hreq hag
        obtain ⟨a, rfl⟩ := Option.ne_none_iff_exists'.mp hag
        exact State.serveX_own hreq (hother a rfl)
      · rintro rfl
        exact State.serveX_rdCur ag
      · rintro m d rfl
        exact State.serveX_write ag m d
    · rw [hs e he hclean]
      refine ⟨?_, ?_, ?_, ?_, ?_⟩
      · rintro a rfl rfl hfwd
        exact State.serveS_rdShared_now hfwd
      · rintro a f rfl rfl hf hfwd hne
        exact State.serveS_rdShared_forward hf hfwd hne
      · rintro a rfl rfl
        exact State.serveS_rdOwn
      · rintro a rfl rfl
        exact State.serveS_upgrade
      · rintro m d rfl
        exact State.serveS_write ag m d
  · intro s a x n set h hfree
    exact exec_caching_requests h fun req hreq => State.coreReq_homeFree (lost := true) (hreq.symm ▸ hfree)

end Sys2Proof.Machine
end

section
/-! PROOF. Write-backs, answers to snoops, grants and dead agents (O30; R301, R302, R304, R309, R312). -/
namespace Sys2Proof.Machine

/-! Write-backs (R302, R304) -/

section
variable {s : State} {a : Byte} {x : BitVec 36} {data : List Byte} {n : SliceId} {set : Nat}

theorem exec_wbDirty (h : s.serving) : exec (.wbDirty a x data) s = .next (s.writeBack a x data).settle :=
  congrArg stepTo (State.orHold_of_serving h _ _)

variable (hlink : s.fld fJeFabStatus_STATE = 0) (hon : s.fld fJeWinCtl_ENABLED = 1) (hhome : s.homeOf (s.winLine x) = some (n, set))
  (hlive : s.agentRefused a true = false) (hserves : s.sliceServes n none = true)
include hlink hon hhome hlive hserves

/-- A write-back to a line with nothing open: the owner's goes to memory and frees the entry, any other is stray. -/
theorem State.writeBack_quiet (hquiet : s.txnOn (s.winLine x) = none) :
    (∀ e, s.trOf (s.winLine x) = some e → e.state = .x → e.holders = [a] →
      s.writeBack a x data = (((s.putLine (s.winLine x) data).freeTr (s.winLine x)).emit (.ack a (s.winLine x))).settleHome) ∧
    ((∀ e, s.trOf (s.winLine x) = some e → ¬(e.state = .x ∧ e.holders = [a])) →
      s.writeBack a x data = (s.bump fJsAtomicStat_STRAY_WB n.val).emit (.ack a (s.winLine x))) := by
  have hgo : ¬(s.agentRefused a true = true ∨ (!(s.sliceServes n none)) = true) := by simp [hlive, hserves]
  refine ⟨fun e he hx hown => ?_, fun hstray => ?_⟩ <;>
    simp only [State.writeBack, hlink, hon, hhome, hquiet, ne_eq, not_true_eq_false, if_false, Nat.one_ne_zero, if_neg hgo]
  · simp only [he, if_pos (And.intro hx hown)]
  · cases he : s.trOf (s.winLine x) with
    | none => rfl
    | some e => exact if_neg (hstray e he)

/-- A write-back to a line with an open transaction: the data of an owner who was asked are written, but not under a whole-line write. -/
theorem State.writeBack_open {t : Txn} (hopen : s.txnOn (s.winLine x) = some t) :
    (t.owner = some a → t.evict = true → (∀ m d, t.req ≠ .write m d) →
      s.writeBack a x data = (s.putLine (s.winLine x) data).emit (.ack a (s.winLine x))) ∧
    (∀ d, t.owner = some a → t.evict = true → t.req = .write (BitVec.allOnes 256) d →
      s.writeBack a x data = s.emit (.ack a (s.winLine x))) ∧
    (t.owner ≠ some a → t.lost = false →
      s.writeBack a x data = (s.bump fJsAtomicStat_STRAY_WB n.val).emit (.ack a (s.winLine x))) := by
  have hgo : ¬(s.agentRefused a true = true ∨ (!(s.sliceServes n none)) = true) := by simp [hlive, hserves]
  refine ⟨fun hown hevict hreq => ?_, fun d hown hevict hreq => ?_, fun hown hlost => ?_⟩ <;>
    simp only [State.writeBack, hlink, hon, hhome, hopen, ne_eq, not_true_eq_false, if_false, Nat.one_ne_zero, if_neg hgo]
  · rw [if_pos (by simp [hown, hevict])]
    cases hr : t.req with
    | write m d => exact absurd hr (hreq m d)
    | _ => rfl
  · simp only [hreq]
    rw [if_pos (by simp [hown, hevict])]
    rfl
  · rw [if_neg (by simp [hown, hlost])]

end

/-! Answers to snoops (R301, R304) -/

/-- An answer that no transaction awaits changes nothing. -/
theorem State.snoop_unawaited {s : State} {a : Byte} {x : BitVec 36} (h : s.awaited (s.winLine x) a = none) (data : Option (List Byte)) :
    s.snoopAck a x data = s ∧ s.snoopAbsent a x = s := by
  simp only [State.snoopAck, State.snoopAbsent, h, and_self]

section
variable {s : State} {a : Byte} {x : BitVec 36} {t : Txn} {k : Snoop} (h : s.awaited (s.winLine x) a = some (t, k))
include h

theorem State.snoopAck_plain : s.snoopAck a x none = s.answerSnoop (s.winLine x) a false := by simp only [State.snoopAck, h]

/-- The owner's data are written before its answer counts. -/
theorem State.snoopAck_data {d : List Byte} (hown : t.owner = some a ∨ t.lost = true) (hreq : ∀ m w, t.req ≠ .write m w) :
    s.snoopAck a x (some d) = (s.putLine (s.winLine x) d).answerSnoop (s.winLine x) a false := by
  simp only [State.snoopAck, h]
  have howner : ¬(t.owner ≠ some a ∧ (!t.lost) = true) := by rcases hown with hown | hown <;> simp [hown]
  cases hr : t.req with
  | write m w => exact absurd hr (hreq m w)
  | _ => simp only [howner, Bool.false_eq_true, or_self, if_false]

/-- An agent that does not hold the line leaves its entry, and counts. -/
theorem State.snoopAbsent_awaited {n : SliceId} {set : Nat} (hhome : s.homeOf (s.winLine x) = some (n, set)) :
    s.snoopAbsent a x =
      ((s.bump fJsTrellisStat_STALE_ACKS n.val).modTr (s.winLine x) fun e => e.drop a).answerSnoop (s.winLine x) a true := by
  simp only [State.snoopAbsent, h, State.absentAt, hhome, Option.map_some, Option.getD_some, if_true]

end

/-! Dead agents (R312) -/

/-- An overdue answer kills its agent while the limit is counted, and at no other time. -/
theorem exec_snoopTimeout (s : State) (a : Byte) (x : BitVec 36) :
    (∀ k, s.awaited (s.winLine x) a = some k → s.fld fJeFabCtl_SNOOP_LIMIT ≠ 0 → s.fld fJeFabStatus_LINK_UP = 1 → s.fab.retrain = false →
      exec (.snoopTimeout a x) s = .next (s.declareDead a 0).settle) ∧
    (s.awaited (s.winLine x) a = none ∨ s.fld fJeFabCtl_SNOOP_LIMIT = 0 ∨ s.fld fJeFabStatus_LINK_UP ≠ 1 ∨ s.fab.retrain = true →
      exec (.snoopTimeout a x) s = .next s.settle) := by
  refine ⟨fun k hk hlimit hup hsteady => congrArg stepTo (if_pos ⟨by rw [hk]; rfl, hlimit, hup, hsteady⟩),
    fun hnot => congrArg stepTo (if_neg ?_)⟩
  rintro ⟨hk, hlimit, hup, hsteady⟩
  rcases hnot with hnone | hzero | hdown | htrain
  · rw [hnone] at hk
    cases hk
  · exact hlimit hzero
  · exact hdown hup
  · rw [hsteady] at htrain
    cases htrain

theorem valid_jeFabDead : RegRef.valid ⟨.jeFabDead, 0, 0⟩ := RegRef.valid_hub _ rfl (by decide)

/-- What DECLARE_AGENT_DEAD writes. -/
def deadWord (a : Byte) : W64 := BitVec.ofNat 64 (1 * 2 ^ 62 + a.toNat)

theorem actionOf_deadWord (a : Byte) : actionOf .jeFabDead (deadWord a) = 1 :=
  actionOf_code1 (fun _ => rfl) (Nat.lt_trans a.isLt (by decide))

/-- The row is a whole write of JE_FAB_DEAD. -/
theorem exec_declareAgentDead (s : State) (a : Byte) :
    exec (.declareAgentDead a) s = stepTo (s.putReg .jeFabDead 0 0 .full (deadWord a)) := rfl

theorem State.fld_put_deadAgent (s : State) (a : Byte) : (s.put .jeFabDead 0 (deadWord a)).fld fJeFabDead_AGENT = a.toNat := by
  refine (State.fld_put_operand s fJeFabDead_AGENT 0 1 a.toNat (by decide) (by decide) (by decide) (by decide)
    (Nat.lt_trans a.isLt (by decide)) (by decide)).trans ?_
  exact (congrArg (· % 2 ^ 8) (Nat.div_one _)).trans (Nat.mod_eq_of_lt a.isLt)

section
variable {s : State} {a : Byte} (h : s.serving)
include h

/-- While BUSY is set the action is rejected; the register has no RESULT (R414). -/
theorem State.putReg_dead_busy (hb : s.fld fJeFabDead_BUSY = 1) : s.putReg .jeFabDead 0 0 .full (deadWord a) = s :=
  State.putReg_busy h .jeFabDead 0 .full (deadWord a) valid_jeFabDead rfl (.inr rfl) rfl nofun nofun nofun
    (decide_eq_true hb) (by rw [show accPos .full (deadWord a) = deadWord a from rfl, actionOf_deadWord]; decide)

/-- An agent that software declares dead is recorded as the register's AGENT, then dies. -/
theorem State.putReg_dead_idle (hb : s.fld fJeFabDead_BUSY = 0) :
    s.putReg .jeFabDead 0 0 .full (deadWord a) = ((s.put .jeFabDead 0 (deadWord a)).setFld fJeFabDead_AGENT a.toNat).declareDead a 1 := by
  have hact : (s.put .jeFabDead 0 (deadWord a)).act ⟨.jeFabDead, 0, 0⟩ 1 (deadWord a) =
      (s.put .jeFabDead 0 (deadWord a)).deadByHand (BitVec.ofNat 8 ((s.put .jeFabDead 0 (deadWord a)).fld fJeFabDead_AGENT)) := rfl
  rw [State.fld_put_deadAgent, BitVec.ofNat_toNat, BitVec.setWidth_eq] at hact
  refine (State.putReg_action h .jeFabDead 0 (deadWord a) valid_jeFabDead rfl rfl nofun nofun nofun ?_ (fun _ _ _ => rfl) 1
    (actionOf_deadWord a) (by decide)).trans ((State.orRefused_taken rfl).trans hact)
  exact decide_eq_false (by rw [hb]; decide)

end

theorem exec_deadAgentScanDone (s : State) :
    (s.fab.deadScan = none → exec .deadAgentScanDone s = .next s.settle) ∧
    (∀ a, s.fab.deadScan = some a →
      exec .deadAgentScanDone s = .next (({ s with fab := { s.fab with deadScan := none } } : State).setFld fJeFabDead_BUSY 0).settle) := by
  have he : exec .deadAgentScanDone s = execDeadAgentScanDone s := rfl
  refine ⟨fun hnone => ?_, fun a hsome => ?_⟩ <;> rw [he, execDeadAgentScanDone, stepTo_eq]
  · rw [hnone]
  · rw [hsome]

/-! The obligation -/

/-- Settles O30: a write-back and an answer by what is open on the line, a dead agent by who found it and by BUSY. -/
theorem snoopsAndDeadAgents : Obligations.SnoopsAndDeadAgents := by
  unfold Obligations.SnoopsAndDeadAgents
  refine ⟨?_, ?_, ?_, ?_, fun s line a absent => rfl, fun s x => rfl, exec_snoopTimeout, fun s a h => ⟨fun hb => ?_, fun hb => ?_⟩,
    fun s a cause => rfl, exec_deadAgentScanDone⟩
  · intro s a x data n set h hfree
    obtain ⟨hlink, hon, -, hhome, hserves, hlive, hquiet, -⟩ := hfree
    obtain ⟨howner, hstray⟩ := State.writeBack_quiet (data := data) hlink hon hhome hlive hserves hquiet
    rw [exec_wbDirty h]
    exact ⟨fun e he hx hown => by rw [howner e he hx hown], fun hnot => by rw [hstray hnot]⟩
  · intro s a x data n set t h hlink hon hhome hlive hserves hopen
    obtain ⟨hput, hdrop, hstray⟩ := State.writeBack_open (data := data) hlink hon hhome hlive hserves hopen
    rw [exec_wbDirty h]
    exact ⟨fun hown hevict hreq => by rw [hput hown hevict hreq], fun d hown hevict hreq => by rw [hdrop d hown hevict hreq],
      fun hown hlost => by rw [hstray hown hlost]⟩
  · intro s a x data hnone
    obtain ⟨hack, habsent⟩ := State.snoop_unawaited hnone data
    exact ⟨congrArg (fun u => stepTo (State.engGo u)) hack, congrArg (fun u => stepTo (State.engGo u)) habsent⟩
  · intro s a x t k hk
    exact ⟨congrArg (fun u => stepTo (State.engGo u)) (State.snoopAck_plain hk),
      fun d hown hreq => congrArg (fun u => stepTo (State.engGo u)) (State.snoopAck_data hk hown hreq),
      fun n set hhome => congrArg (fun u => stepTo (State.engGo u)) (State.snoopAbsent_awaited hk hhome)⟩
  · exact congrArg stepTo (State.putReg_dead_busy h hb)
  · exact congrArg stepTo (State.putReg_dead_idle h hb)

end Sys2Proof.Machine
end

section
/-! PROOF. The link of the fabric agent (O33): retrains, the resets of the agent, its scan and its return (R299, R313, R314, R316). -/
namespace Sys2Proof.Machine

/-! Retrains (R313) -/

theorem exec_fabRetrain_begins {s : State} (hidle : s.fab.retrain = false) :
    let s1 := ({ s with fab := { s.fab with retrain := true } } : State).bump fJeFabStatus_RETRAINS
    (s.fld fJeFabStatus_STATE = 0 → exec (.fabRetrain true) s = .next (s1.setFld fJeFabStatus_STATE 1).settle) ∧
    (s.fld fJeFabStatus_STATE ≠ 0 → exec (.fabRetrain true) s = .next s1.settle) := by
  have hnew : (true : Bool) = true ∧ (!s.fab.retrain) = true := ⟨rfl, by rw [hidle]; rfl⟩
  exact ⟨fun hrun => congrArg stepTo ((if_pos hnew).trans (if_pos hrun)), fun hstop => congrArg stepTo ((if_pos hnew).trans (if_neg hstop))⟩

theorem exec_fabRetrain_ends (s : State) :
    let s1 : State := { s with fab := { s.fab with retrain := false } }
    (s.fld fJeFabStatus_STATE = 1 → exec (.fabRetrain false) s = .next ((s1.setFld fJeFabStatus_STATE 0).sendBoards).settle) ∧
    (s.fld fJeFabStatus_STATE ≠ 1 → exec (.fabRetrain false) s = .next s1.settle) := by
  have hlow : ¬((false : Bool) = true ∧ (!s.fab.retrain) = true) := fun hc => Bool.noConfusion hc.1
  exact ⟨fun hone => congrArg stepTo ((if_neg hlow).trans (if_pos ⟨rfl, hone⟩)),
    fun hother => congrArg stepTo ((if_neg hlow).trans (if_neg fun hc => hother hc.2))⟩

/-! Resets (R314, R316) -/

/-- An agent in its reset goes on with it; any other begins one, which loses the board's writes and poisons its reads. -/
theorem State.fabReset_cases (s : State) (cause : Nat) :
    (s.fld fJeFabStatus_STATE = 2 → s.fabReset cause = s) ∧
    (s.fld fJeFabStatus_STATE ≠ 2 → s.fabReset cause =
      ((({ s with fab := { s.fab with cause := cause, scanning := true } } : State).setFld fJeFabStatus_STATE 2).loseBoard).poisonBoardReads) :=
  ⟨fun hreset => if_pos hreset, fun hother => if_neg hother⟩

/-- LINK_UP lies beside STATE. -/
theorem State.fld_fabState_linkUp (s : State) (up : Nat) : (s.setFld fJeFabStatus_LINK_UP up).fld fJeFabStatus_STATE = s.fld fJeFabStatus_STATE :=
  State.fld_setFld_of_apart s up 0 0 rfl (by decide)

/-! The scan (R299, R314) -/

theorem exec_fabResetScanDone (s : State) :
    (s.fld fJeFabStatus_STATE ≠ 2 → exec .fabResetScanDone s = .next s.settle) ∧
    (s.fld fJeFabStatus_STATE = 2 →
      let s1 := ((s.scanDone.setFld fJeFabStatus_STATE 3).bump fJeFabStatus_AGENT_RESETS).eventE 0x43 s.fab.cause s.fab.lost
      let s2 : State := { s1 with fab := { s1.fab with scanning := false } }
      exec .fabResetScanDone s = .next (if s2.fab.biasPage.isSome ∨ s2.flipsAll then s2.biasEnd 0 else s2).settle) :=
  ⟨fun hother => congrArg stepTo (if_pos hother), fun hreset => congrArg stepTo (if_neg (not_not.mpr hreset))⟩

/-- With nothing open, nothing waiting and no line in X, the scan empties the Trellis and makes every page DEVICE. -/
theorem State.scanDone_quiet {s : State} (htxns : s.txns = []) (hreqs : s.coreReqs = []) (hclean : ∀ e ∈ s.trellis, e.state ≠ .x) :
    s.scanDone = { s with trellis := [], txns := [], pages := [], retryCount := [], coreReqs := [] } := by
  have hnone : (s.trellis.filter fun e => decide (e.state = .x)) = [] := List.filter_eq_nil_iff.mpr fun e he => by simp [hclean e he]
  simp only [State.scanDone, hnone, htxns, hreqs, List.filter_nil, List.map_nil, List.append_nil, List.foldl_nil, State.settleHome, and_self, if_true]

/-! The return of the link (R314) -/

theorem exec_fabLinkReturn (s : State) :
    (s.fld fJeFabStatus_STATE ≠ 3 → exec .fabLinkReturn s = .next s.settle) ∧
    (s.fld fJeFabStatus_STATE = 3 →
      let s1 : State := { s with fab := { s.fab with linkUp := true, hostReset := false, counting := false } }
      let s2 := [0, 1, 2, 3].foldl (fun (s : State) k => s.setReg .jeFabDeadmask 0 k) (s1.setFld fJeFabStatus_LINK_UP 1)
      exec .fabLinkReturn s = .next (((s2.setFld fJeFabStatus_STATE (if s.fab.retrain then 1 else 0)).resendIrqs).sendBoards).settle) :=
  ⟨fun hother => congrArg stepTo (if_pos hother), fun hlost => congrArg stepTo (if_neg (not_not.mpr hlost))⟩

/-! The obligation -/

/-- Settles O33: the link's signals by the state of the agent, what a reset loses, and what the scan and the return leave. -/
theorem fabricLink : Obligations.FabricLink := by
  unfold Obligations.FabricLink
  refine ⟨fun s => exec_fabRetrain_begins, exec_fabRetrain_ends, fun s up => rfl, fun s => ?_, fun s => rfl, exec_fabResetScanDone,
    fun s => State.scanDone_quiet, exec_fabLinkReturn⟩
  intro s1 s2 resets
  have hstate : s2.fld fJeFabStatus_STATE = s.fld fJeFabStatus_STATE := State.fld_fabState_linkUp _ 0
  obtain ⟨stays1, begins1⟩ := State.fabReset_cases s1 0
  obtain ⟨stays2, begins2⟩ := State.fabReset_cases s2 1
  rw [hstate] at stays2 begins2
  exact ⟨fun hother => ⟨congrArg stepTo (begins1 hother), congrArg stepTo (begins2 hother)⟩,
    fun hreset => ⟨congrArg stepTo (stays1 hreset), congrArg stepTo (stays2 hreset)⟩⟩

end Sys2Proof.Machine
end

section
/-! PROOF. A step and its queue (O50), registers that take whole writes only (O58), and what a FIFO of events keeps (O60; R390, R408). -/
namespace Sys2Proof.Machine

/-- Settles O50: a step is the front command, by the match of step on the queue. -/
theorem stepTakesFront : Obligations.StepTakesFront := by
  unfold Obligations.StepTakesFront
  exact ⟨fun s c rest => rfl, fun s => rfl⟩

/-! Whole writes (R408) -/

/-- A half write of a register that takes whole writes alone is malformed, and changes nothing else. -/
theorem exec_registerWrite_half {s : State} (h : s.serving) {x : RegRef} (hx : x.valid) (hg : s.sliceGone x = false) (hw : wholeOnly x.reg = true)
    {acc : RegAcc} (ha : acc ≠ .full) (v : W64) :
    exec (.registerWrite (BitVec.ofNat 26 (x.addr + accOff acc)) .w32 v) s = .next (s.eventE 0x01 (x.addr + accOff acc) 65).settle := by
  have hwidth : AccW.w32 = accWidth acc := by
    cases acc with
    | full => exact absurd rfl ha
    | lo => rfl
    | hi => rfl
  obtain ⟨hoff, -, hacc⟩ := acc_place hx acc
  have hlow : ¬0x2000000 ≤ x.addr + accOff acc := by
    have := RegRef.addr_lt hx
    have : accOff acc ≤ 4 := by cases acc <;> decide
    omega
  show stepTo (s.apWrite _ _ v) = _
  rw [State.apWrite_of_serving h, hoff, stepTo_eq, State.busWrite, if_neg hlow, hwidth, hacc]
  simp only [State.reach_of_serving h hx hg, hw, ne_eq, ha, not_false_eq_true, and_self, if_true]
  rw [← hwidth]
  rfl

/-- Settles O58: the three registers are the ones that take whole writes alone. -/
theorem wholeWritesOnly : Obligations.WholeWritesOnly := by
  unfold Obligations.WholeWritesOnly
  intro s acc v h ha
  refine ⟨fun p => ?_, ?_, ?_⟩
  · exact exec_registerWrite_half h (RegRef.valid_part .jpDcmd p rfl (by decide)) (s.sliceGone_reg .jpDcmd p 0 (by decide)) rfl ha v
  · exact exec_registerWrite_half h (RegRef.valid_hub .jeKeyImport rfl (by decide)) (s.sliceGone_reg .jeKeyImport 0 0 (by decide)) rfl ha v
  · exact exec_registerWrite_half h (RegRef.valid_hub .jeNvmBuf rfl (by decide)) (s.sliceGone_reg .jeNvmBuf 0 0 (by decide)) rfl ha v

/-! Events that a FIFO takes (R390) -/

/-- Where updFirst finds its element, it changes that one alone. -/
theorem updFirst_split {α : Type} {p : α → Bool} {l : List α} (f : α → α) (h : ∃ a ∈ l, p a = true) :
    ∃ l1 a l2, l = l1 ++ a :: l2 ∧ p a = true ∧ updFirst p f l = l1 ++ f a :: l2 := by
  induction l with
  | nil => simp at h
  | cons x r ih =>
    by_cases hx : p x = true
    · exact ⟨[], x, r, rfl, hx, if_pos hx⟩
    · obtain ⟨l1, a, l2, rfl, ha, hr⟩ := ih (by simpa [hx] using h)
      exact ⟨x :: l1, a, l2, rfl, ha, by rw [updFirst, if_neg hx, hr]; rfl⟩

/-- A waiting event happens once more: COUNT alone moves, until it stands at 0xFFFF. -/
def EventRec.again (w : EventRec) : EventRec := { w with count := satInc 0xFFFF w.count 1 }

theorem EventRec.count_again (w : EventRec) : w.again.count = min (w.count + 1) 0xFFFF := by
  simp only [EventRec.again, satInc]
  split <;> omega

section
variable {q : EventFifo} {depth : Nat} {r : EventRec}

theorem EventFifo.put_of_space (hs : q.recs.length < depth) : q.put depth r = ({ q with recs := q.recs ++ [r] }, true) := if_pos hs

/-- A full FIFO with an event of this code waiting counts it there. -/
theorem EventFifo.put_of_waiting (hf : depth ≤ q.recs.length) (hw : ∃ w ∈ q.waiting, w.code = r.code) :
    ∃ l1 w l2, q.waiting = l1 ++ w :: l2 ∧ w.code = r.code ∧ q.put depth r = ({ q with waiting := l1 ++ w.again :: l2 }, false) := by
  have hany : q.waiting.any (fun w => decide (w.code = r.code)) = true := by simpa using hw
  obtain ⟨l1, w, l2, hl, hc, hu⟩ := updFirst_split EventRec.again (List.any_eq_true.mp hany)
  refine ⟨l1, w, l2, hl, of_decide_eq_true hc, ?_⟩
  rw [EventFifo.put, if_neg (by omega), if_pos hany, ← hu]
  rfl

/-- A full FIFO without one lets it wait as a record of its own. -/
theorem EventFifo.put_of_none_waiting (hf : depth ≤ q.recs.length) (hw : ¬∃ w ∈ q.waiting, w.code = r.code) :
    q.put depth r = ({ q with waiting := q.waiting ++ [r] }, false) := by
  rw [EventFifo.put, if_neg (by omega), if_neg (by simpa using hw)]

end

/-- Settles O60: a FIFO with space, a full one in which the event's code waits, and a full one in which it does not. -/
theorem eventsKept : Obligations.EventsKept := by
  unfold Obligations.EventsKept
  intro q depth r
  rcases Nat.lt_or_ge q.recs.length depth with hs | hf
  · rw [EventFifo.put_of_space hs]
    refine ⟨List.prefix_append _ _, fun _ => by simpa using hs, by simp [hs], fun _ => ⟨rfl, rfl⟩, fun hf => absurd hs (by omega),
      fun hf => absurd hs (by omega), fun h1 _ => ?_⟩
    simp only [List.map_append, List.sum_append, List.map_cons, List.map_nil, List.sum_cons, List.sum_nil, h1]
    omega
  by_cases hw : ∃ w ∈ q.waiting, w.code = r.code
  · obtain ⟨l1, w, l2, hl, hc, hp⟩ := EventFifo.put_of_waiting hf hw
    have hcount := w.count_again
    rw [hp, hl]
    refine ⟨List.prefix_refl _, id, by simp [hf], fun hs => absurd hs (by omega), fun _ => ⟨rfl, w.again, by simp, hc⟩, fun _ y hy => ?_, fun h1 hlt => ?_⟩
    · rcases List.mem_append.mp hy with hy | hy
      · exact ⟨y, List.mem_append_left _ hy, rfl, rfl, rfl, rfl, Nat.min_le_left _ _⟩
      · rcases List.mem_cons.mp hy with rfl | hy
        · exact ⟨y.again, by simp, rfl, rfl, rfl, rfl, by omega⟩
        · exact ⟨y, by simp [hy], rfl, rfl, rfl, rfl, Nat.min_le_left _ _⟩
    · have := hlt w (by simp)
      simp only [hl, List.map_append, List.sum_append, List.map_cons, List.sum_cons, hcount]
      omega
  · rw [EventFifo.put_of_none_waiting hf hw]
    refine ⟨List.prefix_refl _, id, by simp [hf], fun hs => absurd hs (by omega), fun _ => ⟨rfl, r, by simp, rfl⟩,
      fun _ y hy => ⟨y, by simp [hy], rfl, rfl, rfl, rfl, Nat.min_le_left _ _⟩, fun h1 _ => ?_⟩
    simp only [List.map_append, List.sum_append, List.map_cons, List.map_nil, List.sum_cons, List.sum_nil, h1]
    omega

end Sys2Proof.Machine
end

section
/-! PROOF. Messages and requests of another engine (O35): what a pair does with what arrives, and the requests it serves (R319, R320, R328, R330,
R334). -/
namespace Sys2Proof.Machine

/-! A message arrives (R319, R320, R330) -/

section
variable {s : State} {c : Instr} {i : BitVec 12} {q : QP} {msg : List Byte} {marked : Bool} {typ : Nat} {f : QP → State → State}
variable (h : s.serving)
include h

/-- A pair that is not in RTS with ROLE 0 refuses what comes. -/
theorem State.arrive_refused (hq : ∀ q, s.qp i = some q → q.state ≠ .rts ∨ qcRole q.ctx ≠ 0) : s.arrive c i msg marked typ f = s.sendNak i 1 := by
  rw [State.arrive, State.orHoldMsg_of_serving h]
  cases hi : s.qp i with
  | none => rfl
  | some q => exact if_pos (hq q hi)

variable (hq : s.qp i = some q) (hs : q.state = .rts) (hr : qcRole q.ctx = 0)
include hq hs hr

/-- A message as R330 asks for it, of the event's TYPE, is received and handled. -/
theorem State.arrive_ok (hok : msgOk msg = true) (ht : mField msg 0 1 = typ) :
    s.arrive c i msg marked typ f = f q (s.received i msg.length marked) := by
  have hserves : ¬(q.state ≠ .rts ∨ qcRole q.ctx ≠ 0) := not_or.mpr ⟨not_not.mpr hs, not_not.mpr hr⟩
  rw [State.arrive, State.orHoldMsg_of_serving h, hq]
  exact (if_neg hserves).trans (if_pos ⟨hok, ht⟩)

/-- A malformed one is received and answered, and not executed. -/
theorem State.arrive_malformed (hok : msgOk msg = false) :
    s.arrive c i msg marked typ f = (s.received i msg.length marked).sendMsg i (malformedReply msg) := by
  have hserves : ¬(q.state ≠ .rts ∨ qcRole q.ctx ≠ 0) := not_or.mpr ⟨not_not.mpr hs, not_not.mpr hr⟩
  have hbad : ¬msgOk msg = true := Bool.eq_false_iff.mp hok
  rw [State.arrive, State.orHoldMsg_of_serving h, hq]
  exact (if_neg hserves).trans ((if_neg fun hc => hbad hc.1).trans (if_neg hbad))

end

/-- What R330 asks of a message. -/
theorem msgOk_iff (msg : List Byte) :
    msgOk msg = true ↔ 32 ≤ msg.length ∧ msg.length ≤ 131072 ∧ mField msg 1 1 = 1 ∧ msgLength msg = some msg.length := by
  simp only [msgOk, Bool.and_eq_true, decide_eq_true_eq, and_assoc]

/-- TYPE and STATUS of a message that the engine makes. -/
theorem mField_mkMsg (typ status flags : Nat) (id : W32) (table mode ofrac cols bags first entries : Nat) (alpha : W32) (dropped : Nat)
    (body : List Byte) :
    let m := mkMsg typ status flags id table mode ofrac cols bags first entries alpha dropped body
    mField m 0 1 = typ % 256 ∧ mField m 2 1 = status % 256 := by
  simp [mField, bytesAt, mkMsg, leBytes, leNat]

/-! Requests (R328, R334) -/

/-- A request as its pair holds it until it is admitted. -/
def QP.asked (q : QP) (msg : List Byte) : Served := ⟨q.i, mReqId msg, mField msg 0 1, msg, none⟩

/-- A request joins those its pair serves where its partition is ENABLED, and is answered with status 4 where it is not. -/
theorem State.serve_cases (s : State) (q : QP) (msg : List Byte) :
    (s.partEnabled (qcPart q.ctx) = true → s.serve q msg = { s with served := s.served ++ [q.asked msg] }) ∧
    (s.partEnabled (qcPart q.ctx) = false → s.serve q msg = s.answer (q.asked msg) 0x04 0 0) :=
  ⟨fun he => if_pos he, fun he => if_neg (Bool.eq_false_iff.mp he)⟩

/-- No request of the pair waits. -/
def State.noneWaits (s : State) (i : BitVec 12) : Bool := !(s.served.any fun y => decide (y.qp = i) && decide (y.t = none))

section
variable {s : State} {i : BitVec 12} {q : QP} {msg : List Byte} {marked : Bool}
variable (h : s.serving)
include h

section
variable (hq : s.qp i = some q) (hs : q.state = .rts) (hr : qcRole q.ctx = 0)
include hq hs hr

/-- A request joins the others; a push that is first of its pair is tried at once. -/
theorem exec_requests (hok : msgOk msg = true) {s1 : State} (hserve : (s.received i msg.length marked).serve q msg = s1) :
    (mField msg 0 1 = 1 → exec (.gatherReq i msg marked) s = .next s1.settle) ∧
    (mField msg 0 1 = 3 → exec (.addReq i msg marked) s = .next s1.settle) ∧
    (mField msg 0 1 = 5 → exec (.push i msg marked) s =
      .next (if (s.received i msg.length marked).noneWaits i then (s1.tryServed (qcPart q.ctx) i).1 else s1).settle) := by
  subst hserve
  exact ⟨fun ht => congrArg stepTo (State.arrive_ok h hq hs hr hok ht), fun ht => congrArg stepTo (State.arrive_ok h hq hs hr hok ht),
    fun ht => congrArg stepTo (State.arrive_ok h hq hs hr hok ht)⟩

end

/-- A packet that is no valid request is answered with a NAK. -/
theorem exec_invalidRequestPacket : exec (.invalidRequestPacket i) s = .next (s.sendNak i 1).settle :=
  congrArg stepTo (State.orHold_of_serving h _ _)

end

/-- What is received is acknowledged with its last packet number, and a mark with a CNP (R320). -/
theorem State.received_awake {s : State} {i : BitVec 12} {q : QP} (hr : s.power.replaying = false) (hq : s.qp i = some q) (n : Nat) (marked : Bool) :
    let psn := q.recvPsn + BitVec.ofNat 24 (max 1 (ceilDiv n q.mtu))
    let s1 := (s.modQp i fun q => { q with recvPsn := psn }).emit (.rocAck i (psn - 1))
    s.received i n marked = if marked then s1.emit (.cnp i) else s1 := by
  rw [State.received, if_neg (Bool.eq_false_iff.mp hr), State.ackRecv, hq]
  rfl

/-- Settles O35: a message by its pair and its form, a request by its partition. -/
theorem remoteRequests : Obligations.RemoteRequests := by
  unfold Obligations.RemoteRequests
  refine ⟨fun s i q msg marked h hq hs hr => ?_, fun s i msg marked h hq => ?_, fun s i h => exec_invalidRequestPacket h, fun msg => ?_,
    fun s i q n marked hr hq => State.received_awake hr hq n marked⟩
  · obtain ⟨henabled, hdisabled⟩ := (s.received i msg.length marked).serve_cases q msg
    have hbad (hok : msgOk msg = false) {c : Instr} {typ : Nat} {f : QP → State → State} :=
      congrArg stepTo (State.arrive_malformed (c := c) (marked := marked) (typ := typ) (f := f) h hq hs hr hok)
    exact ⟨fun hok he => exec_requests h hq hs hr hok (henabled he), fun hok he => exec_requests h hq hs hr hok (hdisabled he),
      fun hok => ⟨hbad hok, hbad hok, hbad hok, hbad hok, hbad hok, hbad hok, hbad hok⟩⟩
  · have hnak {c : Instr} {typ : Nat} {f : QP → State → State} :=
      congrArg stepTo (State.arrive_refused (c := c) (msg := msg) (marked := marked) (typ := typ) (f := f) h hq)
    exact ⟨hnak, hnak, hnak, hnak, hnak, hnak, hnak⟩
  · obtain ⟨htype, hstatus⟩ := mField_mkMsg (if mField msg 0 1 = 1 ∨ mField msg 0 1 = 3 ∨ mField msg 0 1 = 5 then mField msg 0 1 + 1 else mField msg 0 1)
      0x08 1 (mReqId msg) (mTable msg) (mPoolMode msg) (mOfrac msg) (mCols msg) 0 (mBagFirst msg) 0 (mAlpha msg) 0 []
    refine ⟨msgOk_iff msg, hstatus, fun ht => ?_⟩
    refine htype.trans ?_
    rw [if_pos ht]
    omega

end Sys2Proof.Machine
end

section
/-! PROOF. Replies of another engine (O36): the request that a reply answers, its status, and the bags of a gather's reply (R326, R327, R332,
R333). -/
namespace Sys2Proof.Machine

/-- The values of a good gather reply in their bags, its command poisoned where the reply is. -/
def State.gathered (s : State) (i : BitVec 12) (r : RemoteReq) (msg : List Byte) : State :=
  let s1 := (msgBags msg).foldl (fun s b => s.placeBag i r b) (s.replyTorn r.t msg)
  if mField msg 2 1 = 1 then s1.poisonCmd r.t else s1

section
variable {s : State} {i : BitVec 12} {q : QP} {msg : List Byte} {marked : Bool} {r : RemoteReq}
variable (h : s.serving) (hq : s.qp i = some q) (hs : q.state = .rts) (hr : qcRole q.ctx = 0) (hok : msgOk msg = true)
include h hq hs hr hok

/-- A reply to no outstanding request of its pair is stray. -/
theorem exec_replies_stray :
    let s0 := (s.received i msg.length marked).stray
    (mField msg 0 1 = 2 → q.request msg 1 = none → exec (.gatherReply i msg marked) s = .next s0.settle) ∧
    (mField msg 0 1 = 4 → q.request msg 3 = none → exec (.addAccept i msg marked) s = .next s0.settle) ∧
    (mField msg 0 1 = 6 → q.request msg 5 = none → exec (.pushAccept i msg marked) s = .next s0.settle) := by
  refine ⟨fun ht hn => ?_, fun ht hn => ?_, fun ht hn => ?_⟩ <;>
    refine congrArg stepTo ((State.arrive_ok h hq hs hr hok ht).trans ?_) <;> rw [hn]

/-- The outcome of adds and of a push that are answered. -/
theorem exec_accepts :
    let s0 := (s.received i msg.length marked).acceptReply i msg r
    (mField msg 0 1 = 4 → q.request msg 3 = some r → exec (.addAccept i msg marked) s = .next s0.settle) ∧
    (mField msg 0 1 = 6 → q.request msg 5 = some r → exec (.pushAccept i msg marked) s = .next s0.settle) := by
  refine ⟨fun ht hn => ?_, fun ht hn => ?_⟩ <;> refine congrArg stepTo ((State.arrive_ok h hq hs hr hok ht).trans ?_) <;> rw [hn]

section
variable (ht : mField msg 0 1 = 2) (hn : q.request msg 1 = some r)
include ht hn

/-- A gather that was refused or failed: every bag of the request fails. -/
theorem exec_gatherReply_failed (hst : 1 < mField msg 2 1) :
    exec (.gatherReply i msg marked) s = .next ((((((s.received i msg.length marked).replyTorn r.t msg).remoteFail r).dropReq i r.reqId).pumpNet).settlePool
      r.t).settle := by
  refine congrArg stepTo ((State.arrive_ok h hq hs hr hok ht).trans ?_)
  simp only [hn, decide_eq_true hst, if_true, Bool.not_true, Bool.false_eq_true, false_and, if_false]

/-- A good gather reply: the last one frees its place and fails the bags that are missing; an earlier one counts its bags. -/
theorem exec_gatherReply_good (hst : mField msg 2 1 ≤ 1) :
    let s2 := (s.received i msg.length marked).gathered i r msg
    let r' : RemoteReq := { r with got := r.got + mBags msg }
    exec (.gatherReply i msg marked) s = .next (((if mFlag msg 0 then (if r'.got < r.counts.length then s2.remoteFail r' else s2).dropReq i r.reqId
      else s2.modQp i fun q => { q with out := updFirst (fun y => decide (y = r)) (fun y => { y with got := r'.got }) q.out }).pumpNet).settlePool
        r.t).settle := by
  have hgood : decide (1 < mField msg 2 1) = false := decide_eq_false (by omega)
  refine congrArg stepTo ((State.arrive_ok h hq hs hr hok ht).trans ?_)
  simp only [hn, hgood, Bool.not_false, true_and, Bool.false_eq_true, if_false]
  rfl

end
end

/-- The count that came with a bag is not the requester's. -/
def RemoteReq.differs (r : RemoteReq) (bag count : Nat) : Bool := decide (count ≠ r.counts.getD (bag - r.bagFirst) 0)

/-- A bag with a shard's values in its columns, poisoned where they are or where its count differs. -/
def State.bagPlaced (s : State) (r : RemoteReq) (bag count : Nat) (poisoned : Bool) (bytes : List Byte) : State :=
  let vals := (List.range (bytes.length / 4)).map fun c => BitVec.ofNat 32 (bytesAt bytes (4 * c) 4)
  s.modBag r.t bag fun g =>
    { g with poison := g.poison || poisoned || r.differs bag count, shards := g.shards - 1, pieces := g.pieces ++ [(r.col, vals)] }

/-- One bag of a reply that the request still waits for (R326, R327). -/
theorem State.placeBag_expected (s : State) (i : BitVec 12) {r : RemoteReq} {bag : Nat} (count : Nat) (poisoned : Bool) (bytes : List Byte)
    (hlo : r.bagFirst + r.got ≤ bag) (hhi : bag < r.bagFirst + r.counts.length) :
    let s1 := s.bagPlaced r bag count poisoned bytes
    (r.differs bag count = false → s.placeBag i r (bag, count, poisoned, bytes) = s1) ∧
    (∀ x, r.differs bag count = true → s1.trk r.t = some x →
      s.placeBag i r (bag, count, poisoned, bytes) = (s1.bump fJpNetStat_MISMATCH_BAGS x.part).eventP x.part 0x0F i.toNat bag) := by
  have hwaits : ¬(bag < r.bagFirst ∨ r.counts.length ≤ bag - r.bagFirst ∨ bag - r.bagFirst < r.got) := by omega
  refine ⟨fun hd => ?_, fun x hd hx => ?_⟩ <;> refine (if_neg hwaits).trans ?_ <;> rw [RemoteReq.differs] at hd
  · simp only [State.bagPlaced, RemoteReq.differs, hd]
  · simp only [State.bagPlaced, RemoteReq.differs, hd] at hx ⊢
    rw [hx]

/-- Settles O36: replies by the request they answer and by their status, and one bag of a gather's reply. -/
theorem remoteReplies : Obligations.RemoteReplies := by
  unfold Obligations.RemoteReplies
  refine ⟨fun s i q msg marked h hq hs hr hok => exec_replies_stray h hq hs hr hok, fun s i q msg marked r h hq hs hr hok ht hn => ?_,
    fun s i q msg marked r h hq hs hr hok => exec_accepts h hq hs hr hok, fun s t msg => rfl,
    fun s i r bag count poisoned bytes hlo hhi => ?_⟩
  · have good := exec_gatherReply_good (marked := marked) h hq hs hr hok ht hn
    refine ⟨fun hst hlast hall => ?_, fun hst hlast hmiss => ?_, fun hst hmore => ?_, exec_gatherReply_failed h hq hs hr hok ht hn⟩
    · rw [good hst, if_pos hlast, if_neg (Nat.not_lt.mpr hall)]
      rfl
    · rw [good hst, if_pos hlast, if_pos hmiss]
      rfl
    · rw [good hst, if_neg (Bool.eq_false_iff.mp hmore)]
      rfl
  · obtain ⟨hagrees, hdiffers⟩ := s.placeBag_expected i count poisoned bytes hlo hhi
    exact ⟨fun hc => hagrees (decide_eq_false (not_not.mpr hc)), fun x hc => hdiffers x (decide_eq_true hc)⟩

end Sys2Proof.Machine
end

section
/-! PROOF. Ports (O39): links that fail and come up, FEC windows, the actions of JE_PORT_CTL, drains that end, and MACsec (R318, R337 to R339). -/
namespace Sys2Proof.Machine

/-! Links (R338, R339) -/

/-- A port in service, by its STATE. -/
theorem State.portIn_iff (s : State) (e : Nat) : s.portIn e = true ↔ s.fld fJePortCtl_STATE e = 0 := decide_eq_true_iff

section
variable {s : State} {e : Fin 8}

/-- A link that is lost takes a port down that serves or trains, and leaves any other as it is. -/
theorem exec_portDown :
    (s.fld fJePortCtl_STATE e = 0 ∨ e ∈ s.portTrain → exec (.portDown e) s = .next ((s.setFld fJePortCtl_LINK_UP 0 e).portFails e 0).settle) ∧
    (s.fld fJePortCtl_STATE e ≠ 0 → e ∉ s.portTrain → exec (.portDown e) s = .next (s.setFld fJePortCtl_LINK_UP 0 e).settle) := by
  have he : exec (.portDown e) s = stepTo (s.linkLost e) := rfl
  rw [ne_eq, ← s.portIn_iff, he, ← stepTo_eq, ← stepTo_eq, State.linkLost]
  exact ⟨fun h => congrArg stepTo (if_pos h), fun h1 h2 => congrArg stepTo (if_neg (not_or.mpr ⟨h1, h2⟩))⟩

/-- A link comes up, unless the module is zeroised or the port is BYPASSED and does not train. -/
theorem exec_portLinkUp :
    (s.zeroised = true ∨ (s.fld fJePortCtl_STATE e = 2 ∧ e ∉ s.portTrain) → exec (.portLinkUp e) s = .next s.settle) ∧
    (¬(s.zeroised = true ∨ (s.fld fJePortCtl_STATE e = 2 ∧ e ∉ s.portTrain)) →
      (e ∈ s.portTrain → exec (.portLinkUp e) s = .next ((s.setFld fJePortCtl_LINK_UP 1 e).portServes e).settle) ∧
      (e ∉ s.portTrain → exec (.portLinkUp e) s = .next (s.setFld fJePortCtl_LINK_UP 1 e).settle)) := by
  have he : exec (.portLinkUp e) s = execPortLinkUp e s := rfl
  refine ⟨fun h => ?_, fun h => ⟨fun ht => ?_, fun ht => ?_⟩⟩ <;> rw [he, execPortLinkUp, ← stepTo_eq]
  · exact congrArg stepTo (if_pos h)
  · exact congrArg stepTo ((if_neg h).trans (if_pos ht))
  · exact congrArg stepTo ((if_neg h).trans (if_neg ht))

/-- A FEC window counts its codewords; what it does beside is the port's state and the limit's (R338, R339). -/
theorem exec_fecWindow (k : BitVec 16) :
    let s1 := s.bump fJePortStat_FEC_UNCORR e k.toNat
    let excess := s.fld fJePortCtl_FEC_LIMIT e ≠ 0 ∧ s.fld fJePortCtl_FEC_LIMIT e < k.toNat
    exec (.fecWindow e k) s = .next (if s.fld fJePortCtl_STATE e = 0 then if excess then s1.portFails e 1 else s1
      else if s.fld fJePortCtl_STATE e = 3 ∧ s.fld fJePortCtl_LINK_UP e = 1 ∧ ¬excess then s1.portServes e else s1).settle := by
  intro s1 excess
  show execFecWindow e k s = _
  simp only [execFecWindow, s.portIn_iff, Bool.and_eq_true, Bool.not_eq_true', Bool.and_eq_false_iff, decide_eq_true_eq, decide_eq_false_iff_not,
    ← not_and_or]
  rfl

end

/-! The actions of JE_PORT_CTL (R339) -/

/-- REQ of JE_PORT_CTL, beside the fields that the write keeps. -/
theorem actionOf_port {v : W64} {a : Nat} (hv : bitsOf v 62 2 = a) (ha : a < 3) (w : W64) :
    actionOf .jePortCtl (accPos .full ((w &&& (codeMask (RegId.fieldsAt .jePortCtl 0) .rw ||| codeMask (RegId.fieldsAt .jePortCtl 0) .rwl)) ||| v)) = a := by
  have hbits := bitsOf_keep w (codeMask (RegId.fieldsAt .jePortCtl 0) .rw ||| codeMask (RegId.fieldsAt .jePortCtl 0) .rwl) v 62 2 (by decide)
  simp only [actionOf, accPos, hbits, hv]
  exact if_neg (by omega)

/-- What a request to a port writes: REQ, and the fields beside it as they are. -/
def State.portWord (s : State) (e : Fin 8) (v : W64) : W64 :=
  (s.reg .jePortCtl e &&& (codeMask (RegId.fields .jePortCtl) .rw ||| codeMask (RegId.fields .jePortCtl) .rwl)) ||| v

/-- Its action is taken. -/
theorem State.putKeep_port {s : State} (h : s.serving) (e : Fin 8) {v : W64} {a : Nat} (hv : bitsOf v 62 2 = a) (ha : a < 3) (h0 : a ≠ 0) :
    s.putKeep .jePortCtl e v = (s.put .jePortCtl e (s.portWord e v)).act ⟨.jePortCtl, e, 0⟩ a (s.portWord e v) :=
  State.putKeep_plain h .jePortCtl e a v ⟨Nat.zero_lt_succ _, e.isLt, rfl⟩ (s.sliceGone_reg _ _ _ (by decide)) rfl nofun nofun nofun rfl
    (fun _ _ _ => rfl) (actionOf_port hv ha) h0 rfl

theorem State.act_portBypass (s : State) (e : Fin 8) (pos : W64) : s.act ⟨.jePortCtl, e, 0⟩ 2 pos = s.portBypass e :=
  congrArg s.portBypass (Fin.ofNat_val_eq_self e)

theorem State.act_portReturn (s : State) (e : Fin 8) (pos : W64) : s.act ⟨.jePortCtl, e, 0⟩ 1 pos = s.portReturn e :=
  congrArg s.portReturn (Fin.ofNat_val_eq_self e)

theorem exec_portBypass_acts {s : State} (h : s.serving) (e : Fin 8) :
    exec (.portBypass e) s = .next ((s.put .jePortCtl e (s.portWord e 0x8000000000000000#64)).portBypass e).settle := by
  show stepTo (s.putKeep .jePortCtl e 0x8000000000000000#64) = _
  rw [State.putKeep_port h e (a := 2) (by decide) (by decide) (by decide), stepTo_eq, State.act_portBypass]

theorem exec_portReturn_acts {s : State} (h : s.serving) (e : Fin 8) :
    exec (.portReturn e) s = .next ((s.put .jePortCtl e (s.portWord e 0x4000000000000000#64)).portReturn e).settle := by
  show stepTo (s.putKeep .jePortCtl e 0x4000000000000000#64) = _
  rw [State.putKeep_port h e (a := 1) (by decide) (by decide) (by decide), stepTo_eq, State.act_portReturn]

/-- REQ 10 and REQ 01 by the state of the port. -/
theorem State.portBypass_portReturn (s : State) (e : Fin 8) :
    (s.fld fJePortCtl_STATE e = 0 → s.portBypass e = (s.setFld fJePortCtl_STATE 1 e).movePairs e ∧ s.portReturn e = s) ∧
    (s.fld fJePortCtl_STATE e = 1 →
      s.portBypass e = s.setFld fJePortCtl_ENABLE_PENDING 0 e ∧ s.portReturn e = s.setFld fJePortCtl_ENABLE_PENDING 1 e) ∧
    (s.fld fJePortCtl_STATE e = 2 → s.portBypass e = s ∧ s.portReturn e = s.portTrains e) ∧
    (s.fld fJePortCtl_STATE e = 3 →
      s.portBypass e = (s.setFld fJePortCtl_STATE 2 e).setFld fJePortCtl_LINK_UP 0 e ∧ s.portReturn e = s) := by
  refine ⟨fun h => ?_, fun h => ?_, fun h => ?_, fun h => ?_⟩ <;> rw [State.portBypass, State.portReturn, h] <;> exact ⟨rfl, rfl⟩

/-! Drains (R339) -/

section
variable {s : State} {e : Fin 8}

/-- A drain goes on while a pair in RTS is on its port. -/
theorem State.any_pair_on : s.qps.any (fun q => decide (q.port = e) && decide (q.state = .rts)) = true ↔ ∃ q ∈ s.qps, q.port = e ∧ q.state = .rts := by
  simp only [List.any_eq_true, Bool.and_eq_true, decide_eq_true_eq]

theorem exec_portDrainDone_waits (h : s.fld fJePortCtl_STATE e ≠ 1 ∨ ∃ q ∈ s.qps, q.port = e ∧ q.state = .rts) :
    exec (.portDrainDone e) s = .next s.settle := by
  rw [← State.any_pair_on] at h
  exact congrArg stepTo (if_pos h)

/-- A port whose drain has ended is BYPASSED, and trains where its return was asked for. -/
theorem exec_portDrainDone_drained (hs : s.fld fJePortCtl_STATE e = 1) (hq : ∀ q ∈ s.qps, q.port = e → q.state ≠ .rts) :
    let s1 := (s.setFld fJePortCtl_STATE 2 e).setFld fJePortCtl_LINK_UP 0 e
    exec (.portDrainDone e) s = .next (if s.fld fJePortCtl_ENABLE_PENDING e = 1 then (s1.setFld fJePortCtl_ENABLE_PENDING 0 e).portTrains e else s1).settle := by
  have hnone : ¬∃ q ∈ s.qps, q.port = e ∧ q.state = .rts := by
    rintro ⟨q, hm, hp, hr⟩
    exact hq q hm hp hr
  rw [← State.any_pair_on] at hnone
  show execPortDrainDone e s = _
  rw [execPortDrainDone, if_neg (not_or.mpr ⟨not_not.mpr hs, hnone⟩), stepTo_eq]

end

/-! MACsec (R337) -/

/-- The transmit association in use of a port. -/
def State.txInUse (s : State) (e : Fin 8) : Option Sak := s.sec.saks.find? fun k => decide (k.port = e) && !k.rx && k.active

/-- Transmit on an association stops. -/
def State.stopSak (s : State) (k : Sak) : State :=
  { s with sec := { s.sec with saks := updFirst (fun y => decide (y = k)) (fun y => { y with active := false }) s.sec.saks } }

theorem exec_macsecKeyExhausted (s : State) (e : Fin 8) :
    (s.txInUse e = none → exec (.macsecKeyExhausted e) s = .next s.settle) ∧
    (∀ k, s.txInUse e = some k → exec (.macsecKeyExhausted e) s = .next ((s.stopSak k).eventE 0x51 e (k.sc * 16 + k.an)).settle) := by
  have he : exec (.macsecKeyExhausted e) s = execMacsecKeyExhausted e s := rfl
  refine ⟨fun hu => ?_, fun k hu => ?_⟩ <;> rw [State.txInUse] at hu <;> rw [he, execMacsecKeyExhausted, hu, ← stepTo_eq]
  rfl

/-- Settles O39: links, windows, requests and drains by the state of the port, and the association in use. -/
theorem ports : Obligations.Ports := by
  unfold Obligations.Ports
  refine ⟨fun s e => exec_portDown, fun s e => ?_, fun s e k => ?_, fun s e cause => ⟨rfl, rfl⟩, fun s e => rfl,
    fun s e h => ⟨exec_portBypass_acts h e, exec_portReturn_acts h e⟩, State.portBypass_portReturn,
    fun s e => ⟨fun ht hz => ?_, fun h => if_pos h⟩, fun s e => ?_, exec_macsecKeyExhausted, fun s e => rfl⟩
  · obtain ⟨hstays, hup⟩ := exec_portLinkUp (s := s) (e := e)
    refine ⟨fun hz ht => (hup ?_).1 ht, fun hz ht hs => (hup ?_).2 ht, hstays⟩
    · simp [hz, ht]
    · simp [hz, hs]
  · intro s1 limit
    have hwindow := exec_fecWindow (s := s) (e := e) k
    refine ⟨fun hs h0 hl => ?_, fun hs hl => ?_, fun hs hup hl => ?_, fun hs hstay => ?_⟩
    · rw [hwindow, if_pos hs, if_pos ⟨h0, hl⟩]
    · rw [hwindow, if_pos hs, if_neg (by omega)]
    · rw [hwindow, if_neg (by omega), if_pos ⟨hs, hup, by omega⟩]
    · rw [hwindow, if_neg hs, if_neg (by omega)]
  · exact if_neg (not_or.mpr ⟨ht, Bool.eq_false_iff.mp hz⟩)
  · refine ⟨fun hs hq hp => ?_, fun hs hq hp => ?_, exec_portDrainDone_waits⟩ <;> rw [exec_portDrainDone_drained hs hq]
    · rw [if_neg (by omega)]
    · rw [if_pos hp]

end Sys2Proof.Machine
end

section
/-! PROOF. Key records (O43): which record an event ends, the result of a record of KIND 1, and what refuses a record of KIND 2 or 3. -/
namespace Sys2Proof.Machine

/-- KIND of a record (R361). -/
def recKind (r : List W64) : Nat := bitsOf (recWord r 0) 60 4

/-- No record waits to be processed. -/
theorem exec_keyRecord_none {s : State} (hr : s.sec.rec_ = none) :
    exec .sakImport s = .next s.settle ∧ exec .provisionTransportKey s = .next s.settle ∧ exec .generateBoardKey s = .next s.settle := by
  refine ⟨?_, ?_, ?_⟩
  · show execSakImport s = _
    rw [execSakImport, hr, stepTo_eq]
  · show execProvisionTransportKey s = _
    rw [execProvisionTransportKey, hr, stepTo_eq]
  · show execGenerateBoardKey s = _
    rw [execGenerateBoardKey, hr, stepTo_eq]

/-- The key of a good KIND 1 record takes the place of its association's. -/
def State.putSak (s : State) (k : Sak) : State :=
  let same (y : Sak) : Bool := decide (y.port = k.port) && decide (y.rx = k.rx) && decide (y.sc = k.sc) && decide (y.an = k.an)
  { s with sec := { s.sec with saks := (s.sec.saks.filter fun y => !(same y)) ++ [k] } }

section
variable {s : State} {r : List W64} (hr : s.sec.rec_ = some r)
include hr

/-- The event of KIND 1 takes every record that is neither of KIND 2 nor of KIND 3. -/
theorem exec_sakImport :
    (recKind r = 2 ∨ recKind r = 3 → exec .sakImport s = .next s.settle) ∧
    (¬(recKind r = 2 ∨ recKind r = 3) →
      (∀ res, s.sakResult r = .error res → exec .sakImport s = .next (s.importEnd res).settle) ∧
      (∀ k, s.sakResult r = .ok k → exec .sakImport s = .next ((s.putSak k).importEnd 0).settle)) := by
  have he : exec .sakImport s = execSakImport s := rfl
  refine ⟨fun hk => ?_, fun hk => ⟨fun res hres => ?_, fun k hres => ?_⟩⟩ <;> rw [he, execSakImport, hr, ← stepTo_eq]
  · exact congrArg stepTo (if_pos hk)
  · exact congrArg stepTo ((if_neg hk).trans (by rw [hres]))
  · exact congrArg stepTo ((if_neg hk).trans (by rw [hres]; rfl))

/-- The event of KIND 2 takes a record of its own KIND. -/
theorem exec_provisionTransportKey :
    (recKind r ≠ 2 → exec .provisionTransportKey s = .next s.settle) ∧
    (recKind r = 2 →
      (s.provRefused r 5 ≠ 0 → exec .provisionTransportKey s = .next (s.importEnd (s.provRefused r 5)).settle) ∧
      (s.provRefused r 5 = 0 → exec .provisionTransportKey s = .next ((s.putEntry r 2 ((recBytes r 1).take 32)).importEnd 0).settle)) := by
  have he : exec .provisionTransportKey s = execProvisionTransportKey s := rfl
  refine ⟨fun hk => ?_, fun hk => ⟨fun hres => ?_, fun hres => ?_⟩⟩ <;> rw [he, execProvisionTransportKey, hr, ← stepTo_eq]
  · exact congrArg stepTo (if_pos hk)
  · exact congrArg stepTo ((if_neg (not_not.mpr hk)).trans (if_pos hres))
  · exact congrArg stepTo ((if_neg (not_not.mpr hk)).trans (if_neg (not_not.mpr hres)))

/-- So does the event of KIND 3. -/
theorem exec_generateBoardKey :
    (recKind r ≠ 3 → exec .generateBoardKey s = .next s.settle) ∧
    (recKind r = 3 →
      (s.provRefused r 1 ≠ 0 → exec .generateBoardKey s = .next (s.importEnd (s.provRefused r 1)).settle) ∧
      (s.provRefused r 1 = 0 → exec .generateBoardKey s =
        .next (((s.drawN 8).2.putEntry r 1 ((s.drawN 8).1.flatMap fun w => leBytes 8 w.toNat)).importEnd 0).settle)) := by
  have he : exec .generateBoardKey s = execGenerateBoardKey s := rfl
  refine ⟨fun hk => ?_, fun hk => ⟨fun hres => ?_, fun hres => ?_⟩⟩ <;> rw [he, execGenerateBoardKey, hr, ← stepTo_eq]
  · exact congrArg stepTo (if_pos hk)
  · exact congrArg stepTo ((if_neg (not_not.mpr hk)).trans (if_pos hres))
  · exact congrArg stepTo ((if_neg (not_not.mpr hk)).trans (if_neg (not_not.mpr hres)))

end

/-- What KIND 2 and 3 ask of a record (R362): its reserved bits, its words from k on, and OUT within HBM. -/
def State.provWell (s : State) (r : List W64) (k : Nat) : Prop :=
  bitsOf (recWord r 0) 46 14 = 0 ∧ (∀ w ∈ r.drop k, w = 0) ∧ recOut r + 128 ≤ s.hbmBound

/-- Why a record of KIND 2 or 3 is refused: zeroised, its shape, the mode, no image key. -/
theorem State.provRefused_cases (s : State) (r : List W64) (k : Nat) :
    (s.zeroised = true → s.provRefused r k = 5) ∧ (s.zeroised = false → ¬s.provWell r k → s.provRefused r k = 2) ∧
    (s.zeroised = false → s.provWell r k →
      (s.fld fJeStart_MODE ≠ 3 → s.provRefused r k = 4) ∧
      (s.fld fJeStart_MODE = 3 → s.provRefused r k = if s.sec.kImg = none then 5 else 0)) := by
  have hwell : (bitsOf (recWord r 0) 46 14 ≠ 0 ∨ ((r.drop k).any fun w => decide (w ≠ 0)) = true ∨ s.hbmBound < recOut r + 128) ↔
      ¬s.provWell r k := by
    simp only [State.provWell, List.any_eq_true, decide_eq_true_eq, not_and_or, not_le, not_forall, exists_prop]
  refine ⟨fun hz => if_pos hz, fun hz hn => ?_, fun hz hw => ⟨fun hm => ?_, fun hm => ?_⟩⟩ <;>
    rw [State.provRefused, if_neg (Bool.eq_false_iff.mp hz)]
  · exact if_pos (hwell.mpr hn)
  · rw [if_neg (mt hwell.mp (not_not.mpr hw)), if_pos (by simp [State.testMode, hm])]
  · rw [if_neg (mt hwell.mp (not_not.mpr hw)), if_neg (by simp [State.testMode, hm])]

/-! The result of a record of KIND 1 (R361, R362) -/

/-- The header of a KIND 1 record as the table asks: KIND, the reserved bits, and SC 0 for transmit. -/
def sakWell (r : List W64) : Prop :=
  bitsOf (recWord r 0) 60 4 = 1 ∧ bitsOf (recWord r 0) 0 49 = 0 ∧ (bitOf (recWord r 0) 56 = true ∨ bitsOf (recWord r 0) 52 4 = 0)

theorem not_sakWell_iff (r : List W64) : ¬sakWell r ↔
    bitsOf (recWord r 0) 60 4 ≠ 1 ∨ bitsOf (recWord r 0) 0 49 ≠ 0 ∨ ((!bitOf (recWord r 0) 56) = true ∧ bitsOf (recWord r 0) 52 4 ≠ 0) := by
  simp only [sakWell, not_and_or, not_or, Bool.not_eq_true', Bool.not_eq_true, ne_eq]

/-- The record is for the transmit association in use of its port. -/
def State.sakInUse (s : State) (r : List W64) : Bool :=
  !bitOf (recWord r 0) 56 && s.sec.saks.any fun k =>
    decide (k.port = Fin.ofNat 8 (bitsOf (recWord r 0) 57 3)) && !k.rx && decide (k.an = bitsOf (recWord r 0) 50 2) && k.active

/-- Its port has a transmit association in use. -/
def State.portSends (s : State) (r : List W64) : Bool :=
  s.sec.saks.any fun k => decide (k.port = Fin.ofNat 8 (bitsOf (recWord r 0) 57 3)) && !k.rx && k.active

/-- The association that a good record brings: one of receive is in use at once, one of transmit where its port has none (R337). -/
def State.sakOf (s : State) (r : List W64) (key : List Byte) : Sak :=
  let w := recWord r 0
  ⟨Fin.ofNat 8 (bitsOf w 57 3), bitOf w 56, bitsOf w 52 4, bitsOf w 50 2, bitOf w 49, key, bitOf w 56 || !s.portSends r⟩

section
variable {s : State} {r : List W64}

theorem State.sakResult_refused :
    (s.zeroised = true → s.sakResult r = .error 5) ∧ (s.zeroised = false → ¬sakWell r → s.sakResult r = .error 2) := by
  refine ⟨fun hz => if_pos hz, fun hz hn => ?_⟩
  rw [State.sakResult, if_neg (Bool.eq_false_iff.mp hz)]
  exact if_pos ((not_sakWell_iff r).mp hn)

variable (hz : s.zeroised = false) (hw : sakWell r)
include hz hw

theorem State.sakResult_no_transport (ht : s.sec.transport = none) : s.sakResult r = .error 5 := by
  rw [State.sakResult, if_neg (Bool.eq_false_iff.mp hz)]
  exact (if_neg (mt (not_sakWell_iff r).mpr (not_not.mpr hw))).trans (by rw [ht])

/-- With a transport key, what is in use stays, and the wrapping says the rest. -/
theorem State.sakResult_unwrapped {kek : List Byte} (ht : s.sec.transport = some kek) :
    (s.sakInUse r = true → s.sakResult r = .error 3) ∧
    (s.sakInUse r = false → Config.kwUnwrap kek (recBytes r 1) = none → s.sakResult r = .error 1) ∧
    (∀ key, s.sakInUse r = false → Config.kwUnwrap kek (recBytes r 1) = some key → s.sakResult r = .ok (s.sakOf r key)) := by
  have hwell := mt (not_sakWell_iff r).mpr (not_not.mpr hw)
  refine ⟨fun hu => ?_, fun hu hk => ?_, fun key hu hk => ?_⟩ <;> rw [State.sakInUse] at hu <;>
    rw [State.sakResult, if_neg (Bool.eq_false_iff.mp hz)] <;> refine (if_neg hwell).trans ?_ <;> rw [ht]
  · exact if_pos ((Bool.and_eq_true _ _).mp hu)
  · exact (if_neg (mt (Bool.and_eq_true _ _).mpr (Bool.eq_false_iff.mp hu))).trans (by rw [hk])
  · exact (if_neg (mt (Bool.and_eq_true _ _).mpr (Bool.eq_false_iff.mp hu))).trans (by rw [hk]; rfl)

end

/-- Settles O43: each event by the record that waits, and the results by the order of their checks. -/
theorem keyImports : Obligations.KeyImports := by
  unfold Obligations.KeyImports
  refine ⟨fun s => ⟨exec_keyRecord_none, fun r hr => ⟨(exec_sakImport hr).1, (exec_provisionTransportKey hr).1, (exec_generateBoardKey hr).1⟩⟩,
    fun s r hr h2 h3 => (exec_sakImport hr).2 (not_or.mpr ⟨h2, h3⟩), fun s r => ?_, fun s r hr => (exec_provisionTransportKey hr).2,
    fun s r hr => (exec_generateBoardKey hr).2, State.provRefused_cases, fun s r typ key => rfl, fun s res => rfl⟩
  obtain ⟨hzero, hbad⟩ := State.sakResult_refused (s := s) (r := r)
  exact ⟨hzero, hbad, State.sakResult_no_transport, fun kek hz hw => State.sakResult_unwrapped hz hw⟩

end Sys2Proof.Machine
end

section
/-! PROOF. The power arbiter (O46): what the engine asks for, and what a window's energy makes of the level (R370, R375 to R379). -/
namespace Sys2Proof.Machine

/-- What a window of the awake engine adds to JE_ENERGY. -/
def State.addEnergy (s : State) (e : W32) : State := s.setReg .jeEnergy (s.reg .jeEnergy + BitVec.ofNat 64 e.toNat)

section
variable {s : State} {e : W32}

theorem exec_powerWindow_asleep (h : s.asleep = true) : exec (.powerWindow e) s = .next s.settle := by
  show execPowerWindow e s = _
  rw [execPowerWindow, if_pos h, stepTo_eq]

variable (h : s.asleep = false)
include h

/-- A window within the grant lowers the level by one where it lies below by the hysteresis, and ends a run of windows over it. -/
theorem exec_powerWindow_within (he : e.toNat ≤ 320 * s.grantInForce) :
    exec (.powerWindow e) s = .next ({ (s.addEnergy e).setFld fJePwrArb_LEVEL
      (if 64 * e.toNat < 320 * s.grantInForce * (64 - s.fld fJePwrArb_HYST) ∧ 0 < s.fld fJePwrArb_LEVEL then s.fld fJePwrArb_LEVEL - 1
       else s.fld fJePwrArb_LEVEL) with overLast := false } : State).settle := by
  have hlow : ¬360 * s.grantInForce < e.toNat := by omega
  have hin : decide (320 * s.grantInForce < e.toNat) = false := decide_eq_false (by omega)
  show execPowerWindow e s = _
  rw [execPowerWindow, if_neg (Bool.eq_false_iff.mp h), ← stepTo_eq]
  simp only [hin, hlow, if_false, Bool.false_eq_true, Bool.not_false, if_true]
  rfl

/-- The level that a window over the grant leaves: four more where it is over 9/8 of the grant, one more otherwise, at most 15. -/
def State.raisedLevel (s : State) (e : W32) : Nat := min (s.fld fJePwrArb_LEVEL + if 360 * s.grantInForce < e.toNat then 4 else 1) 15

/-- A window over the grant at level 15 counts in UNMET, and the first of a run raises event 0x70 (R378). -/
def State.unmet (s : State) : State :=
  let s1 := s.bump fJePwrArb_UNMET
  if s1.overLast then s1 else ({ s1 with overLast := true } : State).eventE 0x70 (s1.fld fJePwrArb_GRANT) 15

theorem exec_powerWindow_above (he : 320 * s.grantInForce < e.toNat) :
    let s1 := (s.addEnergy e).setFld fJePwrArb_LEVEL (s.raisedLevel e)
    exec (.powerWindow e) s = .next (if s.fld fJePwrArb_LEVEL ≠ 15 then s1 else s1.unmet).settle := by
  have hover : decide (320 * s.grantInForce < e.toNat) = true := decide_eq_true he
  have hlevel : (if 360 * s.grantInForce < e.toNat then min (s.fld fJePwrArb_LEVEL + 4) 15 else min (s.fld fJePwrArb_LEVEL + 1) 15) =
      s.raisedLevel e := by
    unfold State.raisedLevel
    split <;> rfl
  show execPowerWindow e s = _
  rw [execPowerWindow, if_neg (Bool.eq_false_iff.mp h), ← stepTo_eq]
  simp only [hover, if_true, hlevel, Bool.not_true, Bool.false_eq_true, if_false]
  rfl

end

/-- Settles O46: the grant, the requests by the power state, and a window within the grant or over it. -/
theorem powerArbiter : Obligations.PowerArbiter := by
  unfold Obligations.PowerArbiter
  refine ⟨fun s v => rfl, fun s => ⟨rfl, rfl, rfl, rfl, rfl⟩, fun s e => exec_powerWindow_asleep, fun s e h => ?_⟩
  have within := exec_powerWindow_within (s := s) (e := e) h
  have above := exec_powerWindow_above (s := s) (e := e) h
  refine ⟨fun he hlow hl => ?_, fun he hhigh => ?_, fun he h98 hl => ?_, fun h98 hl => ?_, fun he hl => ?_⟩
  · rw [within he, if_pos ⟨hlow, hl⟩]
    rfl
  · rw [within he, if_neg (by omega)]
    rfl
  · have hr : s.raisedLevel e = s.fld fJePwrArb_LEVEL + 1 := by
      rw [State.raisedLevel, if_neg (by omega)]
      omega
    rw [above he, if_pos (by omega), hr]
    rfl
  · have hr : s.raisedLevel e = min (s.fld fJePwrArb_LEVEL + 4) 15 := by rw [State.raisedLevel, if_pos h98]
    rw [above (by omega), if_pos (by omega), hr]
    rfl
  · have hr : s.raisedLevel e = 15 := by
      rw [State.raisedLevel]
      omega
    rw [above he, if_neg (not_not.mpr hl), hr]
    rfl

end Sys2Proof.Machine
end
